-- ==== Sys2Proof/Word.lean ====
section
/-! DEFINITION. The word types of the HZL-176 and the type of its sparse tables. -/

namespace Sys2Proof

/-- One byte (00 R4: bytes are numbered low first). -/
abbrev Byte := BitVec 8
/-- A general register of a sequencer, a region address (09 R195, 07 R150). -/
abbrev Word := BitVec 64
/-- The 256 data bits of a stored word, an ember register (10 R213, 11 R242). -/
abbrev Line := BitVec 256
/-- The 16 check bits of a stored word (10 R213). -/
abbrev Check := BitVec 16

/-- A sparse table: entries by rising key, an unlisted key stands for the table's default. -/
abbrev SMap (α : Type) := List (Nat × α)

end Sys2Proof
end

