-- ==== Sys2Proof/Syntax.lean ====
section
/-! DEFINITION. The commands of the HZL-176: one constructor for each row of spec/opcode_table.json, with
the operands that the outside world fixes (which unit acts, what a pin, a wire, a sensor or the host brings). -/

namespace Sys2Proof

/-- A unit that can leave service (02 R34, R49). -/
inductive FieldUnit where
  | bank (site bank : Nat)
  | ember (site ember : Nat)
  | lane (site lane : Nat)
  | quadrant (site quad : Nat)
  | hearth (site : Nat)
  | hbmChannel (pc : Nat)
  | linkSpare (link group lanes : Nat)
  | linkNarrow (link group : Nat)
deriving DecidableEq, Repr

/-- One sensor reading in 1/128 degrees (18 R395). Sensor `32·s + i` is sensor `i` of site `s`: `2·(l-1)`
and `2·(l-1)+1` in layer `l`, 16 to 20 in the logic; `6400 + i` is logic sensor `i` of the flue die. -/
structure Reading where
  sensor : Nat
  value  : BitVec 16
deriving DecidableEq, Repr

/-- What the silicon shows while it trains (05 R110-R121, 20 R441): which units fail, which reused items
fail their check, which sensors and cryptographic self-tests fail, whether the lot key passes its check. -/
structure TrainFindings where
  /-- units found failing in steps 6 to 11 -/
  failing : List FieldUnit
  /-- one reused item at least failed its check and trained in full (R120) -/
  reuseFailed : Bool
  /-- failed physical lanes that full training finds, as (link, group, lane) (R341) -/
  lanesOut : List (Nat × Nat × Nat)
  /-- sensors that fail their check at step 11 (R396) -/
  deadSensors : List Nat
  /-- SVC_FAIL bits of the services whose self-test failed (R441, R442) -/
  svcFail : BitVec 5
  /-- the lot key passes the check of R450 -/
  lotKeyOk : Bool
  /-- package power P at the end of TRAIN, mW (R410, R411) -/
  power : Nat
deriving DecidableEq, Repr

/-- What a retrain finds (16 R353, R354): failed physical lanes as (group, lane), and groups that do not lock. -/
structure RetrainFindings where
  failedLanes : List (Nat × Nat)
  noLock : List Nat
deriving DecidableEq, Repr

/-- What the host does to let vectors send again (03 R76). -/
inductive Unmask where
  | vector (v : Nat)
  | msixEnable
  | functionMask
deriving DecidableEq, Repr

/-- A field of a function's configuration space that the manual names (03 R69, R70, R73, R74). -/
inductive CfgField where
  | vendorId | deviceId | classCode | subsystemIds | totalVfs | vfOffset | vfStride | vfDeviceId | numVfs | vfEnable
  /-- BAR `n` of the function, or of every virtual function: its size, its type (64 bits wide, prefetchable) -/
  | barSize (n : Nat)
  | barType (n : Nat)
  | vfBarSize (n : Nat)
  | vfBarType (n : Nat)
  /-- whether the function has the capability of a PCI Express identifier -/
  | capability (id : Nat)
  | extCapability (id : Nat)
  /-- power state: 0 D0, 3 D3hot -/
  | powerState
  /-- Max Payload Size and Max Read Request Size in bytes -/
  | maxPayload
  | maxReadRequest
  | aerUncorrectableMask
  | aerCorrectableMask
deriving DecidableEq, Repr

/-- A configuration request (05 R122): it reads or writes one field. -/
inductive CfgAccess where
  | read (f : CfgField)
  | write (f : CfgField) (v : Nat)
deriving DecidableEq, Repr

/-- A configuration request names its function and what it does there. -/
structure CfgRequest where
  fn : Nat
  access : CfgAccess
deriving DecidableEq, Repr

/-- A read of BAR0: the offset of its first byte and its width in bytes (R5, R7). -/
structure RegRead where
  offset : Nat
  width : Nat
deriving DecidableEq, Repr

/-- The power figures the regulators' telemetry and the islands report in one token period (18 R402, R409-R411). -/
structure PowerFigures where
  /-- package power P of the period, mW -/
  power : Nat
  /-- power L_k that the work draws, mW -/
  load : Nat
  /-- standing grants of the floor points of the islands that can receive a grant, mW -/
  standing : Nat
  /-- demand of the fabric islands above their standing grants, mW -/
  fabric : Nat
  /-- demand of each non-disabled site above its islands' standing grants, mW -/
  demand : List (Nat × Nat)
deriving DecidableEq, Repr

/-- The bank or the pseudo-channel a Sweep visit is for (17 R367). -/
inductive SweepUnit where
  | bank (site bank : Nat)
  | channel (pc : Nat)
deriving DecidableEq, Repr

/-- A leaky bucket (17 R385): one for each site and layer (0-7), one for each pseudo-channel. -/
inductive Bucket where
  | layer (site layer : Nat)
  | channel (pc : Nat)
deriving DecidableEq, Repr

inductive Instr where
  -- power and pins (R57-R67); `katOk` is whether the known-answer tests of R439 pass at the entry into BOOT
  | vauxUp (strap : Nat)
  | drivePwrEn
  | pwrGoodRise (katOk : Bool)
  | pwrGoodTimeout
  | pwrGoodFall
  | pkgResetAssert (lowNs : Nat) (katOk : Bool)
  | pkgResetRelease (katOk : Bool)
  | powerUpRerun
  | coolOkChange (level : Bool)
  | sensorSample (readings : List Reading)
  | hardwareTrip
  -- PCIe (R68-R76, R467)
  | perstNAssert
  | perstNRelease
  | configRequest (req : CfgRequest)
  | vfDisable (numVfs : Nat) (vfEnable : Bool)
  | busMasterEnableSet (fn : Nat) (on : Bool)
  | msixUnmask (fn : Nat) (what : Unmask)
  | functionLevelReset (fn : Nat)
  -- start (R108-R125)
  | stokerStart (found : TrainFindings)
  | bootTimeout
  | trainingRecordWrite (firstOk secondOk : Bool)
  -- floor plan (R29-R56)
  | unitFenced (u : FieldUnit)
  | fptPublish
  | fptPersist (firstOk secondOk : Bool)
  -- tray bus (R80-R83)
  | trayRead (bytes : Option (List Byte))
  | traySensorLost
  -- die links (R339-R366); `far` false is the flue die's end of a flue link and FB0's end of the bridge
  | linkDataReceive (link : Nat) (far : Bool) (group : Nat) (flit : List Byte)
  | linkCtrlReceive (link : Nat) (far : Bool) (group : Nat) (flit : List Byte)
  | linkFlitSend (link : Nat) (far : Bool)
  | ctrlSend (link : Nat) (far : Bool)
  | replayTimeout (link : Nat) (far : Bool)
  | groupSuspect (link : Nat) (far : Bool) (group : Nat)
  | retryStorm (link : Nat) (far : Bool)
  | retrainStart (link : Nat) (found : RetrainFindings)
  | retrainBoundMiss (link : Nat) (confirmed : List Nat)
  | detourBeginReceive (far : Bool) (firstSeq count : Nat)
  | relayedFlitReceive (far : Bool)
  | detourRetry (locked : Bool) (found : RetrainFindings)
  -- routing and Epoch changes (R303-R327, R455-R464)
  | routingGeneration
  | epochChange
  | escapeMove (flit : Nat)
  | flitAged (flit : Nat)
  | retiredHearthRequest (flit : Nat)
  | devtimeSync
  -- registers and mailbox rings (R5-R7, R126-R141)
  | registerWrite (fn offset width : Nat) (value : Word)
  | lowHalfRead (fn : Nat) (read : RegRead)
  | mbxReqPiWrite (fn : Nat) (value : BitVec 32)
  | mbxRspCiWrite (fn : Nat) (value : BitVec 32)
  | mbxTakeRequest (fn : Nat)
  | mailboxReset (fn : Nat)
  | mailboxResetDone (fn : Nat)
  | urgentGo (fn : Nat)
  -- mailbox commands (R142): the request of function `fn` taken from slot `slot` (255: the urgent slot)
  | sysHello (fn slot : Nat)
  | sysStatus (fn slot : Nat)
  | fwUpdate (fn slot : Nat)
  | trainingPolicy (fn slot : Nat)
  | tenantCreate (fn slot : Nat)
  | tenantDestroy (fn slot : Nat)
  | tenantAssign (fn slot : Nat)
  | tenantRelease (fn slot : Nat)
  | tenantReset (fn slot : Nat)
  | tenantHalt (fn slot : Nat)
  | tenantResume (fn slot : Nat)
  | tenantNotify (fn slot : Nat)
  | queueCreate (fn slot : Nat)
  | queueDestroy (fn slot : Nat)
  | regionDefine (fn slot : Nat)
  | regionDelete (fn slot : Nat)
  | regionFill (fn slot : Nat)
  | regionQuery (fn slot : Nat)
  | apertureMap (fn slot : Nat)
  | apertureUnmap (fn slot : Nat)
  | andironModelLoad (fn slot : Nat)
  | andironModelUnload (fn slot : Nat)
  | emberActLoad (fn slot : Nat)
  | counterWindowSet (fn slot : Nat)
  | ashRingConfig (fn slot : Nat)
  | ashBucketConfig (fn slot : Nat)
  | sweepConfig (fn slot : Nat)
  | floorplanRead (fn slot : Nat)
  | draughtCapSet (fn slot : Nat)
  | draughtRampSet (fn slot : Nat)
  | draughtStatus (fn slot : Nat)
  | draughtTripTest (fn slot : Nat)
  | chainPortConfig (fn slot : Nat)
  | chainDomainBind (fn slot : Nat)
  | chainDomainExport (fn slot : Nat)
  | chainDomainUnbind (fn slot : Nat)
  | attestReport (fn slot : Nat)
  | securityZeroise (fn slot : Nat)
  -- SMBus (R77-R79); `pec` is whether the packet error code the controller sent is right
  | smbStatus (pec : Bool)
  | smbPkgPower (pec : Bool)
  | smbTemps (pec : Bool)
  | smbTray (pec : Bool)
  | smbBoardCap (write : Option (BitVec 16)) (pec : Bool)
  | smbThermalCycles (pec : Bool)
  | smbFwLevel (pec : Bool)
  | smbTripCause (pec : Bool)
  | smbResetReq (value : Byte) (pec katOk : Bool)
  | alertResponseAddress
  -- doorbells and apertures (R74, R151, R152)
  | dblSqTailWrite (fn queue : Nat) (value : BitVec 32)
  | dblCqHeadWrite (fn queue : Nat) (value : BitVec 32)
  | dblSignalWrite (fn signal : Nat) (value : Word)
  | apertureRead (fn offset len : Nat)
  | apertureWrite (fn offset : Nat) (bytes : List Byte)
  -- dispatcher (R153-R171): take the next descriptor of queue `queue` of tenant `tenant`
  | runRecipe (tenant queue : Nat)
  | andironBatch (tenant queue : Nat)
  | emberRun (tenant queue : Nat)
  | copy (tenant queue : Nat)
  | fill (tenant queue : Nat)
  | fence (tenant queue : Nat)
  | signal (tenant queue : Nat)
  | wait (tenant queue : Nat)
  | turnover (tenant queue : Nat)
  | waitTimeout (disp : Nat)
  | turnoverDrained (disp : Nat)
  | recipeClaim (disp : Nat)
  | dispatchComplete (disp : Nat)
  | recipeSiteEnd (site : Nat)
  | ibufFill (site : Nat)
  -- sequencer instructions (R195-R211): site `site` executes the instruction at its pc
  | illegal (site : Nat)
  | alu (site : Nat)
  | addi (site : Nat)
  | andi (site : Nat)
  | ori (site : Nat)
  | xori (site : Nat)
  | slli (site : Nat)
  | srli (site : Nat)
  | srai (site : Nat)
  | movi (site : Nat)
  | movk0 (site : Nat)
  | movk1 (site : Nat)
  | movk2 (site : Nat)
  | movk3 (site : Nat)
  | cmp (site : Nat)
  | cmpi (site : Nat)
  | plog (site : Nat)
  | lds (site : Nat)
  | lws (site : Nat)
  | sts (site : Nat)
  | sws (site : Nat)
  | ldr (site : Nat)
  | lwr (site : Nat)
  | str (site : Nat)
  | swr (site : Nat)
  | br (site : Nat)
  | call (site : Nat)
  | jr (site : Nat)
  | issue (site : Nat)
  | waitq (site : Nat)
  | rdq (site : Nat)
  | waitf (site : Nat)
  | rdf (site : Nat)
  | mfs (site : Nat)
  | mts (site : Nat)
  | iflush (site : Nat)
  | trap (site : Nat)
  | rte (site : Nat)
  | nop (site : Nat)
  | endRecipe (site : Nat)
  -- matrix engine (R182-R194)
  | tileStart (site item : Nat)
  | tileComplete (site item : Nat)
  | quadrantRotation
  -- vector unit (R205)
  | vectorAdd (site : Nat)
  | vectorSub (site : Nat)
  | vectorMul (site : Nat)
  | vectorMax (site : Nat)
  | vectorMin (site : Nat)
  | vectorFma (site : Nat)
  | vectorScale (site : Nat)
  | rowscale (site : Nat)
  | colscale (site : Nat)
  | vectorAct (site : Nat)
  | rsqrt (site : Nat)
  | rsum (site : Nat)
  | rmax (site : Nat)
  | vectorCvt (site : Nat)
  | cvti (site : Nat)
  | vectorOpComplete (site : Nat)
  -- DMA and streams (R203, R206, R208)
  | dmaTransferStart (site channel : Nat)
  | dmaTransferComplete (site channel : Nat)
  | push (site item : Nat)
  | pushComplete (site item : Nat)
  | pull (site item : Nat)
  | pullComplete (site item : Nat)
  -- embers (R242-R258)
  | emberTokenClaim (disp : Nat)
  | emberProgramStart (site ember : Nat)
  | emberEnd (site ember : Nat)
  | emberLoad (site ember : Nat)
  | emberStore (site ember : Nat)
  | emberAdd (site ember : Nat)
  | emberSub (site ember : Nat)
  | emberMul (site ember : Nat)
  | emberScale (site ember : Nat)
  | emberAct (site ember : Nat)
  | emberCvt (site ember : Nat)
  | emberMov (site ember : Nat)
  | emberLoop (site ember : Nat)
  | emberProgramEnd (site entry : Nat)
  -- layers (R239-R241, R257)
  | layerThrottle (site layer : Nat)
  | layerUnthrottle (site layer : Nat)
  | refreshIntervalShorten (site layer : Nat)
  | refreshIntervalLengthen (site layer : Nat)
  | rowRefresh (site bank row : Nat)
  -- Andiron (R259-R302)
  | andironLaunchStart (site : Nat)
  | environmentStart (site lane : Nat)
  | andironIteration (site lane : Nat)
  | environmentEnd (site lane : Nat)
  | launchComplete (site : Nat)
  -- chain ports (R87-R107): `frame` is the frame from its destination address up to its payload's end
  | chainWrite (port : Nat) (frame : List Byte)
  | chainReadReq (port : Nat) (frame : List Byte)
  | chainReadResp (port : Nat) (frame : List Byte)
  | chainErrorResp (port : Nat) (frame : List Byte)
  | chainAck (port : Nat) (frame : List Byte)
  | chainNak (port : Nat) (frame : List Byte)
  | chainProbe (port : Nat) (frame : List Byte)
  | frameDiscard (port : Nat) (frame : List Byte)
  | chainFrameSend (port : Nat)
  | chainAckDue (port : Nat)
  | chainRetransmit (port : Nat)
  | pcsLock (port : Nat)
  | initProbe (port : Nat)
  | chainPortUp (port : Nat)
  | idleProbe (port : Nat)
  | chainPortFail (port : Nat)
  | chainPortRetry (port : Nat)
  | chainReadTimeout (port tag : Nat)
  -- Sweep, repair, buckets, ash ring (R367-R394)
  | sweepVisit (u : SweepUnit)
  | erasureMark
  | spareColumnRepair (site bank : Nat)
  | bucketLeak (b : Bucket)
  | ashEventArrive
  | ashRecordWrite
  | lost (fn : Nat)
  | ashCiWrite (fn : Nat) (value : BitVec 32)
  -- draught (R395-R421)
  | droop (island : Nat)
  | islandDvfsPeriod (island estimate : Nat)
  | powerTokenPeriod (figures : PowerFigures)
  | rEstUpdate (powerW : Nat)
  | capLoopPeriod
  | heatBalanceCheck (powerW : Nat)
  | dramOver (site layer : Nat)
  | logicOver (site island : Nat)
  | hbmHot (stack : Nat) (temp : BitVec 16)
  | thermalCycleSample
  | journalAppend (ok : Bool)
  | layerMapRefresh
  -- counters, security, remaining pins and fabric
  | counterSnapshot
  | entropyHealthFail
  | entropyRerunDone (pass : Bool)
  | drbgReseed
  | vauxLoss
  | pcsLockLoss (port : Nat)
  | outputPortGrant (node port : Nat)
  | undefinedDescriptorOpcode (tenant queue : Nat)
deriving DecidableEq, Repr

end Sys2Proof
end

