-- ==== Sys2Proof/Decode.lean ====
section
/-! DEFINITION. The decoder over the rows of the opcode table that give bits: no row of this hardware gives any. -/

namespace Sys2Proof

/-- The command a word of `nbits` bits spells: none, since no row of the table has an encoding. -/
def decodeTableWord (nbits w : Nat) : Option Instr :=
  match nbits, w with
  | _, _ => none

end Sys2Proof
end

