-- ==== Sys2Proof/Config.lean ====
section
/-! DEFINITION. What an implementation fixes and the manual leaves open: opaque constants that nothing can evaluate,
and the few fixed numbers the whole model uses. Every constant here is named in notes/assumptions. -/

namespace Sys2Proof.Config

/-! ## Free values (log entry 4): the first argument is State.free -/

/-- A byte nobody wrote since BOOT, or an unpredictable byte (R3, R117). -/
opaque freeByte : Nat → Nat → Byte
/-- The data and the check bits of a word never written (R236). -/
opaque freeLine : Nat → Nat → Line
opaque freeCheck : Nat → Nat → Check
/-- A whole open register value (R7). -/
opaque freeWord : Nat → Word
/-- A choice between two outcomes (R65, R236). -/
opaque freeBool : Nat → Bool

/-- Where the Stoker puts an HBM extent in a pseudo-channel, in 64 KiB units (R221). -/
opaque freeBase : Nat → Nat → Nat

/-- Where an island's devtime copy slews to within its bound after a sync: sync number, island (R25, R308). -/
opaque copySkew : Nat → Nat → Nat
/-- How far an island's copy is ahead of the master's count before TRAIN step 10: unpredictable (R308). -/
opaque copyOffset : Nat → Nat

/-! ## Factory contents and cryptography (log entries 5, 7) -/

/-- A byte of the firmware flash as manufactured (R85). -/
opaque factoryFirmware : Nat → Byte
/-- A byte of the configuration header of the configuration flash (R86), and of a flash copy that is not valid. -/
opaque factoryConfig : Nat → Byte
/-- The body of a training record, private to the firmware (R118). -/
opaque trainBody : Nat → List Byte
/-- Subsystem Vendor ID and Subsystem ID: they carry no per-package value (R70). -/
opaque subsystemIds : Nat
/-- SHA-384 (R438). -/
opaque sha384 : List Byte → BitVec 384
/-- ECDSA P-384 verification over a digest: x, y, r, s, digest (R438). -/
opaque ecdsaVerify : BitVec 384 → BitVec 384 → BitVec 384 → BitVec 384 → BitVec 384 → Bool
/-- The hash in an OTP key slot (R437). -/
opaque slotHash : Nat → BitVec 384
/-- The r and s of a signature made with the lot key; the first argument is the per-signature value (R452). -/
opaque ecdsaSign : Nat → List Byte → BitVec 384 × BitVec 384
/-- LOT_KEY_ID (R452). -/
opaque lotKeyId : BitVec 64
/-- Boot ROM version (R452). -/
opaque romVersion : BitVec 32
/-- AES-256-XTS over a word for a key and a tweak: some permutation of words (R448, log entry 7). -/
opaque xts : Nat → Nat → Line ≃ Line

/-! ## The fabric (log entry 11) -/

/-- How the 1,024 bits of a mesh flit hold its fields (R312, R342; their layout is not given): some permutation of the words. -/
opaque flitCode : BitVec 1024 ≃ BitVec 1024

/-! ## Power (log entry 12) -/

/-- Power in tokens of an island at a clock point in MHz (R407). -/
opaque islandPower : Nat → Nat → Nat
/-- Tokens in flight and odd tokens of a token period (R409): open within the bounds. -/
opaque tokenSplit : Nat → Nat → Nat
/-- Nominal clock in MHz of an island to whose class R24 and R306 give none. -/
opaque nominalMhz : Nat → Nat
/-- Which of the logic sensors about it is an island's nearest (R407). -/
opaque nearestSensor : Nat → Nat
/-- The clock points of an island in MHz, slowest first, where R24 and R407 give none (all but MX). -/
opaque clockPoints : Nat → List Nat

/-! ## Fixed numbers -/

def sites : Nat := 200
/-- Slice words of a bank (R212). -/
def bankWords : Nat := 393216
/-- HBM words of a pseudo-channel (R214). -/
def channelWords : Nat := 35156250
/-- Stride of a site or a pseudo-channel in the keys of Mem.slice and Mem.hbm. -/
def unitStride : Nat := 2 ^ 26
/-- Bytes of staging SRAM (R180). -/
def stagingBytes : Nat := 0x800000

end Sys2Proof.Config
end

