-- ==== Sys2Proof/Machine/State.lean ====
section
/-! DEFINITION. The state of the HZL-176, everything the manual gives the part, as plain data, and its value
at reset. A field's docstring ends in [width; file rule; value at reset]. "free" there is a value the manual leaves open. -/

namespace Sys2Proof.Machine

/-- Why a step stops: the operand of a command names a unit that the part does not have. -/
inductive Fault where
  /-- Raised by a command whose function is above 16 (R70). Safe: the model stops. -/
  | noSuchFunction
  /-- Raised by a command whose tenant is not 1 to 16, or whose queue is above 63 (R149, R151). Safe. -/
  | noSuchQueue
  /-- Raised by a command whose site is above 199 (R11), or whose unit within a site does not exist (R15, R17). Safe. -/
  | noSuchSite
  /-- Raised by a command that names no die link, chain port, pseudo-channel, stack or island (R21, R22, R42, R87). Safe. -/
  | noSuchUnit
deriving DecidableEq, Repr

/-- Why a command is refused. -/
inductive Refusal where
  /-- No meaning yet: raised only by arms of Dispatch.lean. Safe. -/
  | notModelled (mnemonic : String)
  /-- Raised by a mailbox command of a function that negotiated level 3, which the manual does not describe (R1). Safe. -/
  | undescribedLevel
deriving DecidableEq, Repr

/-! ## Memories -/

/-- A byte memory: `unlisted` is what an address without a cell reads as, none where its value is free. -/
structure Ram where
  unlisted : Option Byte
  cells : List Host.Cell
deriving DecidableEq, Repr

/-- A stored word of slice memory or HBM: 32 data bytes and 2 check bytes (10 R213). -/
structure StoredWord where
  data : Line
  check : Check
deriving DecidableEq, Repr

/-! ## Always-on domain and tray (03, 18) -/

/-- The always-on domain. -/
structure Ao where
  /-- VAUX is in tolerance [1; 03 R61; false, DESIGN CHOICE 5] -/
  vauxOk : Bool
  /-- the master's devtime in ns [64; 01 R25, 05 R109; 0] -/
  devtime : Nat
  /-- ADDR_STRAP as sampled when VAUX came up [3; 03 R57, R61; 0, DESIGN CHOICE 5] -/
  addrStrap : BitVec 3
  /-- PWR_EN pin [1; 03 R57; low] -/
  pwrEn : Bool
  /-- devtime of the last rise of PWR_EN [64; 03 R62; 0, DESIGN CHOICE 5] -/
  pwrEnRoseAt : Nat
  /-- devtime of the last fall of PWR_EN, none before the first [64; 03 R62, R66; none] -/
  pwrEnFellAt : Option Nat
  /-- PWR_GOOD pin [1; 03 R57; low, DESIGN CHOICE 5] -/
  pwrGood : Bool
  /-- PKG_RESET_N pin, true is high [1; 03 R57; high, DESIGN CHOICE 5] -/
  pkgResetN : Bool
  /-- COOL_OK pin [1; 03 R57, R67; low, DESIGN CHOICE 5] -/
  coolOk : Bool
  /-- a hardware trip is latched, THERM_TRIP_N is driven low [1; 03 R64; false] -/
  tripLatched : Bool
  /-- TRIP_CAUSE [8; 03 R78, 18 R418; 0] -/
  tripCause : BitVec 8
  /-- devtime since which PKG_RESET_N has been low with no trip condition, none while that is not so [64; 03 R64; none] -/
  tripQuietAt : Option Nat
  /-- power-up step 2 waits for its conditions [1; 03 R61, R66; false] -/
  seeking : Bool
  /-- devtime at which step 2 of R61 began to be sought: t0 of R61 and R66 [64; 03 R61, R66; 0] -/
  seekAt : Nat
  /-- STATUS bit 7, a power-up retry is in progress [1; 03 R62, R78; false] -/
  retrying : Bool
  /-- BOARD_CAP in W [16; 03 R78; 2200] -/
  boardCap : Nat
  /-- STATUS bit 6, the last write was rejected [1; 03 R79; false] -/
  writeRejected : Bool
  /-- SMB_ALERT_N is driven low [1; 03 R77; false] -/
  smbAlert : Bool
  /-- the bytes the SMBus endpoint last returned, none after a NACK [bytes; 03 R78; none] -/
  smbReply : Option (List Byte)
  /-- training.policy asked for full training at the next start [1; 06 R143; false, DESIGN CHOICE 5] -/
  fullNext : Bool
  /-- the last sample of every sensor, 1/128 degrees, unlisted 0 [16 each; 18 R395; 0, DESIGN CHOICE 5] -/
  sensors : SMap (BitVec 16)
  /-- the sample before it, for the trip comparator [16 each; 18 R418; 0, DESIGN CHOICE 5] -/
  sensorsBefore : SMap (BitVec 16)
  /-- sensors excluded at TRAIN step 11 [list; 18 R396; none] -/
  deadSensors : List Nat
  /-- consecutive valid tray reads fit for step 2 of R61 [count; 03 R61; 0] -/
  goodTrayReads : Nat
  /-- consecutive tray reads that count as low flow [count; 18 R418; 0] -/
  lowFlowReads : Nat
  /-- last valid INLET [16; 03 R81; 0, DESIGN CHOICE 5] -/
  inlet : BitVec 16
  /-- last valid OUTLET [16; 03 R81; 0, DESIGN CHOICE 5] -/
  outlet : BitVec 16
  /-- last valid FLOW [16; 03 R81; 0, DESIGN CHOICE 5] -/
  flow : BitVec 16
  /-- SEQ of the last valid read [8; 03 R81; none] -/
  traySeq : Option Byte
  /-- devtime at which SEQ last changed [64; 03 R83; 0] -/
  traySeqAt : Nat
  /-- devtime of the last valid read [64; 03 R83; 0] -/
  trayValidAt : Nat
deriving DecidableEq, Repr

/-! ## Device state, firmware, security (05, 20) -/

inductive DevState where | off | boot | train | ready | degraded | failed
deriving DecidableEq, Repr

/-- What the header of the running image says (20 R438) and how it was verified. -/
structure Image where
  level : Nat
  major : Nat
  minor : Nat
  patch : Nat
  keySlot : Nat
  revoke : BitVec 4
  measurement : BitVec 384
deriving DecidableEq, Repr

/-- Device state and firmware. -/
structure Dev where
  /-- STATE [3; 05 R108, R123; OFF] -/
  state : DevState
  /-- CAUSE of FAILED [8; 05 R123; 0] -/
  cause : Nat
  /-- SLOT running, true is B [1; 05 R123; A] -/
  slotB : Bool
  /-- FAST [1; 05 R123; 0] -/
  fast : Bool
  /-- STEP, the last completed step [8; 05 R123; 0] -/
  step : Nat
  /-- CHANGED_AT [64; 05 R123; 0] -/
  changedAt : Nat
  /-- devtime of the entry into BOOT [64; 05 R110; 0] -/
  bootAt : Nat
  /-- the running Stoker image, none under the boot ROM or in OFF [record; 20 R438; none] -/
  image : Option Image
  /-- SFDP of the firmware flash and of the configuration flash reports quad output [1 each; 03 R84, 05 R111; true, DESIGN CHOICE 5] -/
  fwQuad : Bool
  cfgQuad : Bool
  /-- the preferred firmware slot, true is B [1; 03 R85, 06 R143; A, DESIGN CHOICE 5] -/
  preferB : Bool
  /-- bytes written to the firmware flash since manufacture; an unlisted byte is the factory's, or erased [16 MiB; 03 R85; free] -/
  fwFlash : SMap Byte
  /-- sectors of the firmware flash erased since manufacture [list; 06 R143; none] -/
  fwErased : List Nat
  /-- fw.update has begun an image with a WRITE at OFFSET 0 [1; 06 R143; false] -/
  fwOpen : Bool
  /-- sectors erased since that WRITE [list; 06 R143; none] -/
  fwFresh : List Nat
  /-- byte ranges of the flash (address, length) written since that WRITE [list; 06 R143; none] -/
  fwWritten : List (Nat × Nat)
deriving DecidableEq, Repr

/-- The security module (20). -/
structure Sec where
  /-- revocation bits of the four key slots [4; 20 R437, R440; 0, DESIGN CHOICE 5] -/
  revoked : BitVec 4
  /-- SVC_FAIL [5; 20 R442; 0] -/
  svcFail : BitVec 5
  /-- TESTED [1; 20 R442; 0] -/
  tested : Bool
  /-- ZEROISED [1; 20 R442; 0] -/
  zeroised : Bool
  /-- every bit of the lot key in OTP is programmed to 1 [1; 20 R449; false] -/
  lotKeyBlown : Bool
  /-- security.zeroise has overwritten the volatile keys since BOOT [1; 20 R449; false] -/
  keysCleared : Bool
  /-- the DRBG is instantiated [1; 20 R446; false] -/
  drbgSeeded : Bool
  /-- generate requests since the DRBG was last seeded [count; 20 R436; 0] -/
  drbgRequests : Nat
  /-- a rerun of the entropy start-up tests is running [1; 20 R445; false] -/
  entropyRerun : Bool
  /-- consecutive failed reruns [count; 20 R445; 0] -/
  entropyFails : Nat
  /-- region keys held, as (tenant, region, key name) [4096; 20 R446; none] -/
  keys : List (Nat × Nat × Nat)
deriving DecidableEq, Repr

/-! ## Floor plan (02) and training records (05) -/

inductive SiteState where | disabled | partialCap | full | retired
deriving DecidableEq, Repr

/-- A site record (02 R35). -/
structure SiteRec where
  state : SiteState
  quad : BitVec 4
  lane : BitVec 16
  ember : BitVec 32
  bank : BitVec 128
deriving DecidableEq, Repr

/-- A link record; ACTIVE_GROUPS and LINK_STATE follow from the mask (02 R40, R41). -/
structure LinkRec where
  level : Nat
  groupMask : BitVec 32
  spareMap : BitVec 64
deriving DecidableEq, Repr

/-- A Floor Plan Table (02 R31-R42); the counts and the CRC follow from it. Unlisted sites are FULL with every unit. -/
structure FptTable where
  generation : Nat
  publishedAt : Nat
  lastCause : Nat
  lastSite : Nat
  sites : SMap SiteRec
  flue0 : LinkRec
  flue1 : LinkRec
  bridge : LinkRec
  hbmMask : BitVec 256
deriving DecidableEq, Repr

/-- A change that waits for its publication (02 R50): the unit, whether start self-test found it, its t0. -/
structure FptChange where
  unit : FieldUnit
  selfTest : Bool
  at_ : Nat
deriving DecidableEq, Repr

/-- A saved training record (05 R118): the 64-byte header's fields and the body, which is private to the firmware.
HEADER_SIZE and the zero bytes follow from the layout. -/
structure TrainRec where
  magic : Nat
  format : Nat
  sequence : Nat
  level : Nat
  major : Nat
  minor : Nat
  patch : Nat
  tFb0 : BitVec 16
  tFb1 : BitVec 16
  tFlue : BitVec 16
  linkMapCrc : BitVec 32
  bodySize : Nat
  savedAt : Nat
  crc : BitVec 32
  body : List Byte
  /-- what the body says of lanes: failed ones as (link, group, physical lane) (16 R341) -/
  failedLanes : List (Nat × Nat × Nat)
deriving DecidableEq, Repr

/-- One entry of the thermal-cycle journal (18 R417). -/
structure JournalEntry where
  sequence : Nat
  half10k : Nat
  half30k : Nat
  ext0 : BitVec 16
  ext1 : BitVec 16
deriving DecidableEq, Repr

/-- The floor plan and the configuration flash. -/
structure Fpt where
  /-- the table in force, none before one is selected [6552 bytes; 02 R30, R31; none] -/
  table : Option FptTable
  /-- FPT_GENERATION reads the table's generation: it is published [1; 02 R53, 05 R125; false] -/
  published : Bool
  /-- FPT_STATUS.CHANGED [1; 02 R53; 0] -/
  changed : Bool
  /-- FPT_STATUS.PERSIST_FAIL [1; 02 R53; 0] -/
  persistFail : Bool
  /-- FPT_STATUS.PERSIST_PENDING [1; 02 R53; 0] -/
  persistPending : Bool
  /-- FPT_STATUS.UPDATING [1; 02 R53; 0] -/
  updating : Bool
  /-- flash copy A, none when invalid [8 KiB; 03 R86; the table of manufacture, DESIGN CHOICE 5] -/
  flashA : Option FptTable
  /-- flash copy B [8 KiB; 03 R86; the table of manufacture, DESIGN CHOICE 5] -/
  flashB : Option FptTable
  /-- the write of step 4 of R49 is due [1; 02 R49, R51; false] -/
  persistDue : Bool
  /-- copy B was selected at start [1; 02 R29; false] -/
  selectedB : Bool
  /-- changes that wait for their publication, in order of R50 [list; 02 R50; none] -/
  waiting : List FptChange
  /-- saved training record A [64 KiB; 05 R118; none, DESIGN CHOICE 5] -/
  trainA : Option TrainRec
  /-- saved training record B [64 KiB; 05 R118; none, DESIGN CHOICE 5] -/
  trainB : Option TrainRec
  /-- the training record whose settings this start reuses, true is B, none while every item trains in full [2; 05 R119; none] -/
  trainUsed : Option Bool
  /-- this start trained an item in full, and its record is not yet written [record; 05 R121; none] -/
  trainDue : Option TrainRec
  /-- the journal's slots [64 KiB; 18 R417; none valid, DESIGN CHOICE 5] -/
  journal : SMap JournalEntry
  /-- the next slot to write [11; 18 R417; 0] -/
  journalNext : Nat
deriving DecidableEq, Repr

/-! ## PCIe (03) -/

/-- One PCIe function: MSI-X and bus mastering. -/
structure PcieFn where
  /-- Bus Master Enable [1; 03 R467; 0, PRESUMED 6] -/
  busMaster : Bool
  /-- MSI-X Enable [1; 03 R76; 0, PRESUMED 6] -/
  msixEnable : Bool
  /-- MSI-X Function Mask [1; 03 R76; 0, PRESUMED 6] -/
  functionMask : Bool
  /-- vectors whose mask bit is clear [72 or 68; 03 R75; none, PRESUMED 6] -/
  unmasked : List Nat
  /-- vectors whose pending bit is set [72 or 68; 03 R76; none] -/
  pending : List Nat
  /-- size of BAR2 in bytes [64; 03 R74; 256 MiB] -/
  bar2Size : Nat
  /-- MSI-X table bytes as written by the host [32 KiB; 03 R73; 0, PRESUMED 6] -/
  table : Ram
  /-- power state D3hot, else D0 [1; 03 R69; D0, PRESUMED 6] -/
  d3hot : Bool
  /-- Max Payload Size in bytes, 128 to 512 [10; 03 R69; 128, PRESUMED 6] -/
  maxPayload : Nat
  /-- Max Read Request Size in bytes, up to 4096 [13; 03 R69; 512, PRESUMED 6] -/
  maxReadReq : Nat
  /-- AER mask registers, of uncorrectable and of correctable errors [32 each; 03 R69; 0, PRESUMED 6] -/
  aerUncMask : BitVec 32
  aerCorMask : BitVec 32
deriving DecidableEq, Repr

/-- What the last configuration request was answered with (05 R122). -/
inductive CfgReply where | none | linkDown | retry | completion | absent
deriving DecidableEq, Repr

/-- The PCIe interface. -/
structure Pcie where
  /-- PERST_N is asserted [1; 03 R57; true, DESIGN CHOICE 5] -/
  perst : Bool
  /-- the link trains or is up [1; 05 R122; false] -/
  linkUp : Bool
  /-- VF Enable [1; 03 R70; 0, PRESUMED 6] -/
  vfEnable : Bool
  /-- NumVFs [5; 03 R70; 0, PRESUMED 6] -/
  numVfs : Nat
  /-- the seventeen functions [record; 03 R70; see PcieFn] -/
  fns : SMap PcieFn
  /-- the answer to the last configuration request [output; 05 R122; none] -/
  cfgReply : CfgReply
  /-- data of the last configuration read completion [32; 03 R69, R70; 0, DESIGN CHOICE 5] -/
  cfgData : Nat
  /-- data of the last register read completion [64; 00 R7; 0] -/
  readData : Word
  /-- data of the last BAR2 read completion [bytes; 03 R74; none] -/
  bar2Data : List Byte
  /-- the last BAR2 read completion was poisoned (EP) [1; 17 R382; false] -/
  bar2Poisoned : Bool
  /-- latched high halves, by 2^26·function + offset of the low half [32 each; 00 R7; none] -/
  latched : SMap (BitVec 32)
  /-- MSI-X messages sent as (function, vector), oldest first [output; 03 R75; none] -/
  sent : List (Nat × Nat)
deriving DecidableEq, Repr

/-! ## Mailboxes (06) -/

/-- A request the Stoker has taken and not yet answered (06 R128, R129). -/
structure Taken where
  /-- its place in the order in which all functions' requests were taken -/
  seq : Nat
  /-- request slot 0-63, or 255 for the urgent slot -/
  slot : Nat
  /-- the Stoker's own copy of the message -/
  msg : List Byte
  /-- carrying out has begun and the response waits for an Epoch change or a drain -/
  started : Bool
  /-- devtime at which it began -/
  startedAt : Nat
  /-- its response is to be discarded (R133) -/
  discard : Bool
  /-- sites that the tenant it names owned when it was taken (R252) -/
  owned : List Nat
  /-- the level that held when a mailbox reset let it run on, none before one (R133) -/
  level : Option Nat
deriving DecidableEq, Repr

/-- One function's MBX_ block. -/
structure Mbx where
  /-- MBX_REQ_PI [7; 06 R126; 0] -/
  reqPi : Nat
  /-- MBX_REQ_CI [7; 06 R126; 0] -/
  reqCi : Nat
  /-- MBX_RSP_PI [7; 06 R126; 0] -/
  rspPi : Nat
  /-- MBX_RSP_CI [7; 06 R126; 0] -/
  rspCi : Nat
  /-- MBX_CTRL.IRQ_EN [1; 06 R126; 0] -/
  irqEn : Bool
  /-- LEVEL [8; 06 R126; 0] -/
  level : Nat
  /-- PI_ERROR [1; 06 R126; 0] -/
  piError : Bool
  /-- URG_OVERRUN [1; 06 R126; 0] -/
  urgOverrun : Bool
  /-- URG_BUSY [1; 06 R126; 0] -/
  urgBusy : Bool
  /-- RESETTING [1; 06 R126; 0] -/
  resetting : Bool
  /-- request slots 0-63 [16 KiB; 06 R126; 0, DESIGN CHOICE 5] -/
  req : Ram
  /-- response slots 0-63 [16 KiB; 06 R126; 0, DESIGN CHOICE 5] -/
  rsp : Ram
  /-- urgent request slot [256 bytes; 06 R126; 0, DESIGN CHOICE 5] -/
  urg : Ram
  /-- requests taken and not answered, in the order taken [list; 06 R129; none] -/
  taken : List Taken
  /-- an urgent response that waits for a free slot, with the tenant its command still holds (0 none) [256 bytes; 06 R140; none] -/
  urgWaiting : Option (Nat × List Byte)
deriving DecidableEq, Repr

/-! ## Tenants, regions, dispatches (07, 10) -/

inductive QueueState where | absent | active | draining
deriving DecidableEq, Repr

/-- A submission and completion ring pair (07 R151). -/
structure Queue where
  /-- STATE [2; 07 R151; ABSENT] -/
  state : QueueState
  sqEntries : Nat
  cqEntries : Nat
  sqHbm : Bool
  cqHbm : Bool
  irq : Bool
  sqBase : Word
  cqBase : Word
  /-- DBL_SQ_TAIL [13; 07 R151; 0] -/
  sqTail : Nat
  /-- DBL_SQ_HEAD [13; 07 R151; 0] -/
  sqHead : Nat
  /-- DBL_CQ_HEAD [13; 07 R151; 0] -/
  cqHead : Nat
  /-- DBL_CQ_TAIL [13; 07 R151; 0] -/
  cqTail : Nat
  /-- INFLIGHT [16; 07 R151; 0] -/
  inflight : Nat
  /-- INDEX_ERROR [1; 07 R151; 0] -/
  indexError : Bool
deriving DecidableEq, Repr

/-- Where a region lies in one unit of its MASK (10 R218, R220, R221). -/
structure Extent where
  /-- site or pseudo-channel -/
  unit : Nat
  /-- bank list L, for a slice -/
  banks : List Nat
  /-- first row R0, or base word address -/
  base : Nat
  /-- NROWS, or words of the extent -/
  count : Nat
deriving DecidableEq, Repr

/-- A region (10 R218). -/
structure Region where
  hbm : Bool
  die : Bool
  bankLocal : Bool
  mask : BitVec 256
  share : Nat
  size : Nat
  extents : List Extent
  /-- 64 KiB chunks whose INIT bit is 1 -/
  init : List Nat
  generation : Nat
  /-- name of its key (20 R446), for HBM -/
  key : Nat
deriving DecidableEq, Repr

/-- A BAR2 mapping (06 aperture.map). -/
structure Aperture where
  offset : Nat
  region : Nat
  regionOffset : Nat
  length : Nat
deriving DecidableEq, Repr

/-- A tenant (07). -/
structure Tenant where
  /-- the tenant exists [1; 07 R149, 03 R70; false] -/
  alive : Bool
  /-- tenant.halt is in force [1; 06 R142; false] -/
  halted : Bool
  /-- POISON_NOTIFY [1; 06 R142; 0] -/
  poisonNotify : Bool
  /-- PHASE [4; 07 R151; 0] -/
  phase : Nat
  /-- signals 0-255 [64 each; 07 R170; 0] -/
  signals : SMap Word
  /-- queues 0-63 [record; 07 R151; ABSENT] -/
  queues : SMap Queue
  /-- regions by number [1024; 10 R217; none] -/
  regions : SMap Region
  /-- BAR2 mappings [list; 03 R74; none] -/
  apertures : List Aperture
  /-- loaded models by slot [64 of 9728 bytes; 12 R260; none] -/
  models : SMap (List Byte)
  /-- model slots whose words hold an uncorrectable SECDED error [list; 12 R260; none] -/
  modelBad : List Nat
  /-- queue the dispatcher served last, for R156 [6; 07 R156; 63, DESIGN CHOICE 5] -/
  lastQueue : Nat
deriving DecidableEq, Repr

/-- A completion status (07 R166). -/
inductive Status where
  | done | aborted | busError | trap | channelHalt | prot | deadlineBest | range
  | poisoned | tenantReset | hearthRetired | linkLost
deriving DecidableEq, Repr

/-- What one unit of a dispatch reported: site (or 0xFFFF), status, DETAIL. -/
structure Report where
  site : Nat
  status : Status
  detail : Nat
deriving DecidableEq, Repr

/-- A taken descriptor that has no completion record yet (07 R154). -/
structure Disp where
  id : Nat
  tenant : Nat
  queue : Nat
  /-- DBL_SQ_HEAD at which it was taken -/
  sqIndex : Nat
  /-- the 64 bytes of the descriptor -/
  desc : List Byte
  /-- STARTED -/
  started : Nat
  /-- every unit has ended: the record may be written -/
  ended : Bool
  /-- devtime at which the last unit ended -/
  endedAt : Nat
  /-- sites (or the one unit 0xFFFF) that still work -/
  working : List Nat
  /-- a RUN_RECIPE or EMBER_RUN that waits for its claim -/
  unclaimed : Bool
  /-- what its units reported -/
  reports : List Report
  /-- frames of a chain COPY not yet acknowledged or answered -/
  frames : Nat
  /-- its completion ring is gone: its record is discarded (R174) -/
  orphan : Bool
deriving DecidableEq, Repr

/-- The dispatcher and its tenants. -/
structure Work where
  /-- tenants 1-16 [record; 07 R149; none exists] -/
  tenants : SMap Tenant
  /-- owner of each site, unlisted none [5 each; 07 R149; none] -/
  owner : SMap Nat
  /-- dispatches in flight, in the order taken [4096; 07 R154; none] -/
  disps : List Disp
  /-- number of the next dispatch [count; model's own; 0] -/
  nextId : Nat
  /-- tenant served last, for R156 [5; 07 R156; 16, DESIGN CHOICE 5] -/
  lastTenant : Nat
  /-- function whose mailbox was served last, for R131 [5; 06 R131; 16, DESIGN CHOICE 5] -/
  lastMbx : Nat
  /-- number of the next mailbox request taken [count; model's own; 0] -/
  nextTake : Nat
deriving DecidableEq, Repr

/-! ## Epoch changes (21) -/

/-- What an Epoch change installs (21 R455). -/
inductive EpochAction where
  | assign (tenant : Nat) (sites : List Nat)
  | define (tenant number : Nat) (region : Region)
  | delete (tenant number : Nat)
  | bind (domain tenant port : Nat)
  | routing
  | detourEnter (trigger before after suspect : Nat)
  | detourLeave (before after : Nat)
deriving DecidableEq, Repr

/-- A change that waits for its turn (R462), and the request to answer: function, its number, payload of the response. -/
structure EpochChange where
  action : EpochAction
  reply : Option (Nat × Nat × List Byte)
deriving DecidableEq, Repr

/-- Configuration generations. -/
structure Epoch where
  /-- CFG_GENERATION [64; 21 R458; 0] -/
  generation : Nat
  /-- MIXED [1; 21 R459; 0] -/
  mixed : Bool
  /-- changes that wait, in the order started [list; 21 R462; none] -/
  waiting : List EpochChange
  /-- the change whose steps 1 to 4 are done and which messages of the older generation hold up [record; 21 R461; none] -/
  running : Option EpochChange
  /-- regions that it deletes: their extents are not reused before its step 6 [list; 21 R464; none] -/
  frozen : List Region
deriving DecidableEq, Repr

/-! ## A hearth (08, 09, 11, 13) -/

/-- A work item of a queue of R175. -/
structure Item where
  /-- number in its queue, from 1 -/
  num : Nat
  /-- the 32-byte block as ISSUE copied it -/
  block : List Byte
  started : Bool
  done : Bool
  /-- quadrant that runs a tile -/
  quad : Nat
  /-- what the sequencer had waited for, and what it had issued, by queue, when it issued the item (R178) -/
  waited : SMap Nat
  before : SMap Nat
deriving DecidableEq, Repr

/-- What a staging word held before an item of the hearth wrote it (08 R178). -/
structure Race where
  /-- queue and number of the item -/
  queue : Nat
  num : Nat
  /-- staging address of the word, divided by 32 -/
  word : Nat
  line : Line
deriving DecidableEq, Repr

/-- Mesh request tags that an engine of a hearth holds (08 R179, 15 R330, R331). -/
structure TagUse where
  /-- queue and number of the item -/
  queue : Nat
  num : Nat
  count : Nat
  /-- its engine has been stopped: the responses will be discarded -/
  abandoned : Bool
  /-- how many of its requests have entered the mesh -/
  sent : Nat
deriving DecidableEq, Repr

/-- What the sequencer of a site is doing. -/
inductive SeqState where
  /-- no recipe -/
  | idle
  /-- executing -/
  | running
  /-- END executed, waiting for its items (R207) -/
  | ending
deriving DecidableEq, Repr

/-- A weight page of staging (08 R182, R183). -/
structure WeightPage where
  /-- slice word addresses on this site of the words it was filled from, in order -/
  words : List Nat
  /-- protection mode of their region -/
  die : Bool
  /-- not invalidated by TURNOVER since it was filled -/
  valid : Bool
deriving DecidableEq, Repr

/-- One recorded item failure (09 R208). -/
structure ItemFail where
  status : Status
  detail : Nat
deriving DecidableEq, Repr

/-- An entry of the ember queue (11 R243). -/
structure EmberEntry where
  /-- token number on this hearth -/
  id : Nat
  /-- dispatch of an EMBER_RUN, none for an item -/
  disp : Option Nat
  /-- item number, 0 for an EMBER_RUN -/
  item : Nat
  /-- tenant, region, share-offset span on this site -/
  tenant : Nat
  region : Nat
  offset : Nat
  length : Nat
  /-- region numbers of planes 0-7 (65535 unused) -/
  planes : List Nat
  /-- the micro-operations -/
  prog : List (BitVec 32)
  params : List (BitVec 32)
  /-- ACT_TABLE -/
  act : Nat
  /-- the activation table as it stood when the run started, none before -/
  table : Option (List Byte)
  /-- embers that have not started their program -/
  toStart : List Nat
  /-- embers whose program has not ended -/
  toEnd : List Nat
  reports : List Report
deriving DecidableEq, Repr

/-- A program running on one ember (11 R246). -/
structure EmberRun where
  entry : Nat
  /-- banks still to do after this one -/
  banks : List Nat
  bank : Nat
  s : Nat
  n : Nat
  i : Nat
  j : Nat
  /-- e0-e7 -/
  regs : SMap Line
  /-- merge buffer: (plane, word index, part, bytes) in the order stored -/
  merge : List (Nat × Nat × Nat × Line)
  /-- slice words that the program reads or writes on this ember, as (first word address, words) (R254) -/
  touch : List (Nat × Nat)
deriving DecidableEq, Repr

/-- One environment running on a lane (13). -/
structure EnvRun where
  env : Nat
  /-- input words as fetched, quaternions renormalised -/
  input : List Int
  iter : Nat
  /-- forces of the rows (CS, STEP) or coordinates (IK) of the present iterate -/
  cur : List Int
  /-- those of the best iterate; the output words of FK, ID and FD -/
  best : List Int
  bestIter : Nat
  bestResidual : Nat
  lastResidual : Nat
  /-- SAT_FLAGS -/
  sat : BitVec 16
  /-- consecutive iterates beyond the divergence bound -/
  bad : Nat
  /-- the STATUS the lane stopped with before R300, none while it iterates -/
  stop : Option Nat
  /-- RANGE_INPUT's guard and word -/
  guard : Nat
  word : Nat
  rerun : Bool
  stopped : Bool
deriving DecidableEq, Repr

/-- A launch in an Andiron queue (13 R278). -/
structure Launch where
  disp : Option Nat
  item : Nat
  tenant : Nat
  model : Nat
  /-- the model as fetched at the launch's start -/
  image : List Byte
  /-- that fetch met an uncorrectable error (R260) -/
  fetchBad : Bool
  /-- the 96 bytes of the batch descriptor -/
  desc : List Byte
  /-- T of R295 -/
  takenAt : Nat
  /-- S, the number of slots, and this site's first slot (R279, R287) -/
  slots : Nat
  firstSlot : Nat
  /-- working lanes of this site in lane order (R280) -/
  lanes : List Nat
  started : Bool
  /-- environments of this site not yet started, with the lane each is for -/
  waiting : List (Nat × Nat)
  /-- environments that restart (R281) -/
  reruns : List Nat
  reports : List Report
  /-- result records still to write -/
  left : Nat
deriving DecidableEq, Repr

/-- A hearth: sequencer, engines, staging, embers, Andiron lanes. -/
structure Hearth where
  /-- g0-g31 [64 each; 09 R195; 0, DESIGN CHOICE 5] -/
  regs : SMap Word
  /-- p0-p7 [8; 09 R195; 0, DESIGN CHOICE 5] -/
  preds : BitVec 8
  /-- pc [64; 09 R195; 0, DESIGN CHOICE 5] -/
  pc : Word
  /-- TVEC [64; 09 R197; 0] -/
  tvec : Word
  /-- TPC [64; 09 R197; 0] -/
  tpc : Word
  /-- TCAUSE [64; 09 R197; 0] -/
  tcause : Nat
  /-- TVAL [64; 09 R197; 0] -/
  tval : Word
  /-- IN_TRAP [1; 09 R197; 0] -/
  inTrap : Bool
  /-- STICKY [3; 09 R197; 0] -/
  sticky : BitVec 3
  /-- what the sequencer does [state; 09 R196; idle] -/
  seq : SeqState
  /-- dispatch that holds the site [id; 09 R196; none] -/
  disp : Option Nat
  /-- tenant, CODE_REGION and rectangle of the recipe [record; 07 R160; 0] -/
  tenant : Nat
  codeRegion : Nat
  rect : List Nat
  rectCols : Nat
  /-- completion counters by queue number [32 each; 08 R177; 0] -/
  completed : SMap Nat
  /-- issue counters by queue number [32 each; 09 R195; 0] -/
  issued : SMap Nat
  /-- arrival counters f0-f15 [32 each; 09 R195; 0] -/
  arrival : SMap Nat
  /-- instruction buffer: valid lines as (line, (share offset of its first byte, 256 bytes)) [32 KiB; 09 R209; invalid] -/
  ibuf : SMap (Nat × List Byte)
  /-- queues of R175 by queue number: items not yet counted [record; 08 R175; empty] -/
  queues : SMap (List Item)
  /-- what the sequencer has waited for by WAITQ or seen by RDQ, by queue number [32 each; 08 R178; 0] -/
  waited : SMap Nat
  /-- staging words that items have written since the claim, with what they held before [list; 08 R178; none] -/
  races : List Race
  /-- mesh request tags in use [256; 08 R179, 15 R330; none] -/
  tags : List TagUse
  /-- halted DMA channels [8; 09 R208; none] -/
  dmaHalted : List Nat
  /-- recorded item failures [list; 09 R208; none] -/
  fails : List ItemFail
  /-- staging SRAM [8 MiB; 08 R180; free] -/
  staging : Ram
  /-- 64-bit staging units with an uncorrectable, and with a correctable SECDED error [list each; 08 R181; none] -/
  stagingBad : List Nat
  stagingSoft : List Nat
  /-- weight pages by page number [2048; 08 R182; none] -/
  weightPages : SMap WeightPage
  /-- ember tokens claimed so far, for their numbers [count; 11 R243; 0] -/
  emberNext : Nat
  /-- ember queue: entries that hold a token [16; 11 R243; none] -/
  emberQ : List EmberEntry
  /-- programs running by ember [32; 11 R246; none] -/
  emberRuns : SMap EmberRun
  /-- activation tables 0-7 of the site's embers, unlisted all zero [544 bytes each; 11 R252; zero] -/
  actTables : SMap (List Byte)
  /-- Andiron queue: the first four hold its entries, others wait for one [4 entries; 08 R175, 13 R278, 15 R332; none] -/
  launches : List Launch
  /-- launches started since the last claim or TRAIN, for R280 [count; 13 R280; 0] -/
  launchCount : Nat
  /-- environments running by lane [16; 13 R279; none] -/
  lanes : SMap EnvRun
deriving DecidableEq, Repr

/-! ## Slice memory, HBM, Sweep (10, 17) -/

/-- An entry of a column tracker (17 R373). -/
structure TrackEntry where
  subarray : Nat
  u : Nat
  d : Nat
  value : Bool
  rows : Nat
  mixed : Bool
deriving DecidableEq, Repr

/-- A line fault, classified: where it is and how far its handling is (17 R375, R376). -/
structure LineFault where
  site : Nat
  bank : Nat
  subarray : Nat
  u : Nat
  d : Nat
  rows : Nat
  /-- word address and syndrome of the deciding visit -/
  addr : Nat
  syndrome : Check
deriving DecidableEq, Repr

/-- What a memory word held before an item of a hearth, or an ember of an EMBER_RUN, wrote it (08 R178, 11 R254). -/
structure MemRace where
  /-- writing hearth, queue and number of the item; queue 17 is an EMBER_RUN, by its dispatch -/
  site : Nat
  queue : Nat
  num : Nat
  hbm : Bool
  /-- the word's key in Mem.slice or Mem.hbm -/
  index : Nat
  word : StoredWord
deriving DecidableEq, Repr

/-- The memories and what Sweep keeps of them. -/
structure Mem where
  /-- slice words by 2^26·site + slice word address; an unlisted word was never written, or holds the zeros of sanitise [34 bytes each; 10 R212, R236; free] -/
  slice : SMap StoredWord
  /-- HBM words by 2^26·pseudo-channel + word address, as stored [34 bytes each; 10 R214, R236; free] -/
  hbm : SMap StoredWord
  /-- words that an item or an ember program has written while a reader may still see the old word [list; 08 R178, 11 R254; none] -/
  races : List MemRace
  /-- slice words that another requester wrote while an ember program that touches them ran [list; 11 R254; none] -/
  contested : List Nat
  /-- host memory, outside the part [bytes; 03 R467; free] -/
  host : Ram
  /-- 4 KiB pages of host memory whose reads complete with an error status, outside the part [list; 03 R467; none, DESIGN CHOICE 5] -/
  hostBad : List Nat
  /-- erasures by 12·(128·site + bank) + subarray: the data bit, and the word u whose line fault marked it [each; 10 R231; none] -/
  erasures : SMap (Nat × Nat)
  /-- spare columns assigned, by the same key [3 each; 01 R17, 17 R379; 0] -/
  sparesUsed : SMap Nat
  /-- line faults whose marking is due [list; 17 R376; none] -/
  faultsDue : List LineFault
  /-- repairs pending [list; 17 R376; none] -/
  repairs : List LineFault
  /-- column trackers by 128·site + bank [16 entries each; 17 R373; empty] -/
  trackers : SMap (List TrackEntry)
  /-- next row or block of each unit: banks by 128·site + bank, pseudo-channels by 25600 + pc [20 each; 17 R368; 0] -/
  cursor : SMap Nat
  /-- passes completed by unit, same key [64 each; 17 R372; 0] -/
  passes : SMap Nat
  /-- PASS_MIN [14; 17 R372; 480] -/
  passMin : Nat
  /-- sites whose words sanitise has written since BOOT and that belong to no tenant [200; 17 R367; none] -/
  sanitised : List Nat
  /-- extents of HBM (pseudo-channel, base word address, words) that tenant.destroy has written zero words over [list; 07 R174; none] -/
  hbmZeroed : List (Nat × Nat × Nat)
  /-- refresh interval in ms by 8·site + layer, unlisted 32 [each; 10 R239; 32] -/
  refresh : SMap Nat
  /-- rows refreshed in the present pass by 8·site + layer [count; 10 R240; 0] -/
  refreshPass : SMap Nat
  /-- EM clock step by 8·site + layer: 0 is 0.8 GHz, 1 is 0.4 GHz, 2 is paused [each; 11 R257; 0] -/
  emStep : SMap Nat
  /-- devtime since which every reading of a layer has been 2 K below 85, 95 and 103 degrees, by 4·(8·site + layer) + 0, 1, 2
  [64 each; 10 R240, 11 R257; none] -/
  coolSince : SMap Nat
deriving DecidableEq, Repr

/-! ## Ash collector (17) -/

/-- An event on its way to, or in, the ash collector (17 R389-R393). -/
structure AshEvent where
  type_ : Nat
  source : Nat
  tenant : Nat
  reason : Nat
  /-- the 32 bytes of DETAIL -/
  detail : List Byte
  at_ : Nat
  lastAt : Nat
  repeats : Nat
  /-- functions whose rings receive it -/
  dests : List Nat
  /-- functions whose vector 1 it may raise -/
  alerts : List Nat
  /-- its C0 message has entered the mesh -/
  sent : Bool
deriving DecidableEq, Repr

/-- One function's ash ring and ASH_ block (17 R388). -/
structure AshRing where
  /-- PLACED [1; 17 R388; 0] -/
  placed : Bool
  hbm : Bool
  entries : Nat
  base : Word
  /-- ASH_PI [32; 17 R388; 0] -/
  pi : Nat
  /-- ASH_CI [32; 17 R388; 0] -/
  ci : Nat
  /-- CI_ERROR [1; 17 R388; 0] -/
  ciError : Bool
  /-- LOSS [1; 17 R388; 0] -/
  loss : Bool
  /-- ASH_CTRL.IRQ_EN [1; 17 R388; 0] -/
  irqEn : Bool
  /-- LOST_c [32 each; 17 R388; 0] -/
  lost : SMap Nat
  /-- losses of each category not yet reported by a LOST record [32 each; 17 R391; 0] -/
  unreported : SMap Nat
deriving DecidableEq, Repr

/-- The ash collector and the leaky buckets. -/
structure Ash where
  /-- events raised and not yet at the collector, in order [list; 17 R392; none] -/
  flying : List AshEvent
  /-- input FIFO [64; 17 R392; empty] -/
  fifo : List AshEvent
  /-- rings of functions 0-16 [record; 17 R388; see AshRing] -/
  rings : SMap AshRing
  /-- LEAK_S [12; 17 R385; 60] -/
  leakS : Nat
  /-- bucket levels: 8·site + layer, or 1600 + pseudo-channel [5 each; 17 R385; 0] -/
  buckets : SMap Nat
  /-- devtime of each bucket's last leak since the timers restarted [64; 15 R335; none] -/
  leakAt : SMap Nat
  /-- devtime at which every leak timer last restarted [64; 15 R335; 0] -/
  leakBase : Nat
deriving DecidableEq, Repr

/-! ## Die links and fabric (14, 16) -/

/-- A DATA flit of a die link (16 R342). -/
structure LinkFlit where
  seq : BitVec 16
  vc : Nat
  gen : Bool
  payload : List Byte
deriving DecidableEq, Repr

/-- A slot on the wire (16 R346): block of 17 unit intervals, lane group, the 136 bytes, and what each physical lane carries in
those unit intervals. -/
structure Slot where
  block : Nat
  group : Nat
  bytes : List Byte
  lanes : List (Nat × BitVec 17)
deriving DecidableEq, Repr

/-- One end of a die link, as sender and as receiver. -/
structure LinkEnd where
  /-- next SEQ to give [16; 16 R347; 0] -/
  nextSeq : BitVec 16
  /-- replay buffer: DATA flits sent and not acknowledged, oldest first [1024; 15 R330; empty] -/
  replay : List LinkFlit
  /-- flits still to resend in the present replay round [list; 16 R349; none] -/
  resend : List LinkFlit
  /-- flits committed to the link layer and not yet sent [list; 14 R323; none] -/
  txq : List LinkFlit
  /-- DATA flits sent by channel since the last retrain [16 each; 16 R350; 0] -/
  sent : SMap Nat
  /-- SEQs of replay entries that the last retrain left uncharged: each costs its credit when it is sent again [list; 15 R330; none] -/
  uncharged : List (BitVec 16)
  /-- CREDIT_RET last received by channel [16 each; 16 R345; 0] -/
  returned : SMap Nat
  /-- credits of each channel at the last retrain's end are capacity minus this occupancy [9 each; 15 R330; 0] -/
  heldAtRetrain : SMap Nat
  /-- E, the next SEQ expected [16; 16 R347; 0] -/
  expect : BitVec 16
  /-- channel buffers: flits accepted and not yet freed [256 or 32 each; 16 R350; empty] -/
  rxBuf : List LinkFlit
  /-- flits freed by channel since the last retrain [16 each; 16 R345; 0] -/
  freed : SMap Nat
  /-- acceptances not yet acknowledged [count; 16 R348; 0] -/
  unacked : Nat
  /-- devtime of the oldest acceptance or freed entry that no CTRL has carried yet [64; 16 R348; none] -/
  ctrlSince : Option Nat
  /-- a NAK is to go with the next CTRL [1; 16 R347; false] -/
  nakDue : Bool
  /-- devtime of the last NAK since the last acceptance [64; 16 R347; none] -/
  nakAt : Option Nat
  /-- devtime at which an acknowledgement last advanced, or the first flit became unacknowledged [64; 16 R349; 0] -/
  ackAt : Nat
  /-- devtimes of the last 65 retries, newest first [list; 16 R351; none] -/
  retries : List Nat
  /-- devtimes of the last 17 GCHK failures by group, newest first [list; 16 R351; none] -/
  gchk : SMap (List Nat)
  /-- SUSPECT [32; 16 R345; 0] -/
  suspect : BitVec 32
  /-- RETRAIN_REQ is being sent [1; 16 R351; false] -/
  retrainReq : Bool
  /-- protocol errors counted [count; 16 R347; 0] -/
  protoErrors : Nat
  /-- next slot number k [count; 16 R346; 0] -/
  slot : Nat
  /-- slots put on the wire, oldest first [output; 16 R346; none] -/
  wire : List Slot
  /-- flits of the detour relay on their way to this end, in order [list; 16 R361; none] -/
  relayIn : List LinkFlit
  /-- this end has sent DETOUR_BEGIN [1; 16 R360; false] -/
  detourBegun : Bool
  /-- the DETOUR_BEGIN on its way to this end: FIRST_SEQ and COUNT [record; 16 R360; none] -/
  beginIn : Option (BitVec 16 × Nat)
deriving DecidableEq, Repr

inductive LinkState where | up | retraining | detour | down
deriving DecidableEq, Repr

/-- A die link: 0 flue FB0, 1 flue FB1, 2 bridge. -/
structure Link where
  /-- BR_STATE, FL0_STATE or FL1_STATE [2; 16 R365; UP] -/
  state : LinkState
  /-- a retrain is due (suspicion, storm or request), with its TRIGGER of R391 [2; 16 R352; none] -/
  due : Option Nat
  /-- the retrain after a missed bound is running (R357) [1; 16 R357; false] -/
  secondTry : Bool
  /-- devtimes of the suspicions of each group, newest first [list; 16 R354; none] -/
  suspicions : SMap (List Nat)
  /-- t0 of the detour [64; 16 R363; 0] -/
  detourAt : Nat
  /-- periods of 10 s since t0 whose attempt is past [count; 16 R363; 0] -/
  detourTries : Nat
  /-- failed physical lanes by group, which both directions map around [2 of 66 each; 16 R341; none] -/
  failedLanes : SMap (List Nat)
  /-- the record has taken its trained values (R365) [1; 16 R365; false] -/
  trained : Bool
  near : LinkEnd
  farEnd : LinkEnd
deriving DecidableEq, Repr

/-- A flit of the mesh (14 R312). -/
structure MeshFlit where
  id : Nat
  /-- router that holds it: a site, or 200 for the flue fabric -/
  node : Nat
  /-- input port it came by: 0 north, 1 south, 2 east, 3 west, 4 local, 5 flue, 6 bridge; at the flue fabric 0 and 1 are
  the flue links of FB0 and FB1, 4 its agents -/
  inPort : Nat
  /-- channel whose buffer it occupies there, and channel it leaves on -/
  inVc : Nat
  vc : Nat
  /-- on its escape route it has taken a down edge -/
  down : Bool
  /-- destination node, and its agent where that is the flue die (R312) -/
  dest : Nat
  agent : Nat
  /-- requesting node and agent, for the response -/
  src : Nat
  srcAgent : Nat
  tenant : Nat
  /-- its message, and whether it is the last flit of it (R313) -/
  msg : Nat
  last : Bool
  gen : Bool
  /-- MR cycles waited at this router, and those of them on end without a credit on its channel (R318, R323) -/
  waited : Nat
  starved : Nat
  aged : Bool
  /-- an error response that carries HEARTH_RETIRED -/
  error : Bool
  /-- the rest of what the flit carries -/
  data : Nat
deriving DecidableEq, Repr

/-- A routing graph G (14 R314). -/
structure Graph where
  /-- site nodes -/
  nodes : List Nat
  flue0 : Bool
  flue1 : Bool
  bridge : Bool
deriving DecidableEq, Repr

/-- Mesh, routing tables and islands. -/
structure Fabric where
  /-- graphs of the two routing generations; the tables follow from them [2 banks; 14 R316, R319; empty graph] -/
  graph0 : Graph
  graph1 : Graph
  /-- which of the two is in force [1; 14 R319; 0] -/
  bank1 : Bool
  /-- flits in the routers, oldest first [list; 14 R322; none] -/
  flits : List MeshFlit
  /-- flits delivered to endpoints, oldest first [output; 14 R312; none] -/
  delivered : List MeshFlit
  /-- responses that endpoints have still to inject, oldest first [list; 14 R326; none] -/
  offers : List MeshFlit
  /-- messages injected, for their numbers [count; 14 R313; 0] -/
  messages : Nat
  /-- what endpoints last sent of the part's own traffic: a mark by 8·node + kind [each; 14 R321; 0] -/
  told : SMap Nat
  /-- devtimes of the C0 flits that each endpoint injected within 4 µs, by 32·node + agent [list; 14 R325; none] -/
  c0Times : SMap (List Nat)
  /-- C0 requests that each endpoint has outstanding [6 each; 14 R325; 0] -/
  c0Open : SMap Nat
  /-- message that holds an output channel until its last flit, by 96·node + 12·port + channel [list; 14 R313; none] -/
  holding : SMap Nat
  /-- MR cycles since an aged flit was granted, by 8·node + port [count; 14 R323; 32, DESIGN CHOICE 5] -/
  sinceAged : SMap Nat
  /-- input port granted last, by 8·node + port [3; 14 R323; 6, DESIGN CHOICE 5] -/
  lastIn : SMap Nat
  /-- syncs of the islands' devtime copies since TRAIN step 10 [count; 14 R308; 0] -/
  syncs : Nat
  /-- devtime of the last of them [64; 14 R308; 0] -/
  syncAt : Nat
  /-- rotation count of the quadrants [count; 08 R193; 0] -/
  rotation : Nat
  /-- devtime of the last rotation [64; 08 R193; none] -/
  rotatedAt : Option Nat
  link0 : Link
  link1 : Link
  link2 : Link
deriving DecidableEq, Repr

/-! ## Chain ports (04) -/

/-- A sequenced frame a port has sent or is to send. -/
structure ChainFrame where
  seq : BitVec 16
  /-- type of R94 -/
  type_ : Nat
  /-- class 0-2 -/
  cls : Nat
  /-- dispatch of the copy that owns it, none for responses -/
  copy : Option Nat
  /-- a READ_REQ's tag, or 0 -/
  tag : Nat
  domain : Nat
  region : Nat
  offset : Nat
  length : Nat
  refSeq : BitVec 16
  err : Nat
  /-- where a READ_REQ's data goes: the copy's DST_KIND and address -/
  dstKind : Nat
  dst : Word
  payload : List Byte
deriving DecidableEq, Repr

/-- An outstanding read of a port (04 R103). -/
structure ChainRead where
  copy : Nat
  /-- bytes answered so far and asked for -/
  got : Nat
  length : Nat
  /-- where the data goes: the copy's DST_KIND and address -/
  dstKind : Nat
  dst : Word
  sentAt : Nat
deriving DecidableEq, Repr

inductive PortState where | disabled | noLock | probing | up | failed
deriving DecidableEq, Repr

/-- A chain port. -/
structure ChainPort where
  /-- state [enum; 04 R105, R148; no PCS lock] -/
  state : PortState
  /-- PCS block lock and FEC alignment hold [1; 04 R105; false] -/
  locked : Bool
  /-- devtime at which the lock was lost [64; 04 R106; 0] -/
  lockLostAt : Nat
  /-- devtimes of the first and the last PROBE with INIT received since the port began to come up, none before [64 each; 04 R105; none] -/
  initRx : Option (Nat × Nat)
  /-- devtimes of the first and the last PROBE with INIT sent since then [64 each; 04 R105; none] -/
  initTx : Option (Nat × Nat)
  /-- a frame with INIT clear has come since the port became UP [1; 04 R106; false] -/
  clearSeen : Bool
  /-- EtherType [16; 04 R92; 0x88B5] -/
  etherType : BitVec 16
  /-- destination address [48; 04 R92; 02-00-00-00-00-00] -/
  dst : BitVec 48
  /-- source address [48; 04 R92; 02-00-00-00-00-00] -/
  src : BitVec 48
  /-- next SEQ [16; 04 R96; 0] -/
  nextSeq : BitVec 16
  /-- E [16; 04 R97; 0] -/
  expect : BitVec 16
  /-- frames sent and not acknowledged, oldest first [256; 04 R96; none] -/
  window : List ChainFrame
  /-- frames still to retransmit [list; 04 R99; none] -/
  resend : List ChainFrame
  /-- frames that have no SEQ yet, in order [list; 04 R100; none] -/
  waiting : List ChainFrame
  /-- consecutive new sequenced frames of higher classes than C2 sent [count; 04 R100; 0] -/
  overC2 : Nat
  /-- outstanding reads by tag [1024; 04 R103; none] -/
  reads : SMap ChainRead
  /-- accepted frames not yet acknowledged [5; 04 R98; 0] -/
  unacked : Nat
  /-- devtime of the last NAK sent [64; 04 R97; none] -/
  nakAt : Option Nat
  /-- devtime at which an acknowledgement last advanced [64; 04 R99; 0] -/
  ackAt : Nat
  /-- consecutive retransmission rounds without an advance [5; 04 R106; 0] -/
  idleRounds : Nat
  /-- devtime of the last frame received [64; 04 R106; 0] -/
  rxAt : Nat
  /-- devtime of the last frame sent [64; 04 R105; 0] -/
  txAt : Nat
  /-- devtime of the last failure [64; 04 R106; 0] -/
  failedAt : Nat
  /-- frames put on the wire, oldest first [output; 04 R92; none] -/
  wire : List (List Byte)
deriving DecidableEq, Repr

/-- A chain domain (04 R101): tenant, port, export table of (region, read, write). -/
structure Domain where
  tenant : Nat
  port : Nat
  exports : SMap (Nat × Bool × Bool)
deriving DecidableEq, Repr

/-- The chain ports and domains. -/
structure Chain where
  /-- ports 0-3 [record; 04 R87; see ChainPort] -/
  ports : SMap ChainPort
  /-- bound domains [256; 04 R101; none] -/
  domains : SMap Domain
deriving DecidableEq, Repr

/-! ## Draught (18) and counters (19) -/

/-- The thermal-cycle tracking of one firebox (18 R415). -/
structure Cycle where
  ref : Int
  ext : Int
  up : Bool
deriving DecidableEq, Repr

/-- An island's voltage and frequency point (18 R407). -/
structure Island where
  /-- grant in tokens of 1 mW -/
  grant : Nat
  /-- clock point in MHz -/
  mhz : Nat
  /-- devtime since which its sensor has been 2 K below 105 degrees -/
  coolSince : Option Nat
  /-- devtime since which it has been held below its demand by its sensor -/
  heldSince : Option Nat
deriving DecidableEq, Repr

/-- The draught controller. -/
structure Draught where
  /-- mailbox cap in W [16; 18 R402; 1800] -/
  mailboxCap : Nat
  /-- cap-law margin in 1/128 K [16; 18 R402; 640] -/
  margin : Nat
  /-- ramp limit r in W/s [16; 18 R410; 600] -/
  ramp : Nat
  /-- banking is on [1; 18 R411; on] -/
  banking : Bool
  /-- R_est, binary32 in K/W [32; 18 R402; 0, DESIGN CHOICE 5 (0.040 at the end of TRAIN)] -/
  rEst : BitVec 32
  /-- L_th in W [16; 18 R402; 0] -/
  lTh : Nat
  /-- L_th is below the configured cap: the THERMAL_LIMIT condition [1; 18 R420; 0] -/
  thermalLimit : Bool
  /-- cap in force in W [16; 18 R402; 0] -/
  cap : Nat
  /-- cap by which the present period's grants were made, mW [32; 18 R404; 0] -/
  capTokens : Nat
  /-- A_k in tokens [32; 18 R410; 0] -/
  ak : Nat
  /-- fraction of r/10 carried over, in tenths of a token [4; 18 R410; 0] -/
  carry : Nat
  /-- M_k, measured power of the last period, mW [32; 18 R410; 0] -/
  measured : Nat
  /-- F_k in mW [32; 18 R411; 0] -/
  floor : Nat
  /-- tenths of a token carried of the floor's fall [4; 18 R411; 0] -/
  floorCarry : Nat
  /-- B_k in mW [32; 18 R411; 0] -/
  bank : Nat
  /-- banked energy in tenths of a microjoule (mW times 100 us) [64; 18 R413; 0] -/
  banked : Nat
  /-- tokens granted in total, and to each site [32; 15 R333; 0] -/
  granted : Nat
  siteGrant : SMap Nat
  /-- grant ceilings c_s, unlisted 1 [rational; 18 R408; 1] -/
  ceiling : SMap Rat
  /-- P averaged over the last second, W [16; 18 R420; 0] -/
  powerAvg : Nat
  /-- consecutive comparisons with the alarm, and without it (R400) [4; 18 R400; 0] -/
  balanceOn : Nat
  balanceOff : Nat
  /-- DRT_STATUS.BALANCE [1; 18 R420; 0] -/
  balance : Bool
  /-- DRT_STATUS.TRAY_LOST [1; 18 R420; 0] -/
  trayLost : Bool
  /-- inlet is out of range, flow is low (R398) [1 each; 18 R398; false] -/
  inletOut : Bool
  flowLow : Bool
  /-- devtime since which a layer has read above 95 degrees, by 8·site + layer [64; 18 R408; none] -/
  layerHot : SMap Nat
  /-- layers with DRAM_OVER recorded, islands with LOGIC_OVER recorded, stacks above 95 degrees [lists; 18 R421; none] -/
  dramOver : List Nat
  logicOver : List Nat
  hbmHot : List Nat
  /-- islands by number: 14·site + i with i 0-1 MX, 2 SQ, 3 AN, 4-11 EM of L1-L8, 12 VP, 13 MR; then, in the order of R22, 2800-2801 BL, 2802-2805 FL, 2806-2821 FF, 2822-2829 HB, 2830 PC, 2831-2834 CH, 2835-2838 ST, 2839-2841 AO [record; 18 R407; see Island] -/
  islands : SMap Island
  /-- HALF_10K [32; 18 R415; 0] -/
  half10k : Nat
  /-- HALF_30K [32; 18 R415; 0] -/
  half30k : Nat
  cycle0 : Cycle
  cycle1 : Cycle
  /-- EXT_saved of the journal's newest entry, none without one [16 each; 18 R417; none] -/
  extSaved : Option (Int × Int)
  /-- DRT_LAYER_MAP by 8·site + layer and DRT_LOGIC_MAP by site, unlisted 0 [16 each; 18 R420; 0] -/
  layerMap : SMap (BitVec 16)
  logicMap : SMap (BitVec 16)
deriving DecidableEq, Repr

/-- A counter window (19 R428-R431). -/
structure Window where
  selected : Bool
  share : Nat
  /-- site, or 0xFFFF -/
  site : Nat
  event : Nat
  /-- baseline of each contributing site (or of the one count, key 0xFFFF) -/
  baselines : SMap Nat
  /-- contributions of sites that left, fixed -/
  frozen : Nat
  /-- CTW_VALUE.VALUE, FRESH and CTW_TIME of the last snapshot -/
  value : Nat
  fresh : Bool
  snapAt : Nat
  /-- CTW_TIME as latched by the last read of CTW_VALUE, until CTW_TIME is read -/
  timeLatch : Option Nat
deriving DecidableEq, Repr

/-- The event counters. -/
structure Counters where
  /-- raw counters by 256·event + site (255 for a flue-die event) [48 each; 19 R422; 0] -/
  raw : SMap Nat
  /-- shares by 32·(256·event + site) + tag (site 255 for a flue-die event, tag 31 unattributable), for T events [48 each; 19 R425; 0] -/
  shares : SMap Nat
  /-- windows by 64·function + window [record; 19 R428; unselected] -/
  windows : SMap Window
deriving DecidableEq, Repr

/-! ## The whole state -/

/-- The HZL-176. -/
structure State where
  /-- commands that wait, first in, first out [queue; the row's cut; empty] -/
  pending : List Instr
  /-- how many free values steps have read: the model's own field [count; model's own; 0, DESIGN CHOICE 4] -/
  free : Nat
  ao : Ao
  dev : Dev
  sec : Sec
  fpt : Fpt
  pcie : Pcie
  /-- MBX_ blocks of functions 0-16 [record; 06 R126; see Mbx] -/
  mbx : SMap Mbx
  work : Work
  epoch : Epoch
  /-- hearths by site [200; 01 R11, R15; see Hearth] -/
  hearths : SMap Hearth
  mem : Mem
  ash : Ash
  fabric : Fabric
  chain : Chain
  draught : Draught
  counters : Counters
deriving DecidableEq, Repr

/-! ## Reset -/

/-- An empty byte memory whose bytes read as zero. -/
def Ram.zero : Ram := { unlisted := some 0, cells := [] }
/-- An empty byte memory whose bytes are free. -/
def Ram.open : Ram := { unlisted := none, cells := [] }

/-- A site record with every unit (R13). -/
def SiteRec.allFull : SiteRec :=
  { state := .full, quad := 0xF#4, lane := 0xFFFF#16, ember := 0xFFFFFFFF#32, bank := BitVec.allOnes 128 }

/-- The record of a DISABLED or RETIRED site: masks zero (R38). -/
def SiteRec.gone (st : SiteState) : SiteRec := { state := st, quad := 0, lane := 0, ember := 0, bank := 0 }

/-- The table as written at manufacture (R33, R34): generation 1; every unit works (DESIGN CHOICE 5). -/
def FptTable.manufacture : FptTable :=
  { generation := 1, publishedAt := 0, lastCause := 0, lastSite := 0xFFFF, sites := [],
    flue0 := { level := 2, groupMask := 0xFFFFFFFF#32, spareMap := 0 },
    flue1 := { level := 2, groupMask := 0xFFFFFFFF#32, spareMap := 0 },
    bridge := { level := 3, groupMask := 0x00FFFFFF#32, spareMap := 0 },
    hbmMask := BitVec.allOnes 256 }

def Ao.reset : Ao :=
  { vauxOk := false, devtime := 0, addrStrap := 0, pwrEn := false, pwrEnRoseAt := 0, pwrEnFellAt := none,
    pwrGood := false, pkgResetN := true, coolOk := false, tripLatched := false, tripCause := 0, tripQuietAt := none, seeking := false, seekAt := 0, retrying := false,
    boardCap := 2200, writeRejected := false, smbAlert := false, smbReply := none, fullNext := false,
    sensors := [], sensorsBefore := [], deadSensors := [], goodTrayReads := 0, lowFlowReads := 0, inlet := 0,
    outlet := 0, flow := 0, traySeq := none, traySeqAt := 0, trayValidAt := 0 }

def Dev.reset : Dev :=
  { state := .off, cause := 0, slotB := false, fast := false, step := 0, changedAt := 0, bootAt := 0, image := none,
    fwQuad := true, cfgQuad := true, preferB := false, fwFlash := [], fwErased := [], fwOpen := false, fwFresh := [], fwWritten := [] }

def Sec.reset : Sec :=
  { revoked := 0, svcFail := 0, tested := false, zeroised := false, lotKeyBlown := false, keysCleared := false,
    drbgSeeded := false, drbgRequests := 0, entropyRerun := false, entropyFails := 0, keys := [] }

def Fpt.reset : Fpt :=
  { table := none, published := false, changed := false, persistFail := false, persistPending := false,
    updating := false, flashA := some .manufacture, flashB := some .manufacture, persistDue := false, selectedB := false, waiting := [],
    trainA := none, trainB := none, trainUsed := none, trainDue := none, journal := [], journalNext := 0 }

def PcieFn.reset : PcieFn :=
  { busMaster := false, msixEnable := false, functionMask := false, unmasked := [], pending := [],
    bar2Size := 2 ^ 28, table := .zero, d3hot := false, maxPayload := 128, maxReadReq := 512, aerUncMask := 0, aerCorMask := 0 }

def Pcie.reset : Pcie :=
  { perst := true, linkUp := false, vfEnable := false, numVfs := 0, fns := [], cfgReply := .none, cfgData := 0, readData := 0,
    bar2Data := [], bar2Poisoned := false, latched := [], sent := [] }

def Mbx.reset : Mbx :=
  { reqPi := 0, reqCi := 0, rspPi := 0, rspCi := 0, irqEn := false, level := 0, piError := false,
    urgOverrun := false, urgBusy := false, resetting := false, req := .zero, rsp := .zero, urg := .zero,
    taken := [], urgWaiting := none }

def Queue.reset : Queue :=
  { state := .absent, sqEntries := 0, cqEntries := 0, sqHbm := false, cqHbm := false, irq := false, sqBase := 0,
    cqBase := 0, sqTail := 0, sqHead := 0, cqHead := 0, cqTail := 0, inflight := 0, indexError := false }

def Tenant.reset : Tenant :=
  { alive := false, halted := false, poisonNotify := false, phase := 0, signals := [], queues := [], regions := [],
    apertures := [], models := [], modelBad := [], lastQueue := 63 }

def Work.reset : Work :=
  { tenants := [], owner := [], disps := [], nextId := 0, lastTenant := 16, lastMbx := 16, nextTake := 0 }

def Epoch.reset : Epoch := { generation := 0, mixed := false, waiting := [], running := none, frozen := [] }

def Hearth.reset : Hearth :=
  { regs := [], preds := 0, pc := 0, tvec := 0, tpc := 0, tcause := 0, tval := 0, inTrap := false, sticky := 0,
    seq := .idle, disp := none, tenant := 0, codeRegion := 0, rect := [], rectCols := 0, completed := [], issued := [],
    arrival := [], ibuf := [], queues := [], waited := [], races := [], tags := [], dmaHalted := [], fails := [],
    staging := .open, stagingBad := [], stagingSoft := [],
    weightPages := [], emberNext := 0, emberQ := [], emberRuns := [], actTables := [], launches := [],
    launchCount := 0, lanes := [] }

def Mem.reset : Mem :=
  { slice := [], hbm := [], races := [], contested := [], host := .open, hostBad := [], erasures := [], sparesUsed := [], faultsDue := [], repairs := [],
    trackers := [], cursor := [], passes := [], passMin := 480, sanitised := [], hbmZeroed := [], refresh := [], refreshPass := [],
    emStep := [], coolSince := [] }

def AshRing.reset : AshRing :=
  { placed := false, hbm := false, entries := 0, base := 0, pi := 0, ci := 0, ciError := false, loss := false,
    irqEn := false, lost := [], unreported := [] }

def Ash.reset : Ash := { flying := [], fifo := [], rings := [], leakS := 60, buckets := [], leakAt := [], leakBase := 0 }

def LinkEnd.reset : LinkEnd :=
  { nextSeq := 0, replay := [], resend := [], txq := [], sent := [], uncharged := [], returned := [], heldAtRetrain := [], expect := 0,
    rxBuf := [], freed := [], unacked := 0, ctrlSince := none, nakDue := false, nakAt := none, ackAt := 0,
    retries := [], gchk := [], suspect := 0, retrainReq := false, protoErrors := 0, slot := 0, wire := [], relayIn := [],
    detourBegun := false, beginIn := none }

def Link.reset : Link :=
  { state := .up, due := none, secondTry := false, suspicions := [], detourAt := 0, detourTries := 0, failedLanes := [], trained := false,
    near := .reset, farEnd := .reset }

def Graph.empty : Graph := { nodes := [], flue0 := false, flue1 := false, bridge := false }

def Fabric.reset : Fabric :=
  { graph0 := .empty, graph1 := .empty, bank1 := false, flits := [], delivered := [], offers := [], messages := 0, told := [], c0Times := [], c0Open := [],
    holding := [], sinceAged := [], lastIn := [], syncs := 0, syncAt := 0, rotation := 0, rotatedAt := none, link0 := .reset, link1 := .reset, link2 := .reset }

def ChainPort.reset : ChainPort :=
  { state := .noLock, locked := false, lockLostAt := 0, initRx := none, initTx := none, clearSeen := false,
    etherType := 0x88B5#16, dst := 0x020000000000#48, src := 0x020000000000#48, nextSeq := 0, expect := 0,
    window := [], resend := [], waiting := [], overC2 := 0, reads := [], unacked := 0, nakAt := none,
    ackAt := 0, idleRounds := 0, rxAt := 0, txAt := 0, failedAt := 0, wire := [] }

def Chain.reset : Chain := { ports := [], domains := [] }

def Island.reset : Island := { grant := 0, mhz := 0, coolSince := none, heldSince := none }

def Cycle.reset : Cycle := { ref := 0, ext := 0, up := true }

def Draught.reset : Draught :=
  { mailboxCap := 1800, margin := 640, ramp := 600, banking := true, rEst := 0, lTh := 0, thermalLimit := false,
    cap := 0, capTokens := 0, ak := 0, carry := 0, measured := 0, floor := 0, floorCarry := 0, bank := 0, banked := 0,
    granted := 0, siteGrant := [], ceiling := [], powerAvg := 0, balanceOn := 0, balanceOff := 0, balance := false,
    trayLost := false, inletOut := false, flowLow := false, layerHot := [], dramOver := [], logicOver := [],
    hbmHot := [], islands := [], half10k := 0, half30k := 0, cycle0 := .reset, cycle1 := .reset, extSaved := none,
    layerMap := [], logicMap := [] }

def Window.reset : Window :=
  { selected := false, share := 0, site := 0, event := 0, baselines := [], frozen := 0, value := 0, fresh := false,
    snapAt := 0, timeLatch := none }

def Counters.reset : Counters := { raw := [], shares := [], windows := [] }

/-- The part before VAUX comes up: every register at its reset value, memory with nothing listed (DESIGN CHOICE 5
for what the manual gives no reset value). -/
def State.reset : State :=
  { pending := [], free := 0, ao := .reset, dev := .reset, sec := .reset, fpt := .reset, pcie := .reset, mbx := [],
    work := .reset, epoch := .reset, hearths := [], mem := .reset, ash := .reset, fabric := .reset, chain := .reset,
    draught := .reset, counters := .reset }

end Sys2Proof.Machine
end

