-- ==== Sys2Proof/Machine/Store.lean ====
section
/-! DEFINITION. Sparse tables, byte memories, byte order, CRCs: the plain operations over the state's data. -/

namespace Sys2Proof.Machine

variable {α : Type}

/-! ## Sparse tables -/

/-- The entry of key `k`. -/
def look : SMap α → Nat → Option α
  | [], _ => none
  | (k', v) :: t, k => if k = k' then some v else look t k

/-- The entry of key `k`, or the default. -/
def lookD (d : α) (m : SMap α) (k : Nat) : α := (look m k).getD d

/-- Store an entry, keys rising. -/
def put : SMap α → Nat → α → SMap α
  | [], k, v => [(k, v)]
  | (k', v') :: t, k, v =>
    if k < k' then (k, v) :: (k', v') :: t
    else if k = k' then (k, v) :: t
    else (k', v') :: put t k v

/-- Remove an entry. -/
def del (m : SMap α) (k : Nat) : SMap α := m.filter (fun c => c.1 != k)

/-- Store an entry; the default's value is not listed. -/
def putD [DecidableEq α] (d : α) (m : SMap α) (k : Nat) (v : α) : SMap α :=
  if v = d then del m k else put m k v

/-- Keys rise strictly. -/
abbrev sorted (m : SMap α) : Prop := m.Pairwise (fun a b => a.1 < b.1)

/-! ## Byte memories -/

/-- The byte at an address; a free one where nothing was written and nothing is known. -/
def Ram.byte (r : Ram) (free a : Nat) : Byte :=
  match look r.cells a with
  | some b => b
  | none => r.unlisted.getD (Config.freeByte free a)

/-- Write a byte; a byte equal to what an unlisted address reads as is not listed. -/
def Ram.setByte (r : Ram) (a : Nat) (b : Byte) : Ram :=
  { r with cells := if r.unlisted = some b then del r.cells a else put r.cells a b }

/-- Read `n` bytes. -/
def Ram.read (r : Ram) (free a : Nat) : Nat → List Byte
  | 0 => []
  | n + 1 => r.byte free a :: r.read free (a + 1) n

/-- Write bytes from an address on. -/
def Ram.write (r : Ram) (a : Nat) : List Byte → Ram
  | [] => r
  | b :: t => (r.setByte a b).write (a + 1) t

/-- The canonical form: rising addresses, and no cell that an unlisted address would read as. -/
abbrev Ram.wf (r : Ram) : Prop := sorted r.cells ∧ ∀ c ∈ r.cells, r.unlisted ≠ some c.2

/-- The canonical form of the memories. -/
abbrev Mem.wf (m : Mem) : Prop := sorted m.slice ∧ sorted m.hbm ∧ m.host.wf

/-! ## Bytes and numbers (R4) -/

/-- Little-endian value of bytes. -/
def leNat : List Byte → Nat
  | [] => 0
  | b :: t => b.toNat + 256 * leNat t

/-- `n` little-endian bytes of a number. -/
def leBytes : Nat → Nat → List Byte
  | 0, _ => []
  | n + 1, v => BitVec.ofNat 8 v :: leBytes n (v / 256)

/-- Most-significant-byte-first value of bytes (Trathar frames, R93). -/
def beNat (bs : List Byte) : Nat := leNat bs.reverse
def beBytes (n v : Nat) : List Byte := (leBytes n v).reverse

/-- `n` bytes at an offset; absent bytes are zero. -/
def slice (bs : List Byte) (off n : Nat) : List Byte :=
  let t := (bs.drop off).take n
  t ++ List.replicate (n - t.length) 0#8

/-- A little-endian field of `n` bytes at an offset. -/
def fld (bs : List Byte) (off n : Nat) : Nat := leNat (slice bs off n)

/-- Every byte of a range is zero. -/
def zeros (bs : List Byte) (off n : Nat) : Bool := (slice bs off n).all (· == 0#8)

/-- Value as a signed number of `n` bits. -/
def signed (n v : Nat) : Int := if v < 2 ^ (n - 1) then (v : Int) else (v : Int) - (2 ^ n : Nat)

/-- A signed 16-bit reading (R81, R395). -/
def s16 (v : BitVec 16) : Int := v.toInt

/-- A signed little-endian 32-bit word at an offset. -/
def sword (bs : List Byte) (off : Nat) : Int := signed 32 (fld bs off 4)

/-- 32 data bytes of a line, and back (R213). -/
def lineBytes (l : Line) : List Byte := leBytes 32 l.toNat
def bytesLine (bs : List Byte) : Line := BitVec.ofNat 256 (leNat bs)

/-- Bytes overwritten from an offset on. -/
def splice (bs : List Byte) (off : Nat) (new : List Byte) : List Byte :=
  bs.take off ++ new ++ bs.drop (off + new.length)

/-! ## CRCs -/

/-- One step of a reflected CRC-32 register. -/
def crc32Step (c : BitVec 32) : BitVec 32 := if c.getLsbD 0 then (c >>> 1) ^^^ 0x82F63B78#32 else c >>> 1

/-- CRC-32C: polynomial 0x1EDC_6F41 reflected, initial value and final exclusive-OR all ones (R32). -/
def crc32c (bs : List Byte) : BitVec 32 :=
  let step (c : BitVec 32) (b : Byte) : BitVec 32 :=
    crc32Step (crc32Step (crc32Step (crc32Step (crc32Step (crc32Step (crc32Step (crc32Step (c ^^^ b.setWidth 32))))))))
  bs.foldl step 0xFFFFFFFF#32 ^^^ 0xFFFFFFFF#32

/-- One bit, and one byte, of the reflected register of the frame check sequence. -/
def fcsBit (c : Nat) : Nat := c / 2 ^^^ 0xEDB88320 * (c % 2)
def fcsByte (c : Nat) (b : Byte) : Nat := fcsBit (fcsBit (fcsBit (fcsBit (fcsBit (fcsBit (fcsBit (fcsBit (c ^^^ b.toNat))))))))

/-- The register after the bytes; the match lets the kernel evaluate it byte by byte. -/
def fcsRegister : List Byte → Nat → Nat
  | [], c => c
  | b :: t, c => match fcsByte c b with | 0 => fcsRegister t 0 | n + 1 => fcsRegister t (n + 1)

/-- CRC-32 of IEEE 802.3, the frame check sequence (04 R92; the polynomial and the bit order are PRESUMED from the standard the
rule names, log entry 22). -/
def crc32 (bs : List Byte) : BitVec 32 := BitVec.ofNat 32 (fcsRegister bs 0xFFFFFFFF ^^^ 0xFFFFFFFF)

def crc8Step (c : Byte) : Byte := if c.getLsbD 7 then (c <<< 1) ^^^ 0x07#8 else c <<< 1

/-- CRC-8: polynomial 0x07, initial value 0, no reflection (R81, R343). -/
def crc8 (bs : List Byte) : Byte :=
  let step (c b : Byte) : Byte :=
    crc8Step (crc8Step (crc8Step (crc8Step (crc8Step (crc8Step (crc8Step (crc8Step (c ^^^ b))))))))
  bs.foldl step 0#8

/-! ## Counting -/

/-- Number of 1 bits. -/
def ones {w : Nat} (v : BitVec w) : Nat := ((List.range w).filter (fun i => v.getLsbD i)).length

/-- Positions of the 1 bits, ascending. -/
def bits {w : Nat} (v : BitVec w) : List Nat := (List.range w).filter (fun i => v.getLsbD i)

/-- A bit set or cleared. -/
def setBit {w : Nat} (v : BitVec w) (i : Nat) (on : Bool) : BitVec w :=
  if on then v ||| (1#w <<< i) else v &&& ~~~(1#w <<< i)

/-- A Bool as a number. -/
def b2n (b : Bool) : Nat := if b then 1 else 0

/-- The first free number below a limit. -/
def firstFree (m : SMap α) (limit : Nat) : Option Nat := (List.range limit).find? (fun i => (look m i).isNone)

/-- Round half to even of `v ÷ 2^k` (R269). -/
def rne (v : Int) (k : Nat) : Int :=
  let q := v / (2 ^ k : Nat)
  let r := v % (2 ^ k : Nat)
  if 2 * r > (2 ^ k : Nat) ∨ (2 * r = (2 ^ k : Nat) ∧ q % 2 = 1) then q + 1 else q

end Sys2Proof.Machine
end

