-- ==== Sys2Proof/Machine/Floats.lean ====
section
/-! DEFINITION. Exact floating-point values and their single rounding (08 R186-R190, R205; 11 R247, R250, R251). -/

namespace Sys2Proof.Machine

/-- A floating-point value: a finite one is (-1)^neg · m · 2^e, exact. -/
inductive Fp where
  | nan
  | inf (neg : Bool)
  | fin (neg : Bool) (m : Nat) (e : Int)
deriving DecidableEq, Repr

/-- The formats of operands and results. -/
inductive Fmt where | fp32 | bf16 | e4m3 | e5m2 | int8
deriving DecidableEq, Repr

/-- Bits of an IEEE-like number: exponent width `eb`, fraction width `mb`. -/
def decodeIeee (eb mb : Nat) (v : Nat) : Fp :=
  let neg := v / 2 ^ (eb + mb) % 2 = 1
  let ex := v / 2 ^ mb % 2 ^ eb
  let fr := v % 2 ^ mb
  let q0 : Int := 2 - (2 ^ (eb - 1) : Nat) - mb
  if ex = 2 ^ eb - 1 then (if fr = 0 then .inf neg else .nan)
  else if ex = 0 then .fin neg fr q0
  else .fin neg (fr + 2 ^ mb) (q0 + (ex - 1 : Nat))

/-- E4M3 has no infinities, and S.1111.111 is NaN (R187). -/
def decodeE4m3 (v : Nat) : Fp :=
  let neg := v / 128 % 2 = 1
  let ex := v / 8 % 16
  let fr := v % 8
  if ex = 15 ∧ fr = 7 then .nan
  else if ex = 0 then .fin neg fr (-9)
  else .fin neg (fr + 8) (-9 + (ex - 1 : Nat))

/-- The value of an element (R187, R247). -/
def Fmt.widen : Fmt → Nat → Fp
  | .fp32, v => decodeIeee 8 23 v
  | .bf16, v => decodeIeee 8 7 v
  | .e4m3, v => decodeE4m3 v
  | .e5m2, v => decodeIeee 5 2 v
  | .int8, v => let i := signed 8 v; .fin (i < 0) i.natAbs 0

/-- Magnitude `m · 2^e` rounded to nearest even in a format with `mb` fraction bits and lowest exponent `q0`,
as the code of its magnitude, exponent field and fraction joined. -/
def roundCode (mb : Nat) (q0 : Int) (m : Nat) (e : Int) : Nat :=
  if m = 0 then 0 else
  let q := max (e + (Nat.log2 m : Int) - mb) q0
  let m' : Nat := if q ≤ e then m * 2 ^ (e - q).toNat else (rne m (q - e).toNat).toNat
  (q - q0).toNat * 2 ^ mb + m'

/-- FP32 bit pattern with a single rounding, overflow to infinity, NaN 0x7FC0_0000 (R188). -/
def round32 : Fp → BitVec 32
  | .nan => 0x7FC00000#32
  | .inf neg => if neg then 0xFF800000#32 else 0x7F800000#32
  | .fin neg m e => BitVec.ofNat 32 (b2n neg * 2 ^ 31 + min (roundCode 23 (-149) m e) 0x7F800000)

def dec32 (v : BitVec 32) : Fp := Fmt.fp32.widen v.toNat

/-- Round an integer value `± m · 2^e` to an integer, half to even. -/
def roundInt (neg : Bool) (m : Nat) (e : Int) : Int :=
  let a : Int := if 0 ≤ e then (m * 2 ^ e.toNat : Nat) else rne m (-e).toNat
  if neg then -a else a

def clampInt (lo hi v : Int) : Int := max lo (min hi v)

/-- Conversion to a narrow format (R190); FP32 is round32. -/
def Fmt.narrow : Fmt → Fp → Nat
  | .fp32, v => (round32 v).toNat
  | .bf16, .nan => 0x7FC0
  | .bf16, .inf neg => b2n neg * 0x8000 + 0x7F80
  | .bf16, .fin neg m e => b2n neg * 0x8000 + min (roundCode 7 (-133) m e) 0x7F80
  | .e4m3, .nan => 0x7F
  | .e4m3, .inf neg => b2n neg * 0x80 + 0x7E
  | .e4m3, .fin neg m e => b2n neg * 0x80 + min (roundCode 3 (-9) m e) 0x7E
  | .e5m2, .nan => 0x7F
  | .e5m2, .inf neg => b2n neg * 0x80 + 0x7B
  | .e5m2, .fin neg m e => b2n neg * 0x80 + min (roundCode 2 (-16) m e) 0x7B
  | .int8, .nan => 0
  | .int8, .inf neg => if neg then 0x80 else 0x7F
  | .int8, .fin neg m e => ((clampInt (-128) 127 (roundInt neg m e)) % 256).toNat

/-- The value as an integer multiple of 2^e, for `e` at most its exponent. -/
def scaled (e : Int) : Fp → Int
  | .fin neg m x => let a : Int := (m * 2 ^ (x - e).toNat : Nat); if neg then -a else a
  | _ => 0

def Fp.isNegZero : Fp → Bool
  | .fin true 0 _ => true
  | _ => false

def Fp.expo : Fp → Int
  | .fin _ _ e => e
  | _ => 0

/-- Exact sum of values; a zero sum is -0 only when every term is -0 (R188). An empty sum is +0. -/
def exactSum (l : List Fp) : Fp :=
  if l.any (· == .nan) ∨ (l.any (· == .inf true) ∧ l.any (· == .inf false)) then .nan
  else if l.any (· == .inf true) then .inf true
  else if l.any (· == .inf false) then .inf false
  else
    let e := l.foldl (fun a x => min a x.expo) 0
    let t := l.foldl (fun a x => a + scaled e x) 0
    if t = 0 then .fin (!l.isEmpty && l.all Fp.isNegZero) 0 0 else .fin (t < 0) t.natAbs e

/-- Exact product; infinity times zero is NaN (R188). -/
def exactMul : Fp → Fp → Fp
  | .nan, _ => .nan
  | _, .nan => .nan
  | .inf a, .inf b => .inf (a != b)
  | .inf a, .fin b m _ => if m = 0 then .nan else .inf (a != b)
  | .fin a m _, .inf b => if m = 0 then .nan else .inf (a != b)
  | .fin a m e, .fin b n f => .fin (a != b) (m * n) (e + f)

def Fp.neg : Fp → Fp
  | .nan => .nan
  | .inf s => .inf (!s)
  | .fin s m e => .fin (!s) m e

/-! FP32 operations: one rounding each (R188, R205, R247). -/

def add32 (a b : BitVec 32) : BitVec 32 := round32 (exactSum [dec32 a, dec32 b])
def sub32 (a b : BitVec 32) : BitVec 32 := round32 (exactSum [dec32 a, (dec32 b).neg])
def mul32 (a b : BitVec 32) : BitVec 32 := round32 (exactMul (dec32 a) (dec32 b))
def fma32 (a b c : BitVec 32) : BitVec 32 := round32 (exactSum [exactMul (dec32 a) (dec32 b), dec32 c])

/-- `a < b` for values other than NaN; the zeros compare equal. -/
def Fp.lt : Fp → Fp → Bool
  | .inf true, .inf true => false
  | .inf true, _ => true
  | _, .inf true => false
  | .inf false, _ => false
  | _, .inf false => true
  | a, b => let e := min a.expo b.expo; scaled e a < scaled e b

def isZero32 (v : BitVec 32) : Bool := v &&& 0x7FFFFFFF#32 == 0#32

/-- MAX of R205: NaN operand gives 0x7FC0_0000, MAX of zeros of both signs is +0. -/
def max32 (a b : BitVec 32) : BitVec 32 :=
  if dec32 a = .nan ∨ dec32 b = .nan then 0x7FC00000#32
  else if isZero32 a && isZero32 b then a &&& b
  else if (dec32 a).lt (dec32 b) then b else a

/-- MIN of R205. -/
def min32 (a b : BitVec 32) : BitVec 32 :=
  if dec32 a = .nan ∨ dec32 b = .nan then 0x7FC00000#32
  else if isZero32 a && isZero32 b then a ||| b
  else if (dec32 b).lt (dec32 a) then b else a

/-- Integer square root, rounded down, by bits from 2^(n-1) down. -/
def isqrt (v : Nat) : Nat → Nat → Nat
  | 0, r => r
  | n + 1, r => let t := r + 2 ^ n; isqrt v n (if t * t ≤ v then t else r)

/-- The FP32 value nearest 1/√A (R205). -/
def rsqrt32 (a : BitVec 32) : BitVec 32 :=
  match dec32 a with
  | .nan => 0x7FC00000#32
  | .inf neg => if neg then 0x7FC00000#32 else 0#32
  | .fin neg m e =>
    if m = 0 then (if neg then 0xFF800000#32 else 0x7F800000#32)
    else if neg then 0x7FC00000#32
    else
      let odd := e % 2 = 1
      let m' := if odd then 2 * m else m
      let h : Int := (if odd then e - 1 else e) / 2
      let p := 2 ^ 160 / m'
      let q := isqrt p 81 0
      let sticky := b2n (q * q * m' != 2 ^ 160)
      round32 (.fin false (2 * q + sticky) (-81 - h))

/-- INT32 to FP32 (R190). -/
def cvti32 (v : BitVec 32) : BitVec 32 :=
  let i := v.toInt
  round32 (.fin (i < 0) i.natAbs 0)

/-! ## I4B (R186, R190) -/

/-- Scale of a block: smallest e with round_even(m / 2^e) at most 7, clamped; 127 with an infinity. -/
def i4bScale (block : List (BitVec 32)) : Int :=
  let vals := block.map dec32
  if vals.any (fun v => v == .inf true || v == .inf false) then 127
  else
    let fits (e : Int) : Bool := vals.all fun v =>
      match v with
      | .fin _ m x => decide (roundInt false m (x - e) ≤ 7)
      | _ => true
    if vals.all (fun v => match v with | .fin _ m _ => m == 0 | _ => true) then 0
    else (((List.range 256).map (fun i => (i : Int) - 128)).find? fits).getD 127

/-- Element of a block at scale `e`; NaN gives 0. -/
def i4bElem (e : Int) (v : BitVec 32) : Int :=
  match dec32 v with
  | .nan => 0
  | .inf neg => if neg then -7 else 7
  | .fin neg m x => clampInt (-8) 7 (roundInt neg m (x - e))

/-- Bytes of one I4B run of blocks: nibbles, then scale bytes (R186, R203). -/
def i4bRun (elems : List (BitVec 32)) (blocks : Nat) : List Byte :=
  let blk (b : Nat) := (elems.drop (32 * b)).take 32
  let q (i : Nat) : Nat := ((i4bElem (i4bScale (blk (i / 32))) (elems.getD i 0)) % 16).toNat
  (List.range (16 * blocks)).map (fun i => BitVec.ofNat 8 (q (2 * i) + 16 * q (2 * i + 1))) ++
    (List.range blocks).map (fun b => BitVec.ofNat 8 ((i4bScale (blk b)) % 256).toNat)

/-! ## Activation tables (R250, R251) -/

/-- Floor of a finite value. -/
def Fp.floor : Fp → Int
  | .fin neg m e =>
    let a : Int := if neg then -(m : Int) else m
    if 0 ≤ e then a * (2 ^ e.toNat : Nat) else a / (2 ^ (-e).toNat : Nat)
  | _ => 0

/-- The segment of x (R251). -/
def actSegment (t : List Byte) (x : BitVec 32) : Nat :=
  if (fld t 0 1) % 2 = 0 then
    let u := mul32 (sub32 x (BitVec.ofNat 32 (fld t 4 4))) (BitVec.ofNat 32 (fld t 8 4))
    match dec32 u with
    | .nan => 0
    | .inf neg => if neg then 0 else 63
    | v => (clampInt 0 63 v.floor).toNat
  else (clampInt 0 63 (((x.toNat % 2 ^ 31) / 2 ^ 22 : Nat) - (fld t 12 2 : Int))).toNat

/-- act(x) by the table's bytes (R251). -/
def act32 (t : List Byte) (x : BitVec 32) : BitVec 32 :=
  if dec32 x = .nan then 0x7FC00000#32 else
  let i := actSegment t x
  let slope := BitVec.ofNat 32 (fld t (0x20 + 8 * i) 4)
  let icpt := BitVec.ofNat 32 (fld t (0x24 + 8 * i) 4)
  let infinite := x &&& 0x7FFFFFFF#32 == 0x7F800000#32
  if infinite && isZero32 slope then icpt else fma32 slope x icpt

end Sys2Proof.Machine
end

