-- ==== Sys2Proof/Machine/WordCode.lean ====
section
/-! DEFINITION. The word code: columns, check bits, syndromes, erasures, poison (10 R225-R233). -/

namespace Sys2Proof.Machine

/-- The 16-bit values of weight 3 in ascending order. -/
def weight3 : List Check :=
  (List.range 16).flatMap fun h => (List.range h).flatMap fun m => (List.range m).map fun l =>
    BitVec.ofNat 16 (2 ^ h + 2 ^ m + 2 ^ l)

/-- The 16-bit values of weight 5 below 2^8 in ascending order: more than the 34 that R227 uses. -/
def weight5 : List Check :=
  (List.range 8).flatMap fun a => (List.range a).flatMap fun b => (List.range b).flatMap fun c =>
    (List.range c).flatMap fun d => (List.range d).map fun e =>
      BitVec.ofNat 16 (2 ^ a + 2 ^ b + 2 ^ c + 2 ^ d + 2 ^ e)

/-- Columns of data bits 0-255 (R227). -/
def dataCols : List Check := weight3.take 256
/-- Columns of covered address bits 0-33 (R227). -/
def addrCols : List Check := weight5.take 34
/-- Columns of check bits 0-15 (R227). -/
def checkCols : List Check := (List.range 16).map fun j => BitVec.ofNat 16 (2 ^ j)

/-- Exclusive-OR of the columns whose bit is set in `v`. -/
def xorCols : List Check → Nat → Check
  | [], _ => 0
  | c :: t, v => (if v % 2 = 1 then c else 0) ^^^ xorCols t (v / 2)

/-- enc(D, a) of R228. -/
def enc (d : Line) (a : Nat) : Check := xorCols dataCols d.toNat ^^^ xorCols addrCols a

/-- The stored-bit position whose column a syndrome equals: 0-255 data, 256-271 check. -/
def colIndex (s : Check) : Option Nat := (dataCols ++ checkCols).findIdx? (· == s)

/-- The syndrome is an address column of the mode: 22 columns in DIE, 34 in WORD (R225, R229). -/
def isAddrCol (die : Bool) (s : Check) : Bool := (addrCols.take (if die then 22 else 34)).contains s

/-- A decoder's class (R229, R231): `corrected` inverts the listed stored bits. -/
inductive WordClass where
  | clean
  | poisoned
  | corrected (flips : List Nat)
  | address
  | ue
deriving DecidableEq, Repr

/-- The class of a syndrome, with the subarray's erasure if it holds one (R229, R231). -/
def classify (die : Bool) (erasure : Option Nat) (s : Check) : WordClass :=
  if s = 0 then .clean
  else if s = 0xFFFF#16 then .poisoned
  else match colIndex s with
    | some x => .corrected [x]
    | none =>
      if isAddrCol die s then .address
      else match erasure with
        | none => .ue
        | some e =>
          let s' := s ^^^ dataCols.getD e 0
          match colIndex s' with
          | some x => .corrected [e, x]
          | none => if isAddrCol die s' then .address else .ue

/-- The syndrome of a read (R228). -/
def syndrome (w : StoredWord) (a : Nat) : Check := w.check ^^^ enc w.data a

/-- The data with the data bits among `flips` inverted. -/
def flipData (d : Line) (flips : List Nat) : Line :=
  flips.foldl (fun d x => if x < 256 then d ^^^ (1#256 <<< x) else d) d

/-- A correct write (R228, R234). -/
def encode (d : Line) (a : Nat) : StoredWord := { data := d, check := enc d a }

/-- A poisoned word: data as read, check bits complemented (R233). -/
def poisonWord (w : StoredWord) (a : Nat) : StoredWord := { w with check := enc w.data a ^^^ 0xFFFF#16 }

end Sys2Proof.Machine
end

