-- ==== Sys2Proof/WellFormed.lean ====
section
/-! DEFINITION. Which operands name a unit that the HZL-176 has. An ill-formed command stops with a fault. -/

namespace Sys2Proof

/-- Functions 0-16 (R70). -/
def fnOk (fn : Nat) : Bool := fn ≤ 16
/-- Tenants 1-16, queues 0-63 (R149, R151). -/
def queueOk (t q : Nat) : Bool := 1 ≤ t && t ≤ 16 && q < 64
/-- Sites 0-199 (R11). -/
def siteOk (site : Nat) : Bool := site < 200
/-- A unit within a site. -/
def inSite (site i n : Nat) : Bool := site < 200 && i < n
/-- Links 0-2, chain ports 0-3 (R40, R87). -/
def linkOk (l : Nat) : Bool := l < 3
def portOk (p : Nat) : Bool := p < 4
/-- A lane group of a link (R21). -/
def groupOk (l g : Nat) : Bool := l < 3 && g < (if l = 2 then 24 else 32)

/-- A router or the flue fabric, and one of its ports (R310). -/
def nodePortOk (n p : Nat) : Bool := n ≤ 200 && p < 7

def FieldUnit.ok : FieldUnit → Bool
  | .bank s b => inSite s b 128
  | .ember s e => inSite s e 32
  | .lane s l => inSite s l 16
  | .quadrant s q => inSite s q 4
  | .hearth s => siteOk s
  | .hbmChannel p => p < 256
  | .linkSpare l g n => groupOk l g && 1 ≤ n && n ≤ 2
  | .linkNarrow l g => groupOk l g

def SweepUnit.ok : SweepUnit → Bool
  | .bank s b => inSite s b 128
  | .channel p => p < 256

def Bucket.ok : Bucket → Bool
  | .layer s l => inSite s l 8
  | .channel p => p < 256

/-- Islands are numbered 14 to a site (0-2799), then 42 of the flue die and the links (R22, R23). -/
def islandOk (i : Nat) : Bool := i < 2842

/-- The operands of a command name existing units. -/
def Instr.wellFormed : Instr → Bool
  | .vauxUp strap => strap < 8
  | .sensorSample rs => rs.all fun r => r.sensor < 6408
  | .configRequest ⟨fn, _⟩ | .busMasterEnableSet fn _ | .msixUnmask fn _ | .functionLevelReset fn
  | .registerWrite fn _ _ _ | .lowHalfRead fn _ | .mbxReqPiWrite fn _ | .mbxRspCiWrite fn _ | .mbxTakeRequest fn
  | .mailboxReset fn | .mailboxResetDone fn | .urgentGo fn | .sysHello fn _ | .sysStatus fn _ | .fwUpdate fn _
  | .trainingPolicy fn _ | .tenantCreate fn _ | .tenantDestroy fn _ | .tenantAssign fn _ | .tenantRelease fn _
  | .tenantReset fn _ | .tenantHalt fn _ | .tenantResume fn _ | .tenantNotify fn _ | .queueCreate fn _
  | .queueDestroy fn _ | .regionDefine fn _ | .regionDelete fn _ | .regionFill fn _ | .regionQuery fn _
  | .apertureMap fn _ | .apertureUnmap fn _ | .andironModelLoad fn _ | .andironModelUnload fn _ | .emberActLoad fn _
  | .counterWindowSet fn _ | .ashRingConfig fn _ | .ashBucketConfig fn _ | .sweepConfig fn _ | .floorplanRead fn _
  | .draughtCapSet fn _ | .draughtRampSet fn _ | .draughtStatus fn _ | .draughtTripTest fn _ | .chainPortConfig fn _
  | .chainDomainBind fn _ | .chainDomainExport fn _ | .chainDomainUnbind fn _ | .attestReport fn _
  | .securityZeroise fn _ | .apertureRead fn _ _ | .apertureWrite fn _ _ | .lost fn | .ashCiWrite fn _ => fnOk fn
  | .vfDisable n _ => n ≤ 16
  | .unitFenced u => u.ok
  | .stokerStart found => found.failing.all FieldUnit.ok && found.deadSensors.all (· < 6408) &&
      found.lanesOut.all fun x => groupOk x.1 x.2.1 && x.2.2 < 66
  | .linkDataReceive l _ g _ | .linkCtrlReceive l _ g _ | .groupSuspect l _ g => groupOk l g
  | .linkFlitSend l _ | .ctrlSend l _ | .replayTimeout l _ | .retryStorm l _
  | .retrainBoundMiss l _ => linkOk l
  | .retrainStart l found => linkOk l && found.failedLanes.all fun x => x.2 < 66
  | .dblSqTailWrite t q _ | .dblCqHeadWrite t q _ | .runRecipe t q | .andironBatch t q | .emberRun t q | .copy t q
  | .fill t q | .fence t q | .signal t q | .wait t q | .turnover t q | .undefinedDescriptorOpcode t q => queueOk t q
  | .dblSignalWrite t n _ => queueOk t 0 && n < 256
  | .recipeSiteEnd s | .ibufFill s | .illegal s | .alu s | .addi s | .andi s | .ori s | .xori s | .slli s | .srli s
  | .srai s | .movi s | .movk0 s | .movk1 s | .movk2 s | .movk3 s | .cmp s | .cmpi s | .plog s | .lds s | .lws s
  | .sts s | .sws s | .ldr s | .lwr s | .str s | .swr s | .br s | .call s | .jr s | .issue s | .waitq s | .rdq s
  | .waitf s | .rdf s | .mfs s | .mts s | .iflush s | .trap s | .rte s | .nop s | .endRecipe s | .tileStart s _
  | .tileComplete s _ | .vectorAdd s | .vectorSub s | .vectorMul s | .vectorMax s | .vectorMin s | .vectorFma s
  | .vectorScale s | .rowscale s | .colscale s | .vectorAct s | .rsqrt s | .rsum s | .rmax s | .vectorCvt s | .cvti s
  | .vectorOpComplete s | .push s _ | .pushComplete s _ | .pull s _ | .pullComplete s _ | .emberProgramEnd s _
  | .andironLaunchStart s | .launchComplete s => siteOk s
  | .dmaTransferStart s c | .dmaTransferComplete s c => inSite s c 8
  | .emberProgramStart s e | .emberEnd s e | .emberLoad s e | .emberStore s e | .emberAdd s e | .emberSub s e
  | .emberMul s e | .emberScale s e | .emberAct s e | .emberCvt s e | .emberMov s e | .emberLoop s e => inSite s e 32
  | .layerThrottle s l | .layerUnthrottle s l | .refreshIntervalShorten s l | .refreshIntervalLengthen s l
  | .dramOver s l => inSite s l 8
  | .rowRefresh s b r => inSite s b 128 && r < 6240
  | .environmentStart s l | .andironIteration s l | .environmentEnd s l => inSite s l 16
  | .chainWrite p _ | .chainReadReq p _ | .chainReadResp p _ | .chainErrorResp p _ | .chainAck p _ | .chainNak p _
  | .chainProbe p _ | .frameDiscard p _ | .chainFrameSend p | .chainAckDue p | .chainRetransmit p | .pcsLock p
  | .initProbe p | .chainPortUp p | .idleProbe p | .chainPortFail p | .chainPortRetry p | .chainReadTimeout p _
  | .pcsLockLoss p => portOk p
  | .sweepVisit u => u.ok
  | .spareColumnRepair s b => inSite s b 128
  | .bucketLeak b => b.ok
  | .droop i | .islandDvfsPeriod i _ => islandOk i
  | .logicOver s i => siteOk s && islandOk i
  | .hbmHot k _ => k < 8
  | .outputPortGrant n p => nodePortOk n p
  | .detourRetry _ found => found.failedLanes.all fun x => x.2 < 66
  | .drivePwrEn | .pwrGoodRise _ | .pwrGoodTimeout | .pwrGoodFall | .pkgResetAssert _ _ | .pkgResetRelease _
  | .powerUpRerun | .coolOkChange _ | .hardwareTrip | .perstNAssert | .perstNRelease | .bootTimeout
  | .trainingRecordWrite _ _ | .fptPublish | .fptPersist _ _ | .trayRead _ | .traySensorLost
  | .detourBeginReceive _ _ _ | .relayedFlitReceive _ | .routingGeneration | .epochChange
  | .escapeMove _ | .flitAged _ | .retiredHearthRequest _ | .devtimeSync | .smbStatus _ | .smbPkgPower _ | .smbTemps _
  | .smbTray _ | .smbBoardCap _ _ | .smbThermalCycles _ | .smbFwLevel _ | .smbTripCause _ | .smbResetReq _ _ _
  | .alertResponseAddress | .waitTimeout _ | .turnoverDrained _ | .recipeClaim _ | .dispatchComplete _
  | .quadrantRotation | .emberTokenClaim _ | .erasureMark | .ashEventArrive | .ashRecordWrite | .powerTokenPeriod _
  | .rEstUpdate _ | .capLoopPeriod | .heatBalanceCheck _ | .thermalCycleSample | .journalAppend _ | .layerMapRefresh
  | .counterSnapshot | .entropyHealthFail | .entropyRerunDone _ | .drbgReseed | .vauxLoss => true

end Sys2Proof
end

