-- ==== Sys2Proof/Machine/Ops.lean ====
section
/-! DEFINITION. The named operations over the state: reading and replacing its parts, counting, raising MSI-X
vectors and ash events, memory words with the word code, and how a dispatch's unit ends. -/

namespace Sys2Proof.Machine

/-! ## Parts of the state -/

def hearth (s : State) (site : Nat) : Hearth := lookD .reset s.hearths site
def setHearth (s : State) (site : Nat) (h : Hearth) : State := { s with hearths := putD .reset s.hearths site h }
def modHearth (s : State) (site : Nat) (f : Hearth → Hearth) : State := setHearth s site (f (hearth s site))

def mbx (s : State) (fn : Nat) : Mbx := lookD .reset s.mbx fn
def setMbx (s : State) (fn : Nat) (m : Mbx) : State := { s with mbx := putD .reset s.mbx fn m }
def modMbx (s : State) (fn : Nat) (f : Mbx → Mbx) : State := setMbx s fn (f (mbx s fn))

def tenant (s : State) (t : Nat) : Tenant := lookD .reset s.work.tenants t
def setTenant (s : State) (t : Nat) (x : Tenant) : State :=
  { s with work := { s.work with tenants := putD .reset s.work.tenants t x } }
def modTenant (s : State) (t : Nat) (f : Tenant → Tenant) : State := setTenant s t (f (tenant s t))

def queue (s : State) (t q : Nat) : Queue := lookD .reset (tenant s t).queues q
def setQueue (s : State) (t q : Nat) (x : Queue) : State :=
  modTenant s t fun r => { r with queues := putD .reset r.queues q x }
def modQueue (s : State) (t q : Nat) (f : Queue → Queue) : State := setQueue s t q (f (queue s t q))

def region? (s : State) (t r : Nat) : Option Region := look (tenant s t).regions r
def setRegion (s : State) (t r : Nat) (x : Region) : State :=
  modTenant s t fun w => { w with regions := put w.regions r x }

def pcieFn (s : State) (fn : Nat) : PcieFn := lookD .reset s.pcie.fns fn
def setPcieFn (s : State) (fn : Nat) (x : PcieFn) : State :=
  { s with pcie := { s.pcie with fns := putD .reset s.pcie.fns fn x } }
def modPcieFn (s : State) (fn : Nat) (f : PcieFn → PcieFn) : State := setPcieFn s fn (f (pcieFn s fn))

def ashRing (s : State) (fn : Nat) : AshRing := lookD .reset s.ash.rings fn
def setAshRing (s : State) (fn : Nat) (x : AshRing) : State :=
  { s with ash := { s.ash with rings := putD .reset s.ash.rings fn x } }
def modAshRing (s : State) (fn : Nat) (f : AshRing → AshRing) : State := setAshRing s fn (f (ashRing s fn))

def chainPort (s : State) (p : Nat) : ChainPort := lookD .reset s.chain.ports p
def setChainPort (s : State) (p : Nat) (x : ChainPort) : State :=
  { s with chain := { s.chain with ports := putD .reset s.chain.ports p x } }
def modChainPort (s : State) (p : Nat) (f : ChainPort → ChainPort) : State := setChainPort s p (f (chainPort s p))

def modAo (s : State) (f : Ao → Ao) : State := { s with ao := f s.ao }
def modDev (s : State) (f : Dev → Dev) : State := { s with dev := f s.dev }
def modSec (s : State) (f : Sec → Sec) : State := { s with sec := f s.sec }
def modFpt (s : State) (f : Fpt → Fpt) : State := { s with fpt := f s.fpt }
def modPcie (s : State) (f : Pcie → Pcie) : State := { s with pcie := f s.pcie }
def modWork (s : State) (f : Work → Work) : State := { s with work := f s.work }
def modEpoch (s : State) (f : Epoch → Epoch) : State := { s with epoch := f s.epoch }
def modMem (s : State) (f : Mem → Mem) : State := { s with mem := f s.mem }
def modAsh (s : State) (f : Ash → Ash) : State := { s with ash := f s.ash }
def modFabric (s : State) (f : Fabric → Fabric) : State := { s with fabric := f s.fabric }
def modChain (s : State) (f : Chain → Chain) : State := { s with chain := f s.chain }
def modDraught (s : State) (f : Draught → Draught) : State := { s with draught := f s.draught }
def modCounters (s : State) (f : Counters → Counters) : State := { s with counters := f s.counters }

/-- The devtime that events are stamped with. -/
def now (s : State) : Nat := s.ao.devtime

/-- A time `ns` after `since` has come. -/
def due (s : State) (since ns : Nat) : Bool := since + ns ≤ now s

/-- One more free value has been read. -/
def bumpFree (s : State) : State := { s with free := s.free + 1 }

/-- The part is in READY or DEGRADED. -/
def live (s : State) : Bool := s.dev.state == .ready || s.dev.state == .degraded

/-! ## Floor plan as the units see it (R30, R45, R49) -/

/-- The site record in force; every site counts as DISABLED before a table is selected. -/
def siteRec (s : State) (site : Nat) : SiteRec :=
  match s.fpt.table with
  | none => .gone .disabled
  | some t => lookD .allFull t.sites site

def hbmMask (s : State) : BitVec 256 := match s.fpt.table with | none => 0 | some t => t.hbmMask

/-- A unit is fenced off and its publication still waits (R49 step 1). -/
def fenced (s : State) (p : FieldUnit → Bool) : Bool := s.fpt.waiting.any fun c => p c.unit

/-- The flue link of the site's firebox is DOWN, whose sites leave service with it (R48, R358). -/
def flueDown (s : State) (site : Nat) : Bool :=
  (if site < 100 then s.fabric.link0 else s.fabric.link1).state == .down

/-- The record names a site that is neither DISABLED nor RETIRED. -/
def SiteRec.works (r : SiteRec) : Bool := r.state == .full || r.state == .partialCap

/-- The site works: FULL or PARTIAL in the table and not fenced. -/
def siteLive (s : State) (site : Nat) : Bool :=
  (siteRec s site).works && !fenced s (· == .hearth site) && !flueDown s site

/-- The site has retired, or is fenced off as a whole. -/
def siteRetired (s : State) (site : Nat) : Bool :=
  (siteRec s site).state == .retired || ((siteRec s site).works && !siteLive s site)

def quadLive (s : State) (site q : Nat) : Bool :=
  (siteRec s site).quad.getLsbD q && !fenced s (· == .quadrant site q)

def laneLive (s : State) (site l : Nat) : Bool :=
  (siteRec s site).lane.getLsbD l && !fenced s (· == .lane site l)

def bankLive (s : State) (site b : Nat) : Bool :=
  (siteRec s site).bank.getLsbD b && !fenced s (· == .bank site b) && siteLive s site

def emberLive (s : State) (site e : Nat) : Bool :=
  (siteRec s site).ember.getLsbD e && !fenced s (· == .ember site e) &&
    !fenced s fun u => (List.range 4).any fun i => u == .bank site (4 * e + i)

def channelLive (s : State) (pc : Nat) : Bool := (hbmMask s).getLsbD pc && !fenced s (· == .hbmChannel pc)

/-- Working lanes of a site, ascending (R279). -/
def workingLanes (s : State) (site : Nat) : List Nat := (List.range 16).filter (laneLive s site)

def ownerOf (s : State) (site : Nat) : Option Nat := look s.work.owner site

/-- Sites of a tenant, ascending. -/
def ownedBy (s : State) (t : Nat) : List Nat := (s.work.owner.filter (·.2 == t)).map (·.1)

/-- Tenants that exist, ascending. -/
def liveTenants (s : State) : List Nat := (s.work.tenants.filter (·.2.alive)).map (·.1)

/-! ## Counters (R422-R427) -/

/-- Add `n` to a counter of a site (or 255: the flue die), modulo 2^48. -/
def countAt (s : State) (event site n : Nat) : State :=
  modCounters s fun c =>
    { c with raw := putD 0 c.raw (256 * event + site) ((lookD 0 c.raw (256 * event + site) + n) % 2 ^ 48) }

/-- A flue-die event without tenant shares. -/
def countU (s : State) (event n : Nat) : State := countAt s event 255 n

/-- A T event of a site (or 255): the raw counter and the share of the tag (31 unattributable). -/
def countTAt (s : State) (event site tag n : Nat) : State :=
  let k := 32 * (256 * event + site) + tag
  modCounters (countAt s event site n) fun c => { c with shares := putD 0 c.shares k ((lookD 0 c.shares k + n) % 2 ^ 48) }

/-- A T event of the flue die. -/
def countT (s : State) (event tag n : Nat) : State := countTAt s event 255 tag n

/-! ## MSI-X (R75, R76, R124, R467) -/

/-- Vectors of a function (R75). -/
def vectors (fn : Nat) : Nat := if fn = 0 then 72 else 68

/-- The vector may be raised in the device state (R124). -/
def vectorAllowed (s : State) (fn v : Nat) : Bool :=
  live s || (v == 0 && (s.dev.state == .train || s.dev.state == .failed)) ||
    (v == 2 && fn == 0 && s.dev.state == .failed)

/-- The vector may send now. -/
def canSend (f : PcieFn) (v : Nat) : Bool := f.msixEnable && !f.functionMask && f.unmasked.contains v

/-- An event for a vector: a message, or a pending bit, or nothing while PERST_N is asserted. -/
def raiseVector (s : State) (fn v : Nat) : State :=
  if s.pcie.perst || !vectorAllowed s fn v then s
  else if canSend (pcieFn s fn) v then
    countT (modPcie s fun p => { p with sent := p.sent ++ [(fn, v)] }) 0xC05 fn 1
  else modPcieFn s fn fun f => { f with pending := if f.pending.contains v then f.pending else f.pending ++ [v] }

/-- Send one message for every pending vector that may now send (R76). -/
def flushPending (s : State) (fn : Nat) : State :=
  let f := pcieFn s fn
  let go := f.pending.filter (canSend f)
  let s := modPcieFn s fn fun f => { f with pending := f.pending.filter fun v => !canSend f v }
  go.foldl (fun s v => countT (modPcie s fun p => { p with sent := p.sent ++ [(fn, v)] }) 0xC05 fn 1) s

/-- The part may read and write host memory for a function (R467). -/
def hostReachable (s : State) (fn : Nat) : Bool := !s.pcie.perst && (pcieFn s fn).busMaster

/-! ## Ash events (R389-R393, R468) -/

/-- The 32 bytes of DETAIL from (offset from 0x20, size, value) fields; unlisted bytes are zero (R391). -/
def detail (fs : List (Nat × Nat × Nat)) : List Byte :=
  fs.foldl (fun d f => splice d f.1 (leBytes f.2.1 f.2.2)) (List.replicate 32 0#8)

/-- CATEGORY of a record type (R390). -/
def ashCategory (ty : Nat) : Nat :=
  if ty ≤ 3 then 0 else if ty ≤ 5 then 1 else if ty ≤ 0x13 then 2 else if ty ≤ 0x21 then 3
  else if ty = 0x30 then 4 else if ty = 0x40 then 5 else if ty = 0x41 then 6 else 7

/-- Raise an event: it leaves for the ash collector. Functions in `alerts` may get vector 1. -/
def raiseAsh (s : State) (ty source tag reason : Nat) (det : List Byte) (dests alerts : List Nat) : State :=
  let e : AshEvent := { type_ := ty, source := source, tenant := tag, reason := reason, detail := det, at_ := now s,
                        lastAt := now s, repeats := 0, dests := dests, alerts := alerts, sent := false }
  modAsh s fun a => { a with flying := a.flying ++ [e] }

/-- Rings of the admin and of a tenant, if there is one. -/
def adminAnd (t : Option Nat) : List Nat := match t with | none => [0] | some t => [0, t]

/-! ## Memory words (R212-R214, R224-R236, R381-R386, R448) -/

/-- A word's place: slice word of a site or HBM word of a pseudo-channel, and how its region protects it. -/
structure Place where
  hbm : Bool
  unit : Nat
  addr : Nat
  die : Bool
  key : Nat
deriving DecidableEq, Repr

def Place.index (p : Place) : Nat := Config.unitStride * p.unit + p.addr
def Place.bank (p : Place) : Nat := p.addr / Config.bankWords
/-- Key of the word's subarray in Mem.erasures (slice only). -/
def Place.subKey (p : Place) : Nat :=
  12 * (128 * p.unit + p.bank) + (p.addr % Config.bankWords) / 64 / 512

/-- The covered address of the mode (R225). -/
def Place.cover (p : Place) : Nat :=
  if p.die then p.bank % 4 * 2 ^ 20 + p.addr % Config.bankWords else Config.unitStride * p.unit + p.addr

/-- HBM words are stored encrypted under their region's key (R448); slices hold plaintext. -/
def Place.seal (p : Place) (d : Line) : Line := if p.hbm then Config.xts p.key (2 ^ 32 * p.unit + p.addr) d else d
def Place.unseal (p : Place) (d : Line) : Line := if p.hbm then (Config.xts p.key (2 ^ 32 * p.unit + p.addr)).symm d else d

/-- The unit has left service, or the keys are cleared (R224, R449). -/
def placeOut (s : State) (p : Place) : Bool :=
  if p.hbm then !channelLive s p.unit || s.sec.keysCleared else !bankLive s p.unit p.bank

def stored? (s : State) (p : Place) : Option StoredWord := look (if p.hbm then s.mem.hbm else s.mem.slice) p.index

/-- An extent of HBM, as (pseudo-channel, base, words), holds the word. -/
def Place.within (p : Place) (e : Nat × Nat × Nat) : Bool := p.unit == e.1 && e.2.1 ≤ p.addr && p.addr < e.2.1 + e.2.2

/-- An HBM word lies in a region. -/
def inRegion (s : State) (p : Place) : Bool :=
  s.work.tenants.any fun t => t.2.regions.any fun r => r.2.hbm && r.2.extents.any fun e => p.within (e.unit, e.base, e.count)

/-- A word that sanitise has zeroed and that nobody has been given since: a slice word of a site without an owner, or an HBM word of
a destroyed tenant's region in no region now (R174, R236, R238). -/
def zeroed (s : State) (p : Place) : Bool :=
  if p.hbm then s.mem.hbmZeroed.any p.within && !inRegion s p
  else s.mem.sanitised.contains p.unit && (ownerOf s p.unit).isNone

/-- The word as it stands in the array. A word that is not listed is the zero word of sanitise, or one never written, whose data and
check bits are free (R236, log entry 4). -/
def storedOr (s : State) (p : Place) : StoredWord :=
  (stored? s p).getD (if zeroed s p then encode 0 p.index
    else { data := Config.freeLine s.free p.index, check := Config.freeCheck s.free p.index })

def erasureOf (s : State) (p : Place) : Option Nat := if p.hbm then none else (look s.mem.erasures p.subKey).map (·.1)

/-- What a read of a word gives: data, or an uncorrectable reason of R381. -/
inductive Got where
  | data (d : Line)
  | bad (reason : Nat)
deriving DecidableEq, Repr

/-- The class of the word as stored. -/
def placeClass (s : State) (p : Place) (w : StoredWord) : WordClass :=
  classify p.die (erasureOf s p) (syndrome w p.cover)

/-- The word as a decoder delivers it (R229-R231, R236). -/
def peek (s : State) (p : Place) : Got :=
  if placeOut s p then .bad 4 else
  let w := storedOr s p
  match placeClass s p w with
  | .clean => .data (p.unseal w.data)
  | .corrected fl => .data (p.unseal (flipData w.data fl))
  | .poisoned => .bad 3
  | .address => .bad 2
  | .ue => .bad 1

/-! ## Requesters, and words that may be old or new (R178, R254) -/

/-- Who asks: a requester code of R382, or an item with its code. -/
abbrev Req := Nat

/-- Item `num` of a queue of a site, asking under a code. Queue 16 is the sequencer itself, queue 17 an EMBER_RUN by its dispatch. -/
def byItem (code site queue num : Nat) : Req := code + 16 * (1 + site + 256 * (queue + 32 * num))

def Req.code (r : Req) : Nat := r % 16

/-- Site, queue and number of the item that asks. -/
def Req.item (r : Req) : Option (Nat × Nat × Nat) :=
  if r < 16 then none else some ((r / 16 - 1) % 256, (r / 16 - 1) / 256 % 32, (r / 16 - 1) / 8192)

/-- (counter - target) mod 2^32 as a signed value is at least 0 (R204). -/
def reached (counter target : Nat) : Bool := decide ((counter + 2 ^ 32 - target % 2 ^ 32) % 2 ^ 32 < 2 ^ 31)

/-- What had been waited for and what had been issued, by queue, when an item was issued; of the sequencer, what has been by now. -/
def itemView (h : Hearth) (queue num : Nat) : Option (SMap Nat × SMap Nat) :=
  if queue = 16 then some (h.waited, h.issued)
  else ((lookD [] h.queues queue).find? (·.num == num)).map fun i => (i.waited, i.before)

/-- The item is a tile that carries SERIAL. -/
def serialTile (h : Hearth) (num : Nat) : Bool :=
  (lookD [] h.queues 0).any fun i => i.num == num && fld i.block 1 1 / 16 % 2 == 1

/-- An item was issued after item `en` of queue `eq`, of another queue or of the matrix queue without SERIAL, and without a wait on
its completion counter: no order holds between them (R178). -/
def overtakes (h : Hearth) (queue num eq en : Nat) : Bool :=
  match itemView h queue num with
  | none => false
  | some (waited, issued) =>
    (queue != eq || (queue == 0 && !serialTile h num)) && reached (lookD 0 issued eq) en && !reached (lookD 0 waited eq) en

/-- A read of a word may still see what it held before a write: of an item that the reader overtook, or of an ember program whose end
cannot be observed yet, by anyone but an ember (R178, R254). -/
def seesOld (s : State) (r : Req) (x : MemRace) : Bool :=
  let ember (q : Nat) : Bool := q == 3 || q == 17
  let open_ := x.queue == 17 || (x.queue == 3 && !reached (lookD 0 (hearth s x.site).completed 3) x.num)
  match r.item with
  | some (site, q, num) => !(ember q && ember x.queue) && (open_ || (site == x.site && overtakes (hearth s site) q num x.queue x.num))
  | none => open_

/-- The words that a read of a place may give in place of the word as it stands. -/
def oldWords (s : State) (p : Place) (r : Req) : List StoredWord :=
  (s.mem.races.filter fun x => x.hbm == p.hbm && x.index == p.index && seesOld s r x).map (·.word)

/-- One of a value and its alternatives, by a fresh free choice. -/
def choose {α : Type} (x : α) : List α → State → α × State
  | [], s => (x, s)
  | y :: l, s => choose (if Config.freeBool s.free then y else x) l (bumpFree s)

/-- Put a word into the array as it is. -/
def storeWord (s : State) (p : Place) (w : StoredWord) : State :=
  modMem s fun m => if p.hbm then { m with hbm := put m.hbm p.index w } else { m with slice := put m.slice p.index w }

/-- A word that an item writes is kept as it was before, once for the item. -/
def logWrite (s : State) (p : Place) (r : Req) : State :=
  match r.item with
  | some (site, q, num) =>
    if q = 16 ∨ s.mem.races.any (fun x => x.site == site && x.queue == q && x.num == num && x.hbm == p.hbm && x.index == p.index)
    then s
    else modMem s fun m => { m with races := m.races ++
      [{ site := site, queue := q, num := num, hbm := p.hbm, index := p.index, word := storedOr s p }] }
  | none => s

/-- A program that runs on an ember reads or writes the word (R254). -/
def touched (s : State) (p : Place) : Bool :=
  !p.hbm && (hearth s p.unit).emberRuns.any fun r => r.2.touch.any fun t => t.1 ≤ p.addr && p.addr < t.1 + t.2

/-- Another requester has written a word that a running ember program touches: its final content is unpredictable (R254). -/
def contest (s : State) (p : Place) (r : Req) : State :=
  let byEmber := match r.item with | some (_, q, _) => q == 3 || q == 17 | none => false
  if byEmber || !touched s p then s
  else
    let s := bumpFree (storeWord s p (encode (Config.freeLine s.free p.index) p.cover))
    modMem s fun m => { m with contested := if m.contested.contains p.index then m.contested else m.contested ++ [p.index] }

/-- What a stopped sequencer's items have written is theirs no longer to order (R178). -/
def forgetRaces (s : State) (site : Nat) : State :=
  modMem s fun m => { m with races := m.races.filter fun x => x.site != site || x.queue == 17 }

/-! ## Reads and writes of words -/

/-- Bucket key and the tenants an overflow concerns (R385, R386). -/
def bucketKey (p : Place) : Nat := if p.hbm then 1600 + p.unit else 8 * p.unit + p.bank / 16

/-- SOURCE of a memory record (R389). -/
def placeSource (p : Place) : Nat := if p.hbm then 0x200 + p.unit else p.unit

/-- DETAIL of a memory record (R391). -/
def memDetail (p : Place) (regionAddr requester : Nat) (synd : Check) : List Byte :=
  detail [(0, 8, regionAddr), (8, 4, p.addr), (12, 2, if p.hbm then p.unit else p.bank), (14, 1, requester),
    (15, 1, b2n p.hbm), (16, 2, synd.toNat)]

/-- One corrected error raises its bucket; the 17th at 16 overflows to 8 and is recorded (R335, R385, R386). -/
def raiseBucket (s : State) (p : Place) (owner : Option Nat) (regionAddr requester : Nat) (synd : Check) : State :=
  let k := bucketKey p
  let s := if p.hbm then countT s (0x902 + 8 * (p.unit / 32)) (owner.getD 31) 1
           else countAt s (0x210 + p.bank / 16) p.unit 1
  let level := lookD 0 s.ash.buckets k
  if level < 16 then modAsh s fun a => { a with buckets := putD 0 a.buckets k (level + 1) }
  else
    let s := modAsh s fun a => { a with buckets := putD 0 a.buckets k 8 }
    raiseAsh s 1 (placeSource p) (owner.getD 0xFF) 0 (memDetail p regionAddr requester synd) (adminAnd owner) (adminAnd owner)

/-- What a decode leaves behind for its requester `req` with tenant tag `tag`: a bucket for a correction, UE_READ
records for an uncorrectable outcome; the erased bit alone is only counted (R377, R383, R385). -/
def noteRead (s : State) (p : Place) (r : Req) (tag : Nat) (regionAddr : Nat) : State :=
  let req := r.code
  let s := if p.hbm then countT s (0x900 + 8 * (p.unit / 32)) tag 1 else countAt s (0x200 + p.bank / 16) p.unit 1
  let bad (s : State) (reason : Nat) (synd : Check) : State :=
    let s := if p.hbm then countT s (0x903 + 8 * (p.unit / 32)) tag 1
      else
        let s := countAt s 0x220 p.unit 1
        if reason = 2 then countAt s 0x221 p.unit 1 else if reason = 3 then countAt s 0x222 p.unit 1 else s
    raiseAsh s 2 (placeSource p) tag reason (memDetail p regionAddr req synd)
      (adminAnd (if tag = 0 then none else some tag)) []
  if placeOut s p then bad s 4 0 else
  let w := storedOr s p
  let c := placeClass s p w
  let s := if (stored? s p).isNone then bumpFree s else s
  let synd := syndrome w p.cover
  match c with
  | .clean => s
  | .corrected fl =>
    if some fl = (erasureOf s p).map ([·]) then countAt s 0x223 p.unit 1
    else raiseBucket s p (if p.hbm then (if tag = 0 then none else some tag) else ownerOf s p.unit) regionAddr req synd
  | .poisoned => bad s 3 synd
  | .address => bad s 2 synd
  | .ue => bad s 1 synd

/-- A read that meets one word in place of the one in the array. -/
def readAs (s : State) (p : Place) (w : StoredWord) (r : Req) (tag regionAddr : Nat) : Got × State :=
  let t := storeWord s p w
  (peek t p, { noteRead t p r tag regionAddr with mem := s.mem })

/-- Read a word for a requester: the word as it stands or, where no order holds, the word before a write, by a choice made afresh for
every word and every read (R178, R254). -/
def readPlace (s : State) (p : Place) (r : Req) (tag regionAddr : Nat) : Got × State :=
  match oldWords s p r with
  | [] => (peek s p, noteRead s p r tag regionAddr)
  | ws =>
    match choose none (ws.map some) s with
    | (none, s) => (peek s p, noteRead s p r tag regionAddr)
    | (some w, s) => readAs s p w r tag regionAddr

/-- Write a whole word with valid check bits (R234); a unit out of service stores nothing. -/
def writePlace (s : State) (p : Place) (d : Line) : State :=
  if placeOut s p then s
  else
    let w := encode (p.seal d) p.cover
    storeWord (if p.hbm then countT s (0x901 + 8 * (p.unit / 32)) 31 1 else countAt s (0x208 + p.bank / 16) p.unit 1) p w

/-- Data bytes of a word replaced from byte `off` on. -/
def mergeLine (d : Line) (off : Nat) (bs : List Byte) : Line := bytesLine (splice (lineBytes d) off bs)

/-- A requester writes a whole word of a unit in service: the word as it was is kept for readers that no order binds, and one that a
running ember program touches becomes unpredictable (R178, R234, R254). -/
def writeWord (s : State) (p : Place) (d : Line) (r : Req) : State := contest (writePlace (logWrite s p r) p d) p r

/-- Write part of a word: a read-modify-write at the bank; an uncorrectable read leaves the word (R234). -/
def writePart (s : State) (p : Place) (off : Nat) (bs : List Byte) (r : Req) (tag regionAddr : Nat) : Got × State :=
  if bs.length = 32 then
    (if placeOut s p then .bad 4 else .data 0, if placeOut s p then noteRead s p r tag regionAddr
      else writeWord s p (bytesLine bs) r)
  else
    match peek s p with
    | .data d =>
      let s' := noteRead s p r tag regionAddr
      let s' := if p.hbm then s' else countAt s' 0x224 p.unit 1
      (.data d, writeWord s' p (mergeLine d off bs) r)
    | .bad k => (.bad k, noteRead s p r tag regionAddr)

/-! ## Dispatches (R154, R164-R168) -/

def disp? (s : State) (id : Nat) : Option Disp := s.work.disps.find? (·.id == id)

def modDisp (s : State) (id : Nat) (f : Disp → Disp) : State :=
  modWork s fun w => { w with disps := w.disps.map fun d => if d.id = id then f d else d }

/-- Rank of a status (R166): the lowest is reported. -/
def Status.rank : Status → Nat
  | .tenantReset => 1 | .hearthRetired => 2 | .linkLost => 3 | .prot => 4 | .poisoned => 5 | .busError => 6
  | .trap => 7 | .channelHalt => 8 | .aborted => 9 | .range => 10 | .deadlineBest => 11 | .done => 12

/-- Code of a status (R166). -/
def Status.code : Status → Nat
  | .done => 0 | .aborted => 1 | .busError => 2 | .trap => 3 | .channelHalt => 4 | .prot => 5 | .deadlineBest => 6
  | .range => 7 | .poisoned => 8 | .tenantReset => 9 | .hearthRetired => 10 | .linkLost => 11

/-- Of two reports, the one a record shows: lower rank, then lower site (R164, R166). -/
def Report.worse (a b : Report) : Report :=
  if b.status.rank < a.status.rank ∨ (b.status.rank = a.status.rank ∧ b.site < a.site) then b else a

/-- The report of a dispatch; the counts of DEADLINE_BEST and RANGE, and a TURNOVER's own, add up (R166). -/
def worstReport (l : List Report) : Report :=
  let w := l.foldl Report.worse { site := 0xFFFF, status := .done, detail := 0 }
  if w.status = .deadlineBest ∨ w.status = .range ∨ w.status = .done then
    { w with detail := (l.filter (·.status == w.status)).foldl (fun n r => n + r.detail) 0 }
  else w

/-- A dispatch ends with its units' reports: its completion record may be written. -/
def endDisp (s : State) (id : Nat) (rs : List Report) : State :=
  modDisp s id fun d => { d with reports := d.reports ++ rs, working := [], ended := true, endedAt := now s,
                                 unclaimed := false }

/-- One unit of a dispatch ends; the last one ends the dispatch. -/
def endUnit (s : State) (id unit : Nat) (r : Report) : State :=
  modDisp s id fun d =>
    let left := d.working.filter (· != unit)
    { d with reports := d.reports ++ [r], working := left, ended := d.ended || left.isEmpty,
             endedAt := if left.isEmpty && !d.ended then now s else d.endedAt }

/-- Sites of a rectangle in its order: rows, then package columns (R158). -/
def rectSites (row0 pcol0 rows cols : Nat) : List Nat :=
  (List.range rows).flatMap fun r => (List.range cols).map fun c =>
    let pc := pcol0 + c
    if pc ≤ 9 then 10 * (row0 + r) + (9 - pc) else 100 + 10 * (row0 + r) + (pc - 10)

/-! ## Outcomes -/

abbrev Out := Host.Outcome State Fault Refusal

/-- The effect, if the operand names a unit of the part. -/
def guarded (ok : Bool) (f : Fault) (s : State) : Out := if ok then .next s else .fault f

end Sys2Proof.Machine
end

