-- ==== Sys2Proof/Machine/Operands.lean ====
section
/-! DEFINITION. Operand forms: region addresses and share addresses, spans of memory, staging, host memory, the
fields of descriptors and the Floor Plan Table's bytes (02 R31-R42, 07 R150, 08 R180, 10 R219-R223). -/

namespace Sys2Proof.Machine

/-! ## Region addresses (R150, R219, R222, R223) -/

/-- Region number and byte offset of a region address. -/
def regionOf (a : Nat) : Nat := a / 2 ^ 48 % 2 ^ 16
def offsetOf (a : Nat) : Nat := a % 2 ^ 48

/-- The word of share offset `x` in one site's extent (R222). -/
def sharePlace (r : Region) (e : Extent) (x : Nat) : Place :=
  let nb := e.banks.length
  let line := x / 256
  let bank := if r.bankLocal then e.banks.getD (x / (e.count * 2048)) 0 else e.banks.getD (line % nb) 0
  let loc := if r.bankLocal then x % (e.count * 2048) else line / nb * 256 + x % 256
  { hbm := false, unit := e.unit, addr := Config.bankWords * bank + 64 * (e.base + loc / 2048) + loc % 2048 / 32,
    die := r.die, key := 0 }

/-- The word of a local offset in one pseudo-channel's extent (R223). -/
def channelPlace (r : Region) (e : Extent) (loc : Nat) : Place :=
  { hbm := true, unit := e.unit, addr := e.base + loc / 32, die := false, key := r.key }

/-- The word of a region offset; none outside the region. -/
def regionPlace (r : Region) (o : Nat) : Option Place :=
  if o < r.size then
    if r.hbm && !r.bankLocal then
      let line := o / 256
      let np := r.extents.length
      (r.extents[line % np]?).map fun e => channelPlace r e (line / np * 256 + o % 256)
    else
      (r.extents[o / r.share]?).map fun e =>
        if r.hbm then channelPlace r e (o % r.share) else sharePlace r e (o % r.share)
  else none

/-- The region's extent on a site, for share addresses (R202). -/
def extentOn (r : Region) (site : Nat) : Option Extent := if r.hbm then none else r.extents.find? (·.unit == site)

/-- The region offset of share offset `x` on a site. -/
def shareToRegion (r : Region) (site x : Nat) : Option Nat :=
  if r.hbm || r.share ≤ x then none else (r.extents.findIdx? (·.unit == site)).map fun k => k * r.share + x

/-- A span lies within a tenant's region. -/
def spanIn (s : State) (t a len : Nat) : Bool :=
  match region? s t (regionOf a) with
  | none => false
  | some r => offsetOf a + len ≤ r.size

/-! ## Spans of memory -/

/-- What a span read gives. -/
inductive Span where
  | bytes (l : List Byte)
  | prot
  | bad (reason : Nat)
deriving DecidableEq, Repr

/-- Read `n` words from word-aligned region offset `o` on, for a requester; the first uncorrectable word ends it. -/
def readLines (t rn : Nat) (r : Region) (req : Req) : Nat → State → Nat → Span × State
  | 0, s, _ => (.bytes [], s)
  | n + 1, s, o =>
    match regionPlace r o with
    | none => (.prot, s)
    | some p =>
      match readPlace s p req t (2 ^ 48 * rn + o) with
      | (.bad k, s) => (.bad k, s)
      | (.data d, s) =>
        match readLines t rn r req n s (o + 32) with
        | (.bytes l, s) => (.bytes (lineBytes d ++ l), s)
        | x => x

/-- Read `len` bytes at a region address. -/
def readSpan (s : State) (t a len : Nat) (req : Req) : Span × State :=
  match region? s t (regionOf a) with
  | none => (.prot, s)
  | some r =>
    let o := offsetOf a
    if o + len ≤ r.size then
      let first := o / 32 * 32
      match readLines t (regionOf a) r req ((o % 32 + len + 31) / 32) s first with
      | (.bytes l, s) => (.bytes ((l.drop (o % 32)).take len), s)
      | x => x
    else (.prot, s)

/-- Write bytes from a region offset on, word by word; the reason is the first uncorrectable one met. -/
def writeChunks (t rn : Nat) (r : Region) (req : Req) : Nat → State → Nat → List Byte → Option Nat → Option Nat × State
  | 0, s, _, _, e => (e, s)
  | n + 1, s, o, bs, e =>
    if bs.isEmpty then (e, s) else
    let k := min (32 - o % 32) bs.length
    match regionPlace r o with
    | none => (e, s)
    | some p =>
      match writePart s p (o % 32) (bs.take k) req t (2 ^ 48 * rn + o) with
      | (.bad x, s) => writeChunks t rn r req n s (o + k) (bs.drop k) (some (e.getD x))
      | (.data _, s) => writeChunks t rn r req n s (o + k) (bs.drop k) e

/-- What a span write comes to. -/
inductive Wrote where
  | ok
  | prot
  | bad (reason : Nat)
deriving DecidableEq, Repr

/-- Write bytes at a region address for a requester. -/
def writeSpan (s : State) (t a : Nat) (bs : List Byte) (req : Req) : Wrote × State :=
  match region? s t (regionOf a) with
  | none => (.prot, s)
  | some r =>
    if offsetOf a + bs.length ≤ r.size then
      match writeChunks t (regionOf a) r req (bs.length + 1) s (offsetOf a) bs none with
      | (none, s) => (.ok, s)
      | (some k, s) => (.bad k, s)
    else (.prot, s)

/-- Fill `n` words from offset `o` on with a pattern; words of a unit out of service are not written, and each is a
delivery of UNIT_OUT (R382, R383). The flag says whether every word was written. -/
def fillWords (t rn : Nat) (r : Region) (pat : Line) : Nat → State → Nat → Bool × State
  | 0, s, _ => (true, s)
  | n + 1, s, o =>
    match regionPlace r o with
    | none => (false, s)
    | some p =>
      if placeOut s p then
        (false, (fillWords t rn r pat n (noteRead s p 11 t (2 ^ 48 * rn + o)) (o + 32)).2)
      else fillWords t rn r pat n (writeWord s p pat 11) (o + 32)

/-- Every word of a chunk maps to a unit in service. -/
def chunkLive (s : State) (r : Region) (c : Nat) : Bool :=
  (List.range 2048).all fun i =>
    match regionPlace r (65536 * c + 32 * i) with
    | none => false
    | some p => !placeOut s p

/-- The chunks that a span covers entirely (R237). -/
def wholeChunks (o len : Nat) : List Nat :=
  (List.range ((o + len) / 65536)).filter fun c => o ≤ 65536 * c

/-- region.fill and FILL: write the pattern and set INIT bits (R237, R382). True when every word was written. -/
def fillSpan (s : State) (t rn o len : Nat) (pat : Line) : Bool × State :=
  match region? s t rn with
  | none => (false, s)
  | some r =>
    let (all, s') := fillWords t rn r pat (len / 32) s o
    let cs := (wholeChunks o len).filter (chunkLive s r)
    (all, setRegion s' t rn { r with init := r.init ++ cs.filter fun c => !r.init.contains c })

/-! ## Staging SRAM (R180, R181, R183) -/

/-- Units of 8 bytes of a list that meet a staging range. -/
def unitsIn (l : List Nat) (a n : Nat) : List Nat := l.filter fun u => u * 8 < a + n && a < u * 8 + 8

/-- A unit of 8 bytes in a staging range has an uncorrectable error. -/
def stagingUe (h : Hearth) (a n : Nat) : Bool := h.stagingBad.any fun u => u * 8 < a + n && a < u * 8 + 8

/-- What words of a staging range held before items wrote them that the reader overtook (R178). -/
def oldStaging (h : Hearth) (site a n : Nat) (r : Req) : List Race :=
  match r.item with
  | some (x, q, num) => if x = site then
      h.races.filter fun e => decide (32 * e.word < a + n) && decide (a < 32 * e.word + 32) && overtakes h q num e.queue e.num else []
  | none => []

/-- Staging bytes from a word boundary on, each word that may be old taken old or new by a free choice of its own (R178). -/
def mixStaging (base : Nat) (bs : List Byte) : List Race → State → List Byte × State
  | [], s => (bs, s)
  | e :: l, s =>
    mixStaging base (if Config.freeBool s.free then splice bs (32 * e.word - base) (lineBytes e.line) else bs) l (bumpFree s)

/-- The bytes of a staging range as a requester sees them. -/
def seeStaging (s : State) (site a n : Nat) (r : Req) : List Byte × State :=
  let h := hearth s site
  let s' := if h.staging.unlisted.isNone then bumpFree s else s
  match oldStaging h site a n r with
  | [] => (h.staging.read s.free a n, s')
  | es =>
    let base := a / 32 * 32
    let x := mixStaging base (h.staging.read s.free base ((a + n - base + 31) / 32 * 32)) es s'
    ((x.1.drop (a - base)).take n, x.2)

/-- Read staging for a requester: a correctable unit is corrected and counted; an uncorrectable one gives none, with the records of R383
for the first such word (R181). -/
def stRead (s : State) (site a n : Nat) (r : Req) : Option (List Byte) × State :=
  let h := hearth s site
  let s := countAt s 0x009 site ((n + 31) / 32)
  let soft := (unitsIn h.stagingSoft a n).length
  let s := if soft = 0 then s else countAt s 0x00B site soft
  match unitsIn h.stagingBad a n with
  | [] => let x := seeStaging s site a n r; (some x.1, x.2)
  | u :: us =>
    let tag := (ownerOf s site).getD 0
    let d := detail [(0, 8, 2 ^ 64 - 1), (8, 4, us.foldl min u / 4), (12, 2, 0xFFFF), (14, 1, r.code)]
    (none, raiseAsh (countAt s 0x00C site 1) 2 site tag 5 d (adminAnd (ownerOf s site)) [])

/-- Pages a staging range touches. -/
def pagesOf (a n : Nat) : List Nat := if n = 0 then [] else (List.range ((a + n - 1) / 4096 - a / 4096 + 1)).map (· + a / 4096)

/-- The words of a staging range that an item writes are kept as they were before, once for the item (R178). -/
def logStaging (free site a n : Nat) (r : Req) (h : Hearth) : Hearth :=
  match r.item with
  | some (x, q, num) =>
    if x ≠ site ∨ q = 16 ∨ n = 0 then h
    else
      let ws := ((List.range ((a + n - 1) / 32 - a / 32 + 1)).map (· + a / 32)).filter fun w =>
        !h.races.any fun e => e.queue == q && e.num == num && e.word == w
      { h with races := h.races ++ ws.map fun w =>
        { queue := q, num := num, word := w, line := bytesLine (h.staging.read free (32 * w) 32) } }
  | none => h

/-- The 8-byte units that a staging range covers whole. -/
def unitWithin (a n u : Nat) : Bool := a ≤ u * 8 && u * 8 + 8 ≤ a + n

/-- Write staging; the pages written lose their weight marking (R183), whole units their errors. -/
def stWrite (s : State) (site a : Nat) (bs : List Byte) (r : Req) : State :=
  let n := bs.length
  modHearth (countAt s 0x00A site ((n + 31) / 32)) site fun h =>
    { logStaging s.free site a n r h with
        staging := h.staging.write a bs,
        stagingBad := h.stagingBad.filter fun u => !unitWithin a n u,
        stagingSoft := h.stagingSoft.filter fun u => !unitWithin a n u,
        weightPages := h.weightPages.filter fun p => !(pagesOf a n).contains p.1 }

/-! ## Mesh request tags (R179, R330, R331) -/

/-- Tags in use, and free ones of the 256. -/
def tagsUsed (h : Hearth) : Nat := h.tags.foldl (fun n t => n + t.count) 0
def tagsFree (h : Hearth) : Nat := 256 - tagsUsed h

/-- The word at a region address lies outside the hearth. -/
def leaves (s : State) (t site a : Nat) : Bool :=
  match (region? s t (regionOf a)).bind fun r => regionPlace r (offsetOf a) with
  | none => false
  | some p => p.hbm || p.unit != site

/-- A word of a span lies outside the hearth. -/
def spanLeaves (s : State) (t site a len : Nat) : Bool :=
  (List.range ((a % 32 + len + 31) / 32)).any fun i => leaves s t site (a / 32 * 32 + 32 * i)

/-- A request for a span finds a tag, if it needs one. -/
def tagFor (s : State) (t site a len : Nat) : Bool := !spanLeaves s t site a len || decide (0 < tagsFree (hearth s site))

/-- An item holds tags for some of the `need` requests that leave the hearth, as many at a time as are free; how many it has out at once
is not stated and is free (log entry 42). -/
def takeTags (s : State) (site q num need : Nat) : State :=
  if need = 0 then s
  else bumpFree (modHearth s site fun h =>
    { h with tags := h.tags ++ [{ queue := q, num := num, abandoned := false, sent := 0,
                                  count := min (tagsFree h) (1 + (Config.freeWord s.free).toNat % min need 256) }] })

/-- The responses of an item have come: its tags are free. -/
def freeTags (s : State) (site q num : Nat) : State :=
  modHearth s site fun h => { h with tags := h.tags.filter fun t => !(t.queue == q && t.num == num && !t.abandoned) }

/-- Requests of a stopped engine of the queue are outstanding. -/
def awaited (h : Hearth) (q : Nat) : Bool := h.tags.any fun t => t.queue == q && t.abandoned

/-- Their responses come: they are accepted and discarded, and the tags are free (R331). -/
def discardResponses (s : State) (site q : Nat) : State :=
  modHearth s site fun h => { h with tags := h.tags.filter fun t => !(t.queue == q && t.abandoned) }

/-- The engines of a hearth stop: what they have outstanding stays so (R331). -/
def abandonTags (h : Hearth) : List TagUse := h.tags.map fun t => { t with abandoned := true }

/-! ## Host memory (R467) -/

/-- Read host memory; a read that completes with an error status is reason 6, a code of the model's own. -/
def hostRead (s : State) (tag a n : Nat) : Span × State :=
  if s.mem.hostBad.any fun p => p * 4096 < a + n && a < p * 4096 + 4096 then (.bad 6, s)
  else (.bytes (s.mem.host.read s.free a n), countT (bumpFree s) 0xC0A tag ((n + 31) / 32))

def hostWrite (s : State) (tag a : Nat) (bs : List Byte) : State :=
  countT (modMem s fun m => { m with host := m.host.write a bs }) 0xC0B tag ((bs.length + 31) / 32)

/-! ## Rings (R144) -/

/-- A ring base in HBM: region number and offset; in host memory a bus address. -/
def ringRead (s : State) (t : Nat) (hbm : Bool) (base : Word) (off n : Nat) (req : Req) : Span × State :=
  if hbm then readSpan s t (base.toNat + off) n req else hostRead s t (base.toNat + off) n

def ringWrite (s : State) (t : Nat) (hbm : Bool) (base : Word) (off : Nat) (bs : List Byte) : Wrote × State :=
  if hbm then writeSpan s t (base.toNat + off) bs 6 else (.ok, hostWrite s t (base.toNat + off) bs)

/-- Every word of a span of whole words is in service. -/
def spanLive (s : State) (t a len : Nat) : Bool :=
  match region? s t (regionOf a) with
  | none => false
  | some r => (List.range ((len + 31) / 32)).all fun i =>
      match regionPlace r (offsetOf a + 32 * i) with
      | none => false
      | some p => !placeOut s p

/-- Post a record to a ring. In HBM it is written in whole words, or lost when one maps to a unit out of service; in host
memory it is lost while the part may not write there (R165, R392, R467). -/
def ringPost (s : State) (t : Nat) (hbm : Bool) (base : Word) (off : Nat) (bs : List Byte) : Bool × State :=
  if hbm then
    if spanLive s t (base.toNat + off) bs.length then (true, (ringWrite s t hbm base off bs).2) else (false, s)
  else if hostReachable s t then (true, (ringWrite s t hbm base off bs).2) else (false, s)

/-! ## Floor Plan Table bytes (R31-R42) -/

def SiteState.code : SiteState → Nat | .disabled => 0 | .partialCap => 1 | .full => 2 | .retired => 3

/-- A site record's 32 bytes (R35). -/
def SiteRec.bytes (r : SiteRec) : List Byte :=
  leBytes 1 r.state.code ++ leBytes 1 0 ++ leBytes 1 r.quad.toNat ++ leBytes 1 0 ++ leBytes 2 r.lane.toNat ++
    leBytes 2 0 ++ leBytes 4 r.ember.toNat ++ leBytes 4 0 ++ leBytes 16 r.bank.toNat

def LinkRec.groups (r : LinkRec) : Nat := ones r.groupMask
def LinkRec.down (r : LinkRec) : Bool := r.groups < 8

/-- A link record's 16 bytes (R40, R41). -/
def LinkRec.bytes (id : Nat) (r : LinkRec) : List Byte :=
  leBytes 1 id ++ leBytes 1 r.level ++ leBytes 1 r.groups ++ leBytes 1 (b2n r.down) ++ leBytes 4 r.groupMask.toNat ++
    leBytes 8 r.spareMap.toNat

def FptTable.site (t : FptTable) (i : Nat) : SiteRec := lookD .allFull t.sites i

def FptTable.countState (t : FptTable) (st : SiteState) (fb : Nat) : Nat :=
  ((List.range 100).filter fun i => (t.site (100 * fb + i)).state == st).length

def FptTable.linkBytes (t : FptTable) : List Byte := t.flue0.bytes 0 ++ t.flue1.bytes 1 ++ t.bridge.bytes 2

/-- The header's 64 bytes (R33). -/
def FptTable.header (t : FptTable) : List Byte :=
  leBytes 4 0x31545046 ++ leBytes 2 1 ++ leBytes 2 64 ++ leBytes 8 t.generation ++ leBytes 4 6552 ++ leBytes 2 200 ++
    leBytes 2 32 ++ leBytes 4 0x40 ++ leBytes 4 0x1940 ++ leBytes 4 0x1970 ++ leBytes 1 (t.countState .full 0) ++
    leBytes 1 (t.countState .full 1) ++ leBytes 1 (t.countState .partialCap 0) ++
    leBytes 1 (t.countState .partialCap 1) ++ leBytes 8 t.publishedAt ++ leBytes 1 t.lastCause ++ leBytes 1 0 ++
    leBytes 2 t.lastSite ++ leBytes 12 0

/-- The table without its CRC (R31). -/
def FptTable.body (t : FptTable) : List Byte :=
  t.header ++ (List.range 200).flatMap (fun i => (t.site i).bytes) ++ t.linkBytes ++ leBytes 32 t.hbmMask.toNat ++
    leBytes 4 0

/-- The 6,552 bytes of the table (R31, R32). -/
def FptTable.image (t : FptTable) : List Byte := t.body ++ leBytes 4 (crc32c t.body).toNat

/-- CRC of the 48 bytes of link records (R118). -/
def FptTable.linkCrc (t : FptTable) : BitVec 32 := crc32c t.linkBytes

end Sys2Proof.Machine
end

