-- ==== Sys2Proof/Machine/Flags.lean ====
section
/-! DEFINITION. Every status register and flag word as the manual's tables lay it out, and what a register read
returns in each device state (R123, R124, R126, R151, R365, R372, R388, R420, R431, R442, R459, R53, R78). -/

namespace Sys2Proof.Machine

/-- Fields placed at bit positions. -/
def pack (fs : List (Nat × Nat)) : Nat := fs.foldl (fun n f => n + f.2 * 2 ^ f.1) 0

def DevState.code : DevState → Nat | .off => 0 | .boot => 1 | .train => 2 | .ready => 3 | .degraded => 4 | .failed => 5

/-- DEV_STATE of a function (R123). -/
def devStateReg (s : State) (fn : Nat) : Nat :=
  if fn = 0 then pack [(0, s.dev.state.code), (8, s.dev.step), (16, b2n s.dev.fast), (17, b2n s.dev.slotB), (24, s.dev.cause)]
  else s.dev.state.code

def LinkState.code : LinkState → Nat | .up => 0 | .retraining => 1 | .detour => 2 | .down => 3

def link (s : State) (l : Nat) : Link :=
  if l = 0 then s.fabric.link0 else if l = 1 then s.fabric.link1 else s.fabric.link2

/-- The record of a link in the table. -/
def linkRec (t : FptTable) (l : Nat) : LinkRec := if l = 0 then t.flue0 else if l = 1 then t.flue1 else t.bridge

/-- What a link change does to a link's record (R40, R41). -/
def LinkRec.apply (r : LinkRec) (l : Nat) : FieldUnit → LinkRec
  | .linkSpare l' g n =>
    if l' = l ∧ r.groupMask.getLsbD g then
      { r with spareMap := r.spareMap + BitVec.ofNat 64 (min n (2 - r.spareMap.toNat / 4 ^ g % 4) * 4 ^ g) } else r
  | .linkNarrow l' g =>
    if l' = l then { r with groupMask := setBit r.groupMask g false, spareMap := r.spareMap ||| (3#64 <<< (2 * g)) } else r
  | _ => r

/-- The link as it runs now: its record, and the changes that wait for their publication (R353 step 4). -/
def linkNow (s : State) (l : Nat) : LinkRec :=
  match s.fpt.table with
  | none => { level := 0, groupMask := 0, spareMap := 0 }
  | some t => s.fpt.waiting.foldl (fun r c => r.apply l c.unit) (linkRec t l)

/-- Groups of a link in service, ascending, and their number. -/
def groupsNow (s : State) (l : Nat) : List Nat := bits (linkNow s l).groupMask
def activeGroups (s : State) (l : Nat) : Nat := (linkNow s l).groups

/-- DEV_LINKS (R365); the fields read zero before TRAIN step 7, and in a VF. -/
def devLinksReg (s : State) (fn : Nat) : Nat :=
  if fn ≠ 0 || !s.fabric.link2.trained then 0
  else pack [(0, s.fabric.link0.state.code), (2, s.fabric.link1.state.code), (4, s.fabric.link2.state.code),
    (12, activeGroups s 0), (18, activeGroups s 1), (24, activeGroups s 2)]

/-- APPROVED: firmware 4.2.x, TESTED, SVC_FAIL zero (R443). -/
def approved (s : State) : Bool :=
  (match s.dev.image with | some i => i.major == 4 && i.minor == 2 | none => false) && s.sec.tested && s.sec.svcFail == 0

/-- DEV_SECURITY (R442). -/
def devSecurityReg (s : State) : Nat :=
  pack [(0, b2n (approved s)), (1, b2n s.sec.tested), (2, b2n s.sec.zeroised), (8, s.sec.svcFail.toNat)]

/-- MBX_STATUS (R126). -/
def mbxStatusReg (m : Mbx) : Nat :=
  pack [(0, b2n m.resetting), (1, b2n m.urgBusy), (2, b2n m.urgOverrun), (3, b2n m.piError), (8, m.level)]

def QueueState.code : QueueState → Nat | .absent => 0 | .active => 1 | .draining => 2

/-- DBL_Q_STATE (R151). -/
def qStateReg (q : Queue) : Nat := pack [(0, q.state.code), (2, b2n q.indexError), (16, q.inflight)]

/-- Dispatches of a tenant in flight (R332). -/
def inflightOf (s : State) (t : Nat) : Nat := (s.work.disps.filter (·.tenant == t)).length

/-- DBL_TENANT_STATE (R151). RESETTING lasts only within one command. -/
def tenantStateReg (s : State) (t : Nat) : Nat :=
  let x := tenant s t
  pack [(0, if x.alive then (if x.halted then 2 else 1) else 0), (4, x.phase), (8, inflightOf s t)]

/-- FPT_STATUS (R53). -/
def fptStatusReg (s : State) : Nat :=
  pack [(0, b2n s.fpt.updating), (1, b2n s.fpt.persistPending), (2, b2n s.fpt.persistFail), (3, b2n s.fpt.changed)]

/-- FPT_GENERATION (R53). -/
def fptGenReg (s : State) : Nat := if s.fpt.published then (match s.fpt.table with | some t => t.generation | none => 0) else 0

/-- SMBus STATUS (R78). -/
def statusByte (s : State) : Nat :=
  pack [(0, s.dev.state.code), (3, b2n s.ao.tripLatched), (4, b2n s.ao.coolOk), (5, b2n s.ao.pwrGood),
    (6, b2n s.ao.writeRejected), (7, b2n s.ao.retrying)]

/-- SMB_ALERT_N is driven low when STATUS bits [6:3] change (R77). -/
def alertOn (before after : State) : State :=
  if statusByte before / 8 % 16 = statusByte after / 8 % 16 then after else modAo after fun a => { a with smbAlert := true }

/-- R_EST in mK/W with 16 fractional bits (R403), rounded to nearest. -/
def rEstReg (v : BitVec 32) : Nat :=
  match dec32 v with
  | .fin false m e => (roundInt false (m * 65536000) e).toNat % 2 ^ 32
  | _ => 0

/-- A DRAUGHT record, and vector 3 of function 0 (R403, R421). -/
def draughtRecord (s : State) (event : Nat) (began : Bool) (site temp : Nat) : State :=
  let d := detail [(0, 1, event), (1, 1, b2n began), (2, 2, site), (4, 2, temp), (6, 2, s.ao.inlet.toNat),
    (8, 2, s.ao.flow.toNat), (10, 2, s.draught.measured / 1000), (12, 2, s.draught.cap), (16, 4, rEstReg s.draught.rEst)]
  raiseVector (raiseAsh s 0x30 0x402 0 0 d [0] [0]) 0 3

/-- DRT_STATUS (R420). -/
def drtStatusReg (s : State) : Nat :=
  pack [(0, b2n s.ao.coolOk), (1, b2n s.draught.balance), (2, b2n (!s.draught.ceiling.isEmpty)),
    (3, b2n s.draught.thermalLimit), (4, b2n (s.draught.bank > 0)), (5, b2n s.draught.trayLost)]

/-- BANKING_J in whole joules, rounded down (R413): a mW drawn for 100 us is 10^-7 J. -/
def bankingJ (s : State) : Nat := s.draught.banked / 10 ^ 7

def window (s : State) (fn w : Nat) : Window := lookD .reset s.counters.windows (64 * fn + w)

/-! ## Events and windows (R424-R429) -/

/-- Attribution of an event (R425). -/
inductive Attr where | owner | tag | none_
deriving DecidableEq, Repr

/-- The catalogue (R426, R427): the attribution of an event number, none when it is reserved. -/
def eventAttr (e : Nat) : Option Attr :=
  let c := e / 256
  let i := e % 256
  if c = 0 then (if i < 16 then some .owner else none)
  else if c = 1 then (if 16 ≤ i then none else if 4 ≤ i ∧ i < 8 then some .none_ else some .owner)
  else if c = 2 then (if 0x28 ≤ i then none else if (0x18 ≤ i ∧ i < 0x20) ∨ 0x25 ≤ i then some .none_ else some .owner)
  else if c = 3 ∨ c = 4 then (if i < 16 then some .owner else none)
  else if c = 5 then
    (if 0x18 ≤ i then none else if i ≤ 0xA then some .tag else if i = 0xB ∨ i = 0x16 ∨ i = 0x17 then some .none_ else some .owner)
  else if c = 8 then (if i < 0x1F then some .tag else if i = 0x1F then some .none_ else none)
  else if c = 9 then (if 0x40 ≤ i then none else if i % 8 ≤ 5 then some .tag else some .none_)
  else if c = 0xA then
    (if 0x30 ≤ i then none else if i % 16 ≤ 1 ∨ i % 16 = 12 ∨ i % 16 = 13 ∨ i % 16 = 15 then some .tag else some .none_)
  else if c = 0xB then (if 0x20 ≤ i then none else if i % 8 ≤ 2 ∨ i % 8 = 5 ∨ i % 8 = 6 then some .tag else some .none_)
  else if c = 0xC then
    (if 0x10 ≤ i then none else if i ≤ 5 ∨ i = 0xA ∨ i = 0xB ∨ i = 0xE then some .tag else some .none_)
  else if c = 0xD then (if i < 0x20 then some .tag else none)
  else if c = 0xE then (if i < 0x20 then some .none_ else none)
  else none

/-- Hearth events are counted at each site (R424). -/
def hearthEvent (e : Nat) : Bool := e / 256 < 8

/-- A window of a share shows what a site with this owner counts: O events, and T events over every owned site; a U event
has no share. -/
def Window.follows (w : Window) (owner : Option Nat) : Bool :=
  if eventAttr w.event = some .none_ ∧ w.share ≠ 0 then false
  else if w.site ≠ 0xFFFF ∧ eventAttr w.event ≠ some .owner then true
  else if w.share = 0 then true
  else if w.share = 0xFF then (if eventAttr w.event = some .owner then owner.isNone else true)
  else owner == some w.share

/-- The count that a window shows of one site (255: the flue die). -/
def Counters.shown (c : Counters) (w : Window) (site : Nat) : Nat :=
  if w.share = 0 ∨ eventAttr w.event ≠ some .tag then lookD 0 c.raw (256 * w.event + site)
  else lookD 0 c.shares (32 * (256 * w.event + site) + (if w.share = 0xFF then 31 else w.share))

/-- What a window does when a site's owner changes: a contribution is fixed or begins (R429). -/
def Counters.reown (c : Counters) (site : Nat) (before after : Option Nat) (w : Window) : Window :=
  if !(w.selected && hearthEvent w.event && (w.site == site || w.site == 0xFFFF)) then w
  else if w.follows before && !w.follows after then
    match look w.baselines site with
    | none => w
    | some b => { w with baselines := del w.baselines site, frozen := (w.frozen + c.shown w site + 2 ^ 48 - b) % 2 ^ 48 }
  else if !w.follows before && w.follows after then { w with baselines := put w.baselines site (c.shown w site) }
  else w

/-- A site changes hands (R149, R464). -/
def setOwner (s : State) (site : Nat) (new : Option Nat) : State :=
  let old := ownerOf s site
  let s := modCounters s fun c => { c with windows := c.windows.map fun w => (w.1, c.reown site old new w.2) }
  { s with work := { s.work with owner := match new with | some t => put s.work.owner site t | none => del s.work.owner site } }

/-- Units Sweep counts passes for: banks and pseudo-channels in service. -/
def sweepUnits (s : State) : List Nat :=
  ((List.range 25600).filter fun k => bankLive s (k / 128) (k % 128)) ++
    ((List.range 256).filter (channelLive s)).map (· + 25600)

/-- PASSES: the lowest count among the units (R372). -/
def passesReg (s : State) : Nat :=
  match sweepUnits s with
  | [] => 0
  | k :: t => t.foldl (fun m k => min m (lookD 0 s.mem.passes k)) (lookD 0 s.mem.passes k)

/-- Value of the DEV_ block (R123, R365, R442, R459); `half` 0 low, 4 high of a 64-bit register. -/
def devReg (s : State) (fn off : Nat) : Nat :=
  if off = 0 then devStateReg s fn else if off = 8 then s.dev.changedAt else if off = 0x10 then devLinksReg s fn
  else if off = 0x18 then devSecurityReg s
  else if off = 0x20 then (if fn = 0 then s.epoch.generation else 0)
  else if off = 0x28 then (if fn = 0 then b2n s.epoch.mixed else 0) else 0

/-- Value of the MBX_ registers (R126). -/
def mbxReg (m : Mbx) (off : Nat) : Nat :=
  if off = 0 then m.reqPi else if off = 4 then m.reqCi else if off = 8 then m.rspPi else if off = 0xC then m.rspCi
  else if off = 0x10 then b2n m.irqEn else if off = 0x14 then mbxStatusReg m
  else if 0x1000 ≤ off ∧ off < 0x1100 then leNat (m.urg.read 0 (off - 0x1000) 4)
  else if 0x4000 ≤ off ∧ off < 0x8000 then leNat (m.req.read 0 (off - 0x4000) 4)
  else if 0x8000 ≤ off ∧ off < 0xC000 then leNat (m.rsp.read 0 (off - 0x8000) 4) else 0

/-- Value of a VF's DBL_ registers (R149, R151). -/
def dblReg (s : State) (fn off : Nat) : Nat :=
  if fn = 0 then 0
  else if off < 0x8000 then
    let q := queue s fn (off / 0x200)
    let r := off % 0x200
    if q.state = .absent then 0
    else if r = 0 then q.sqTail else if r = 8 then q.sqHead else if r = 0x10 then q.cqHead else if r = 0x18 then q.cqTail
    else if r = 0x20 then qStateReg q else 0
  else if off < 0x8800 then (lookD 0 (tenant s fn).signals ((off - 0x8000) / 8)).toNat
  else if off = 0xA000 then tenantStateReg s fn else 0

/-- Value of a window register (R431); FRESH says the snapshot is at most 20 us old, CTW_TIME is of the snapshot last read (R432). -/
def ctwReg (time : Nat) (w : Window) (off : Nat) : Nat :=
  if off = 0 then (if w.selected then w.value + b2n (w.fresh && decide (time ≤ w.snapAt + 20000)) * 2 ^ 63 else 0)
  else if off = 8 then (if w.selected then w.timeLatch.getD w.snapAt else 0)
  else if off = 0x10 then
    (if w.selected then pack [(0, w.event), (12, w.site % 256), (20, w.share), (31, 1)] else 0) else 0

/-- Value of the ASH_ block (R388). -/
def ashReg (r : AshRing) (off : Nat) : Nat :=
  if off = 0 then r.pi else if off = 4 then r.ci
  else if off = 8 then pack [(0, b2n r.placed), (1, b2n r.ciError), (2, b2n r.loss)]
  else if off = 0xC then b2n r.irqEn
  else if 0x40 ≤ off ∧ off < 0x60 then lookD 0 r.lost ((off - 0x40) / 4) else 0

/-- A map entry of R420: 0x8000 for a disabled or retired site. -/
def drtMap (s : State) (site : Nat) (v : BitVec 16) : Nat :=
  if (siteRec s site).state == .full || (siteRec s site).state == .partialCap then v.toNat else 0x8000

/-- Value of the DRT_ registers (R420); the maps hold 16-bit entries, read two at a time. -/
def drtReg (s : State) (off : Nat) : Nat :=
  if off = 0 then drtStatusReg s else if off = 8 then pack [(0, s.draught.lTh), (16, s.draught.cap)]
  else if off = 0xC then pack [(0, s.draught.powerAvg), (16, s.draught.floor / 1000)]
  else if off = 0x10 then rEstReg s.draught.rEst else if off = 0x18 then bankingJ s
  else if off = 0x20 then pack [(0, s.draught.half10k), (32, s.draught.half30k)]
  else if off = 0x28 then pack [(0, s.ao.inlet.toNat), (16, s.ao.outlet.toNat), (32, s.ao.flow.toNat)]
  else if 0x100 ≤ off ∧ off < 0xD80 then
    let i := (off - 0x100) / 2
    drtMap s (i / 8) (lookD 0 s.draught.layerMap i) + 65536 * drtMap s ((i + 1) / 8) (lookD 0 s.draught.layerMap (i + 1))
  else if 0xD80 ≤ off ∧ off < 0xF10 then
    let i := (off - 0xD80) / 2
    drtMap s i (lookD 0 s.draught.logicMap i) + 65536 * drtMap s (i + 1) (lookD 0 s.draught.logicMap (i + 1))
  else 0

/-- Value of the SWP_ registers (R372). -/
def swpReg (s : State) (off : Nat) : Nat :=
  if off = 0 then s.mem.passMin else if off = 8 then passesReg s
  else if off = 0x10 then pack [(0, s.mem.erasures.length), (16, s.mem.repairs.length)] else 0

/-- Value of the FPT_ registers and image (R53). -/
def fptReg (s : State) (off : Nat) : Nat :=
  if off = 0 then fptGenReg s else if off = 8 then fptStatusReg s
  else if 0x1000 ≤ off ∧ off < 0x3000 then
    match s.fpt.table with
    | some t => if s.fpt.published then leNat (slice t.image (off - 0x1000) 4) else 0
    | none => 0
  else 0

/-- The boot ROM serves alone: CAUSE NO_FIRMWARE (R112). -/
def bootRomOnly (s : State) : Bool := s.dev.state == .failed && s.dev.cause == 1

/-- A byte of the MSI-X table of `n` vectors: as written, with the mask bit of each entry's vector control; above the entries
it reads zero (R73, R75). -/
def msixByte (n : Nat) (f : PcieFn) (a : Nat) : Byte :=
  if 16 * n ≤ a then 0#8
  else if a % 16 = 12 then
    BitVec.ofNat 8 ((f.table.byte 0 a).toNat / 2 * 2 + b2n (!f.unmasked.contains (a / 16)))
  else f.table.byte 0 a

/-- The MSI-X table and PBA of `n` vectors (R73). -/
def msixReg (n : Nat) (f : PcieFn) (off : Nat) : Nat :=
  if off < 0x8000 then leNat ((List.range 4).map fun i => msixByte n f (off + i))
  else if off < 0x9000 then
    let v := 8 * (off - 0x8000)
    pack ((List.range 32).map fun i => (i, b2n (decide (v + i < n) && f.pending.contains (v + i))))
  else 0

/-- What a register at a BAR0 offset holds, by function and device state (R73, R124). -/
def regValue (s : State) (fn off : Nat) : Nat :=
  if s.dev.state = .off then 0
  else if off < 0x1000 then devReg s fn off
  else if 0x10000 ≤ off ∧ off < 0x20000 then
    if s.dev.state = .boot ∨ (bootRomOnly s ∧ fn ≠ 0) then 0 else mbxReg (mbx s fn) (off - 0x10000)
  else if 0x20000 ≤ off ∧ off < 0x30000 then (if live s then dblReg s fn (off - 0x20000) else 0)
  else if 0x30000 ≤ off ∧ off < 0x40000 then
    let w := (off - 0x30000) / 32
    if live s ∧ w < (if fn = 0 then 64 else 16) then ctwReg (now s) (window s fn w) (off % 32) else 0
  else if 0x40000 ≤ off ∧ off < 0x41000 then (if live s then ashReg (ashRing s fn) (off - 0x40000) else 0)
  else if 0x50000 ≤ off ∧ off < 0x59000 then msixReg (vectors fn) (pcieFn s fn) (off - 0x50000)
  else if fn ≠ 0 then 0
  else if 0x41000 ≤ off ∧ off < 0x42000 then drtReg s (off - 0x41000)
  else if 0x42000 ≤ off ∧ off < 0x43000 then swpReg s (off - 0x42000)
  else if 0x43000 ≤ off ∧ off < 0x46000 then
    (if s.dev.state = .boot then 0 else fptReg s (off - 0x43000))
  else 0

/-- DBL_SIGNAL of a virtual function, 64 bits wide and RW (R151). -/
def isSignal (fn off : Nat) : Bool := fn != 0 && 0x28000 ≤ off && off < 0x28800 && off % 8 == 0

/-- Windows that hold bytes rather than registers: the mailbox slots, FPT_IMAGE, the MSI-X table and PBA (R53, R73, R126). -/
def isWindow (fn off : Nat) : Bool :=
  (0x11000 ≤ off && off < 0x11100) || (0x14000 ≤ off && off < 0x1C000) || (fn == 0 && 0x44000 ≤ off && off < 0x46000) ||
    (0x50000 ≤ off && off < 0x59000)

/-- Registers that are 64 bits wide and RO: the low half's read latches the high half (R7). -/
def isRo64 (fn off : Nat) : Bool :=
  off == 8 || off == 0x20 ||
    (0x30000 ≤ off && off < 0x30000 + 32 * (if fn = 0 then 64 else 16) && (off % 32 == 0 || off % 32 == 8)) ||
    (fn == 0 && (off == 0x41018 || off == 0x41020 || off == 0x41028 || off == 0x42008 || off == 0x43000))

/-- Change of device state, with its time (R123). -/
def setDevState (s : State) (st : DevState) (cause : Nat) : State :=
  if s.dev.state = st then s
  else modDev s fun d => { d with state := st, cause := cause, changedAt := now s }

end Sys2Proof.Machine
end

