-- ==== Sys2Proof/Machine/Aggregator.lean ====
section
/-! DEFINITION. The counter aggregator's snapshots (19 R429, R432, 15 R337) and the security module's entropy source
(20 R436, R445). -/

namespace Sys2Proof.Machine

/-! ## Snapshots -/

/-- The value that a window shows now (R429). -/
def windowValue (c : Counters) (w : Window) : Nat :=
  w.baselines.foldl (fun n b => (n + c.shown w b.1 + 2 ^ 48 - b.2) % 2 ^ 48) w.frozen % 2 ^ 48

/-- A site's flue link retrains. -/
def pathRetrains (s : State) (site : Nat) : Bool :=
  site < 200 && (if site < 100 then s.fabric.link0 else s.fabric.link1).state == .retraining

/-- A snapshot of the window can arrive: no path to its sources retrains, and the one site it names is in service (R432). -/
def snapshotArrives (s : State) (w : Window) : Bool :=
  !w.baselines.any (fun b => pathRetrains s b.1) && (!hearthEvent w.event || w.site == 0xFFFF || siteLive s w.site)

def snapshot (s : State) (w : Window) : Window :=
  if w.selected && snapshotArrives s w then
    { w with value := windowValue s.counters w, fresh := true, snapAt := now s }
  else w

/-- Every 10 µs the aggregator takes a snapshot of every selected count. -/
def execCounterSnapshot (s : State) : Out :=
  .next <| if live s then modCounters s fun c => { c with windows := c.windows.map fun w => (w.1, snapshot s w.2) } else s

/-! ## The entropy source -/

/-- The entropy service has failed until the next BOOT (R443). -/
def entropyFailed (s : State) : Bool := s.sec.svcFail.getLsbD 4

/-- A run-time health test fails: the start-up tests rerun at once. -/
def execEntropyHealthFail (s : State) : Out :=
  .next <| if s.sec.tested && !entropyFailed s then modSec s fun c => { c with entropyRerun := true } else s

/-- A rerun ends: a pass restores the service, the third failure in a row sets SVC_FAIL bit 12 (bit 4 of the field). -/
def execEntropyRerunDone (pass : Bool) (s : State) : Out :=
  .next <|
    if !s.sec.entropyRerun then s
    else if pass then modSec s fun c => { c with entropyRerun := false, entropyFails := 0 }
    else if s.sec.entropyFails < 2 then modSec s fun c => { c with entropyFails := c.entropyFails + 1 }
    else modSec s fun c => { c with entropyRerun := false, entropyFails := 0, svcFail := setBit c.svcFail 4 true }

/-- After 2^20 generate requests the entropy source seeds the DRBG again. -/
def execDrbgReseed (s : State) : Out :=
  .next <|
    if s.sec.drbgSeeded && decide (2 ^ 20 ≤ s.sec.drbgRequests) && !s.sec.entropyRerun && !entropyFailed s then
      modSec s fun c => { c with drbgRequests := 0 }
    else s

end Sys2Proof.Machine
end

