-- ==== Sys2Proof/Machine/Routes.lean ====
section
/-! DEFINITION. The routing graph, reachability, normal and escape routes (14 R310, R314-R317). Sets of site nodes
are taken as 200-bit masks while they are computed. -/

namespace Sys2Proof.Machine

/-- A set of site nodes. -/
abbrev Nodes := BitVec 200

def nodesOf (l : List Nat) : Nodes := l.foldl (fun m i => setBit m i true) 0

/-- Every site of a column, of row 0, of a firebox. -/
def colNodes (c : Nat) : Nodes := nodesOf ((List.range 20).map fun r => 10 * r + c)
def row0Nodes (fb : Nat) : Nodes := 1023#200 <<< (100 * fb)
def fbNodes (fb : Nat) : Nodes := (BitVec.ofNat 200 (2 ^ 100 - 1)) <<< (100 * fb)

/-- Row-0 sites that have an edge to F (R314). -/
def Graph.gates (g : Graph) : Nodes :=
  nodesOf g.nodes &&& ((if g.flue0 then row0Nodes 0 else 0) ||| (if g.flue1 then row0Nodes 1 else 0))

/-- Site nodes with an edge to a node of `m`: grid neighbours, and across the bridge (R314). -/
def Graph.near (g : Graph) (m : Nodes) : Nodes :=
  let a := m &&& fbNodes 0
  let b := m &&& fbNodes 1
  let col0 := colNodes 0
  let col9 := colNodes 9
  let rows := ((a <<< 10) &&& fbNodes 0) ||| (a >>> 10) ||| (b <<< 10) ||| ((b >>> 10) &&& fbNodes 1)
  let cols := ((m &&& ~~~col9) <<< 1) ||| ((m &&& ~~~col0) >>> 1)
  let cross := if g.bridge then (((a &&& col0) <<< 100) ||| ((b &&& col0) >>> 100)) else 0
  (rows ||| cols ||| cross) &&& nodesOf g.nodes

/-- Breadth-first levels over site nodes from a set on, nearest first, at most `fuel` of them. -/
def Graph.levels (g : Graph) : Nat → Nodes → Nodes → List Nodes
  | 0, _, _ => []
  | n + 1, seen, front =>
    if front == 0 then [] else
    front :: g.levels n (seen ||| front) (g.near front &&& ~~~(seen ||| front))

/-- Sites that have a path to F (R315). -/
def Graph.reach (g : Graph) : Nodes := (g.levels 200 0 g.gates).foldl (· ||| ·) 0

/-- The Epoch change that leaves the detour runs: messages of the new generation use the bridge, those of the older one the relay
(R363). -/
def leavingDetour (s : State) : Bool :=
  match s.epoch.running with
  | some c => match c.action with | .detourLeave _ _ => true | _ => false
  | none => false

/-- The bridge carries mesh traffic: its record is UP and it is not in detour (R314). -/
def bridgeUp (s : State) (t : FptTable) : Bool :=
  !t.bridge.down && s.fabric.link2.state != .down && (s.fabric.link2.state != .detour || leavingDetour s)

/-- The graph of a table (R314). -/
def graphOf (s : State) (t : FptTable) : Graph :=
  { nodes := (List.range 200).filter fun i => (t.site i).works, flue0 := !t.flue0.down, flue1 := !t.flue1.down,
    bridge := bridgeUp s t }

/-- The graph of the tables in force, and of the older generation's. -/
def graphIn (s : State) : Graph := if s.fabric.bank1 then s.fabric.graph1 else s.fabric.graph0
def graphOld (s : State) : Graph := if s.fabric.bank1 then s.fabric.graph0 else s.fabric.graph1

/-- The router of a site forwards flits: its site is a node of the tables in force, or of the older ones until the running Epoch
change ends (R320). -/
def routes (s : State) (site : Nat) : Bool :=
  (graphIn s).nodes.contains site || (s.epoch.running.isSome && (graphOld s).nodes.contains site)

/-! ## Normal routes (R316) -/

/-- Neighbours of a node, 200 standing for F, lowest first with F below every site. -/
def Graph.edges (g : Graph) (x : Nat) : List Nat :=
  if x = 200 then bits g.gates
  else (if g.gates.getLsbD x then [200] else []) ++ bits (g.near (1#200 <<< x))

/-- Distance from a site node to a destination over site nodes and bridge edges alone. -/
def Graph.siteDist (g : Graph) (x dest : Nat) : Option Nat :=
  (g.levels 200 0 (if dest = 200 then g.gates else (1#200 <<< dest) &&& nodesOf g.nodes)).findIdx? (·.getLsbD x)

/-- Distance to F. -/
def Graph.flueDist (g : Graph) (x : Nat) : Option Nat :=
  if x = 200 then some 0 else (g.siteDist x 200).map (· + 1)

/-- A normal route may pass through F: its ends lie in different fireboxes and the bridge is not in G (R316). -/
def Graph.through (g : Graph) (x dest : Nat) : Bool := !g.bridge && (x < 100) != (dest < 100)

/-- Distance along paths that R316 allows: through F only between the fireboxes while the bridge is not in G. -/
def Graph.dist (g : Graph) (x dest : Nat) : Option Nat :=
  if x = dest then some 0
  else if x = 200 ∨ dest = 200 then g.flueDist (if x = 200 then dest else x)
  else
    match g.siteDist x dest with
    | some d => some d
    | none =>
      if g.through x dest then
        match g.flueDist x, g.flueDist dest with
        | some a, some b => some (a + b)
        | _, _ => none
      else none

/-- The next node on a normal route (R316). -/
def Graph.next (g : Graph) (x dest : Nat) : Option Nat :=
  match g.dist x dest with
  | some (n + 1) => (g.edges x).find? fun y => g.dist y dest == some n && (y != 200 || dest == 200 || g.through x dest)
  | _ => none

/-! ## Escape routes (R317) -/

/-- Level of a node in up*/down* routing. -/
def Graph.level (g : Graph) (x : Nat) : Nat :=
  if g.bridge then
    let root := (bits (nodesOf g.nodes &&& row0Nodes 0)).head?
    let ls := match root with | some r => g.levels 200 0 (1#200 <<< r) | none => []
    let lv (y : Nat) : Nat := (ls.findIdx? (·.getLsbD y)).getD 200
    if x = 200 then (bits g.gates).foldl (fun m y => max m (lv y)) 0 + 1 else lv x
  else (g.flueDist x).getD 200

/-- The edge from `x` to `y` leads up. -/
def Graph.up (g : Graph) (x y : Nat) : Bool :=
  g.level y < g.level x || (g.level y == g.level x && (y == 200 || (x != 200 && y < x)))

/-- Nodes on an escape path of `n` more hops to `dest`, with whether down edges only may follow: distances by rounds. -/
def Graph.escapeRounds (g : Graph) : Nat → List (Nat × Bool × Nat) → List (Nat × Bool) → Nat → List (Nat × Bool × Nat)
  | 0, known, _, _ => known
  | fuel + 1, known, front, d =>
    -- an up edge leads here before any down edge only, a down edge after which only down edges follow
    let new := front.flatMap fun f =>
      (g.edges f.1).flatMap fun x =>
        if g.up x f.1 then (if f.2 then [] else [(x, false)]) else if f.2 then [(x, true), (x, false)] else []
    let new := (new.filter fun p => !known.any fun k => k.1 == p.1 && k.2.1 == p.2).eraseDups
    if new.isEmpty then known
    else g.escapeRounds fuel (known ++ new.map fun p => (p.1, p.2, d + 1)) new (d + 1)

/-- Length of the shortest escape route from a node; `down`: no up edge may follow any more. -/
def Graph.escapeDist (g : Graph) (dest x : Nat) (down : Bool) : Option Nat :=
  if x = dest then some 0
  else ((g.escapeRounds 400 [(dest, false, 0), (dest, true, 0)] [(dest, false), (dest, true)] 0).find?
    fun k => k.1 == x && k.2.1 == down).map (·.2.2)

/-- The next node on an escape route of a flit that has taken no down edge, or one at least (R317). -/
def Graph.escapeNext (g : Graph) (x dest : Nat) (down : Bool) : Option Nat :=
  match g.escapeDist dest x down with
  | some (n + 1) => (g.edges x).find? fun y =>
      !(down && g.up x y) && g.escapeDist dest y (down || !g.up x y) == some n
  | _ => none

end Sys2Proof.Machine
end

