-- ==== Sys2Proof/Machine/Flits.lean ====
section
/-! DEFINITION. The flits of the mesh and of the die links as bytes and on the lanes (14 R312, R313, R321, R322, 16 R341-R343,
R346). -/

namespace Sys2Proof.Machine

/-! ## Traffic (R312, R321) -/

/-- The agents of the flue die at node 200 (R312): 0 dispatcher, 1 Stoker, 2 security module, 3-10 HBM controllers, 11 PCIe, 12-15
chain ports, 16 ash collector, 17 counter aggregator, 18 draught controller, 19 Andiron model store; a hearth is agent 0 of its
node (numbers: DESIGN CHOICE, log entry 11). -/
def hbmAgent (pc : Nat) : Nat := 3 + pc / 32 % 8

/-- Kinds of traffic (R321); an item's is the CLASS it names. -/
inductive Traffic where
  | configuration | acknowledgement | dispatch | tenantReset | token | ash | snapshot
  | fetch | andiron | item (cls : Nat) | sweep | sanitise | fill
deriving DecidableEq, Repr

/-- The class of a kind of traffic (R321). -/
def Traffic.cls : Traffic → Nat
  | .configuration | .acknowledgement | .dispatch | .tenantReset | .token | .ash | .snapshot => 0
  | .fetch | .andiron => 1
  | .item c => c
  | .sweep | .sanitise | .fill => 2

/-- The normal channel of its requests (R322). -/
def Traffic.vc (t : Traffic) : Nat := 4 * t.cls

/-! ## The 128 bytes of a mesh flit -/

/-- A number of `l` in fields of the widths given, first field lowest. -/
def joinFields : List (Nat × Nat) → Nat
  | [] => 0
  | (w, v) :: t => v % 2 ^ w + 2 ^ w * joinFields t

/-- The fields that a flit carries from router to router, `via` the node at the far end of the die link it crosses. -/
def MeshFlit.fields (f : MeshFlit) (via : Nat) : List (Nat × Nat) :=
  [(8, f.dest), (8, f.agent), (8, f.src), (8, f.srcAgent), (8, f.tenant), (1, b2n f.error), (1, b2n f.down), (1, b2n f.last), (5, 0),
   (8, via), (64, f.msg), (904, f.data)]

/-- The payload of a DATA flit that carries it (R342). -/
def MeshFlit.payload (f : MeshFlit) (via : Nat) : List Byte :=
  leBytes 128 (Config.flitCode (BitVec.ofNat 1024 (joinFields (f.fields via)))).toNat

/-- The number that a payload decodes to. -/
def headOf (p : List Byte) : Nat := (Config.flitCode.symm (BitVec.ofNat 1024 (fld p 0 128))).toNat

/-- `w` bits of it at bit `k`. -/
def headField (p : List Byte) (k w : Nat) : Nat := headOf p / 2 ^ k % 2 ^ w

/-- The node at the far end of the link. -/
def viaOf (p : List Byte) : Nat := headField p 48 8

/-- The flit that a payload carries, as it enters node `n` by port `q` on channel `v`. -/
def meshFlitOf (p : List Byte) (id n q v : Nat) (gen : Bool) : MeshFlit :=
  { id := id, node := n, inPort := q, inVc := v, vc := v, gen := gen, waited := 0, starved := 0, aged := false,
    dest := headField p 0 8, agent := headField p 8 8, src := headField p 16 8, srcAgent := headField p 24 8,
    tenant := headField p 32 8, error := headField p 40 1 == 1, down := headField p 41 1 == 1, last := headField p 42 1 == 1,
    msg := headField p 56 64, data := headField p 120 904 }

/-- The tenant tag of a mesh flit, 31 where it names none. -/
def flitTag (p : List Byte) : Nat := if headField p 32 8 ≤ 16 then headField p 32 8 else 31

/-! ## The 136 bytes of a link flit (R342, R343) -/

/-- GCHK over bytes 0-130, CRC over bytes 0-131. -/
def flitBytes (payload : List Byte) (seq typeVc : Nat) : List Byte :=
  let a := slice payload 0 128 ++ leBytes 2 seq ++ leBytes 1 typeVc
  let b := a ++ [crc8 a]
  b ++ leBytes 4 (crc32c b).toNat

def dataFlit (f : LinkFlit) : List Byte := flitBytes f.payload f.seq.toNat (1 + 4 * b2n f.gen + 16 * f.vc)

def gchkOk (flit : List Byte) : Bool := crc8 (slice flit 0 131) == flit.getD 131 0
def crcOk (flit : List Byte) : Bool := (crc32c (slice flit 0 132)).toNat == fld flit 132 4
def flitType (flit : List Byte) : Nat := fld flit 130 1 % 4
def flitGood (flit : List Byte) : Bool := gchkOk flit && crcOk flit && flitType flit != 3

def flitOf (flit : List Byte) : LinkFlit :=
  { seq := BitVec.ofNat 16 (fld flit 128 2), vc := fld flit 130 1 / 16, gen := fld flit 130 1 / 4 % 2 == 1,
    payload := slice flit 0 128 }

/-! ## Lanes (R341, R346) -/

/-- The physical lane of logical lane `i`: the i-th lowest of the 66 that works (R341). -/
def physicalLane (failed : List Nat) (i : Nat) : Nat := ((List.range 66).filter fun l => !failed.contains l).getD i 0

/-- Bit `i` of a byte string: bit i mod 8 of byte i / 8. -/
def bitOf (bytes : List Byte) (i : Nat) : Bool := (bytes.getD (i / 8) 0).getLsbD (i % 8)

/-- What a logical lane carries in a block's 17 unit intervals: flit bit 64 u + i in interval u (R346). -/
def laneBits (bytes : List Byte) (i : Nat) : BitVec 17 :=
  BitVec.ofNat 17 ((List.range 17).foldr (fun u n => b2n (bitOf bytes (64 * u + i)) + 2 * n) 0)

/-- A flit on the lanes of a group. -/
def stripe (failed : List Nat) (bytes : List Byte) : List (Nat × BitVec 17) :=
  (List.range 64).map fun i => (physicalLane failed i, laneBits bytes i)

/-- Bit `k` of a flit as the receiver reads it off the lanes. -/
def laneBit (failed : List Nat) (lanes : List (Nat × BitVec 17)) (k : Nat) : Bool :=
  ((look lanes (physicalLane failed (k % 64))).getD 0).getLsbD (k / 64)

/-- A receiver's reassembly of a slot (R346). -/
def unstripe (failed : List Nat) (lanes : List (Nat × BitVec 17)) : List Byte :=
  (List.range 136).map fun j => BitVec.ofNat 8 ((List.range 8).foldr (fun b n => b2n (laneBit failed lanes (8 * j + b)) + 2 * n) 0)

end Sys2Proof.Machine
end

