-- ==== Sys2Proof/Machine/AndironWords.lean ====
section
/-! DEFINITION. Andiron arithmetic: words with their classes, sums of products, division, sine and cosine, quaternions
(12 R268-R275), and the L·D·Lᵀ factors of 13 R290. -/

namespace Sys2Proof.Machine

/-- A lane's SAT_FLAGS (R272): [11:0] the class flags, [12] ACC, [13] DIV. -/
abbrev Sat := BitVec 16

/-- A lane's computation: its value, and the sticky flags it sets (R272). -/
abbrev Lane (α : Type) := StateM Sat α

/-- A value of an exponent. -/
abbrev Term := Int × Int

def satAcc : Nat := 12
def satDiv : Nat := 13

def flag (i : Nat) : Lane Unit := modify fun f => setBit f i true

/-- Saturation at 64 bits sets ACC (R270). -/
def clamp64 (v : Int) : Lane Int :=
  if v < -(2 ^ 63) then do flag satAcc; pure (-(2 ^ 63))
  else if 2 ^ 63 - 1 < v then do flag satAcc; pure (2 ^ 63 - 1)
  else pure v

/-- The clamp of a word of class `d` sets its class flag (R271). -/
def clampWord (d : Nat) (v : Int) : Lane Int :=
  if v < -(2 ^ 31) then do flag d; pure (-(2 ^ 31))
  else if 2 ^ 31 - 1 < v then do flag d; pure (2 ^ 31 - 1)
  else pure v

/-- Store a value into class `d` of exponent `ed` (R271). -/
def storeFx (d : Nat) (ed : Int) (t : Term) : Lane Int :=
  let k := ed - t.2
  if 0 < k then clampWord d (rne t.1 k.toNat)
  else if k = 0 then clampWord d t.1
  else do clampWord d (← clamp64 (t.1 * 2 ^ (-k).toNat))

/-- The lowest exponent among terms. -/
def lowest : List Term → Int
  | [] => 0
  | t :: ts => ts.foldl (fun e u => min e u.2) t.2

/-- A term of an accumulator of exponent `lo`, shifted left (R270). -/
def shifted (lo : Int) (t : Term) : Lane Int := if t.2 = lo then pure t.1 else clamp64 (t.1 * 2 ^ (t.2 - lo).toNat)

/-- A sum of products in one accumulator, in the order given (R270). -/
def accumulate (ts : List Term) : Lane Term := do
  let lo := lowest ts
  let v ← ts.foldlM (fun a t => do clamp64 (a + (← shifted lo t))) 0
  pure (v, lo)

def negTerm (t : Term) : Term := (-t.1, t.2)

def leadingZeros64 (m : Nat) : Nat := if m = 0 then 64 else 63 - Nat.log2 m

/-- The Newton reciprocal of R273; the quotient under rne is the integer quotient (DEDUCED, log entry 10). -/
def newton (m : Nat) : Nat × Int :=
  let z := leadingZeros64 m
  let a : Int := (m * 2 ^ z / 2 ^ 32 : Nat)
  let t : Nat := a.toNat / 2 ^ 23 % 256
  let y0 := rne ((2 ^ 41 / (513 + 2 * t) : Nat)) 1
  let once (y : Int) : Int := rne (y * (2 ^ 31 - rne (a * y) 32)) 30
  (z, once (once (once y0)))

/-- b ÷ m stored into class `d` (R273). -/
def divFx (d : Nat) (ed : Int) (b m : Term) : Lane Int :=
  if m.1 ≤ 0 then do
    flag satDiv
    pure (if b.1 = 0 then 0 else if b.1 < 0 then -(2 ^ 31) else 2 ^ 31 - 1)
  else
    let r := newton m.1.toNat
    storeFx d ed (b.1 * r.2, b.2 - m.2 + r.1 - 94)

/-- round_even(2^30·atan(2^-i)), i = 0 to 29 (R274). -/
def cordicAngles : List Int :=
  [843314857, 497837829, 263043837, 133525159, 67021687, 33543516, 16775851, 8388437, 4194283, 2097149, 1048576,
   524288, 262144, 131072, 65536, 32768, 16384, 8192, 4096, 2048, 1024, 512, 256, 128, 64, 32, 16, 8, 4, 2]

/-- The cosine and sine of an ANGLE word (R274). -/
def cossin (expAngle a : Int) : Int × Int :=
  let p := a * 683565276
  let u := (if expAngle < 0 then rne p (-expAngle).toNat else p * 2 ^ expAngle.toNat) % 2 ^ 32
  let turn (s : Int × Int × Int) (i : Nat × Int) : Int × Int × Int :=
    let d : Int := if 0 ≤ s.2.2 then 1 else -1
    (s.1 - d * (s.2.1 / 2 ^ i.1), s.2.1 + d * (s.1 / 2 ^ i.1), s.2.2 - d * i.2)
  let z := rne (u % 2 ^ 30 * 843314857) 29
  let r := ((List.range 30).zip cordicAngles).foldl turn (652032874, 0, z)
  let q := u / 2 ^ 30
  if q = 0 then (r.1, r.2.1) else if q = 1 then (-r.2.1, r.1) else if q = 2 then (-r.1, -r.2.1) else (r.2.1, -r.1)

/-! ## Vectors of words -/

abbrev Vec := List Int
abbrev Mat := List (List Int)

def nth (v : Vec) (i : Nat) : Int := v.getD i 0
def Mat.at_ (a : Mat) (i j : Nat) : Int := nth (a.getD i []) j

/-- `n` values, in ascending index. -/
def build (n : Nat) (f : Nat → Lane Int) : Lane Vec := (List.range n).mapM f
def buildMat (n k : Nat) (f : Nat → Nat → Lane Int) : Lane Mat := (List.range n).mapM fun i => build k (f i)

/-- Row `k` of [a]×, so that a × b is the matrix–vector product. -/
def crossRow (a : Vec) (k : Nat) : Vec :=
  if k = 0 then [0, -nth a 2, nth a 1] else if k = 1 then [nth a 2, 0, -nth a 0] else [-nth a 1, nth a 0, 0]

/-- The terms of row · v, in ascending index, of exponent `e`. -/
def rowTerms (e : Int) (row v : Vec) : List Term := (row.zip v).map fun p => (p.1 * p.2, e)

/-- Terms of component `k` of a × b. -/
def crossTerms (e : Int) (a b : Vec) (k : Nat) : List Term := rowTerms e (crossRow a k) b

/-! ## Quaternions w, x, y, z of UNIT words -/

def unitExp : Int := -30

/-- One Newton step on four UNIT words (R275). -/
def renorm (q : Vec) : Lane Vec := do
  let n ← accumulate (q.map fun x => (x * x, -60))
  let f := rne (3 * 2 ^ 60 - n.1) 31
  q.mapM fun w => storeFx 0 unitExp (w * f, -60)

/-- Rows of left multiplication by `a`. -/
def quatRow (a : Vec) (k : Nat) : Vec :=
  let w := nth a 0; let x := nth a 1; let y := nth a 2; let z := nth a 3
  if k = 0 then [w, -x, -y, -z] else if k = 1 then [x, w, -z, y] else if k = 2 then [y, z, w, -x] else [z, -y, x, w]

/-- a ⊗ b, each component one accumulator stored into UNIT. -/
def quatMul (a b : Vec) : Lane Vec := build 4 fun k => do storeFx 0 unitExp (← accumulate (rowTerms (-60) (quatRow a k) b))

/-- q*. -/
def quatConj (q : Vec) : Lane Vec := do
  pure (nth q 0 :: (← build 3 fun k => clampWord 0 (-nth q (k + 1))))

/-- The rotation of a unit quaternion, each entry one accumulator stored into UNIT (DEDUCED, log entry 10). -/
def rotOf (q : Vec) : Lane Mat :=
  let p (i j : Nat) : Term := (nth q i * nth q j, -59)
  buildMat 3 3 fun i j => do
    let k := 6 - (i + 1) - (j + 1)
    let ts : List Term :=
      if i = j then (2 ^ 60, -60) :: ((List.range 3).filter (· ≠ i)).map fun x => negTerm (p (x + 1) (x + 1))
      else if (j + 3 - i) % 3 = 1 then [negTerm (p 0 k), p (min i j + 1) (max i j + 1)]
      else [p 0 k, p (min i j + 1) (max i j + 1)]
    storeFx 0 unitExp (← accumulate ts)

def Mat.transpose3 (r : Mat) : Mat := (List.range 3).map fun i => (List.range 3).map fun j => r.at_ j i

/-- Rotation · vector of a class with exponent `e`. -/
def rotate (d : Nat) (e : Int) (r : Mat) (v : Vec) : Lane Vec :=
  build 3 fun k => do storeFx d e (← accumulate (rowTerms (e + unitExp) (r.getD k []) v))

/-! ## L·D·Lᵀ (R290) -/

/-- A UNIT word times an accumulator, back at the accumulator's exponent (R290). -/
def unitMul (l : Int) (t : Term) : Term := (rne (l * t.1) 30, t.2)

/-- Pivots with their exponent, and the rows of L below them; `words` where the pivots are words of a class (R289). -/
structure Factor where
  words : Bool
  d : List Term
  l : List (List Int)

def Factor.pivot (f : Factor) (k : Nat) : Term := f.d.getD k (0, 0)
def Factor.at_ (f : Factor) (i k : Nat) : Int := nth (f.l.getD i []) k

/-- An L entry times a pivot: exact for a word (R270), brought back for an accumulator (R290). -/
def Factor.scaled (f : Factor) (j k : Nat) : Term :=
  let d := f.pivot k
  if f.words then (f.at_ j k * d.1, unitExp + d.2) else unitMul (f.at_ j k) d

/-- A_ij less what the columns before `j` account for. -/
def reduced (f : Factor) (a : Nat → Nat → Term) (i j : Nat) (row : Vec) : Lane Term :=
  accumulate (a i j :: (List.range j).map fun k =>
    negTerm (unitMul (nth row k) (f.scaled j k)))

/-- One row: its L entries in ascending index, then its pivot, which `keep` stores. -/
def factorRow (a : Nat → Nat → Term) (keep : Nat → Term → Lane Term) (f : Factor) (i : Nat) : Lane Factor := do
  let row ← (List.range i).foldlM (fun row j => do
    let r ← reduced f a i j row
    pure (row ++ [← divFx 0 unitExp r (f.pivot j)])) []
  let g : Factor := { f with l := f.l ++ [row] }
  let d ← keep i (← reduced g a i i row)
  pure { g with d := g.d ++ [d] }

/-- The factors of an `n` × `n` pivot in ascending index. -/
def factor (words : Bool) (n : Nat) (a : Nat → Nat → Term) (keep : Nat → Term → Lane Term) : Lane Factor :=
  (List.range n).foldlM (factorRow a keep) ⟨words, [], []⟩

/-- Forward substitution in words, each stored into its class (R290). -/
def forwardSubst (f : Factor) (n : Nat) (cls : Nat → Nat) (exp : Nat → Int) (b : Vec) : Lane Vec :=
  (List.range n).foldlM (fun ys i => do
    let earlier := (List.range i).map fun k => ((-(f.at_ i k * nth ys k), exp (cls k) + unitExp) : Term)
    pure (ys ++ [← storeFx (cls i) (exp (cls i)) (← accumulate ((nth b i, exp (cls i)) :: earlier))])) []

/-- Back substitution: quotients less the later entries' terms, each stored into its class (R290, R293). -/
def backSubst (f : Factor) (n : Nat) (cls : Nat → Nat) (exp : Nat → Int) (z : Vec) : Lane Vec :=
  (List.range n).reverse.foldlM (fun xs i => do
    let later := (List.range (n - 1 - i)).map fun k =>
      ((-(f.at_ (i + 1 + k) i * nth xs k), exp (cls (i + 1 + k)) + unitExp) : Term)
    pure ((← storeFx (cls i) (exp (cls i)) (← accumulate ((nth z i, exp (cls i)) :: later))) :: xs)) []

end Sys2Proof.Machine
end

