-- ==== Sys2Proof/Machine/AndironCore.lean ====
section
/-! DEFINITION. The Andiron model image and its load checks, the batch descriptor, the input records and their guards (12
R262-R267, R276, 13 R282-R287). -/

namespace Sys2Proof.Machine

/-! ## The model image (R262-R266) -/

abbrev Img := List Byte

def Img.links (m : Img) : Nat := fld m 0x0C 1
def Img.contacts (m : Img) : Nat := fld m 0x0D 1
def Img.dof (m : Img) : Nat := fld m 0x0E 1
def Img.nq (m : Img) : Nat := fld m 0x0F 1
def Img.floating (m : Img) : Bool := fld m 0x10 1 % 2 == 1
def Img.exp (m : Img) (c : Nat) : Int := signed 8 (fld m (0x14 + c) 1)
def Img.lo (m : Img) (k : Nat) : Int := sword m (0x40 + 8 * k)
def Img.hi (m : Img) (k : Nat) : Int := sword m (0x44 + 8 * k)
def Img.link (m : Img) (i : Nat) : List Byte := slice m (0x100 + 128 * i) 128
def Img.joint (m : Img) (i : Nat) : Nat := fld (m.link i) 1 1
def Img.contact (m : Img) (c : Nat) : List Byte := slice m (0x100 + 128 * m.links + 32 * c) 32
/-- TOTAL_SIZE as R262 computes it from the records. -/
def Img.total (m : Img) : Nat := 288 + 128 * m.links + 32 * m.contacts

/-- Coordinates that links 1 to `n` take, velocities and positions, the root's free motion first (R264). -/
def Img.coords (m : Img) (n : Nat) : Nat × Nat :=
  ((List.range n).drop 1).foldl (fun r i =>
    let j := m.joint i
    if j = 1 ∨ j = 2 then (r.1 + 1, r.2 + 1) else if j = 3 then (r.1 + 3, r.2 + 4) else r)
    (if m.floating then (6, 7) else (0, 0))

/-- What each joint adds to a list laid out by coordinates; `base` comes first with FLOATING_BASE (R264). -/
def Img.layout {β : Type} (m : Img) (base rev pri sph : List β) : List β :=
  (if m.floating then base else []) ++ ((List.range m.links).drop 1).flatMap fun i =>
    if m.joint i = 1 then rev else if m.joint i = 2 then pri else if m.joint i = 3 then sph else []

/-- Guards of the positions, the velocities and the efforts (R276). -/
def Img.posGuards (m : Img) : List Nat := m.layout [6, 6, 6, 14, 14, 14, 14] [0] [1] [14, 14, 14, 14]
def Img.velGuards (m : Img) : List Nat := m.layout [8, 8, 8, 9, 9, 9] [2] [3] [7, 7, 7]
def Img.effGuards (m : Img) : List Nat := m.layout [10, 10, 10, 11, 11, 11] [4] [5] [4, 4, 4]
/-- Classes of positions, velocities, accelerations (R264, R268). -/
def Img.posClass (m : Img) : List Nat := m.layout [1, 1, 1, 0, 0, 0, 0] [2] [1] [0, 0, 0, 0]
def Img.velClass (m : Img) : List Nat := m.layout [3, 3, 3, 4, 4, 4] [4] [3] [4, 4, 4]
def Img.accClass (m : Img) : List Nat := m.layout [5, 5, 5, 6, 6, 6] [6] [5] [6, 6, 6]
/-- Position indices at which quaternions start (R264). -/
def Img.quats (m : Img) : List Nat :=
  let starts := m.layout [0, 0, 0, 1, 0, 0, 0] [0] [0] [1, 0, 0, 0]
  (List.range starts.length).filter fun i => starts.getD i 0 = 1

/-- A guard is used when the model has a coordinate or input of its kind (R267). -/
def Img.guardUsed (m : Img) (k : Nat) : Bool :=
  k == 12 || k == 13 || k == 15 || m.posGuards.contains k || m.velGuards.contains k || m.effGuards.contains k

/-- Squared norm of words within 2^-20 of 1, exponent -60 (R267). -/
def unitNorm (b : List Byte) (off n : Nat) : Bool :=
  let t := (List.range n).foldl (fun a i => a + sword b (off + 4 * i) * sword b (off + 4 * i)) 0
  2 ^ 60 - 2 ^ 40 ≤ t && t ≤ 2 ^ 60 + 2 ^ 40

/-- The load checks of R267 in order, from the second on; the reason code of the first failure. LINKS and CONTACTS that need
another size than TOTAL_SIZE fail with the counts (DEDUCED, log entry 10). -/
def Img.check (m : Img) : Option Nat :=
  let ls := List.range m.links
  let cs := List.range m.contacts
  if !(fld m 0 4 == 0x314D4441 && fld m 4 2 == 1 && fld m 6 2 == 256) then some 0x0102
  else if fld m (m.length - 4) 4 ≠ (crc32c (m.take (m.length - 4))).toNat then some 0x0103
  else if !(1 ≤ m.links && m.links ≤ 64 && m.contacts ≤ 32 && m.dof ≤ 128 && m.nq ≤ 160 &&
      m.coords m.links == (m.dof, m.nq) && m.total == m.length) then some 0x0104
  else if !(m.exp 0 == -30 && (List.range 12).all fun c => c == 0 || (-48 ≤ m.exp c && m.exp c ≤ 16)) then some 0x0105
  else if !((List.range 16).all fun k => m.lo k ≤ m.hi k && (m.guardUsed k || (m.lo k == 0 && m.hi k == 0)) &&
      (k < 14 || (-(2 ^ 30) ≤ m.lo k && m.hi k ≤ 2 ^ 30))) then some 0x0106
  else if !(ls.all fun i => if i = 0 then fld (m.link 0) 0 1 == 0xFF && m.joint 0 == 0 else fld (m.link i) 0 1 < i) then
    some 0x0107
  else if !(ls.all fun i => m.joint i ≤ 3 && m.coords i == (fld (m.link i) 2 1, fld (m.link i) 3 1)) then some 0x0108
  else if !(ls.all fun i => (m.joint i == 0 || m.joint i == 3 || unitNorm (m.link i) 4 3) && unitNorm (m.link i) 0x10 4) then
    some 0x0109
  else if !(ls.all fun i => let l := m.link i
      0 < sword l 0x2C && 0 < sword l 0x3C && 0 < sword l 0x40 && 0 < sword l 0x44 && sword l 0x54 ≤ sword l 0x58 &&
      0 ≤ sword l 0x5C && 0 ≤ sword l 0x60) then some 0x010A
  else if !(cs.all fun c => let k := m.contact c
      fld k 0 1 < m.links && fld k 1 1 == 0 && 0 ≤ sword k 0x10 && 0 ≤ sword k 0x14 && sword k 0x14 ≤ 1879048192) then
    some 0x010B
  else if !(fld m 0x10 1 / 2 == 0 && zeros m 0x11 3 && zeros m 0x2C 4 && zeros m 0xC0 64 &&
      (ls.all fun i => zeros (m.link i) 0x64 28) && (cs.all fun c => zeros (m.contact c) 2 2 && zeros (m.contact c) 0x18 8) &&
      zeros m (m.total - 32) 28) then some 0x010C
  else none

/-! ## The batch descriptor (R282-R287) -/

abbrev Batch := List Byte

def Batch.kind (b : Batch) : Nat := fld b 4 1
def Batch.time (b : Batch) : Bool := fld b 5 1 == 1
def Batch.outStaging (b : Batch) : Bool := fld b 6 1 % 2 == 1
def Batch.orient (b : Batch) : Bool := fld b 6 1 / 2 % 2 == 1
def Batch.ikLink (b : Batch) : Nat := fld b 7 1
def Batch.count (b : Batch) : Nat := fld b 8 4
def Batch.maxIter (b : Batch) : Nat := fld b 0x0C 4
def Batch.deadline (b : Batch) : Nat := fld b 0x10 8
def Batch.inBase (b : Batch) : Nat := fld b 0x18 8
def Batch.outBase (b : Batch) : Nat := fld b 0x20 8
def Batch.inStride (b : Batch) : Nat := fld b 0x28 2
def Batch.outStride (b : Batch) : Nat := fld b 0x2A 2
def Batch.tol (b : Batch) : Nat := fld b 0x2C 4

/-- FK, ID and FD run once (R294). -/
def Batch.single (b : Batch) : Bool := b.kind ≤ 2
def Batch.sweeps (b : Batch) : Bool := b.kind == 3 || b.kind == 5

/-- Words of an input record (R284) and of the output of a kind (R286). -/
def inWords (m : Img) : Nat := 1 + m.nq + 2 * m.dof + 7
def outWords (m : Img) (b : Batch) : Nat :=
  if b.kind = 0 then 7 * m.links else if b.kind ≤ 2 then m.dof else if b.kind = 3 then m.dof + 3 * m.contacts
  else if b.kind = 4 then m.nq else m.nq + m.dof + 3 * m.contacts

def inSize (m : Img) : Nat := 4 * inWords m
def outSize (m : Img) (b : Batch) : Nat := 32 + 4 * outWords m b

/-- MAGIC, ranges and strides (R282, R283 first check); fields a kind does not use are zero. -/
def Batch.rangeOk (b : Batch) (m : Img) : Bool :=
  let k := b.kind
  fld b 0 4 == 0x31424441 && k ≤ 5 && fld b 5 1 ≤ 1 && fld b 6 1 < 4 && (k == 4 || (b.ikLink == 0 && !b.orient)) &&
  1 ≤ b.count && b.count ≤ 65536 &&
  (b.single || (if b.time then 1 ≤ b.deadline && b.deadline ≤ 10 ^ 9 else 1 ≤ b.maxIter && b.deadline == 0)) &&
  b.inStride % 32 == 0 && b.outStride % 32 == 0 && (!b.single || b.tol == 0) &&
  (if k = 5 then 1 ≤ fld b 0x30 4 else fld b 0x30 4 == 0) && (b.sweeps || zeros b 0x34 8) &&
  (if k = 4 then 0 ≤ sword b 0x4C else zeros b 0x3C 20) && zeros b 0x50 16 &&
  inSize m ≤ b.inStride && outSize m b ≤ b.outStride

/-- Links from IK_LINK to link 0, the given one first. -/
def Img.chain (m : Img) : Nat → Nat → List Nat
  | 0, _ => []
  | n + 1, i => i :: (if i = 0 then [] else m.chain n (fld (m.link i) 0 1))

/-- The IK check of R283. -/
def Batch.ikOk (b : Batch) (m : Img) : Bool :=
  b.kind != 4 || (b.ikLink < m.links && !m.floating && (m.chain 64 b.ikLink).all fun i => m.joint i ≤ 2)

/-- Records that one site of `n` lanes from slot `sigma` of `slots` writes (R287). -/
def siteRecords (count slots n sigma : Nat) : Nat :=
  count / slots * n + min n (count % slots - sigma)

/-- j of R287. -/
def stagingIndex (slots n sigma i : Nat) : Nat := i / slots * n + (i % slots - sigma)

/-! ## One environment (R284-R300) -/

/-- Input words as signed integers. -/
def recordWords (bs : List Byte) (n : Nat) : List Int := (List.range n).map fun i => sword bs (4 * i)

/-- Guard of each input word that the kind reads, none where it is not checked (R276, R284). -/
def inputGuards (m : Img) (b : Batch) : List (Option Nat) :=
  let on (c : Bool) (l : List Nat) : List (Option Nat) := l.map fun k => if c then some k else none
  let dyn := b.kind != 0 && b.kind != 4
  on b.sweeps [13] ++ on true m.posGuards ++ on dyn m.velGuards ++ on (dyn && b.kind != 1) m.effGuards ++
    on (b.kind == 4) [12, 12, 12, 15, 15, 15, 15]

/-- The first word outside its guard, in record order (R285). -/
def guardFail (m : Img) (b : Batch) (w : List Int) : Option (Nat × Nat) :=
  let gs := inputGuards m b
  (List.range gs.length).findSome? fun i =>
    match gs.getD i none with
    | none => none
    | some k => if w.getD i 0 < m.lo k ∨ m.hi k < w.getD i 0 then some (k, i) else none

end Sys2Proof.Machine
end

