-- ==== Sys2Proof/Machine/AndironPasses.lean ====
section
/-! DEFINITION. The passes over a model's links: poses, Newton–Euler, and the articulated-body algorithm (13 R288-R290).
The manual names the algorithms, the classes of what they store, and their order; the frames and formulas by which they are
written here are log entry 10's reading. -/

namespace Sys2Proof.Machine

/-! ## Words of the model, classes, stores -/

def wordsAt (b : List Byte) (off n : Nat) : Vec := (List.range n).map fun i => sword b (off + 4 * i)

def Img.parent (m : Img) (i : Nat) : Nat := fld (m.link i) 0 1
def Img.vIndex (m : Img) (i : Nat) : Nat := fld (m.link i) 2 1
def Img.pIndex (m : Img) (i : Nat) : Nat := fld (m.link i) 3 1
def Img.axis (m : Img) (i : Nat) : Vec := wordsAt (m.link i) 4 3
def Img.rot (m : Img) (i : Nat) : Vec := wordsAt (m.link i) 0x10 4
def Img.trans (m : Img) (i : Nat) : Vec := wordsAt (m.link i) 0x20 3
def Img.mass (m : Img) (i : Nat) : Int := sword (m.link i) 0x2C
def Img.com (m : Img) (i : Nat) : Vec := wordsAt (m.link i) 0x30 3
def Img.armature (m : Img) (i : Nat) : Int := sword (m.link i) 0x5C
def Img.gravity (m : Img) : Vec := wordsAt m 0x20 3

/-- Entry of the link's inertia about its centre of mass. -/
def Img.inertia (m : Img) (i a b : Nat) : Int :=
  nth (wordsAt (m.link i) 0x3C 6) (if a = b then a else 2 + a + b)

/-- Words of an input record (R284): position, velocity, and effort or acceleration coordinates. -/
def Img.pos (_m : Img) (w : Vec) (k : Nat) : Int := nth w (1 + k)
def Img.vel (m : Img) (w : Vec) (k : Nat) : Int := nth w (1 + m.nq + k)
def Img.eff (m : Img) (w : Vec) (k : Nat) : Int := nth w (1 + m.nq + m.dof + k)

/-- Linear indices 0-2 and angular indices 3-5 of a spatial quantity have a class each (R289). -/
def velC (k : Nat) : Nat := if k < 3 then 3 else 4
def accC (k : Nat) : Nat := if k < 3 then 5 else 6
def frcC (k : Nat) : Nat := if k < 3 then 7 else 8
def inC (i j : Nat) : Nat := if i < 3 ∧ j < 3 then 9 else if 3 ≤ i ∧ 3 ≤ j then 10 else 11

def Img.exp2 (m : Img) (a b : Nat) : Int := m.exp a + m.exp b

/-- One accumulator stored once into class `d` (R290). -/
def Img.sum (m : Img) (d : Nat) (ts : List Term) : Lane Int := do storeFx d (m.exp d) (← accumulate ts)

/-- The sum of two vectors of words, each entry clamped in its class (R271). -/
def addWords (cls : Nat → Nat) (a b : Vec) : Lane Vec := build a.length fun k => clampWord (cls k) (nth a k + nth b k)

def linear (v : Vec) : Vec := v.take 3
def angular (v : Vec) : Vec := v.drop 3

/-- Links in ascending index, each from its parent's result. -/
def outward {β : Type} (m : Img) (f : Nat → Option β → Lane β) : Lane (List β) :=
  (List.range m.links).foldlM (fun l i => do pure (l ++ [← f i (if i = 0 then none else l[m.parent i]?)])) []

/-- Links in descending index, each from its children's results in ascending index; the results come out ascending (R290). -/
def inward {β : Type} (m : Img) (f : Nat → List β → Lane β) : Lane (List (Nat × β)) :=
  (List.range m.links).reverse.foldlM (fun done i => do
    pure ((i, ← f i ((done.filter fun p => m.parent p.1 == i).map (·.2))) :: done)) []

/-! ## Poses -/

/-- The joint's own rotation: REVOLUTE from the half angle, SPHERICAL its coordinates. -/
def jointQuat (m : Img) (w : Vec) (i : Nat) : Lane Vec := do
  if m.joint i = 1 then
    let cs := cossin (m.exp 2) (← storeFx 2 (m.exp 2) (m.pos w (m.pIndex i), m.exp 2 - 1))
    pure (cs.1 :: (← build 3 fun k => m.sum 0 [(nth (m.axis i) k * cs.2, -60)]))
  else if m.joint i = 3 then pure ((List.range 4).map fun k => m.pos w (m.pIndex i + k))
  else pure [2 ^ 30, 0, 0, 0]

/-- Origin and rotation of a link in its parent's frame; of link 0, in the world (R264, R265). -/
def relPose (m : Img) (w : Vec) (i : Nat) : Lane (Vec × Vec) := do
  if i = 0 && m.floating then pure ((List.range 3).map (m.pos w), (List.range 4).map fun k => m.pos w (3 + k))
  else if m.joint i = 2 then
    let slide ← build 3 fun k => m.sum 1 [(nth (m.axis i) k * m.pos w (m.pIndex i), m.exp 1 + unitExp)]
    let r ← rotOf (m.rot i)
    pure (← build 3 fun k => m.sum 1 ((nth (m.trans i) k, m.exp 1) :: rowTerms (m.exp 1 + unitExp) (r.getD k []) slide), m.rot i)
  else if m.joint i = 0 then pure (m.trans i, m.rot i)
  else pure (m.trans i, ← quatMul (m.rot i) (← jointQuat m w i))

/-- World position and quaternion of each link that `on` names. -/
def worldPoses (m : Img) (w : Vec) (on : Nat → Bool) : Lane (List (Vec × Vec)) :=
  outward m fun i up => do
    if !on i then pure ([], [])
    else
      let x ← relPose m w i
      match up with
      | none => pure x
      | some p =>
        let r ← rotOf p.2
        pure (← build 3 fun k => m.sum 1 ((nth p.1 k, m.exp 1) :: rowTerms (m.exp 1 + unitExp) (r.getD k []) x.1), ← quatMul p.2 x.2)

/-- FK's output words (R286). -/
def fkOutput (m : Img) (w : Vec) : Lane Vec := do
  pure ((← worldPoses m w fun _ => true).flatMap fun p => p.1 ++ p.2)

/-! ## Spatial quantities in link frames -/

/-- A link against its parent: origin, rotation, and its joint's columns in the half that starts at index `half`. -/
structure Frame where
  r : Vec
  rot : Mat
  half : Nat
  cols : List Vec

/-- Columns of a SPHERICAL joint: its velocity is in the joint frame (R292). -/
def frame (m : Img) (w : Vec) (i : Nat) : Lane Frame := do
  let x ← relPose m w i
  let rot ← rotOf x.2
  let cols ← if m.joint i = 1 || m.joint i = 2 then pure [m.axis i]
    else if m.joint i = 3 then rotOf (← jointQuat m w i) else pure []
  pure { r := x.1, rot := rot, half := if m.joint i = 2 then 0 else 3, cols := cols }

def frames (m : Img) (w : Vec) : Lane (List Frame) := (List.range m.links).mapM (frame m w)

/-- What no link has. -/
def noFrame : Frame := { r := [], rot := [], half := 3, cols := [] }

/-- The joint's columns times its coordinates, in the classes of `cls`. -/
def jointMotion (m : Img) (f : Frame) (cls : Nat → Nat) (x : Vec) : Lane Vec :=
  build 6 fun k => do
    if f.half ≤ k && k < f.half + 3 then
      m.sum (cls k) ((f.cols.zip x).map fun p => (nth p.1 (k - f.half) * p.2, m.exp (cls k) + unitExp))
    else pure 0

/-- A parent's velocity or acceleration seen by the link. -/
def moveIn (m : Img) (f : Frame) (cls : Nat → Nat) (v : Vec) : Lane Vec := do
  let t ← build 3 fun k =>
    m.sum (cls 0) ((nth v k, m.exp (cls 0)) :: crossTerms (m.exp2 (cls 3) 1) (angular v) f.r k)
  let l ← rotate (cls 0) (m.exp (cls 0)) f.rot.transpose3 t
  let a ← rotate (cls 3) (m.exp (cls 3)) f.rot.transpose3 (angular v)
  pure (l ++ a)

/-- A link's force seen by its parent. -/
def moveOut (m : Img) (f : Frame) (p : Vec) : Lane Vec := do
  let l ← rotate 7 (m.exp 7) f.rot (linear p)
  let t ← build 3 fun k =>
    m.sum 8 (rowTerms (m.exp 8 + unitExp) (f.rot.getD k []) (angular p) ++ crossTerms (m.exp2 1 7) f.r l k)
  pure (l ++ t)

/-- Velocity coordinates of a link's joint from a list of all of them. -/
def jointPart (m : Img) (f : Frame) (i : Nat) (x : Nat → Int) : Vec :=
  (List.range f.cols.length).map fun k => x (m.vIndex i + k)

/-- Velocity of a link and of its joint. -/
def linkVelocities (m : Img) (w : Vec) (fs : List Frame) : Lane (List (Vec × Vec)) :=
  outward m fun i up => do
    let f := fs.getD i noFrame
    match up with
    | none => pure (if m.floating then (List.range 6).map (m.vel w) else List.replicate 6 0, List.replicate 6 0)
    | some p =>
      let j ← jointMotion m f velC (jointPart m f i (m.vel w))
      pure (← addWords velC (← moveIn m f velC p.1) j, j)

/-- The bias acceleration v × v_J. -/
def biasAccel (m : Img) (v j : Vec) : Lane Vec := do
  let l ← build 3 fun k =>
    m.sum 5 (crossTerms (m.exp2 4 3) (angular v) (linear j) k ++ crossTerms (m.exp2 3 4) (linear v) (angular j) k)
  let a ← build 3 fun k => m.sum 6 (crossTerms (m.exp2 4 4) (angular v) (angular j) k)
  pure (l ++ a)

/-- A link's inertia at its origin: MASS, MOMENT and INERTIA blocks (R289). -/
def rigidInertia (m : Img) (i : Nat) : Lane Mat := do
  let c := m.com i
  let h ← build 3 fun k => m.sum 11 [(m.mass i * nth c k, m.exp2 9 1)]
  buildMat 6 6 fun a b => do
    if a < 3 ∧ b < 3 then pure (if a = b then m.mass i else 0)
    else if a < 3 then clampWord 11 (-nth (crossRow h a) (b - 3))
    else if b < 3 then clampWord 11 (nth (crossRow h (a - 3)) b)
    else
      let x := a - 3
      let y := b - 3
      let rest : List Term :=
        if x = y then ((List.range 3).filter (· ≠ x)).map fun k => (nth h k * nth c k, m.exp2 11 1)
        else [(-(nth h x * nth c y), m.exp2 11 1)]
      m.sum 10 ((m.inertia i x y, m.exp 10) :: rest)

/-- The velocity-dependent force on a link. Momenta have no class, so it is formed from the centre's acceleration and from
products of angular velocities (DEDUCED, log entry 10). -/
def biasForce (m : Img) (i : Nat) (v : Vec) : Lane Vec := do
  let o := angular v
  let c := m.com i
  let vc ← build 3 fun k => m.sum 3 ((nth v k, m.exp 3) :: crossTerms (m.exp2 4 1) o c k)
  let b ← build 3 fun k => m.sum 5 (crossTerms (m.exp2 4 3) o vc k)
  let f ← build 3 fun k => m.sum 7 [(m.mass i * nth b k, m.exp2 9 5)]
  let ww ← buildMat 3 3 fun x y => m.sum 6 [(nth o x * nth o y, m.exp2 4 4)]
  let t ← build 3 fun k =>
    let x := (k + 1) % 3
    let y := (k + 2) % 3
    m.sum 8 ((List.range 3).flatMap (fun d =>
      [(m.inertia i y d * ww.at_ x d, m.exp2 10 6), (-(m.inertia i x d * ww.at_ y d), m.exp2 10 6)]) ++
      crossTerms (m.exp2 1 7) c f k)
  pure (f ++ t)

/-- Terms of row `j` of an inertia times an acceleration. -/
def inertiaTerms (m : Img) (ia : Mat) (a : Vec) (j : Nat) : List Term :=
  (List.range 6).map fun k => (ia.at_ j k * nth a k, m.exp (inC j k) + m.exp (accC k))

/-- A world vector of LIN_ACC words in link 0's frame. -/
def inRoot (m : Img) (fs : List Frame) (g : Vec) : Lane Vec := rotate 5 (m.exp 5) (fs.getD 0 noFrame).rot.transpose3 g

def negWords (cls : Nat → Nat) (v : Vec) : Lane Vec := build v.length fun k => clampWord (cls k) (-nth v k)

/-! ## ID: recursive Newton–Euler (R288) -/

/-- Classes of a joint's effort, acceleration and pivot. -/
def effC (f : Frame) : Nat := if f.half = 0 then 7 else 8
def rateC (f : Frame) : Nat := if f.half = 0 then 5 else 6
def pivotC (f : Frame) : Nat := if f.half = 0 then 9 else 10

/-- The columns' terms against a force. -/
def colTerms (m : Img) (f : Frame) (c : Vec) (p : Vec) : List Term :=
  rowTerms (m.exp (effC f) + unitExp) c ((p.drop f.half).take 3)

/-- Accelerations of the links for given coordinates' accelerations. -/
def linkAccels (m : Img) (w : Vec) (fs : List Frame) (vs : List (Vec × Vec)) : Lane (List Vec) :=
  outward m fun i up => do
    let f := fs.getD i noFrame
    match up with
    | none =>
      let g ← negWords accC (← inRoot m fs m.gravity)
      let a := g ++ [0, 0, 0]
      if m.floating then addWords accC ((List.range 6).map (m.eff w)) a else pure a
    | some p =>
      let v := vs.getD i ([], [])
      let a ← addWords accC (← moveIn m f accC p) (← biasAccel m v.1 v.2)
      addWords accC a (← jointMotion m f accC (jointPart m f i (m.eff w)))

/-- Output words of ID: the root's force and torque, then the joints' efforts. -/
def idOutput (m : Img) (w : Vec) : Lane Vec := do
  let fs ← frames m w
  let vs ← linkVelocities m w fs
  let as_ ← linkAccels m w fs vs
  let out ← inward (β := Vec × Vec) m fun i kids => do
    let f := fs.getD i noFrame
    let ia ← rigidInertia m i
    let own ← build 6 fun j => m.sum (frcC j) (inertiaTerms m ia (as_.getD i []) j)
    let p ← addWords frcC own (← biasForce m i (vs.getD i ([], [])).1)
    let p ← kids.foldlM (fun p k => addWords frcC p k.1) p
    let eff ← f.cols.zip (jointPart m f i (m.eff w)) |>.mapM fun c =>
      m.sum (effC f) (colTerms m f c.1 p ++ [(m.armature i * c.2, m.exp2 (pivotC f) (rateC f))])
    if i = 0 then pure ([], if m.floating then p else [])
    else pure (← moveOut m f p, eff)
  pure (out.flatMap fun p => p.2.2)

/-! ## FD: the articulated-body algorithm (R288, R290) -/

/-- A link's articulated inertia, its columns' responses, its pivot's factors, and what its parent sees. -/
structure Art where
  ia : Mat
  u : List Vec
  fac : Factor
  rest : Mat
  up : Mat

/-- A block of an inertia rotated into the parent's frame, each product stored. -/
def rotateBlock (m : Img) (d : Nat) (r b : Mat) : Lane Mat := do
  let e := m.exp d + unitExp
  let t ← buildMat 3 3 fun i j => m.sum d ((List.range 3).map fun k => (r.at_ i k * b.at_ k j, e))
  buildMat 3 3 fun i j => m.sum d ((List.range 3).map fun k => (t.at_ i k * r.at_ j k, e))

def block (a : Mat) (i j : Nat) : Mat := (List.range 3).map fun x => (List.range 3).map fun y => a.at_ (i + x) (j + y)

/-- An articulated inertia as the parent sees it. -/
def moveInertia (m : Img) (f : Frame) (a : Mat) : Lane Mat := do
  let mm ← rotateBlock m 9 f.rot (block a 0 0)
  let c ← rotateBlock m 11 f.rot (block a 0 3)
  let j ← rotateBlock m 10 f.rot (block a 3 3)
  let rx (k y : Nat) : Int := nth (crossRow f.r k) y
  let c2 ← buildMat 3 3 fun x y =>
    m.sum 11 ((c.at_ x y, m.exp 11) :: (List.range 3).map fun k => (-(mm.at_ x k * rx k y), m.exp2 9 1))
  let j2 ← buildMat 3 3 fun x y =>
    m.sum 10 ((j.at_ x y, m.exp 10) :: ((List.range 3).map fun k => (-(c.at_ k x * rx k y), m.exp2 11 1)) ++
      (List.range 3).map fun k => (rx x k * c2.at_ k y, m.exp2 11 1))
  pure ((List.range 6).map fun x => (List.range 6).map fun y =>
    if x < 3 ∧ y < 3 then mm.at_ x y else if x < 3 then c2.at_ x (y - 3) else if y < 3 then c2.at_ y (x - 3)
    else j2.at_ (x - 3) (y - 3))

/-- A pivot held as a word of its class (R289). -/
def keepWord (m : Img) (cls : Nat → Nat) (k : Nat) (t : Term) : Lane Term := do
  pure (← storeFx (cls k) (m.exp (cls k)) t, m.exp (cls k))

/-- U = I·S and the pivot SᵀU with the armature, factored (R290). -/
def jointPivot (m : Img) (i : Nat) (f : Frame) (ia : Mat) : Lane (List Vec × Factor) := do
  let n := f.cols.length
  let u ← f.cols.mapM fun c => build 6 fun j =>
    m.sum (inC j f.half) (rowTerms (m.exp (inC j f.half) + unitExp) c (((ia.getD j []).drop f.half).take 3))
  let e := m.exp (pivotC f)
  let d ← buildMat n n fun a b => do
    let x ← m.sum (pivotC f) (rowTerms (e + unitExp) (f.cols.getD a []) (((u.getD b []).drop f.half).take 3))
    if a = b then clampWord (pivotC f) (x + m.armature i) else pure x
  pure (u, ← factor true n (fun a b => (d.at_ a b, e)) (keepWord m fun _ => pivotC f))

/-- I − U·D⁻¹·Uᵀ: each quotient's divided product is an accumulator (R290). -/
def jointRest (m : Img) (f : Frame) (ia : Mat) (u : List Vec) (fac : Factor) : Lane Mat := do
  let n := f.cols.length
  let y ← (List.range 6).mapM fun j =>
    forwardSubst fac n (fun _ => inC j f.half) m.exp (u.map fun c => nth c j)
  buildMat 6 6 fun a b => (List.range n).foldlM (fun x k => do
    let q ← divFx (inC a b) (m.exp (inC a b))
      (nth (y.getD a []) k * nth (y.getD b []) k, m.exp (inC a f.half) + m.exp (inC b f.half)) (fac.pivot k)
    clampWord (inC a b) (x - q)) (ia.at_ a b)

/-- Articulated inertias, inward. The root of a floating base is one 6×6 pivot. -/
def inertiaPass (m : Img) (fs : List Frame) : Lane (List Art) := do
  let out ← inward (β := Art) m fun i kids => do
    let f := fs.getD i noFrame
    let ia ← kids.foldlM (fun a k => buildMat 6 6 fun x y => clampWord (inC x y) (a.at_ x y + k.up.at_ x y)) (← rigidInertia m i)
    if i = 0 then
      let fac ← if m.floating then
          factor true 6 (fun a b => (ia.at_ a b, m.exp (inC a b))) (keepWord m fun k => inC k k)
        else pure ⟨true, [], []⟩
      pure { ia := ia, u := [], fac := fac, rest := [], up := [] }
    else
      let p ← jointPivot m i f ia
      let rest ← jointRest m f ia p.1 p.2
      pure { ia := ia, u := p.1, fac := p.2, rest := rest, up := ← moveInertia m f rest }
  pure (out.map (·.2))

/-- What no link has. -/
def noArt : Art := { ia := [], u := [], fac := ⟨true, [], []⟩, rest := [], up := [] }

/-- D·x = b by the factors: words of the classes given. -/
def solve (m : Img) (fac : Factor) (n : Nat) (from_ to_ : Nat → Nat) (b : Vec) : Lane Vec := do
  let y ← forwardSubst fac n from_ m.exp b
  let z ← build n fun k => divFx (to_ k) (m.exp (to_ k)) (nth y k, m.exp (from_ k)) (fac.pivot k)
  backSubst fac n to_ m.exp z

/-- What the force pass leaves at a link: its force, the joint's remaining efforts, and what its parent sees. -/
structure Pull where
  p : Vec
  e : Vec
  up : Vec

/-- Forces, inward: `p` are the links' own, `c` their bias accelerations, `eff` the coordinates' efforts. -/
def forcePass (m : Img) (fs : List Frame) (as_ : List Art) (p c : List Vec) (eff : Nat → Int) : Lane (List Pull) := do
  let out ← inward (β := Pull) m fun i kids => do
    let f := fs.getD i noFrame
    let a := as_.getD i noArt
    let pa ← kids.foldlM (fun p k => addWords frcC p k.up) (p.getD i [])
    if i = 0 then
      let e ← build 6 fun k => clampWord (frcC k) (eff k - nth pa k)
      pure { p := pa, e := e, up := [] }
    else
      let u := jointPart m f i eff
      let e ← (f.cols.zip u).mapM fun x => m.sum (effC f) ((x.2, m.exp (effC f)) :: (colTerms m f x.1 pa).map negTerm)
      let x ← solve m a.fac f.cols.length (fun _ => effC f) (fun _ => rateC f) e
      let up ← build 6 fun j => m.sum (frcC j) ((nth pa j, m.exp (frcC j)) :: inertiaTerms m a.rest (c.getD i []) j ++
        (a.u.zip x).map fun k => (nth k.1 j * k.2, m.exp (inC j f.half) + m.exp (rateC f)))
      pure { p := pa, e := e, up := ← moveOut m f up }
  pure (out.map (·.2))

/-- Accelerations, outward: each link's, with its coordinates'. `g` is gravity in link 0's frame. -/
def accelPass (m : Img) (fs : List Frame) (as_ : List Art) (ps : List Pull) (c : List Vec) (g : Vec) :
    Lane (List (Vec × Vec)) :=
  outward m fun i up => do
    let f := fs.getD i noFrame
    let a := as_.getD i noArt
    let e := (ps.getD i ⟨[], [], []⟩).e
    match up with
    | none =>
      if m.floating then
        let x ← solve m a.fac 6 frcC accC e
        pure (x, ← addWords accC x (g ++ [0, 0, 0]))
      else pure ((← negWords accC g) ++ [0, 0, 0], [])
    | some p =>
      let t ← addWords accC (← moveIn m f accC p.1) (c.getD i [])
      let b ← (a.u.zip e).mapM fun x => m.sum (effC f) ((x.2, m.exp (effC f)) :: (List.range 6).map fun j =>
        (-(nth x.1 j * nth t j), m.exp (inC j f.half) + m.exp (accC j)))
      let x ← solve m a.fac f.cols.length (fun _ => effC f) (fun _ => rateC f) b
      pure (← addWords accC t (← jointMotion m f accC x), x)

/-- No velocity-dependent acceleration. -/
def noMotion : List Vec := List.replicate 64 (List.replicate 6 0)

/-- What FD works out: frames, velocities, articulated inertias, and each link's acceleration with its coordinates'. -/
structure Dynamics where
  fs : List Frame
  vs : List (Vec × Vec)
  as_ : List Art
  acc : List (Vec × Vec)

def Dynamics.coords (d : Dynamics) : Vec := d.acc.flatMap (·.2)

/-- FD at (q, v, u) under gravity, contacts ignored (R288). -/
def dynamics (m : Img) (w : Vec) : Lane Dynamics := do
  let fs ← frames m w
  let vs ← linkVelocities m w fs
  let as_ ← inertiaPass m fs
  let c ← vs.mapM fun v => biasAccel m v.1 v.2
  let p ← (List.range m.links).mapM fun i => biasForce m i (vs.getD i ([], [])).1
  let ps ← forcePass m fs as_ p c (m.eff w)
  let acc ← accelPass m fs as_ ps c (← inRoot m fs m.gravity)
  pure { fs := fs, vs := vs, as_ := as_, acc := acc }

/-- The same with v, gravity and efforts zero and one force on one link: what a row's 1 N does (R291). -/
def response (m : Img) (d : Dynamics) (link : Nat) (f : Vec) : Lane (List (Vec × Vec)) := do
  let back ← negWords frcC f
  let p := (List.range m.links).map fun i => if i = link then back else List.replicate 6 0
  let ps ← forcePass m d.fs d.as_ p noMotion fun _ => 0
  accelPass m d.fs d.as_ ps noMotion [0, 0, 0]

end Sys2Proof.Machine
end

