-- ==== Sys2Proof/Machine/AndironSolve.lean ====
section
/-! DEFINITION. Contact sweeps, inverse kinematics, integration, and the output words of each kind (13 R288, R291-R293,
R299). Where the manual fixes no formula, log entry 10's reading. -/

namespace Sys2Proof.Machine

/-! ## Entry (R285) -/

/-- Four words from position `i` on renormalised in place. -/
def renormAt (w : Vec) (i : Nat) : Lane Vec := do
  pure (w.take i ++ (← renorm ((w.drop i).take 4)) ++ w.drop (i + 4))

/-- Quaternion inputs the kind reads, renormalised at entry (R275, R285). -/
def entryWords (m : Img) (b : Batch) (w : Vec) : Lane Vec :=
  (m.quats.map (· + 1) ++ (if b.kind = 4 then [1 + m.nq + 2 * m.dof + 3] else [])).foldlM renormAt w

/-! ## CS (R291) -/

/-- A contact's link and its sphere's centre in the link's frame. -/
def Img.contactLink (m : Img) (c : Nat) : Nat := fld (m.contact c) 0 1
def Img.contactPoint (m : Img) (c : Nat) : Vec := wordsAt (m.contact c) 4 3

/-- d_c := z_c − RADIUS_c − h. -/
def contactDepth (m : Img) (w : Vec) (poses : List (Vec × Vec)) (c : Nat) : Lane Int := do
  let p := poses.getD (m.contactLink c) ([], [])
  let z ← m.sum 1 ((nth p.1 2, m.exp 1) :: rowTerms (m.exp 1 + unitExp) ((← rotOf p.2).getD 2 []) (m.contactPoint c))
  clampWord 1 ((← clampWord 1 (z - sword (m.contact c) 0x10)) - nth w 0)

/-- Active contacts with their depths (R291). -/
def contactSet (m : Img) (w : Vec) (poses : List (Vec × Vec)) : Lane (List (Nat × Int)) := do
  pure (((List.range m.contacts).zip (← build m.contacts (contactDepth m w poses))).filter fun p => p.2 ≤ 0)

/-- A link's spatial acceleration at a point of it, in the link's frame; `bend` is ω × the point's velocity. -/
def pointAccel (m : Img) (a r : Vec) (bend : Nat → List Term) : Lane Vec :=
  build 3 fun k => m.sum 5 ((nth a k, m.exp 5) :: crossTerms (m.exp2 6 1) (angular a) r k ++ bend k)

/-- What the sweeps read: active contacts, biases, W by column, acceleration responses by row, and a_free of the
coordinates (R291). -/
structure Prep where
  act : List Nat
  bias : Vec
  w : List Vec
  resp : List Vec
  free : Vec

/-- Rows of active contacts: normal z, tangent x, tangent y. -/
def contactRows (act : List Nat) : List (Nat × Nat) := act.flatMap fun c => [(c, 2), (c, 0), (c, 1)]

/-- Bias of a row: a_free, and for a normal row (KP·d_c) and (KD·ż_c), both stored into LIN_ACC. -/
def rowBias (m : Img) (b : Batch) (d : Dynamics) (rots : List Mat) (depth : Nat → Int) (row : Nat × Nat) : Lane Int := do
  let l := m.contactLink row.1
  let r := m.contactPoint row.1
  let axis (k : Nat) := (rots.getD l []).getD k []
  let v := (d.vs.getD l ([], [])).1
  let vp ← build 3 fun k => m.sum 3 ((nth v k, m.exp 3) :: crossTerms (m.exp2 4 1) (angular v) r k)
  let a ← pointAccel m (d.acc.getD l ([], [])).1 r fun k => crossTerms (m.exp2 4 3) (angular v) vp k
  let a ← m.sum 5 (rowTerms (m.exp 5 + unitExp) (axis row.2) a)
  let a ← clampWord 5 (a + nth m.gravity row.2)
  if row.2 ≠ 2 then pure a
  else
    let z ← m.sum 3 (rowTerms (m.exp 3 + unitExp) (axis 2) vp)
    let p ← storeFx 5 (m.exp 5) ((fld b 0x34 4 : Int) * depth row.1, m.exp 1 - 16)
    let q ← storeFx 5 (m.exp 5) ((fld b 0x38 4 : Int) * z, m.exp 3 - 16)
    clampWord 5 ((← clampWord 5 (a + p)) + q)

/-- 1 N along a row's axis at its contact, as a force on the link. -/
def unitForce (m : Img) (rots : List Mat) (row : Nat × Nat) : Lane Vec := do
  let one ← storeFx 7 (m.exp 7) (1, 0)
  let f ← build 3 fun k => m.sum 7 [((rots.getD (m.contactLink row.1) []).at_ row.2 k * one, m.exp 7 + unitExp)]
  let t ← build 3 fun k => m.sum 8 (crossTerms (m.exp2 1 7) (m.contactPoint row.1) f k)
  pure (f ++ t)

/-- A row's acceleration in a response. -/
def rowResponse (m : Img) (rots : List Mat) (acc : List (Vec × Vec)) (row : Nat × Nat) : Lane Int := do
  let l := m.contactLink row.1
  let a ← pointAccel m (acc.getD l ([], [])).1 (m.contactPoint row.1) fun _ => []
  m.sum 5 (rowTerms (m.exp 5 + unitExp) ((rots.getD l []).getD row.2 []) a)

/-- FD, the contact set, and every row's response, formed once from the input (R291). -/
def prepare (m : Img) (b : Batch) (w : Vec) : Lane Prep := do
  let poses ← worldPoses m w fun _ => true
  let set ← contactSet m w poses
  let d ← dynamics m w
  if set.isEmpty then pure { act := [], bias := [], w := [], resp := [], free := d.coords }
  else
    let rots ← poses.mapM fun p => rotOf p.2
    let act := set.map (·.1)
    let rows := contactRows act
    let depth (c : Nat) : Int := ((set.find? fun p => p.1 == c).map (·.2)).getD 0
    let bias ← rows.mapM (rowBias m b d rots depth)
    let cols ← rows.mapM fun row => do
      let acc ← response m d (m.contactLink row.1) (← unitForce m rots row)
      pure (← rows.mapM (rowResponse m rots acc), acc.flatMap (·.2))
    pure { act := act, bias := bias, w := cols.map (·.1), resp := cols.map (·.2), free := d.coords }

def Prep.wij (p : Prep) (i j : Nat) : Int := nth (p.w.getD j []) i

/-- One row of a sweep: the new force of row `i` (R291). -/
def sweepRow (m : Img) (p : Prep) (fs : Vec) (i : Nat) : Lane Int := do
  let a ← m.sum 5 ((nth p.bias i, m.exp 5) :: (List.range fs.length).map fun j => (p.wij i j * nth fs j, m.exp2 5 7))
  let q ← divFx 7 (m.exp 7) (a, m.exp 5) (p.wij i i, m.exp 5)
  let g ← clampWord 7 (nth fs i - q)
  if i % 3 = 0 then pure (max g 0)
  else
    let lim ← m.sum 7 [(sword (m.contact (p.act.getD (i / 3) 0)) 0x14 * nth fs (i / 3 * 3), m.exp 7 + unitExp)]
    pure (max (-lim) (min lim g))

/-- |a - b| saturating at 2^32 - 1 (R299). -/
def absDiff (a b : Int) : Nat := min (a - b).natAbs (2 ^ 32 - 1)

/-- One sweep over the rows in order: forces and residual (R291, R299). -/
def sweep (m : Img) (p : Prep) (fs : Vec) : Lane (Vec × Nat) :=
  (List.range fs.length).foldlM (fun t i => do
    let g ← sweepRow m p t.1 i
    pure (t.1.set i g, max t.2 (absDiff g (nth t.1 i)))) (fs, 0)

/-- Accelerations with the contact forces: a_free + Σ response_j·f_j (R291). -/
def csAccel (m : Img) (p : Prep) (fs : Vec) : Lane Vec :=
  build m.dof fun k =>
    let c := m.accClass.getD k 5
    m.sum c ((nth p.free k, m.exp c) :: (List.range fs.length).map fun j => (nth (p.resp.getD j []) k * nth fs j, m.exp2 c 7))

/-- World forces x, y, z of every contact; inactive ones report zero (R286, R291). -/
def contactForces (m : Img) (act : List Nat) (fs : Vec) : Vec :=
  (List.range m.contacts).flatMap fun c =>
    match act.findIdx? (· == c) with
    | none => [0, 0, 0]
    | some a => [nth fs (3 * a + 1), nth fs (3 * a + 2), nth fs (3 * a)]

/-! ## STEP (R292) -/

/-- A word moved by a rate of exponent `e` for the step length. -/
def stepWord (m : Img) (b : Batch) (d : Nat) (x : Int) (rate : Int) (e : Int) : Lane Int := do
  clampWord d (x + (← storeFx d (m.exp d) (rate * (fld b 0x30 4 : Int), e - 32)))

/-- A quaternion moved by ½·DT·(ω ⊗ q), not yet renormalised. -/
def stepQuat (m : Img) (b : Batch) (q o : Vec) : Lane Vec := do
  let rate ← build 4 fun k => m.sum 4 (rowTerms (m.exp 4 + unitExp) (quatRow (0 :: o) k) q)
  build 4 fun k => stepWord m b 0 (nth q k) (nth rate k) (m.exp 4 - 1)

/-- Positions of a link's coordinates after the step; a floating base's x, y, z move by its linear velocity in the world
(DEDUCED, log entry 10). -/
def stepLink (m : Img) (b : Batch) (w vs : Vec) (i : Nat) : Lane Vec := do
  let p := m.pIndex i
  let v := m.vIndex i
  if i = 0 then
    if m.floating then
      let q := (List.range 4).map fun k => m.pos w (3 + k)
      let rate ← rotate 3 (m.exp 3) (← rotOf q) (vs.take 3)
      let x ← build 3 fun k => stepWord m b 1 (m.pos w k) (nth rate k) (m.exp 3)
      pure (x ++ (← renorm (← stepQuat m b q ((vs.drop 3).take 3))))
    else pure []
  else if m.joint i = 1 then pure [← stepWord m b 2 (m.pos w p) (nth vs v) (m.exp 4)]
  else if m.joint i = 2 then pure [← stepWord m b 1 (m.pos w p) (nth vs v) (m.exp 3)]
  else if m.joint i = 3 then do renorm (← stepQuat m b ((List.range 4).map fun k => m.pos w (p + k)) ((vs.drop v).take 3))
  else pure []

/-- Semi-implicit Euler: velocities by the returned accelerations, then positions by the new velocities. -/
def integrate (m : Img) (b : Batch) (w acc : Vec) : Lane Vec := do
  let vs ← build m.dof fun k => stepWord m b (m.velClass.getD k 3) (m.vel w k) (nth acc k) (m.exp (m.accClass.getD k 5))
  pure ((← (List.range m.links).mapM (stepLink m b w vs)).flatten ++ vs)

/-! ## IK (R293) -/

/-- Links of the chain with a coordinate, ascending. -/
def ikLinks (m : Img) (b : Batch) : List Nat :=
  let ls := m.chain 64 b.ikLink
  (List.range m.links).filter fun i => ls.contains i && (m.joint i == 1 || m.joint i == 2)

def ikRows (b : Batch) : Nat := if b.orient then 6 else 3
def orientLen (b : Batch) : Int := sword b 0x4C

/-- The input record with the positions of an iterate. -/
def withPos (m : Img) (w q : Vec) : Vec := w.take 1 ++ q ++ w.drop (1 + m.nq)

/-- FK to IK_LINK: the chain's poses and the position of IK_POINT. -/
def ikLook (m : Img) (b : Batch) (w q : Vec) : Lane (List (Vec × Vec) × Vec) := do
  let ps ← worldPoses m (withPos m w q) fun i => (m.chain 64 b.ikLink).contains i
  let x := ps.getD b.ikLink ([], [])
  let r ← rotOf x.2
  let p ← build 3 fun k => m.sum 1 ((nth x.1 k, m.exp 1) :: rowTerms (m.exp 1 + unitExp) (r.getD k []) (wordsAt b 0x40 3))
  pure (ps, p)

/-- e: target − p, then 2·ORIENT_LEN·vec(q_t ⊗ q*). -/
def ikError (m : Img) (b : Batch) (w : Vec) (look_ : List (Vec × Vec) × Vec) : Lane Vec := do
  let t := w.drop (1 + m.nq + 2 * m.dof)
  let e ← build 3 fun k => clampWord 1 (nth t k - nth look_.2 k)
  if b.orient then
    let x ← quatMul ((t.drop 3).take 4) (← quatConj (look_.1.getD b.ikLink ([], [])).2)
    pure (e ++ (← build 3 fun k => m.sum 1 [(orientLen b * nth x (k + 1), m.exp 1 + unitExp + 1)]))
  else pure e

/-- The Jacobian column of a link's coordinate. -/
def ikColumn (m : Img) (b : Batch) (look_ : List (Vec × Vec) × Vec) (i : Nat) : Lane Vec := do
  let x := look_.1.getD i ([], [])
  let axis ← rotate 0 unitExp (← rotOf x.2) (m.axis i)
  if m.joint i = 2 then pure (axis ++ (if b.orient then [0, 0, 0] else []))
  else
    let lever ← build 3 fun k => clampWord 1 (nth look_.2 k - nth x.1 k)
    let p ← build 3 fun k => m.sum 1 (crossTerms (m.exp 1 + unitExp) axis lever k)
    if b.orient then pure (p ++ (← build 3 fun k => m.sum 1 [(nth axis k * orientLen b, m.exp 1 + unitExp)]))
    else pure p

/-- A product brought to the accumulators' exponent 2·EXP[1] (R289). -/
def toIk (m : Img) (t : Term) : Lane Int :=
  let k := m.exp2 1 1 - t.2
  if 0 < k then clamp64 (rne t.1 k.toNat) else shifted (m.exp2 1 1) t

/-- Sum over rows of two columns' products, as an accumulator. -/
def ikDot (m : Img) (x y : Vec) (e : Int) : Lane Int :=
  (x.zip y).foldlM (fun t p => do clamp64 (t + (← toIk m (p.1 * p.2, e)))) 0

/-- Exponent of a Jacobian column: LENGTH for REVOLUTE, UNIT for PRISMATIC (R289). -/
def ikColExp (m : Img) (i : Nat) : Int := if m.joint i = 2 then unitExp else m.exp 1

/-- One update: the new position words. -/
def ikUpdate (m : Img) (b : Batch) (w q : Vec) : Lane Vec := do
  let ls := ikLinks m b
  let n := ls.length
  let at_ (k : Nat) : Nat := ls.getD k 0
  let cls (k : Nat) : Nat := if m.joint (at_ k) = 2 then 1 else 2
  let l ← ikLook m b w q
  let e ← ikError m b w l
  let cols ← ls.mapM (ikColumn m b l)
  let col (k : Nat) : Vec := cols.getD k []
  let ex (k : Nat) : Int := ikColExp m (at_ k)
  let acc := m.exp2 1 1
  let a ← buildMat n n fun i j => do
    let x ← ikDot m (col i) (col j) (ex i + ex j)
    if i = j then clamp64 (x + (fld b 0x3C 4 : Int)) else pure x
  let z ← build n fun i => ikDot m (col i) e (ex i + m.exp 1)
  let fac ← factor false n (fun i j => (a.at_ i j, acc)) fun _ t => pure t
  let y ← (List.range n).foldlM (fun ys i => do
    let t ← accumulate ((nth z i, acc) :: (List.range i).map fun k => negTerm (unitMul (fac.at_ i k) (nth ys k, acc)))
    pure (ys ++ [t.1])) []
  let quot ← build n fun k => divFx (cls k) (m.exp (cls k)) (nth y k, acc) (fac.pivot k)
  let dq ← backSubst fac n cls m.exp quot
  (List.range n).foldlM (fun q k => do
    let i := at_ k
    let v ← clampWord (cls k) (nth q (m.pIndex i) + nth dq k)
    pure (q.set (m.pIndex i) (max (sword (m.link i) 0x54) (min (sword (m.link i) 0x58) v)))) q

/-- r_k of IK: the largest |e_j| at an iterate (R299). -/
def ikResidual (m : Img) (b : Batch) (w q : Vec) : Lane Nat := do
  pure ((← ikError m b w (← ikLook m b w q)).foldl (fun r x => max r (absDiff x 0)) 0)

/-! ## What a kind returns -/

/-- Output words of a single pass (R288). -/
def passOutput (m : Img) (b : Batch) (w : Vec) : Lane Vec := do
  if b.kind = 0 then fkOutput m w
  else if b.kind = 1 then idOutput m w
  else pure (← dynamics m w).coords

/-- Output words from the best iterate: for CS and STEP from its forces (R286, R296). -/
def envOutput (m : Img) (b : Batch) (w best : Vec) : Lane Vec := do
  if b.single || b.kind == 4 then pure best
  else
    let p ← prepare m b w
    let acc ← csAccel m p best
    let fs := contactForces m p.act best
    if b.kind = 3 then pure (acc ++ fs) else pure ((← integrate m b w acc) ++ fs)

end Sys2Proof.Machine
end

