-- ==== Sys2Proof/Machine/Records.lean ====
section
/-! DEFINITION. Completion records, mailbox responses, the shared ends of commands (06 R129-R135,
07 R164-R169). -/

namespace Sys2Proof.Machine

/-! ## Completion records -/

/-- The 32 bytes of a completion record (R164). A failed fetch has no descriptor: its fields read zero (R163). -/
def recordBytes (d : Disp) (phase : Bool) : List Byte :=
  let r := worstReport d.reports
  leBytes 4 (fld d.desc 4 4) ++ leBytes 2 d.sqIndex ++ leBytes 1 d.queue ++ leBytes 1 (fld d.desc 0 1) ++
    leBytes 1 r.status.code ++ leBytes 1 (b2n phase) ++ leBytes 2 r.site ++
    leBytes 4 r.detail ++ leBytes 8 d.started ++ leBytes 8 d.endedAt

/-- A TURNOVER that waits for a dispatch counts it when it ended other than DONE (R166, R171). -/
def turnoverCounts (d e : Disp) : Disp :=
  if fld e.desc 0 1 = 9 ∧ !e.ended ∧ e.tenant = d.tenant ∧ d.id < e.id ∧ (worstReport d.reports).status ≠ .done then
    { e with reports := e.reports ++ [{ site := 0xFFFF, status := .done, detail := 1 }] }
  else e

/-- The end of an EMBER_RUN can be observed: what its programs wrote is what everyone reads (R254). -/
def forgetRun (id : Nat) (m : Mem) : Mem := { m with races := m.races.filter fun x => !(x.queue == 17 && x.num == id) }

/-- A dispatch leaves INFLIGHT of its queue, one that is gone included (R174, R332). -/
def leaveInflight (s : State) (d : Disp) : State :=
  modMem (modWork (modQueue s d.tenant d.queue fun q => { q with inflight := q.inflight - 1 }) fun w =>
    { w with disps := (w.disps.filter (·.id != d.id)).map (turnoverCounts d) }) (forgetRun d.id)

/-- Write the record of a dispatch and let it leave (R165, R168, R169, R467, R174). -/
def writeRecord (s : State) (d : Disp) : State :=
  let q := queue s d.tenant d.queue
  if d.orphan then leaveInflight s d
  else
    let phase := q.cqTail < q.cqEntries
    let off := 32 * (q.cqTail % q.cqEntries)
    let s := (ringPost s d.tenant q.cqHbm q.cqBase off (recordBytes d phase)).2
    let s := countT s (0x80A + (worstReport d.reports).status.code) d.tenant 1
    let s := modQueue s d.tenant d.queue fun q => { q with cqTail := (q.cqTail + 1) % (2 * q.cqEntries) }
    let s := leaveInflight s d
    if q.irq || fld d.desc 1 1 % 2 = 1 then raiseVector s d.tenant (4 + d.queue) else s

/-! ## Mailbox responses -/

/-- Status codes of a response (R135). -/
inductive Rc where
  | ok | eArg | ePerm | eState | eNospace | eFault | eTimeout | eVersion | eProt | eBusy
deriving DecidableEq, Repr

def Rc.code : Rc → Nat
  | .ok => 0 | .eArg => 1 | .ePerm => 2 | .eState => 3 | .eNospace => 4 | .eFault => 5 | .eTimeout => 6
  | .eVersion => 7 | .eProt => 8 | .eBusy => 9

/-- A response message: header, payload, and unpredictable bytes after it (R134, R135). -/
def responseBytes (s : State) (fn : Nat) (t : Taken) (rc : Rc) (det : Nat) (payload : List Byte) : List Byte :=
  leBytes 2 (fld t.msg 0 2) ++ leBytes 2 (fld t.msg 2 2) ++
    leBytes 1 (fld t.msg 4 1 % 2 + 2 * b2n (t.slot == 255)) ++ leBytes 1 rc.code ++ leBytes 1 (mbx s fn).level ++
    leBytes 1 t.slot ++ leBytes 2 payload.length ++ leBytes 2 det ++ leBytes 4 (s.epoch.generation % 2 ^ 32) ++
    payload ++ (List.range (240 - payload.length)).map (Config.freeByte s.free)

/-- Response slots that hold an unconsumed response or are reserved for a taken request (R129). -/
def slotsUsed (m : Mbx) : Nat := (m.rspPi + 128 - m.rspCi) % 128 + (m.taken.filter fun t => t.slot != 255 && !t.discard).length

/-- Put a response in the next slot (R126, R129). -/
def postResponse (s : State) (fn : Nat) (bytes : List Byte) : State :=
  let s := modMbx s fn fun m =>
    { m with rsp := m.rsp.write (256 * (m.rspPi % 64)) bytes, rspPi := (m.rspPi + 1) % 128 }
  if (mbx s fn).irqEn then raiseVector s fn 0 else s

/-- The tenant a request's TENANT byte names: in a tenant's request 0 is the caller (R137). -/
def namedTenant (fn : Nat) (msg : List Byte) : Nat := if fn = 0 then fld msg 0x10 1 else fn

/-- Answer a taken request; an urgent response waits while no response slot is free (R129, R130, R133, R140). -/
def respond (s : State) (fn : Nat) (t : Taken) (rc : Rc) (det : Nat) (payload : List Byte) : State :=
  let bytes := responseBytes s fn t rc det payload
  let s := modMbx (bumpFree s) fn fun m => { m with taken := m.taken.filter (·.seq != t.seq) }
  let s := if rc = .eBusy then countT s 0x81E fn 1 else s
  let urgent := t.slot == 255
  if t.discard then (if urgent then modMbx s fn fun m => { m with urgBusy := false } else s)
  else if urgent && 64 ≤ slotsUsed (mbx s fn) then
    modMbx s fn fun m => { m with urgWaiting := some (if fld t.msg 0 2 = 0x105 then namedTenant fn t.msg else 0, bytes) }
  else
    let s := if urgent then modMbx s fn fun m => { m with urgBusy := false } else s
    postResponse s fn bytes

/-- Answer the request of function `fn` with number `seq`, if it is still held. -/
def respondTo (s : State) (fn seq : Nat) (rc : Rc) (det : Nat) (payload : List Byte) : State :=
  match (mbx s fn).taken.find? (·.seq == seq) with
  | none => s
  | some t => respond s fn t rc det payload

end Sys2Proof.Machine
end

