-- ==== Sys2Proof/Machine/SweepCore.lean ====
section
/-! DEFINITION. What Sweep shares with resets and sanitise: which region holds a word, poisoning, line-fault records and
spare-column repair (17 R367-R380). -/

namespace Sys2Proof.Machine

/-- Where a word lies: tenant, region number, region, region offset. -/
structure Home where
  tenant : Nat
  number : Nat
  region : Region
  offset : Nat
deriving DecidableEq, Repr

/-- Region offset of a slice word within a region, by its bank, row and word (inverse of R222). -/
def sliceOffset (r : Region) (site bank row word : Nat) : Option Nat :=
  match r.extents.findIdx? (·.unit == site) with
  | none => none
  | some k =>
    match r.extents[k]? with
    | none => none
    | some e =>
      match e.banks.findIdx? (· == bank) with
      | none => none
      | some i =>
        if r.hbm ∨ row < e.base ∨ e.base + e.count ≤ row then none
        else
          let loc := (row - e.base) * 2048 + word * 32
          let x := if r.bankLocal then i * e.count * 2048 + loc
                   else (loc / 256 * e.banks.length + i) * 256 + loc % 256
          if x < r.share then some (k * r.share + x) else none

/-- Region offset of an HBM word (inverse of R223). -/
def hbmOffset (r : Region) (pc addr : Nat) : Option Nat :=
  match r.extents.findIdx? (·.unit == pc) with
  | none => none
  | some k =>
    match r.extents[k]? with
    | none => none
    | some e =>
      if !r.hbm ∨ addr < e.base ∨ e.base + e.count ≤ addr then none
      else
        let loc := (addr - e.base) * 32
        some (if r.bankLocal then k * r.share + loc
              else (loc / 256 * r.extents.length + k) * 256 + loc % 256)

/-- The region that holds a word of a bank or of a pseudo-channel. -/
def homeOf (s : State) (hbm : Bool) (unit addr : Nat) : Option Home :=
  s.work.tenants.findSome? fun t => t.2.regions.findSome? fun r =>
    let o := if hbm then hbmOffset r.2 unit addr
      else sliceOffset r.2 unit (addr / Config.bankWords) (addr % Config.bankWords / 64) (addr % 64)
    o.map fun o => { tenant := t.1, number := r.1, region := r.2, offset := o }

/-- The place of a stored word as its region, if any, protects it. -/
def homePlace (h : Option Home) (hbm : Bool) (unit addr : Nat) : Place :=
  { hbm := hbm, unit := unit, addr := addr, die := match h with | some h => h.region.die && !hbm | none => false,
    key := match h with | some h => h.region.key | none => 0 }

/-- Sweep may visit the word (R367). -/
def eligible (s : State) (h : Option Home) (hbm : Bool) (unit : Nat) : Bool :=
  match h with
  | some h => h.region.init.contains (h.offset / 65536)
  | none => !hbm && s.mem.sanitised.contains unit && (ownerOf s unit).isNone

/-- Tenant a Sweep record names (R468), none without an owner. -/
def homeTenant (s : State) (h : Option Home) (hbm : Bool) (unit : Nat) : Option Nat :=
  if hbm then h.map (·.tenant) else ownerOf s unit

def homeAddr (h : Option Home) : Nat :=
  match h with | some h => 2 ^ 48 * h.number + h.offset | none => 2 ^ 64 - 1

/-- Poison a word as stored, with its POISON records (R233, R371). -/
def poisonPlace (s : State) (p : Place) (h : Option Home) : State :=
  match stored? s p with
  | none => s
  | some w =>
    let synd := syndrome w p.cover
    let t := homeTenant s h p.hbm p.unit
    let s := modMem s fun m =>
      if p.hbm then { m with hbm := put m.hbm p.index (poisonWord w p.cover) }
      else { m with slice := put m.slice p.index (poisonWord w p.cover) }
    let alerts := match t with | some n => if (tenant s n).poisonNotify then [n] else [] | none => []
    raiseAsh s 3 (placeSource p) (t.getD 0xFF) 3 (memDetail p (homeAddr h) 0xFF synd) (adminAnd t) alerts

/-- Subarray key of Mem.erasures and Mem.sparesUsed. -/
def subKey (site bank sub : Nat) : Nat := 12 * (128 * site + bank) + sub

/-- DETAIL of a LINE_FAULT or REPAIR record (R391). -/
def lineDetail (s : State) (f : LineFault) (notMarked noSpare : Bool) : List Byte :=
  detail [(0, 8, homeAddr (homeOf s false f.site f.addr)), (8, 4, f.addr), (12, 2, f.bank), (14, 1, 0xFF),
    (15, 1, 2 * b2n notMarked + 4 * b2n noSpare), (16, 2, f.syndrome.toNat), (18, 2, f.d), (20, 1, f.u),
    (21, 1, f.subarray), (22, 2, f.rows)]

def lineRecord (s : State) (ty : Nat) (f : LineFault) (notMarked noSpare : Bool) (alerts : List Nat) : State :=
  let t := ownerOf s f.site
  raiseAsh s ty f.site (t.getD 0xFF) 0 (lineDetail s f notMarked noSpare) (adminAnd t) alerts

/-- Step 1 of R379 for one row: copy the bit as corrected or as read; a bad eligible word is poisoned after the switch. -/
def repairRow (s : State) (f : LineFault) (row : Nat) : State × Option (Place × Option Home) :=
  let addr := Config.bankWords * f.bank + 64 * row + f.u
  let h := homeOf s false f.site addr
  let p := homePlace h false f.site addr
  match stored? s p with
  | none => (s, none)
  | some w =>
    let ok := eligible s h false f.site
    let bit (d : Line) : StoredWord :=
      { w with data := if d.getLsbD f.d = w.data.getLsbD f.d then w.data else w.data ^^^ (1#256 <<< f.d) }
    let store (s : State) (x : StoredWord) : State := modMem s fun m => { m with slice := put m.slice p.index x }
    match placeClass s p w with
    | .corrected fl =>
      let s' := if ok && some fl != (erasureOf s p).map ([·]) then
        raiseBucket s p (ownerOf s f.site) (homeAddr h) 0xFF (syndrome w p.cover) else s
      (store s' (bit (flipData w.data fl)), none)
    | .address | .ue => (s, if ok then some (p, h) else none)
    | _ => (s, none)

/-- A unit leaves service: it is fenced, its change waits for its publication, and the repairs of its banks are
dropped (R49, R376). -/
def fenceUnit (s : State) (u : FieldUnit) : State :=
  let gone (f : LineFault) : Bool :=
    match u with
    | .bank site b => f.site == site && f.bank == b
    | .hearth site => f.site == site
    | _ => false
  modMem (modFpt s fun f => { f with waiting := f.waiting ++ [{ unit := u, selfTest := false, at_ := now s }] }) fun m =>
    { m with repairs := m.repairs.filter fun f => !gone f }

/-- One spare-column repair (R379). -/
def repairOne (s : State) (f : LineFault) : State :=
  let k := subKey f.site f.bank f.subarray
  let s := modMem s fun m => { m with repairs := m.repairs.filter (· != f) }
  if 4 ≤ lookD 0 s.mem.sparesUsed k then
    fenceUnit (lineRecord s 5 f false true []) (.bank f.site f.bank)
  else
    let r := (List.range 512).foldl (fun (r : State × List (Place × Option Home)) i =>
      let x := repairRow r.1 f (512 * f.subarray + i)
      (x.1, match x.2 with | some p => r.2 ++ [p] | none => r.2)) (s, [])
    let s := modMem r.1 fun m =>
      { m with sparesUsed := put m.sparesUsed k (lookD 0 m.sparesUsed k + 1),
               erasures := if look m.erasures k = some (f.d, f.u) then del m.erasures k else m.erasures }
    lineRecord (r.2.foldl (fun s p => poisonPlace s p.1 p.2) s) 5 f false false []

/-- A repair is carried out unless its bank has left service meanwhile (R367, R376). -/
def repairNext (s : State) (f : LineFault) : State :=
  if s.mem.repairs.contains f && bankLive s f.site f.bank then repairOne s f else s

/-- Repairs of the banks of a site, at most `limit` for each bank (R378). -/
def repairSite (s : State) (site limit : Nat) : State :=
  (List.range 128).foldl (fun s b =>
    ((s.mem.repairs.filter fun f => f.site == site && f.bank == b).take limit).foldl repairNext s) s

end Sys2Proof.Machine
end

