-- ==== Sys2Proof/Machine/Tiles.lean ====
section
/-! DEFINITION. What a matrix tile, a vector item, a DMA transfer and a stream item do to staging and memory
(08 R180-R190, 09 R203-R208). Each answers what went wrong, if anything; the families' rows do the rest. -/

namespace Sys2Proof.Machine

/-- A field of an item block. -/
def Item.f (it : Item) (off n : Nat) : Nat := fld it.block off n

/-- Size rounded up to whole 32-byte words. -/
def up32 (n : Nat) : Nat := (n + 31) / 32 * 32

/-- Status of an uncorrectable outcome for a requester with "POISONED if POISONED" (R382). -/
def ueStatus (reason : Nat) : Status := if reason = 3 then .poisoned else .busError

/-! ## Matrix tiles (R185-R190, R203) -/

/-- A matrix item block. -/
structure Tile where
  format : Nat
  quad : Nat
  keep : Bool
  serial : Bool
  zeroC0 : Bool
  fromPages : Bool
  status : Bool
  fp8 : Nat
  m : Nat
  n : Nat
  pitch : Nat
  kg : Nat
  a : Nat
  c : Nat
  w : Nat
  page : Nat
  statusAddr : Nat
deriving DecidableEq, Repr

def tileOf (b : List Byte) : Tile :=
  let o := fld b 1 1
  let n := 16 * fld b 4 1
  { format := fld b 0 1, quad := o % 8, keep := o / 8 % 2 = 1, serial := o / 16 % 2 = 1, zeroC0 := o / 32 % 2 = 1,
    fromPages := o / 64 % 2 = 1, status := o / 128 % 2 = 1, fp8 := fld b 2 1, m := fld b 3 1, n := n,
    pitch := if fld b 5 1 = 0 then 4 * n else 128 * fld b 5 1, kg := fld b 6 2, a := fld b 8 4, c := fld b 0xC 4,
    w := fld b 0x10 8, page := fld b 0x18 4, statusAddr := fld b 0x1C 4 }

/-- K per granule (R185). -/
def Tile.granule (t : Tile) : Nat := if t.format = 0 then 32 else if t.format = 3 then 4 else 16
def Tile.k (t : Tile) : Nat := t.kg * t.granule
/-- Bytes of an A row or a W column (R186, R203). -/
def Tile.rowBytes (t : Tile) : Nat :=
  up32 (if t.format = 0 then 17 * t.kg else if t.format = 3 then 2 * t.k else t.k)
def Tile.wBytes (t : Tile) : Nat := t.n * t.rowBytes

/-- Element `i` of an I4B row, and the scale of a block of a row of `kg` blocks (R186). -/
def i4bAt (row : List Byte) (i : Nat) : Int :=
  let b := (row.getD (544 * (i / 1024) + i % 1024 / 2) 0).toNat
  signed 4 (if i % 2 = 0 then b % 16 else b / 16)
def i4bScaleAt (kg : Nat) (row : List Byte) (blk : Nat) : Int :=
  let g := blk / 32
  signed 8 (row.getD (544 * g + 16 * min 32 (kg - 32 * g) + blk % 32) 0).toNat

/-- Element `i` of a row in INT8, FP8 or BF16 (R187). -/
def elemAt (fmt : Fmt) (row : List Byte) (i : Nat) : Fp :=
  match fmt with
  | .bf16 => Fmt.bf16.widen (fld row (2 * i) 2)
  | f => f.widen (row.getD i 0).toNat

/-- Accumulator after granule `g` for a floating format (R188). -/
def fpGranule (t : Tile) (fa fw : Fmt) (row col : List Byte) (acc : BitVec 32) (g : Nat) : BitVec 32 :=
  let s := exactSum ((List.range t.granule).map fun x =>
    exactMul (elemAt fa row (t.granule * g + x)) (elemAt fw col (t.granule * g + x)))
  round32 (exactSum [dec32 acc, s])

/-- The same for I4B: the integer block sum times 2^(Ea+Ew). -/
def i4bGranule (t : Tile) (row col : List Byte) (acc : BitVec 32) (g : Nat) : BitVec 32 :=
  let s := (List.range 32).foldl (fun z x => z + i4bAt row (32 * g + x) * i4bAt col (32 * g + x)) 0
  round32 (exactSum [dec32 acc, .fin (s < 0) s.natAbs (i4bScaleAt t.kg row g + i4bScaleAt t.kg col g)])

/-- The same for INT8, saturating (R189). -/
def intGranule (row col : List Byte) (acc : Int × Bool) (g : Nat) : Int × Bool :=
  let e (b : Byte) : Int := signed 8 b.toNat
  let v := acc.1 + (List.range 16).foldl (fun z x => z + e (row.getD (16 * g + x) 0) * e (col.getD (16 * g + x) 0)) 0
  (clampInt (-(2 ^ 31)) (2 ^ 31 - 1) v, acc.2 || v != clampInt (-(2 ^ 31)) (2 ^ 31 - 1) v)

/-- One output element and whether it saturated. -/
def tileElem (t : Tile) (row col : List Byte) (c0 : BitVec 32) : BitVec 32 × Bool :=
  let gs := List.range t.kg
  if t.format = 0 then (gs.foldl (i4bGranule t row col) c0, false)
  else if t.format = 1 then
    let r := gs.foldl (intGranule row col) (c0.toInt, false)
    (BitVec.ofInt 32 r.1, r.2)
  else
    let fa : Fmt := if t.format = 3 then .bf16 else if t.fp8 % 2 = 1 then .e5m2 else .e4m3
    let fw : Fmt := if t.format = 3 then .bf16 else if t.fp8 / 2 % 2 = 1 then .e5m2 else .e4m3
    (gs.foldl (fpGranule t fa fw row col) c0, false)

/-- NaN or infinity. -/
def special32 (v : BitVec 32) : Bool := v &&& 0x7F800000#32 == 0x7F800000#32

/-- Bytes of a C row, whether any element saturated, whether any is NaN or infinity. -/
def tileRow (t : Tile) (row : List Byte) (w c0 : List Byte) : List Byte × Bool × Bool :=
  (List.range t.n).foldl (fun r j =>
    let e := tileElem t row (slice w (j * t.rowBytes) t.rowBytes) (BitVec.ofNat 32 (fld c0 (4 * j) 4))
    (r.1 ++ leBytes 4 e.1.toNat, r.2.1 || e.2, r.2.2 || (t.format != 1 && special32 e.1))) ([], false, false)

/-- Slice word addresses of the words of a share span (R222). -/
def shareWords (r : Region) (e : Extent) (x n : Nat) : List Nat :=
  (List.range ((n + 31) / 32)).map fun i => (sharePlace r e (x + 32 * i)).addr

/-- Read bytes at a share address of a site (R202). -/
def readShare (s : State) (t site a len : Nat) (req : Req) : Span × State :=
  match region? s t (regionOf a) with
  | none => (.prot, s)
  | some r =>
    match shareToRegion r site (offsetOf a) with
    | none => (.prot, s)
    | some o => if offsetOf a + len ≤ r.share then readSpan s t (2 ^ 48 * regionOf a + o) len req else (.prot, s)

/-- The pages a KEEP tile marks, from page `p` on: each holds the words of its 4 KiB of the span (R182). -/
def keepPages (r : Region) (e : Extent) (x n p : Nat) (wp : SMap WeightPage) : SMap WeightPage :=
  (List.range ((n + 4095) / 4096)).foldl (fun wp i =>
    put wp (p + i) { words := shareWords r e (x + 4096 * i) (min 4096 (n - 4096 * i)), die := r.die, valid := true }) wp

/-- Refill one invalidated page from its recorded words; false when one is uncorrectable (R183). -/
def refillPage (s : State) (site p : Nat) (wp : WeightPage) (r : Req) : Option Nat × State :=
  let rec go (s : State) (a : Nat) : List Nat → Option Nat × State
    | [] => (none, s)
    | w :: rest =>
      let pl : Place := { hbm := false, unit := site, addr := w, die := wp.die, key := 0 }
      match readPlace s pl r ((ownerOf s site).getD 0) (homeAddr (homeOf s false site w)) with
      | (.bad k, s) => (some k, s)
      | (.data d, s) => go (modHearth s site fun h =>
          { logStaging s.free site a 32 r h with
              staging := h.staging.write a (lineBytes d),
              stagingBad := h.stagingBad.filter fun u => !unitWithin a 32 u,
              stagingSoft := h.stagingSoft.filter fun u => !unitWithin a 32 u }) (a + 32) rest
  match go s (4096 * p) wp.words with
  | (none, s) => (none, countAt (modHearth s site fun h => { h with weightPages := put h.weightPages p { wp with valid := true } })
      0x10F site 1)
  | x => x

/-- Refill every invalidated page among those a tile names (R183). -/
def refillPages (s : State) (site : Nat) (r : Req) : List Nat → Option Nat × State
  | [] => (none, s)
  | p :: rest =>
    match look (hearth s site).weightPages p with
    | some wp => if wp.valid then refillPages s site r rest else
        match refillPage s site p wp r with
        | (none, s) => refillPages s site r rest
        | x => x
    | none => refillPages s site r rest

/-- The weights of a tile: from its pages, the invalidated ones refilled first, or streamed from the slice (R182, R183, R191). -/
def tileWeights (s : State) (site tn : Nat) (t : Tile) (r : Req) : Span × State :=
  if t.fromPages then
    match refillPages s site r (pagesOf t.page t.wBytes) with
    | (some k, s) => (.bad k, s)
    | (none, s) =>
      match stRead (countAt s 0x10E site (t.wBytes / 32)) site t.page t.wBytes r with
      | (some b, s) => (.bytes b, s)
      | (none, s) => (.bad 5, s)
  else readShare (countAt s 0x10D site (t.wBytes / 32)) tn site t.w t.wBytes r

/-- Rows of C, computed and written in order. -/
def tileRows (s : State) (site : Nat) (t : Tile) (a w : List Byte) (c0 : List (List Byte)) (q : Req) : State × Bool × Bool :=
  (List.range t.m).foldl (fun r i =>
    let row := tileRow t (slice a (i * t.rowBytes) t.rowBytes) w (c0.getD i (List.replicate (4 * t.n) 0#8))
    (stWrite r.1 site (t.c + i * t.pitch) row.1 q, r.2.1 || row.2.1, r.2.2 || row.2.2)) (s, false, false)

/-- Read the initial accumulators row by row; none on an uncorrectable word. -/
def tileC0 (s : State) (site : Nat) (t : Tile) (r : Req) : Nat → Option (List (List Byte)) × State
  | 0 => (some [], s)
  | i + 1 =>
    match tileC0 s site t r i with
    | (none, s) => (none, s)
    | (some l, s) =>
      match stRead s site (t.c + i * t.pitch) (4 * t.n) r with
      | (some b, s) => (some (l ++ [b]), s)
      | (none, s) => (none, s)

/-- A tile from its operands to C, KEEP pages, status word and STICKY (R182, R188, R189, R203). -/
def tileEffect (s : State) (site tn : Nat) (it : Item) : Option Status × State :=
  let t := tileOf it.block
  let q := byItem 0 site 0 it.num
  match tileWeights s site tn t q with
  | (.prot, s) => (some .prot, s)
  | (.bad k, s) => (some (ueStatus k), s)
  | (.bytes w, s) =>
    match stRead s site t.a (t.m * t.rowBytes) q with
    | (none, s) => (some .busError, s)
    | (some a, s) =>
      match (if t.zeroC0 then (some [], s) else tileC0 s site t q t.m) with
      | (none, s) => (some .busError, s)
      | (some c0, s) =>
        let r := tileRows s site t a w c0 q
        let s := r.1
        let s := if t.keep then
            let s := stWrite s site t.page w q
            match (region? s tn (regionOf t.w)) with
            | none => s
            | some g =>
              match extentOn g site with
              | none => s
              | some e => modHearth s site fun h =>
                { h with weightPages := keepPages g e (offsetOf t.w) t.wBytes (t.page / 4096) h.weightPages }
          else s
        let s := if t.status then stWrite s site t.statusAddr (leBytes 8 (pack [(0, b2n r.2.1), (1, b2n r.2.2), (2, it.quad)])) q
          else s
        let s := if r.2.1 then modHearth s site fun h => { h with sticky := setBit h.sticky 0 true } else s
        (none, countAt s 0x108 site 1)

/-! ## Vector items (R205) -/

/-- Elements of an FP32 array in staging bytes. -/
def elems (bs : List Byte) : Nat → List (BitVec 32)
  | 0 => []
  | n + 1 => BitVec.ofNat 32 (leNat (bs.take 4)) :: elems (bs.drop 4) n

def elemBytes (l : List (BitVec 32)) : List Byte := l.flatMap fun v => leBytes 4 v.toNat

/-- CVT of one row (R190, R203). -/
def cvtRow (fmt : Nat) (row : List (BitVec 32)) : List Byte :=
  if fmt = 5 then
    let gs := (row.length + 1023) / 1024
    let bs := (List.range gs).flatMap fun g =>
      let part := (row.drop (1024 * g)).take 1024
      i4bRun part (part.length / 32)
    bs ++ List.replicate (up32 bs.length - bs.length) 0#8
  else
    let f : Fmt := if fmt = 0 then .fp32 else if fmt = 1 then .bf16 else if fmt = 2 then .e4m3
      else if fmt = 3 then .e5m2 else .int8
    let w := if fmt = 0 then 4 else if fmt = 1 then 2 else 1
    row.flatMap fun v => leBytes w (f.narrow (dec32 v))

/-- Operand arrays that an OP reads: B elements and C elements (R205). -/
def vecB (op rows cols : Nat) : Nat :=
  if op ≤ 5 then rows * cols else if op = 7 then rows else if op = 8 then cols else 0

/-- The bytes of D for an OP over its operands (R205). RSUM rounds once, like every element result (DEDUCED, log entry 24). -/
def vectorResult (it : Item) (op rows cols : Nat) (a b c : List (BitVec 32)) (table : List Byte) : List Byte :=
  let z : BitVec 32 := 0
  let at_ (l : List (BitVec 32)) (i : Nat) := l.getD i z
  let map1 (f : BitVec 32 → BitVec 32) := elemBytes (a.map f)
  let map2 (f : BitVec 32 → BitVec 32 → BitVec 32) := elemBytes ((a.zip b).map fun p => f p.1 p.2)
  let row (i : Nat) := (a.drop (i * cols)).take cols
  if op = 0 then map2 add32 else if op = 1 then map2 sub32 else if op = 2 then map2 mul32
  else if op = 3 then map2 max32 else if op = 4 then map2 min32
  else if op = 5 then elemBytes ((a.zip (b.zip c)).map fun p => fma32 p.1 p.2.1 p.2.2)
  else if op = 6 then map1 fun x => fma32 x (BitVec.ofNat 32 (it.f 0x18 4)) (BitVec.ofNat 32 (it.f 0x1C 4))
  else if op = 7 then elemBytes ((List.range (rows * cols)).map fun i => mul32 (at_ a i) (at_ b (i / cols)))
  else if op = 8 then elemBytes ((List.range (rows * cols)).map fun i => mul32 (at_ a i) (at_ b (i % cols)))
  else if op = 9 then map1 (act32 table)
  else if op = 0xA then map1 rsqrt32
  else if op = 0xB then elemBytes ((List.range rows).map fun i => round32 (exactSum ((row i).map dec32)))
  else if op = 0xC then elemBytes ((List.range rows).map fun i =>
    match row i with | [] => z | x :: t => t.foldl max32 (max32 x x))
  else if op = 0xD then (List.range rows).flatMap fun i => cvtRow (it.f 1 1) (row i)
  else map1 cvti32

/-- One vector item: reads, computes, writes D, sets NAN_CVT (R205). -/
def vectorEffect (s : State) (site : Nat) (it : Item) : Option Status × State :=
  let op := it.f 0 1
  let rows := it.f 4 2
  let cols := it.f 6 2
  let n := rows * cols
  let r := byItem 2 site 1 it.num
  match stRead s site (it.f 8 4) (4 * n) r with
  | (none, s) => (some .busError, s)
  | (some a, s) =>
    match stRead s site (it.f 0xC 4) (if op = 9 then 544 else 4 * vecB op rows cols) r with
    | (none, s) => (some .busError, s)
    | (some b, s) =>
      match stRead s site (it.f 0x10 4) (if op = 5 then 4 * n else 0) r with
      | (none, s) => (some .busError, s)
      | (some c, s) =>
        let ae := elems a n
        let d := vectorResult it op rows cols ae (elems b (vecB op rows cols)) (elems c (if op = 5 then n else 0)) b
        let s := stWrite s site (it.f 0x14 4) d r
        let nan := op = 0xD ∧ ae.any fun v => dec32 v = .nan
        (none, if nan then modHearth s site fun h => { h with sticky := setBit h.sticky 1 true } else s)

/-! ## DMA (R203, R382) -/

/-- One side of a DMA transfer read: staging or a region. -/
def dmaSide (s : State) (site tn kind a n : Nat) (req : Req) : Span × State :=
  if kind = 0 then
    match stRead s site a n req with
    | (some b, s) => (.bytes b, s)
    | (none, s) => (.bad 5, s)
  else readSpan s tn a n req

/-- Words of a DMA transfer moved in ascending order; false when the channel halts (R208, R382). -/
def dmaWords (site tn : Nat) (it : Item) (r : Req) : Nat → State → Nat → Bool × State
  | 0, s, _ => (true, s)
  | n + 1, s, o =>
    match dmaSide s site tn (it.f 0x18 1) (it.f 0 8 + o) 32 r with
    | (.bytes b, s) =>
      if it.f 0x19 1 = 0 then dmaWords site tn it r n (stWrite s site (it.f 8 8 + o) b r) (o + 32)
      else
        match writeSpan s tn (it.f 8 8 + o) b r with
        | (.ok, s) => dmaWords site tn it r n s (o + 32)
        | (_, s) => (false, s)
    | (_, s) => (false, s)

def dmaEffect (s : State) (site tn ch : Nat) (it : Item) : Bool × State :=
  let n := it.f 0x10 8 / 32
  dmaWords site tn it (byItem 3 site (8 + ch) it.num) n (countAt s (0x50C + ch) site n) 0

/-! ## Stream items (R206) -/

/-- The other site of a stream item, by its indices within the rectangle of the recipe. -/
def streamSite (h : Hearth) (row col : Nat) : Option Nat :=
  if col < h.rectCols then h.rect[row * h.rectCols + col]? else none

/-- Copy of a stream item between two sites' staging; the direction's source may be uncorrectable (R206, R208). -/
def streamEffect (s : State) (site other : Nat) (it : Item) : Option Status × State :=
  let n := it.f 0xC 4
  let push := it.f 0 1 = 0
  let src := if push then site else other
  let srcA := if push then it.f 4 4 else it.f 8 4
  let r := byItem 2 site 2 it.num
  match stRead s src srcA n r with
  | (none, s) => (some .busError, s)
  | (some b, s) =>
    if push then
      let s := stWrite s other (it.f 8 4) b r
      let f := it.f 3 1
      let s := modHearth s other fun h => { h with arrival := putD 0 h.arrival f ((lookD 0 h.arrival f + 1) % 2 ^ 32) }
      (none, countAt (countAt s 0x00D site 1) 0x00F other 1)
    else (none, countAt (stWrite s site (it.f 4 4) b r) 0x00E site 1)

/-! ## Running items that a reader overtook (R178) -/

/-- Tiles and transfers that run on a site and that an item, or the sequencer, has overtaken, as (queue, item). -/
def overtaken (s : State) (site q num : Nat) : List (Nat × Item) :=
  let h := hearth s site
  h.queues.flatMap fun e => if e.1 = 0 ∨ 8 ≤ e.1 then
      (e.2.filter fun i => i.started && !i.done && overtakes h q num e.1 i.num).map fun i => (e.1, i)
    else []

/-- What such an item is writing stands beside the words as they are. -/
def foresee (site : Nat) (s : State) (e : Nat × Item) : State :=
  let tn := (hearth s site).tenant
  let t := if e.1 = 0 then (tileEffect s site tn e.2).2 else (dmaEffect s site tn (e.1 - 8) e.2).2
  let h := hearth t site
  let lines := (h.races.filter fun x => x.queue == e.1 && x.num == e.2.num).map fun x =>
    { x with line := bytesLine (h.staging.read t.free (32 * x.word) 32) }
  let words := (t.mem.races.filter fun x => x.site == site && x.queue == e.1 && x.num == e.2.num).map fun x =>
    { x with word := (look (if x.hbm then t.mem.hbm else t.mem.slice) x.index).getD x.word }
  modMem (modHearth s site fun h => { h with races := h.races ++ lines }) fun m => { m with races := m.races ++ words }

/-- It has not written yet. -/
def unforesee (site : Nat) (s : State) (e : Nat × Item) : State :=
  modMem (modHearth s site fun h => { h with races := h.races.filter fun x => !(x.queue == e.1 && x.num == e.2.num) })
    fun m => { m with races := m.races.filter fun x => !(x.site == site && x.queue == e.1 && x.num == e.2.num) }

/-- What an item, or the sequencer, does while items that it has overtaken run. -/
def amid {α : Type} (s : State) (site q num : Nat) (f : State → α × State) : α × State :=
  match overtaken s site q num with
  | [] => f s
  | es =>
    let x := f (es.foldl (foresee site) s)
    (x.1, es.foldl (unforesee site) x.2)

/-- The items of the engines, each amid what it has overtaken. -/
def runTile (s : State) (site : Nat) (it : Item) : Option Status × State :=
  amid s site 0 it.num fun s => tileEffect s site (hearth s site).tenant it
def runVector (s : State) (site : Nat) (it : Item) : Option Status × State :=
  amid s site 1 it.num fun s => vectorEffect s site it
def runStream (s : State) (site other : Nat) (it : Item) : Option Status × State :=
  amid s site 2 it.num fun s => streamEffect s site other it
def runDma (s : State) (site ch : Nat) (it : Item) : Bool × State :=
  amid s site (8 + ch) it.num fun s => dmaEffect s site (hearth s site).tenant ch it

end Sys2Proof.Machine
end

