-- ==== Sys2Proof/Machine/EmberCore.lean ====
section
/-! DEFINITION. Ember programs: their checks, the embers and banks of a span, plane words, the merge buffer, and the
end of a program on an ember (11 R242-R256). -/

namespace Sys2Proof.Machine

/-! ## Micro-operations (R244, R245) -/

abbrev MicroOp := BitVec 32

def MicroOp.opc (u : MicroOp) : Nat := u.toNat / 2 ^ 28
def MicroOp.rd (u : MicroOp) : Nat := u.toNat / 2 ^ 25 % 8
def MicroOp.ra (u : MicroOp) : Nat := u.toNat / 2 ^ 22 % 8
def MicroOp.rb (u : MicroOp) : Nat := u.toNat / 2 ^ 19 % 8
def MicroOp.plane (u : MicroOp) : Nat := u.toNat / 2 ^ 16 % 8
def MicroOp.param (u : MicroOp) : Nat := u.toNat / 2 ^ 17 % 4
def MicroOp.one (u : MicroOp) : Bool := u.toNat / 2 ^ 16 % 2 == 1
def MicroOp.fmt (u : MicroOp) : Nat := u.toNat / 2 ^ 14 % 4
def MicroOp.target (u : MicroOp) : Nat := u.toNat % 32

/-- Bits an opcode uses; every other bit is zero (R245). -/
def microMask (opc : Nat) : Nat :=
  let rd := 7 * 2 ^ 25
  let ra := 7 * 2 ^ 22
  let rb := 7 * 2 ^ 19
  let pl := 7 * 2 ^ 16
  let fm := 3 * 2 ^ 14
  0xF0000000 + (if opc = 1 then rd + pl + fm else if opc = 2 then ra + pl + fm
    else if opc = 3 ∨ opc = 4 ∨ opc = 5 then rd + ra + rb else if opc = 6 then rd + ra + pl
    else if opc = 7 then rd + ra else if opc = 8 then rd + ra + fm else if opc = 9 then rd + ra + pl
    else if opc = 0xA then 31 else 0)

def emberFmt (f : Nat) : Fmt := if f = 0 then .fp32 else if f = 1 then .bf16 else if f = 2 then .e4m3 else .int8
/-- sh(f) of R246. -/
def emberSh (f : Nat) : Nat := if f = 0 then 0 else if f = 1 then 1 else 2

/-- Header and micro-operations of a program as read. -/
def progCount (b : List Byte) : Nat := fld b 0 1
def progPlane (b : List Byte) (k : Nat) : Nat := fld b (4 + 2 * (k - 1)) 2
def progOps (b : List Byte) : List MicroOp := (List.range (progCount b)).map fun j => BitVec.ofNat 32 (fld b (0x20 + 4 * j) 4)

/-- Formats with which a program uses plane `k`. -/
def planeFmts (ops : List MicroOp) (k : Nat) : List Nat :=
  (ops.filter fun u => (u.opc == 1 || u.opc == 2) && u.plane == k).map MicroOp.fmt

/-- First row of R249. -/
def progShapeOk (b : List Byte) : Bool :=
  let ops := progOps b
  1 ≤ progCount b && progCount b ≤ 32 && zeros b 1 3 && zeros b 0x12 14 &&
  ((List.range ops.length).all fun j =>
    let u := ops.getD j 0
    u.opc ≤ 0xA && u &&& BitVec.ofNat 32 (microMask u.opc) == u && (u.opc != 0xA || u.target < j)) &&
  ops.any fun u => u.opc == 0

/-- Second row: every plane used is named, and used with one format. -/
def progPlanesOk (b : List Byte) : Bool :=
  let ops := progOps b
  (List.range 8).all fun k =>
    let fs := planeFmts ops k
    fs.isEmpty || ((k == 0 || progPlane b k != 0xFFFF) && fs.all fun f => some f == fs.head?)

/-- The planes a program uses, plane 0 always. -/
def usedPlanes (b : List Byte) : List Nat := (List.range 8).filter fun k => k == 0 || !(planeFmts (progOps b) k).isEmpty

/-! ## Spans on banks (R161, R222, R246) -/

/-- Words of a share span [x, x+len) on each bank of an extent: (bank, first bank-local word, words). -/
def bankSpan (r : Region) (e : Extent) (x len : Nat) : List (Nat × Nat × Nat) :=
  let nb := e.banks.length
  (List.range nb).filterMap fun i =>
    let bank := e.banks.getD i 0
    if r.bankLocal then
      let per := e.count * 2048
      let lo := max x (per * i)
      let hi := min (x + len) (per * (i + 1))
      if lo < hi then some (bank, (lo - per * i) / 32, (hi - lo) / 32) else none
    else
      -- bytes of bank i below share offset y
      let below (y : Nat) : Nat :=
        let line := y / 256
        (line / nb + (if i < line % nb then 1 else 0)) * 256 + (if line % nb = i then y % 256 else 0)
      let lo := below x
      let hi := below (x + len)
      if lo < hi then some (bank, lo / 32, (hi - lo) / 32) else none

/-- Sites on which a region span [o, o+len) lies, with the share span on each: (site, share offset, length). -/
def siteSpans (r : Region) (o len : Nat) : List (Nat × Nat × Nat) :=
  (List.range r.extents.length).filterMap fun k =>
    let lo := max o (k * r.share)
    let hi := min (o + len) ((k + 1) * r.share)
    match r.extents[k]? with
    | none => none
    | some e => if lo < hi then some (e.unit, lo - k * r.share, hi - lo) else none

/-- Sites and share spans of an EMBER_RUN descriptor (R161). -/
def runSpans (s : State) (t : Nat) (b : List Byte) : List (Nat × Nat × Nat) :=
  match region? s t (fld b 8 2) with
  | none => []
  | some r => siteSpans r (fld b 0x18 8) (fld b 0x20 8)

/-- Embers serving banks of a share span on a site, ascending. -/
def spanEmbers (r : Region) (site x len : Nat) : List Nat :=
  match extentOn r site with
  | none => []
  | some e =>
    let bs := (bankSpan r e x len).map fun b => b.1 / 4
    (List.range 32).filter bs.contains

/-- The word of bank-local index `i` of a plane on one bank (R222, R246). -/
def planePlace (r : Region) (e : Extent) (bank i : Nat) : Place :=
  { hbm := false, unit := e.unit, addr := Config.bankWords * bank + 64 * e.base + i, die := r.die, key := 0 }

/-- The highest iteration in which a program of `n` words on a bank uses plane `k`: the last of the loop, or later ones behind LOOPs that
have fallen through; nothing behind an END runs (R246). -/
def lastIter (ops : List MicroOp) (k n : Nat) : Nat :=
  let run := ops.takeWhile fun u => u.opc != 0
  let past := (List.range run.length).map fun j =>
    let u := run.getD j 0
    let loops := ((run.take j).filter fun v => v.opc == 0xA).length
    if (u.opc == 1 || u.opc == 2) && u.plane == k && loops != 0 then n + loops - 1 else 0
  past.foldl max (n - 1)

/-- A plane has plane 0's bank list on every site (R253). -/
def sameBanks (r0 rk : Region) : Bool :=
  r0.extents.all fun e => match extentOn rk e.unit with | some x => e.banks == x.banks | none => false

/-- The highest index of plane `k` on the banks of a site's span lies in the plane (R253). -/
def planeFits (r0 rk : Region) (ops : List MicroOp) (k site x len : Nat) : Bool :=
  match extentOn r0 site, extentOn rk site with
  | some e0, some ek =>
      (bankSpan r0 e0 x len).all fun b =>
        (b.2.1 + lastIter ops k b.2.2) / 2 ^ emberSh ((planeFmts ops k).headD 0) < 64 * ek.count
  | _, _ => false

/-- The checks of R249 for a program over share spans `spans` of region `rn`; `offset` and `length` as named.
None when they all pass. -/
def emberProgCheck (s : State) (t rn : Nat) (b : List Byte) (spans : List (Nat × Nat × Nat)) (offset length : Nat) :
    Option (Status × Nat) :=
  let ops := progOps b
  let num (k : Nat) : Nat := if k = 0 then rn else progPlane b k
  let regs := (usedPlanes b).map fun k => (k, region? s t (num k))
  if !progShapeOk b then some (.aborted, 3)
  else if !progPlanesOk b then some (.aborted, 3)
  else if regs.any (·.2.isNone) then some (.prot, 2)
  else if regs.any fun p => match p.2 with | some r => !r.die || r.hbm | none => true then some (.aborted, 6)
  else if regs.any fun p => match p.2, region? s t rn with
      | some r, some r0 => !(r.mask == r0.mask && r.bankLocal == r0.bankLocal && sameBanks r0 r &&
          spans.all fun sp => planeFits r0 r ops p.1 sp.1 sp.2.1 sp.2.2)
      | _, _ => true then some (.aborted, 3)
  else if (ops.any fun u => u.opc == 2 && u.fmt != 0) && !(offset % 256 == 0 && length % 256 == 0) then some (.aborted, 3)
  else none

/-! ## Lanes of an ember register (R242, R246, R247) -/

def lane (l : Line) (i : Nat) : BitVec 32 := BitVec.ofNat 32 (l.toNat / 2 ^ (32 * i))
def fromLanes (f : Nat → BitVec 32) : Line :=
  BitVec.ofNat 256 ((List.range 8).foldl (fun v i => v + (f i).toNat * 2 ^ (32 * i)) 0)

/-- widen to FP32 bits; no other NaN than 0x7FC0_0000 comes out (R247). -/
def emberWiden (f : Nat) (v : Nat) : BitVec 32 := round32 ((emberFmt f).widen v)

/-- Bytes of one element of a format. -/
def emberSize (f : Nat) : Nat := if f = 0 then 4 else if f = 1 then 2 else 1

/-- The part of a plane word as 8 FP32 lanes (R246). -/
def loadPart (f part : Nat) (d : Line) : Line :=
  let b := lineBytes d
  let n := emberSize f
  fromLanes fun t => emberWiden f (fld b (8 * n * part + n * t) n)

/-- The bytes of a narrowed register. -/
def storePart (f : Nat) (l : Line) : List Byte :=
  (List.range 8).flatMap fun t => leBytes (emberSize f) ((emberFmt f).narrow (dec32 (lane l t)))

/-! ## Writes of a program -/

/-- Plane `k` of an entry on its site, with its extent. -/
def entryPlane (s : State) (site : Nat) (en : EmberEntry) (k : Nat) : Option (Region × Extent) :=
  match region? s en.tenant (en.planes.getD k 0xFFFF) with
  | none => none
  | some r => (extentOn r site).map fun e => (r, e)

/-- An ember program as a requester: of its EMBER_RUN, or of its item (R178, R254). -/
def emberReq (site : Nat) (en : EmberEntry) : Req :=
  match en.disp with
  | some id => byItem 4 site 17 id
  | none => byItem 4 site 3 en.item

/-- Write the parts a merge buffer holds by read-modify-write; the reason is the first uncorrectable word met (R248, R255). -/
def flushMerge (s : State) (site : Nat) (en : EmberEntry) (run : EmberRun) : Option Nat × State :=
  run.merge.foldl (fun x p =>
    match entryPlane x.2 site en p.1 with
    | none => x
    | some (r, e) =>
      let pl := planePlace r e run.bank p.2.1
      match writePart x.2 pl (p.2.2.1 % 32) ((lineBytes p.2.2.2).take (p.2.2.1 / 32)) (emberReq site en) en.tenant
        (homeAddr (homeOf x.2 false site pl.addr)) with
      | (.bad k, s) => (some (x.1.getD k), s)
      | (.data _, s) => (x.1, s)) (none, s)

/-- Planes that a program loads or stores on a bank of `n` words from bank-local word `first` on, as word spans (R246, R254). -/
def touchSpans (s : State) (site : Nat) (en : EmberEntry) (bank first n : Nat) : List (Nat × Nat) :=
  (List.range 8).filterMap fun k =>
    match planeFmts en.prog k, entryPlane s site en k with
    | f :: _, some (r, e) =>
      let lo := first / 2 ^ emberSh f
      some ((planePlace r e bank lo).addr, (first + lastIter en.prog k n) / 2 ^ emberSh f + 1 - lo)
    | _, _ => none

def modEntry (h : Hearth) (id : Nat) (f : EmberEntry → EmberEntry) : Hearth :=
  { h with emberQ := h.emberQ.map fun en => if en.id = id then f en else en }

def emberEntry? (h : Hearth) (id : Nat) : Option EmberEntry := h.emberQ.find? (·.id == id)

/-- The final content of contested words of a program is unpredictable: it is free once more when the program ends (R254). -/
def settleContest (s : State) (site : Nat) (run : EmberRun) : State :=
  let mine (i : Nat) : Bool := i / Config.unitStride == site &&
    run.touch.any fun t => t.1 ≤ i % Config.unitStride && i % Config.unitStride < t.1 + t.2
  match s.mem.contested.filter mine with
  | [] => s
  | ws =>
    let s := ws.foldl (fun s i =>
      let p := homePlace (homeOf s false site (i % Config.unitStride)) false site (i % Config.unitStride)
      bumpFree (storeWord s p (encode (Config.freeLine s.free i) p.cover))) s
    modMem s fun m => { m with contested := m.contested.filter fun i => !mine i }

/-- A program ends on one ember, with a report or DONE (R243, R255). -/
def emberDone (s : State) (site ember : Nat) (st : Status) (det : Nat) : State :=
  match look (hearth s site).emberRuns ember with
  | none => s
  | some run =>
    let s := modHearth (settleContest s site run) site fun h =>
      modEntry { h with emberRuns := del h.emberRuns ember } run.entry fun en =>
        { en with toEnd := en.toEnd.filter (· != ember), reports := en.reports ++ [{ site := site, status := st, detail := det }] }
    countAt s (if st = .done then 0x308 else 0x309) site 1

/-- A program stops or aborts on one ember: the parts stored so far are written (R255, R256). -/
def emberAbort (s : State) (site ember : Nat) (st : Status) (det : Nat) : State :=
  match look (hearth s site).emberRuns ember with
  | none => s
  | some run =>
    match emberEntry? (hearth s site) run.entry with
    | none => emberDone s site ember st det
    | some en => emberDone (flushMerge s site en run).2 site ember st det

/-- Every running program of a site stops at a micro-operation boundary and its queue empties (R256). -/
def stopEmbers (s : State) (site : Nat) : State :=
  let s := (List.range 32).foldl (fun s e => emberAbort s site e .aborted 7) s
  modHearth s site fun h => { h with emberQ := [], emberRuns := [] }

end Sys2Proof.Machine
end

