-- ==== Sys2Proof/Machine/Launches.lean ====
section
/-! DEFINITION. Andiron launches and environments on a site: what a lane runs, its result record, and how a launch
stops (13 R278-R301). -/

namespace Sys2Proof.Machine

/-- Environments of one site of a launch, each with its place in the lane order (R279). -/
def siteEnvs (count slots n sigma : Nat) : List (Nat × Nat) :=
  (List.range count).filterMap fun i =>
    let j := i % slots
    if sigma ≤ j ∧ j < sigma + n then some (i, j - sigma) else none

def envReset (i : Nat) : EnvRun :=
  { env := i, input := [], iter := 0, cur := [], best := [], bestIter := 0, bestResidual := 0, lastResidual := 0, sat := 0,
    bad := 0, stop := none, guard := 0xFF, word := 0, rerun := false, stopped := false }

/-- An environment reaches its lane: guards, renormalisation, and what a pass or the preparation computes
(R285, R288, R294). `words` is none when the input fetch met an error (R300). -/
def envStart (l : Launch) (i : Nat) (rerun : Bool) (words : Option (List Int)) : EnvRun :=
  let e := { envReset i with rerun := rerun }
  match words with
  | none => { e with stop := some 5 }
  | some w =>
    match guardFail l.image l.desc w with
    | some (k, j) => { e with input := w, stop := some 2, guard := k, word := j }
    | none =>
      let r := (entryWords l.image l.desc w).run 0
      let e := { e with input := r.1 }
      if Batch.single l.desc then
        let o := (passOutput l.image l.desc r.1).run r.2
        { e with sat := o.2, best := o.1, iter := 1, bestIter := 1, stop := some 0 }
      else if Batch.kind l.desc = 4 then
        let q := (r.1.drop 1).take (Img.nq l.image)
        let o := (ikResidual l.image l.desc r.1 q).run r.2
        { e with sat := o.2, cur := q, best := q, bestResidual := o.1 }
      else
        let p := (prepare l.image l.desc r.1).run r.2
        let n := 3 * p.1.act.length
        let e := { e with sat := p.2, cur := List.replicate n 0, best := List.replicate n 0 }
        if n = 0 then { e with stop := some 0 } else e

/-- One iteration of an iterative environment and the stop tests (R291-R297). -/
def envIterate (l : Launch) (e : EnvRun) (time : Nat) : EnvRun :=
  let m := l.image
  let b := l.desc
  let tol := Batch.tol b
  let work : Lane (Vec × Nat) :=
    if Batch.kind b = 4 then do
      let q ← ikUpdate m b e.input e.cur
      pure (q, ← ikResidual m b e.input q)
    else do sweep m (← prepare m b e.input) e.cur
  let step := work.run e.sat
  let r := step.1.2
  let k := e.iter + 1
  let first := Batch.kind b ≠ 4 ∧ e.iter = 0
  let bad := if !first && 64 * e.bestResidual + tol < r then e.bad + 1 else 0
  let better := first ∨ r < e.bestResidual
  let e := { e with cur := step.1.1, iter := k, lastResidual := r, sat := step.2, bad := bad,
                    best := if better then step.1.1 else e.best, bestIter := if better then k else e.bestIter,
                    bestResidual := if better then r else e.bestResidual }
  if r ≤ tol then { e with stop := some 0 }
  else if bad ≥ 8 then { e with stop := some 4 }
  else if Batch.maxIter b ≠ 0 ∧ Batch.maxIter b ≤ k then { e with stop := some 1 }
  else if Batch.time b && l.takenAt + Batch.deadline b ≤ time then { e with stop := some 1 }
  else e

/-- SAT_FLAGS [13:0] (R272). -/
def satMask : Sat := 0x3FFF

/-- Exactly `n` words. -/
def fit (n : Nat) (v : Vec) : Vec := (List.range n).map (nth v)

/-- STATUS, OUTCOME, SAT_FLAGS and output words of an environment that has stopped (R286, R300). -/
def envResult (l : Launch) (e : EnvRun) : Nat × Nat × Sat × List Int :=
  match e.stop with
  | some 5 => (5, 5, e.sat &&& satMask, [])
  | some 2 => (2, 2, e.sat &&& satMask, [])
  | other =>
    let o := other.getD 1
    let w := (envOutput l.image l.desc e.input e.best).run e.sat
    let f := w.2 &&& satMask
    (if f ≠ 0 then 3 else o, o, f, fit (outWords l.image l.desc) w.1)

/-- Bytes of a result record (R286). -/
def resultBytes (l : Launch) (e : EnvRun) (site lane ended : Nat) : List Byte :=
  let r := envResult l e
  leBytes 1 r.1 ++ leBytes 1 r.2.1 ++ leBytes 2 r.2.2.1.toNat ++ leBytes 4 e.iter ++ leBytes 4 e.bestIter ++
    leBytes 4 e.bestResidual ++ leBytes 2 site ++ leBytes 1 lane ++ leBytes 1 e.guard ++ leBytes 2 e.word ++
    leBytes 2 (pack [(0, b2n e.stopped), (1, b2n e.rerun)]) ++ leBytes 8 ended ++
    r.2.2.2.flatMap fun v => leBytes 4 (v % 2 ^ 32).toNat

/-- Bytes of a NOT_RUN record: only the header (R287, R301). -/
def notRunBytes (site ended : Nat) : List Byte :=
  [0xFF#8, 0xFF#8] ++ leBytes 14 0 ++ leBytes 2 site ++ leBytes 1 0 ++ leBytes 1 0xFF ++ leBytes 4 0 ++ leBytes 8 ended

/-- A launch as a requester: of its item, or of its batch (R178). -/
def laneReq (site : Nat) (l : Launch) : Req := if l.disp.isNone then byItem 5 site 4 l.item else 5

/-- Put environment `i`'s record where the descriptor says (R287). -/
def writeResult (s : State) (site : Nat) (l : Launch) (i : Nat) (bs : List Byte) : State :=
  let b := l.desc
  let s := countAt s 0x40C site 1
  if Batch.outStaging b then
    stWrite s site (Batch.outBase b + stagingIndex l.slots l.lanes.length l.firstSlot i * Batch.outStride b) bs
      (laneReq site l)
  else (writeSpan s l.tenant (Batch.outBase b + i * Batch.outStride b) bs (laneReq site l)).2

/-- What a lane status adds to the dispatch (R166, R300). -/
def laneReport (site : Nat) (st : Nat) : Report :=
  if st = 5 then { site := site, status := .busError, detail := 0 }
  else if st = 2 ∨ st = 3 then { site := site, status := .range, detail := 1 }
  else if st = 1 then { site := site, status := .deadlineBest, detail := 1 }
  else { site := site, status := .done, detail := 0 }

def modLaunch (h : Hearth) (f : Launch → Launch) : Hearth :=
  match h.launches with
  | [] => h
  | l :: t => { h with launches := f l :: t }

/-- Event of a lane status (R426). -/
def laneEvent (st : Nat) : Nat := 0x403 + st

/-- An environment of the running launch ends on a lane: its record is written and the lane is free (R286, R300). -/
def finishEnv (s : State) (site lane : Nat) (l : Launch) (e : EnvRun) : State :=
  let st := (envResult l e).1
  let s := writeResult s site l e.env (resultBytes l e site lane (now s))
  let s := countAt (countAt s 0x402 site 1) (laneEvent st) site 1
  modHearth s site fun h =>
    modLaunch { h with lanes := del h.lanes lane } fun l =>
      { l with reports := l.reports ++ [laneReport site st], left := l.left - 1 }

/-- A lane is stopped: an environment runs at least one iteration (R295), then returns its best iterate, DEADLINE_BEST with STOPPED
(R301), unless that iteration ended it. The count is of iterations run. -/
def stopEnv (l : Launch) (e : EnvRun) (time : Nat) : EnvRun × Nat :=
  if e.stop.isSome then (e, 0)
  else
    let x := if e.iter = 0 then (envIterate l e time, 1) else (e, 0)
    match x.1.stop with
    | some 0 => x
    | some 4 => x
    | _ => ({ x.1 with stop := some 1, stopped := true }, x.2)

/-- Stop the running launch of a site: running environments return their best iterate, the rest are NOT_RUN (R301). -/
def stopRunning (s : State) (site : Nat) (l : Launch) : State :=
  let s := (hearth s site).lanes.foldl (fun s p =>
    let e := stopEnv l p.2 (now s)
    let s := if e.2 = 0 then s else countAt s 0x409 site e.2
    finishEnv (if e.1.stopped then countAt s 0x40E site 1 else s) site p.1 l e.1) s
  (l.waiting.map (·.1) ++ l.reruns).foldl (fun s i =>
    writeResult (countAt s 0x40D site 1) site l i (notRunBytes site (now s))) s

/-- Stop every launch of dispatch `disp` (none: of the recipe) on a site. -/
def stopLaunches (s : State) (site : Nat) (disp : Option Nat) : State :=
  let s := (hearth s site).launches.foldl (fun s l =>
    if l.disp = disp then
      if l.started then stopRunning s site l
      else l.waiting.foldl (fun s p => writeResult (countAt s 0x40D site 1) site l p.1 (notRunBytes site (now s))) s
    else s) s
  modHearth s site fun h =>
    let run := match h.launches with | l :: _ => l.disp == disp && l.started | [] => false
    { h with launches := h.launches.filter (·.disp != disp), lanes := if run then [] else h.lanes }

end Sys2Proof.Machine
end

