-- ==== Sys2Proof/Machine/Stops.lean ====
section
/-! DEFINITION. How work stops: on one site, on the sites of one dispatch, on a site that retires (07 R166, R167,
08 R194, 09 R207-R208, 13 R281, R301). -/

namespace Sys2Proof.Machine

/-! ## Stopping a recipe on a site -/

/-- Stream items of a site, issued and not done, take effect before its dispatch's record (R168, 09 edge cases). -/
def settleStreams (s : State) (site : Nat) : State :=
  ((lookD [] (hearth s site).queues 2).filter (!·.done)).foldl (fun s it =>
    match streamSite (hearth s site) (it.f 1 1) (it.f 2 1) with
    | none => s
    | some o => (runStream s site o it).2) s

/-- Tiles and DMA transfers that have started run to their end (08 edge cases, R168). -/
def settleStarted (s : State) (site : Nat) : State :=
  let h := hearth s site
  let s := ((lookD [] h.queues 0).filter fun i => i.started && !i.done).foldl (fun s it =>
    (runTile s site it).2) s
  (List.range 8).foldl (fun s ch =>
    ((lookD [] h.queues (8 + ch)).filter fun i => i.started && !i.done).foldl (fun s it =>
      (runDma s site ch it).2) s) s

/-- The ember entries that a recipe's items made on a site stop at a micro-operation boundary. -/
def stopItemEmbers (s : State) (site : Nat) (disp : Option Nat) : State :=
  let mine := ((hearth s site).emberQ.filter (·.disp == disp)).map (·.id)
  let s := (hearth s site).emberRuns.foldl (fun s r =>
    if mine.contains r.2.entry then emberAbort s site r.1 .aborted 7 else s) s
  modHearth s site fun h => { h with emberQ := h.emberQ.filter (·.disp != disp) }

/-- The sequencer of a site lets go of its recipe; the claim of the next one sets its registers anew (R160, R196). -/
def stopSequencer (s : State) (site : Nat) : State :=
  forgetRaces (modHearth s site fun h =>
    { h with seq := .idle, disp := none, queues := [], fails := [], dmaHalted := [], races := [],
             tags := h.tags.filter (·.abandoned) }) site

/-- A recipe stops on a site at an instruction boundary: what has started or was pushed ends, lanes return their best
iterate, and nothing more is issued (R167, R168, R301). -/
def stopRecipe (s : State) (site : Nat) : State :=
  stopSequencer (stopItemEmbers (stopLaunches (settleStarted (settleStreams s site) site) site none) site none) site

/-- Dispatch `id` stops on a site, whatever it runs there. -/
def stopDispOn (s : State) (id site : Nat) : State :=
  let s := if (hearth s site).disp == some id then stopRecipe s site else s
  stopItemEmbers (stopLaunches s site (some id)) site (some id)

/-- A status that stops the other sites of its dispatch (R167). -/
def Status.stops : Status → Bool
  | .done | .deadlineBest | .range => false
  | _ => true

/-- The other sites of a recipe or a batch stop with ABORTED, DETAIL 0x0B (R167). -/
def stopSiblings (s : State) (id : Nat) : State :=
  match disp? s id with
  | none => s
  | some d => d.working.foldl (fun s site =>
      if site = 0xFFFF then s
      else endUnit (stopDispOn s id site) id site { site := site, status := .aborted, detail := 0x0B }) s

/-- The recipe of a site ends there with a status; a failing one stops its siblings (R167, R207). -/
def endSite (s : State) (site : Nat) (st : Status) (det : Nat) : State :=
  match (hearth s site).disp with
  | none => s
  | some id =>
    let s := countAt s 0x006 site 1
    let s := if st.stops then stopRecipe s site else stopSequencer s site
    let s := endUnit s id site { site := site, status := st, detail := det }
    if st.stops then stopSiblings s id else s

/-- A failure recorded for the end of a recipe, with ITEM_FAIL (R208). -/
def recordFail (s : State) (site : Nat) (st : Status) (det : Nat) : State :=
  modHearth s site fun h => { h with fails := h.fails ++ [{ status := st, detail := det }], sticky := setBit h.sticky 2 true }

/-! ## Every dispatch on a site -/

/-- Dispatches that still work on one of the sites. -/
def dispsOn (s : State) (sites : List Nat) : List Disp := s.work.disps.filter fun d => d.working.any sites.contains

/-- All work on sites that go together ends with a status, on each of them; a recipe or batch then stops its other sites
(R49, R145, R167, R174). -/
def endWorkOn (s : State) (sites : List Nat) (st : Status) (det : Nat) : State :=
  (dispsOn s sites).foldl (fun s d =>
    let s := (d.working.filter sites.contains).foldl (fun s x =>
      endUnit (stopDispOn s d.id x) d.id x { site := x, status := st, detail := det }) s
    if fld d.desc 0 1 = 1 ∨ fld d.desc 0 1 = 2 then stopSiblings s d.id else s) s

/-- The sites that a dispatch runs on once it starts (R158, R161). -/
def namedSites (s : State) (d : Disp) : List Nat :=
  if fld d.desc 0 1 = 1 ∨ fld d.desc 0 1 = 2 then
    rectSites (fld d.desc 8 1) (fld d.desc 9 1) (fld d.desc 0xA 1) (fld d.desc 0xB 1)
  else if fld d.desc 0 1 = 3 then (runSpans s d.tenant d.desc).map (·.1)
  else []

/-- Dispatches that wait to start and name one of the sites end with a status, SITE the lowest of those (R49, R174, R196). -/
def endUnclaimed (s : State) (sites : List Nat) (st : Status) (det : Nat) : State :=
  (s.work.disps.filter fun d => d.unclaimed && (namedSites s d).any sites.contains).foldl (fun s d =>
    endDisp s d.id [{ site := ((namedSites s d).filter sites.contains).foldl min 0xFFFF, status := st, detail := det }]) s

/-- Sites retire together: their work, and what waits for them, ends HEARTH_RETIRED, and what their dies held is lost (R49, R196,
R384). -/
def retireSites (s : State) (sites : List Nat) : State :=
  let s := endUnclaimed (endWorkOn s sites .hearthRetired 0) sites .hearthRetired 0
  let s := modMem s fun m => { m with repairs := m.repairs.filter fun f => !sites.contains f.site }
  sites.foldl (fun s x => forgetRaces (setHearth s x .reset) x) s

/-! ## A unit leaves a site that goes on -/

/-- A trap on a site: its handler, or the end of the recipe (R210). A sequencer that waits at END goes to its handler. -/
def siteTrap (s : State) (site code : Nat) (val : Word) : State :=
  let h := hearth s site
  let s := countAt s 0x005 site 1
  if h.tvec = 0 then endSite s site .trap code
  else if h.inTrap then endSite s site .trap 0x0F
  else modHearth s site fun h =>
    { h with tpc := h.pc, tcause := code, tval := val, inTrap := true, pc := h.tvec, seq := .running }

/-- A trap whose TVAL the manual does not state: TVAL is free (log entry 4). -/
def siteTrapOpen (s : State) (site code : Nat) : State := siteTrap (bumpFree s) site code (Config.freeWord s.free)

/-- Mark items of a queue of a site. -/
def mapQueue (s : State) (site q : Nat) (f : Item → Item) : State :=
  modHearth s site fun h => { h with queues := putD [] h.queues q ((lookD [] h.queues q).map f) }

/-- Items done at the head of a queue leave it and advance its completion counter (R176, R177). -/
def advanceQueue (s : State) (site q : Nat) : State :=
  modHearth s site fun h =>
    let items := lookD [] h.queues q
    let n := (items.takeWhile (·.done)).length
    { h with queues := putD [] h.queues q (items.drop n),
             completed := putD 0 h.completed q ((lookD 0 h.completed q + n) % 2 ^ 32) }

/-- Item `num` of a queue has completed. -/
def itemDone (s : State) (site q num : Nat) : State :=
  advanceQueue (mapQueue s site q fun i => if i.num = num then { i with done := true } else i) site q

/-- A tile that can find no quadrant traps UNIT_ABSENT and ends without writing (R192, R194); TVAL is the offset of the
field that names the quadrant (DEDUCED, log entry 23). -/
def tileAbsent (s : State) (site num : Nat) : State := siteTrap (itemDone s site 0 num) site 3 1

/-- Tiles that ran on a quadrant that leaves: an ANY tile restarts, a tile that named it traps (R194). -/
def loseQuad (s : State) (site q : Nat) : State :=
  let none_ := (List.range 4).all fun x => !quadLive s site x
  ((lookD [] (hearth s site).queues 0).filter fun i => i.started && !i.done && i.quad == q).foldl (fun s i =>
    if (tileOf i.block).quad = q ∨ none_ then tileAbsent s site i.num
    else mapQueue s site 0 fun x => if x.num = i.num then { x with started := false, quad := 0 } else x) s

/-- With no working lane left, every environment of the running launch that has no record ends MEMORY_ERROR (R281). -/
def endNoLane (s : State) (site : Nat) : State :=
  if !(workingLanes s site).isEmpty then s
  else match (hearth s site).launches with
    | [] => s
    | l :: _ =>
      if l.started then
        let s := (l.waiting.map (·.1) ++ l.reruns).foldl (fun s i =>
          finishEnv s site 0 l (envStart l i (l.reruns.contains i) none)) s
        modHearth s site fun h => modLaunch h fun l => { l with waiting := [], reruns := [] }
      else s

/-- The environment of a lane that leaves restarts elsewhere (R281). -/
def loseLane (s : State) (site lane : Nat) : State :=
  let s := match look (hearth s site).lanes lane with
    | none => s
    | some e => countAt (modHearth s site fun h =>
        modLaunch { h with lanes := del h.lanes lane } fun l => { l with reruns := l.reruns ++ [e.env] }) 0x40A site 1
  endNoLane s site

end Sys2Proof.Machine
end

