-- ==== Sys2Proof/Machine/Resets.lean ====
section
/-! DEFINITION. Mailbox reset, tenant reset, sanitise, the end of a tenant, the deletion of regions, and entry into OFF
and BOOT (06 R133, 07 R173-R174, 03 R63-R72, 05 R108-R117). -/

namespace Sys2Proof.Machine

/-! ## Mailbox reset (R133) -/

/-- Untaken requests go, taken ones run on at the level they had with their responses discarded, indices and LEVEL return to 0. -/
def resetMailbox (s : State) (fn : Nat) : State :=
  modMbx s fn fun m =>
    { m with reqPi := 0, reqCi := 0, rspPi := 0, rspCi := 0, level := 0, resetting := true,
             taken := m.taken.map fun t => { t with discard := true, level := some (t.level.getD m.level) }, urgWaiting := none,
             urgBusy := m.taken.any (·.slot == 255) }

/-! ## Configuration generations (R458, R461) -/

/-- Every island flips to its other bank, which holds the graph in force (R460). -/
def flipBanks (s : State) : State :=
  modFabric s fun f => if f.bank1 then { f with graph0 := f.graph1, bank1 := false } else { f with graph1 := f.graph0, bank1 := true }

/-- Steps 2 to 4 of an Epoch change: the generation advances and every island flips (R458, R461). -/
def flipGeneration (s : State) : State :=
  countU (modEpoch (flipBanks s) fun e => { e with generation := (e.generation + 1) % 2 ^ 64 }) 0x81F 1

/-- An Epoch change inside a command that quiesces what it concerns: it leaves the routing tables as they are, so messages of the older
generation need not be waited for (R461, log entry 11). -/
def advanceGeneration (s : State) : State := raiseVector (flipGeneration s) 0 5

/-! ## Objects that go with a region (R174, R391) -/

/-- An OBJECT_REMOVED record to the tenant's ring while it is placed. -/
def objectRemoved (s : State) (t kind number : Nat) : State :=
  if (ashRing s t).placed then raiseAsh s 0x41 0x400 t 0 (detail [(0, 1, kind), (2, 2, number)]) [t] [] else s

/-- A queue whose ring is deleted takes nothing more; its dispatches run on without a record and stay in INFLIGHT until they end
(R174, R332). -/
def dropQueue (s : State) (t q : Nat) : State :=
  setQueue (modWork s fun w =>
    { w with disps := w.disps.map fun d => if d.tenant = t ∧ d.queue = q then { d with orphan := true } else d }) t q
    { Queue.reset with inflight := (queue s t q).inflight }

/-- Rings of a queue in HBM lie in region `rn`. -/
def queueIn (q : Queue) (rn : Nat) : Bool :=
  q.state != .absent && ((q.sqHbm && regionOf q.sqBase.toNat == rn) || (q.cqHbm && regionOf q.cqBase.toNat == rn))

/-- The queues, mappings, exports and the ash ring that lie in a region go before it (R174, R387). -/
def dropDependents (s : State) (t rn : Nat) : State :=
  let s := ((tenant s t).queues.filter fun p => queueIn p.2 rn).foldl (fun s p =>
    dropQueue (objectRemoved s t 1 p.1) t p.1) s
  let s := ((tenant s t).apertures.filter (·.region == rn)).foldl (fun s _ =>
    bumpFree (objectRemoved s t 2 ((Config.freeWord s.free).toNat % 65536))) s
  let s := modTenant s t fun x => { x with apertures := x.apertures.filter (·.region != rn) }
  let s := (s.chain.domains.filter (·.2.tenant == t)).foldl (fun s d =>
    (d.2.exports.filter (·.2.1 == rn)).foldl (fun s e => objectRemoved s t 3 e.1) s) s
  let s := modChain s fun c => { c with domains := c.domains.map fun d =>
    if d.2.tenant = t then (d.1, { d.2 with exports := d.2.exports.filter (·.2.1 != rn) }) else d }
  if (ashRing s t).placed && (ashRing s t).hbm && regionOf (ashRing s t).base.toNat == rn then
    modAshRing s t fun r => { r with placed := false }
  else s

/-- A region leaves the table, and its key is destroyed (R238, R447). -/
def removeRegion (s : State) (t rn : Nat) : State :=
  modSec (modTenant s t fun x => { x with regions := del x.regions rn }) fun c =>
    { c with keys := c.keys.filter fun k => !(k.1 == t && k.2.1 == rn) }

/-- Words of a region's extents count as never written again (R236). -/
def forgetWords (s : State) (r : Region) : State :=
  let inHbm (k : Nat) : Bool := r.extents.any fun e =>
    k / Config.unitStride == e.unit && e.base ≤ k % Config.unitStride && k % Config.unitStride < e.base + e.count
  let inSlice (k : Nat) : Bool := r.extents.any fun e =>
    let a := k % Config.unitStride
    k / Config.unitStride == e.unit && e.banks.contains (a / Config.bankWords) &&
      e.base ≤ a % Config.bankWords / 64 && a % Config.bankWords / 64 < e.base + e.count
  modMem s fun m =>
    if r.hbm then { m with hbm := m.hbm.filter fun c => !inHbm c.1 } else { m with slice := m.slice.filter fun c => !inSlice c.1 }

/-- Zero words stand over the extents of an HBM region (R174). -/
def zeroHbm (s : State) (r : Region) : State :=
  modMem (forgetWords s r) fun m => { m with hbmZeroed := m.hbmZeroed ++ r.extents.map fun e => (e.unit, e.base, e.count) }

/-- Sanitise step 3 for one region; tenant.destroy writes zero words over an HBM region. -/
def sanitiseRegion (s : State) (t : Nat) (p : Nat × Region) : State :=
  let s := dropDependents (objectRemoved s t 0 p.1) t p.1
  removeRegion (if p.2.hbm then zeroHbm s p.2 else s) t p.1

/-- Sanitise step 3: one Epoch change deletes the regions `doomed` names. -/
def deleteRegions (s : State) (t : Nat) (doomed : Region → Bool) : State :=
  let rs := (tenant s t).regions.filter fun p => doomed p.2
  if rs.isEmpty then s else advanceGeneration (rs.foldl (fun s p => sanitiseRegion s t p) s)

/-- Sanitise step 4 on one site: repairs, zero words, zero hearth state; a retired site is skipped (R174, R238). -/
def zeroSite (s : State) (site : Nat) : State :=
  if siteRetired s site then s
  else
    let s := repairSite s site s.mem.repairs.length
    let s := modMem s fun m =>
      { m with slice := m.slice.filter fun c => c.1 / Config.unitStride != site,
               sanitised := if m.sanitised.contains site then m.sanitised else m.sanitised ++ [site] }
    forgetRaces (setHearth s site
      { Hearth.reset with staging := .zero, launchCount := (hearth s site).launchCount, emberNext := (hearth s site).emberNext,
                          tags := abandonTags (hearth s site) }) site

/-- A tenant that is reset or sanitised has no bound domain left: frames for its domains are answered NO_DOMAIN until they are bound
again (04 edge cases; that its own chain copies then find none either is DEDUCED, log entry 40). -/
def closeDomains (s : State) (t : Nat) : State :=
  modChain s fun c => { c with domains := c.domains.filter (·.2.tenant != t) }

/-- A site that its tenant gives up is no longer one that a taken command's tenant owned (R252). -/
def forgetOwned (s : State) (site : Nat) : State :=
  { s with mbx := s.mbx.map fun m => (m.1, { m.2 with taken := m.2.taken.map fun t => { t with owned := t.owned.filter (· != site) } }) }

/-- Sanitise of sites of a tenant, steps 1 to 5 (R174), its domains aside. What waits to start there ends too (DEDUCED, log entry 18). -/
def sanitiseSites (s : State) (t : Nat) (sites : List Nat) : State :=
  let s := endUnclaimed (endWorkOn s sites .aborted 7) sites .aborted 7
  let s := deleteRegions s t fun r => !r.hbm && sites.any fun x => r.mask.getLsbD x
  let s := sites.foldl zeroSite s
  if sites.isEmpty then s
  else sites.foldl (fun s x => setOwner (forgetOwned s x) x none) (advanceGeneration s)

/-- tenant.release (R174). -/
def sanitise (s : State) (t : Nat) (sites : List Nat) : State := closeDomains (sanitiseSites s t sites) t

/-! ## Tenant reset (R173) -/

/-- Registers, staging, ember registers and DMA state of a site are zeroed; activation tables survive (R173 step 4), and the tags of
requests that are out stay so (R331). -/
def resetHearth (s : State) (site : Nat) : State :=
  let h := hearth s site
  forgetRaces (setHearth s site
    { Hearth.reset with staging := .zero, actTables := h.actTables, launchCount := h.launchCount, emberNext := h.emberNext,
                        tags := abandonTags h }) site

/-- Frames of a tenant's copies that have no SEQ yet are dropped (04 edge cases). -/
def dropFrames (s : State) (ids : List Nat) : State :=
  (List.range 4).foldl (fun s p => modChainPort s p fun c =>
    { c with waiting := c.waiting.filter fun f => match f.copy with | some i => !ids.contains i | none => true }) s

/-- The dispatches of a tenant end TENANT_RESET and their records are written, unless `silent` (R173, R71). -/
def resetDispatches (s : State) (t : Nat) (silent : Bool) : State :=
  (s.work.disps.filter (·.tenant == t)).foldl (fun s d =>
    let site := (d.working.filter (· != 0xFFFF)).foldl min 0xFFFF
    let d := { d with reports := d.reports ++ [{ site := site, status := .tenantReset, detail := 0 }],
                      endedAt := if d.ended then d.endedAt else now s }
    if silent then leaveInflight s d else writeRecord s d) s

/-- Steps 1 to 5 of R173; R378's repairs run between steps 2 and 4. -/
def tenantReset (s : State) (t : Nat) (silent : Bool) : State :=
  if !(tenant s t).alive then s
  else
    let sites := ownedBy s t
    let s := dropFrames s ((s.work.disps.filter (·.tenant == t)).map (·.id))
    let s := sites.foldl stopEmbers s
    let s := resetDispatches s t silent
    let s := modTenant s t fun x =>
      { x with queues := x.queues.map fun q => (q.1, { q.2 with sqHead := q.2.sqTail }) }
    let s := sites.foldl (fun s x => repairSite s x 12) s
    let s := sites.foldl resetHearth s
    closeDomains (modTenant s t fun x => { x with signals := [], phase := 0 }) t

/-! ## Chain domains and the end of a tenant (R71, R101, R145, R451) -/

/-- COPY dispatches through a domain. -/
def copiesOf (s : State) (dom : Nat) : List Disp :=
  s.work.disps.filter fun d => fld d.desc 0 1 == 4 && (fld d.desc 0x20 1 == 2 || fld d.desc 0x21 1 == 2) &&
    fld d.desc 0x24 2 == dom && !d.ended

/-- The port a chain copy runs through. -/
def domainPort (s : State) (dom : Nat) : Nat := match look s.chain.domains dom with | some d => d.port | none => 0

/-- Unbind a domain: its copies in flight complete LINK_LOST (R142, R465). -/
def unbindDomain (s : State) (dom : Nat) : State :=
  let cs := (copiesOf s dom).map (·.id)
  let port := domainPort s dom
  let s := dropFrames s cs
  let s := cs.foldl (fun s id => endDisp s id [{ site := 0xFFFF, status := .linkLost, detail := port }]) s
  modChain s fun c => { c with domains := del c.domains dom }

/-- Counter windows of a function become unselected (R430). -/
def clearWindows (s : State) (fn : Nat) : State :=
  modCounters s fun c => { c with windows := c.windows.filter fun w => w.1 / 64 != fn }

/-- tenant.destroy: sanitise of every site and region, then the tenant goes (R174, R451, R261). -/
def destroyTenant (s : State) (t : Nat) : State :=
  let s := sanitiseSites s t (ownedBy s t)
  let rest := (s.work.disps.filter fun d => d.tenant == t && !d.ended).map (·.id)
  let s := rest.foldl (fun s id => endDisp s id [{ site := 0xFFFF, status := .aborted, detail := 8 }]) (dropFrames s rest)
  let s := (s.work.disps.filter (·.tenant == t)).foldl writeRecord s
  let s := deleteRegions s t fun _ => true
  clearWindows (setTenant (closeDomains s t) t .reset) t

/-- The end of tenant `t` when its virtual function goes (R71). -/
def endTenant (s : State) (t : Nat) : State :=
  if !(tenant s t).alive then s
  else
    let s := tenantReset s t true
    let s := (s.chain.domains.filter (·.2.tenant == t)).foldl (fun s d => unbindDomain s d.1) s
    let s := destroyTenant s t
    raiseAsh s 0x41 0x400 t 0 (detail [(0, 1, 4), (2, 2, t)]) [0] []

/-! ## OFF and BOOT (R63-R66, R108, R117, R422, R446) -/

/-- Entry into OFF: everything outside the AO domain and the flash is reset and its memories are lost. What the flash,
OTP and the AO domain hold, and host memory, which is outside the part, stay; the queue is the outside world's. -/
def enterOff (s : State) : State :=
  let r := State.reset
  let off : State :=
    { r with pending := s.pending, free := s.free, ao := s.ao,
             dev := { s.dev with cause := 0, slotB := false, fast := false, step := 0, image := none, fwOpen := false,
                                 fwFresh := [], fwWritten := [] },
             sec := { r.sec with revoked := s.sec.revoked, lotKeyBlown := s.sec.lotKeyBlown },
             fpt := { r.fpt with flashA := s.fpt.flashA, flashB := s.fpt.flashB, trainA := s.fpt.trainA,
                                 trainB := s.fpt.trainB, journal := s.fpt.journal, journalNext := s.fpt.journalNext },
             pcie := { r.pcie with perst := s.pcie.perst, sent := s.pcie.sent },
             mem := { r.mem with host := s.mem.host, hostBad := s.mem.hostBad } }
  setDevState off .off 0

end Sys2Proof.Machine
end

