-- ==== Sys2Proof/Machine/Thermal.lean ====
section
/-! DEFINITION. Temperatures, the trip comparator, L_th and the cap in force (18 R395-R404, R418, R421). -/

namespace Sys2Proof.Machine

/-- Degrees in units of 1/128. -/
def deg (c : Int) : Int := 128 * c

/-- Last reading of a sensor. -/
def reading (s : State) (i : Nat) : Int := s16 (lookD 0 s.ao.sensors i)
def readingBefore (s : State) (i : Nat) : Int := s16 (lookD 0 s.ao.sensorsBefore i)
def sensorOk (s : State) (i : Nat) : Bool := !s.ao.deadSensors.contains i

/-- Highest of the sensors that are not excluded, none if there is none (R396). -/
def hottest (s : State) (l : List Nat) : Option Int :=
  (l.filter (sensorOk s)).foldl (fun m i => some (match m with | none => reading s i | some v => max v (reading s i))) none

/-- Sites that are not disabled, for sensors. -/
def sensed (s : State) (site : Nat) : Bool := (siteRec s site).state == .full || (siteRec s site).state == .partialCap

/-- The two sensors of a layer (0-7) of a site; the logic sensors of a site. -/
def layerSensors (site l : Nat) : List Nat := [32 * site + 2 * l, 32 * site + 2 * l + 1]
def logicSensors (site : Nat) : List Nat := (List.range 5).map fun i => 32 * site + 16 + i

/-- Hottest reading of a layer; 95 degrees when both sensors failed (R396, R397). -/
def layerTemp (s : State) (site l : Nat) : Int := (hottest s (layerSensors site l)).getD (deg 95)

/-- Sites of a firebox that are sensed. -/
def fbSites (s : State) (fb : Nat) : List Nat := ((List.range 100).map (· + 100 * fb)).filter (sensed s)

def hotDram (s : State) (fb : Nat) : Int :=
  (hottest s ((fbSites s fb).flatMap fun x => (List.range 16).map fun i => 32 * x + i)).getD 0
def hotLogic (s : State) (fb : Nat) : Int := (hottest s ((fbSites s fb).flatMap logicSensors)).getD 0
def hotFlue (s : State) : Int := (hottest s ((List.range 8).map (· + 6400))).getD 0
/-- Hottest sensor of a firebox, of whichever kind (R113 step 5). -/
def hotFb (s : State) (fb : Nat) : Int := max (hotDram s fb) (hotLogic s fb)
/-- Hottest DRAM reading of the package (R397). -/
def hotPackage (s : State) : Int := max (hotDram s 0) (hotDram s 1)

/-- Both sensors of a layer are excluded (R396). -/
def layerBlind (s : State) (site l : Nat) : Bool := (hottest s (layerSensors site l)).isNone

/-- The thresholds of R239 and R257. -/
def layerThreshold (k : Nat) : Int := if k = 0 then deg 85 else if k = 1 then deg 95 else deg 103

/-- At least 2 K below a threshold. -/
def wellBelow (t : Int) (k : Nat) : Bool := decide (t ≤ layerThreshold k - deg 2)

/-- A time since which something holds: kept while it holds, from now on when it begins. -/
def holdSince (m : SMap Nat) (k t : Nat) (holds : Bool) : SMap Nat :=
  if holds then (if (look m k).isNone then put m k t else m) else del m k

/-- What a sample means for layer `i` = 8·site + layer (R240, R257, R408). -/
def trackLayer (s : State) (i : Nat) : State :=
  let t := layerTemp s (i / 8) (i % 8)
  let s := modMem s fun m =>
    { m with coolSince := (List.range 3).foldl (fun c k => holdSince c (4 * i + k) (now s) (wellBelow t k)) m.coolSince }
  modDraught s fun d => { d with layerHot := holdSince d.layerHot i (now s) (decide (deg 95 < t)) }

/-- The layers of the sensors sampled. -/
def trackLayers (s : State) (sensors : List Nat) : State :=
  (sensors.filter fun i => i < 6400 && i % 32 < 16).foldl (fun s i => trackLayer s (i / 32 * 8 + i % 32 / 2)) s

/-- A layer has been 2 K below a threshold for 1 s (R240, R257). -/
def coolFor (s : State) (i k : Nat) : Bool :=
  wellBelow (layerTemp s (i / 8) (i % 8)) k &&
    match look s.mem.coolSince (4 * i + k) with | some t => due s t 1000000000 | none => false

def bv16 (v : Int) : BitVec 16 := BitVec.ofInt 16 v

/-- The five words of TEMPS (R78). With no table in force, in OFF and BOOT, no site is known to be sensed and the four words of the
fireboxes are 0 (DESIGN CHOICE, log entry 38). -/
def tempsBytes (s : State) : List Byte :=
  [hotDram s 0, hotDram s 1, hotLogic s 0, hotLogic s 1, hotFlue s].flatMap fun v => leBytes 2 (bv16 v).toNat

/-! ## The trip comparator (R418) -/

def allDram : List Nat := (List.range 200).flatMap fun x => (List.range 16).map fun i => 32 * x + i
def allLogic : List Nat := (List.range 200).flatMap logicSensors ++ (List.range 8).map (· + 6400)

/-- Two consecutive samples of one sensor at or above a threshold. -/
def twiceHot (s : State) (t : Int) (l : List Nat) : Bool :=
  l.any fun i => sensorOk s i && decide (t ≤ reading s i) && decide (t ≤ readingBefore s i)

/-- TRIP_CAUSE of the conditions that hold (R78). -/
def tripCauses (s : State) : BitVec 8 :=
  BitVec.ofNat 8 (pack [(0, b2n (twiceHot s (deg 108) allDram)), (1, b2n (twiceHot s (deg 118) allLogic)),
    (2, b2n (decide (200 ≤ s.ao.lowFlowReads)))])

/-- PWR_EN is driven low. -/
def dropPwrEn (s : State) : State :=
  if s.ao.pwrEn then modAo s fun a => { a with pwrEn := false, pwrEnFellAt := some a.devtime } else s

/-- The trip fires: THERM_TRIP_N and PWR_EN low, a power-up that waits is given up, the part enters OFF (R64, R66, R108). -/
def fireTrip (s : State) (cause : BitVec 8) : State :=
  alertOn s (enterOff (dropPwrEn (modAo s fun a =>
    { a with tripLatched := true, tripCause := cause, tripQuietAt := none, seeking := false })))

/-- PKG_RESET_N is low and no trip condition holds (R64): the time since which that is so. -/
def trackTrip (s : State) : State :=
  modAo s fun a => { a with tripQuietAt := if !a.pkgResetN && tripCauses s == 0 then some (a.tripQuietAt.getD a.devtime) else none }

/-- A latched trip is cleared: THERM_TRIP_N is released (R64, R78). -/
def clearTrip (s : State) : State :=
  if s.ao.tripLatched then alertOn s (modAo s fun a => { a with tripLatched := false, tripCause := 0 }) else s

/-- PKG_RESET_N has been low for 1 ms while no trip condition held (R64). -/
def settleTrip (s : State) : State :=
  let s := trackTrip s
  match s.ao.tripQuietAt with
  | some t => if due s t 1000000 then clearTrip s else s
  | none => s

/-! ## L_th and the cap in force (R402, R421) -/

def configuredCap (s : State) : Nat := min s.ao.boardCap s.draught.mailboxCap

/-- Set L_th: the cap in force follows, and THERMAL_LIMIT begins or ends (R402, R421). -/
def setLimit (s : State) (l : Nat) : State :=
  let below := decide (l < configuredCap s)
  let s' := modDraught s fun d => { d with lTh := l, cap := min (configuredCap s) l, thermalLimit := below }
  if below = s.draught.thermalLimit then s' else draughtRecord s' 8 below 0xFFFF 0

/-- The configured cap has changed: the cap in force follows, and THERMAL_LIMIT with it (R79, R402, R420). -/
def applyCaps (s : State) : State := setLimit s s.draught.lTh

/-- Floor of n / (128·r) for a positive binary32 r; none for any other. -/
def quotientBy (n : Int) (r : BitVec 32) : Option Int :=
  match dec32 r with
  | .fin false m e =>
    if m = 0 then none
    else some (if e < 0 then n * (2 ^ (-e).toNat : Nat) / (128 * m : Nat) else n / (128 * m * 2 ^ e.toNat : Nat))
  | _ => none

/-- L_th of R402. The manual states no quotient by an R_est that is not positive: it is free within the clamp (log entry 4). -/
def limitNow (s : State) : Nat :=
  let n := deg 95 - s16 s.ao.inlet - (s.draught.margin : Int)
  let q := (quotientBy n s.draught.rEst).getD ((Config.freeWord s.free).toNat : Int)
  min (configuredCap s) (max 900 q.toNat)

/-- The cap loop sets L_th. -/
def capLoop (s : State) : State :=
  setLimit (if (quotientBy 0 s.draught.rEst).isNone then bumpFree s else s) (limitNow s)

/-! ## The thermal-cycle counter (R415) -/

/-- count(a) of R415, with the counters saturating. -/
def countHalf (s : State) (a : Int) : State :=
  let sat (n : Nat) : Nat := min (n + 1) (2 ^ 32 - 1)
  let s := if deg 10 ≤ a then countU (modDraught s fun d => { d with half10k := sat d.half10k }) 0xE08 1 else s
  if deg 30 ≤ a then countU (modDraught s fun d => { d with half30k := sat d.half30k }) 0xE09 1 else s

def cycleOf (s : State) (fb : Nat) : Cycle := if fb = 0 then s.draught.cycle0 else s.draught.cycle1
def setCycle (s : State) (fb : Nat) (c : Cycle) : State :=
  modDraught s fun d => if fb = 0 then { d with cycle0 := c } else { d with cycle1 := c }

/-- The journal's entry with the highest SEQUENCE (R417). -/
def newestEntry (j : SMap JournalEntry) : Option JournalEntry :=
  j.foldl (fun b e => match b with
    | none => some e.2
    | some x => if x.sequence < e.2.sequence then some e.2 else some x) none

end Sys2Proof.Machine
end

