-- ==== Sys2Proof/Machine/FloorPlan.lean ====
section
/-! DEFINITION. Changes of the floor plan: a unit leaves service, the table is published and made persistent (02 R29-R52,
05 R108, R116, 14 R315, R319, 16 R358). -/

namespace Sys2Proof.Machine

/-! ## What a change does to the table -/

/-- STATE of a site record after masks were cleared (R13, R37, R47). -/
def SiteRec.settle (r : SiteRec) : SiteRec :=
  if r.state = .full ∧ r.quad = 0xF#4 ∧ 15 ≤ ones r.lane ∧ 30 ≤ ones r.ember ∧ r.bank = BitVec.allOnes 128 then r
  else if (r.quad ≠ 0 ∨ r.lane ≠ 0) ∧ 16 ≤ ones r.bank then { r with state := .partialCap }
  else .gone .retired

def setSite (t : FptTable) (i : Nat) (r : SiteRec) : FptTable := { t with sites := putD .allFull t.sites i r }

/-- One unit leaves a site record (R36, R47). -/
def editSite (t : FptTable) (site : Nat) (f : SiteRec → SiteRec) : FptTable :=
  let r := t.site site
  if r.works then
    let r' := f r
    if r' = r then t else setSite t site r'.settle
  else t

/-- A link record replaced. -/
def setLinkRec (t : FptTable) (l : Nat) (r : LinkRec) : FptTable :=
  if l = 0 then { t with flue0 := r } else if l = 1 then { t with flue1 := r } else { t with bridge := r }

/-- The table without the unit of one change (R36, R37, R40-R42). -/
def FptTable.lose (t : FptTable) (u : FieldUnit) : FptTable :=
  match u with
  | .bank s b => editSite t s fun r => { r with bank := setBit r.bank b false, ember := setBit r.ember (b / 4) false }
  | .ember s e => editSite t s fun r => { r with ember := setBit r.ember e false }
  | .lane s l => editSite t s fun r => { r with lane := setBit r.lane l false }
  | .quadrant s q => editSite t s fun r => { r with quad := setBit r.quad q false }
  | .hearth s => editSite t s fun _ => .gone .retired
  | .hbmChannel p => { t with hbmMask := setBit t.hbmMask p false }
  | .linkSpare l _ _ | .linkNarrow l _ => setLinkRec t l ((linkRec t l).apply l u)

def unitSite : FieldUnit → Nat
  | .bank s _ | .ember s _ | .lane s _ | .quadrant s _ | .hearth s => s
  | _ => 0xFFFF

/-- Rank of changes with one t0 (R50): sites, then pseudo-channels, then links. -/
def unitRank : FieldUnit → Nat
  | .bank s _ | .ember s _ | .lane s _ | .quadrant s _ | .hearth s => s
  | .hbmChannel p => 1000 + p
  | .linkSpare l _ _ | .linkNarrow l _ => 2000 + l

/-- LAST_CAUSE of a change (R34, R116): a link that falls below 8 groups is DOWN. -/
def causeCode (before after : FptTable) (selfTest : Bool) (u : FieldUnit) : Nat :=
  match u with
  | .linkSpare _ _ _ => 7
  | .linkNarrow l _ => if !(linkRec before l).down && (linkRec after l).down then 9 else 8
  | u => if selfTest then 1 else
    match u with
    | .bank _ _ => 2 | .ember _ _ => 3 | .lane _ _ => 4 | .quadrant _ _ => 5 | .hearth _ => 6 | _ => 10

/-- The sites of a firebox whose flue link is DOWN retire (R48). -/
def retireFirebox (t : FptTable) (fb : Nat) : FptTable :=
  if (linkRec t fb).down then
    (List.range 100).foldl (fun t i => editSite t (100 * fb + i) fun _ => .gone .retired) t
  else t

/-- Sites without a path to F retire (R315). -/
def retireUnreachable (s : State) (t : FptTable) : FptTable :=
  let g := graphOf s t
  let r := g.reach
  (g.nodes.filter fun i => !r.getLsbD i).foldl (fun t i => editSite t i fun _ => .gone .retired) t

/-- The capability that one change leaves (R48, R315). -/
def tableAfter (s : State) (t : FptTable) (u : FieldUnit) : FptTable :=
  retireUnreachable s (retireFirebox (retireFirebox (t.lose u) 0) 1)

/-- The change alters a byte beyond GENERATION, PUBLISHED_AT, LAST_CAUSE and LAST_SITE (R50). -/
def changes (t : FptTable) (u : FieldUnit) : Bool := t.lose u != t

/-- Of two waiting changes, the one published first (R50). -/
def earlier (a b : FptChange) : FptChange :=
  if b.at_ < a.at_ ∨ (b.at_ = a.at_ ∧ unitRank b.unit < unitRank a.unit) then b else a

/-! ## Publication -/

/-- R46, a link DOWN, or an HBM mask short of 256 bits: the part is DEGRADED (R108, R113). -/
def degradedBy (t : FptTable) : Bool :=
  let a := t.countState .full 0
  let b := t.countState .full 1
  a + b < 176 || a < 84 || b < 84 || t.flue0.down || t.flue1.down || t.bridge.down || t.hbmMask != BitVec.allOnes 256

/-- The state after a publication in READY or DEGRADED, with vector 2 at an entry (R108, R124, R358). In TRAIN step 13 decides. -/
def settleState (s : State) (t : FptTable) : State :=
  if !live s then s
  else if t.flue0.down && t.flue1.down then raiseVector (setDevState s .failed 3) 0 2
  else if s.dev.state = .ready && degradedBy t then raiseVector (setDevState s .degraded 0) 0 2
  else s

/-- A span of a slice region of the tenant has words on sites of a firebox. -/
def spanReaches (s : State) (t a n fb : Nat) : Bool :=
  match region? s t (regionOf a) with
  | none => false
  | some r =>
    let k := offsetOf a / r.share
    !r.hbm && ((r.extents.drop k).take ((offsetOf a + n - 1) / r.share + 1 - k)).any fun e => e.unit / 100 == fb

/-- The site lies in the other firebox, and a DMA transfer that it has started reaches the firebox through its flue link:
the tables in force do not include the bridge (R316, R358; DEDUCED, log entry 15). -/
def inFlightTo (s : State) (fb x : Nat) : Bool :=
  let h := hearth s x
  x / 100 != fb && !(graphIn s).bridge && siteLive s x && (List.range 8).any fun ch =>
    (lookD [] h.queues (8 + ch)).any fun i =>
      let n := fld i.block 0x10 8
      i.started && !i.done && ((fld i.block 0x18 1 == 1 && spanReaches s h.tenant (fld i.block 0 8) n fb) ||
        (fld i.block 0x19 1 == 1 && spanReaches s h.tenant (fld i.block 8 8) n fb))

/-- Dispatches elsewhere with a request in flight on a flue link that goes DOWN end LINK_LOST (R358). -/
def loseFlueRequests (s : State) (fb : Nat) : State :=
  (List.range 200).foldl (fun s x => if inFlightTo s fb x then endSite s x .linkLost 0xFF else s) s

/-- A link's state follows its record: a link below 8 groups is DOWN (R41, R358, R365). -/
def settleLink (s : State) (l : Nat) (down : Bool) : State :=
  if !down then s else
  let was := (link s l).state
  let s := modFabric s fun f =>
    if l = 0 then { f with link0 := { f.link0 with state := .down, due := none } }
    else if l = 1 then { f with link1 := { f.link1 with state := .down, due := none } }
    else { f with link2 := { f.link2 with state := .down, due := none } }
  if l < 2 ∧ was ≠ .down then loseFlueRequests s l else s

/-- Steps 2 and 3 of R49 for a change of `site`, with `t` the table before it and `t'` its capability after. -/
def publishTable (s : State) (t t' : FptTable) (site cause : Nat) : State :=
  let gen := (t.generation + 1) % 2 ^ 64
  let gone := (List.range 200).filter fun i => (t.site i).works && !(t'.site i).works
  let t' := { t' with generation := gen, publishedAt := now s, lastCause := cause, lastSite := site }
  let s := modFpt s fun f => { f with table := some t', published := true, changed := true, persistPending := true,
                                      persistDue := true }
  let s := retireSites s gone
  let s := settleLink (settleLink (settleLink s 0 t'.flue0.down) 1 t'.flue1.down) 2 t'.bridge.down
  let touched := if site = 0xFFFF then gone else if gone.contains site then gone else site :: gone
  let owners := (liveTenants s).filter fun n => touched.any fun i => ownerOf s i == some n
  let tag := if site = 0xFFFF then 0xFF else (ownerOf s site).getD 0xFF
  let s := raiseAsh s 0x20 0x400 tag 0 (detail [(0, 8, gen), (8, 1, cause), (10, 2, site)]) (0 :: owners) []
  let s := if live s then (0 :: owners).foldl (fun s n => raiseVector s n 2) s else s
  let s := if cause = 8 ∨ cause = 9 then raiseVector s 0 4 else s
  settleState s t'

/-- One change is published (R49, R50). -/
def publish (s : State) (t : FptTable) (c : FptChange) : State :=
  let t' := tableAfter s t c.unit
  publishTable (modFpt s fun f => { f with waiting := f.waiting.filter (· != c) }) t t' (unitSite c.unit)
    (causeCode t t' c.selfTest c.unit)

/-- Sites that the entry into the detour leaves without a path to F retire with it, in a publication of their own (R315). Its header
names LINK_DOWN and no site: R34 has no cause for it (DESIGN CHOICE, log entry 13). -/
def retireCutOff (s : State) : State :=
  match s.fpt.table with
  | none => s
  | some t => if retireUnreachable s t = t then s else publishTable s t (retireUnreachable s t) 0xFFFF 9

/-- Changes that an earlier publication has overtaken are dropped (R50). -/
def dropStale (s : State) (t : FptTable) : State :=
  modFpt s fun f => { f with waiting := f.waiting.filter fun c => changes t c.unit }

/-- The next waiting change is published (R50). -/
def publishNext (s : State) : State :=
  match s.fpt.table with
  | none => s
  | some t =>
    let s := dropStale s t
    match s.fpt.waiting with
    | [] => s
    | c :: rest => publish s t (rest.foldl earlier c)

def execFptPublish (s : State) : Out := .next <| if live s then publishNext s else s

/-! ## A unit leaves service (R49 step 1, R384) -/

/-- What the units of a site do when one of them is fenced off (R194, R255, R281). R255 names only banks, and R45 only programs
aimed at an ember that is unusable already: a program running on an ember that leaves service ends there with the outcome of a bank
out of service, BUS_ERROR (DESIGN CHOICE, log entry 39). -/
def unitLost (s : State) : FieldUnit → State
  | .hearth site => retireSites s [site]
  | .quadrant site q => loseQuad s site q
  | .lane site l => loseLane s site l
  | .ember site e => emberAbort s site e .busError 0
  | _ => s

/-- The unit is in service. -/
def inService (s : State) : FieldUnit → Bool
  | .hearth site => siteLive s site
  | .quadrant site q => siteLive s site && quadLive s site q
  | .lane site l => siteLive s site && laneLive s site l
  | .ember site e => siteLive s site && (siteRec s site).ember.getLsbD e && !fenced s (· == .ember site e)
  | .bank site b => bankLive s site b
  | .hbmChannel p => channelLive s p
  | .linkSpare l g _ | .linkNarrow l g => (linkNow s l).groupMask.getLsbD g

def execUnitFenced (u : FieldUnit) (s : State) : Out :=
  guarded (Instr.wellFormed (.unitFenced u)) .noSuchUnit <|
    if live s && inService s u then unitLost (fenceUnit s u) u else s

/-! ## Persistence (R49 step 4, R51) -/

/-- A failed flash write leaves the copy invalid or as it was: open. -/
def failedCopy {α : Type} (s : State) (old : Option α) : Option α := if Config.freeBool s.free then old else none

/-- The copy to write: the other than the newest valid one; of equals, the one not selected at start (R49). True: B. R49 says
nothing of two copies that are both invalid, as both writes of R51 can leave them: then copy A is written (DESIGN CHOICE, log entry 14). -/
def persistTarget (f : Fpt) : Bool :=
  match f.flashA, f.flashB with
  | none, _ => false
  | some _, none => true
  | some a, some b => if b.generation < a.generation then true else if a.generation < b.generation then false else !f.selectedB

def setFlash (s : State) (b : Bool) (t : Option FptTable) : State :=
  modFpt s fun f => if b then { f with flashB := t } else { f with flashA := t }

def flashOf (f : Fpt) (b : Bool) : Option FptTable := if b then f.flashB else f.flashA

def persisted (s : State) : State :=
  modFpt s fun f => { f with persistPending := false, persistFail := false, persistDue := false }

def execFptPersist (firstOk secondOk : Bool) (s : State) : Out :=
  .next <|
    match s.fpt.table with
    | none => s
    | some t =>
      if !(s.fpt.persistDue && (live s || s.dev.state == .failed)) then s
      else
        let b := persistTarget s.fpt
        if firstOk then persisted (setFlash s b (some t))
        else
          let s := bumpFree (setFlash s b (failedCopy s (flashOf s.fpt b)))
          if secondOk then persisted (setFlash s (!b) (some t))
          else
            let s := bumpFree (setFlash s (!b) (failedCopy s (flashOf s.fpt !b)))
            let s := modFpt s fun f => { f with persistFail := true, persistDue := false }
            raiseAsh s 0x21 0x400 0xFF 0 (detail [(0, 8, t.generation)]) [0] [0]

end Sys2Proof.Machine
end

