-- ==== Sys2Proof/Machine/Links.lean ====
section
/-! DEFINITION. The die links: flits, sequence and replay, credits, lane health, retraining, the bridge's detour
(16 R339-R366, 15 R330, 14 R323). -/

namespace Sys2Proof.Machine

/-! ## Ends of a link -/

def setLink (s : State) (l : Nat) (x : Link) : State :=
  modFabric s fun f =>
    if l = 0 then { f with link0 := x } else if l = 1 then { f with link1 := x } else { f with link2 := x }

def modLink (s : State) (l : Nat) (f : Link → Link) : State := setLink s l (f (link s l))

def Link.endOf (x : Link) (far : Bool) : LinkEnd := if far then x.farEnd else x.near
def linkEnd (s : State) (l : Nat) (far : Bool) : LinkEnd := (link s l).endOf far

def modEnd (s : State) (l : Nat) (far : Bool) (f : LinkEnd → LinkEnd) : State :=
  modLink s l fun x => if far then { x with farEnd := f x.farEnd } else { x with near := f x.near }

/-- Flits travel on the link: trained, UP and not retraining (R356); the bridge's islands stop while a flue link is DOWN (R358). -/
def linkRuns (s : State) (l : Nat) : Bool :=
  (link s l).trained && (link s l).state == .up &&
    (l != 2 || (s.fabric.link0.state != .down && s.fabric.link1.state != .down))

/-- Count a U event and a T event of a link (R427). -/
def linkEvent (s : State) (l i n : Nat) : State := countU s (0xA00 + 16 * l + i) n
def linkEventT (s : State) (l i tag : Nat) : State := countT s (0xA00 + 16 * l + i) tag 1

/-! ## CTRL and acceptance (R345, R347, R361) -/

/-- A CTRL payload (R345). -/
def ctrlPayload (e : LinkEnd) : List Byte :=
  leBytes 2 e.expect.toNat ++ leBytes 1 (b2n e.nakDue + 2 * b2n e.retrainReq) ++ leBytes 1 0 ++
    (List.range 12).flatMap (fun v => leBytes 2 (lookD 0 e.freed v % 65536)) ++ leBytes 4 e.suspect.toNat

/-- A NAK is due, unless one was sent since the last acceptance and within 200 ns (R347). -/
def wantNak (s : State) (l : Nat) (far : Bool) : State :=
  let e := linkEnd s l far
  let quiet := match e.nakAt with | some t => !due s t 200 | none => false
  if quiet then s else modEnd s l far fun e => { e with nakDue := true }

/-- A flit fails GCHK or CRC, or carries TYPE 3: a lost DATA flit (R343, R347). -/
def flitLost (s : State) (l : Nat) (far : Bool) (group : Nat) (flit : List Byte) : State :=
  let s := if gchkOk flit then s else
    linkEvent (modEnd s l far fun e =>
      { e with gchk := put e.gchk group ((now s :: lookD [] e.gchk group).take 17) }) l 4 1
  wantNak (if crcOk flit then s else linkEvent s l 5 1) l far

def freshFlitId (s : State) : Nat := (s.fabric.flits ++ s.fabric.delivered).foldl (fun n f => max n (f.id + 1)) 0

/-- The graph that routes a flit: its generation bit selects the table (R319). -/
def genGraph (s : State) (gen : Bool) : Graph := if gen then s.fabric.graph1 else s.fabric.graph0

/-- The row-0 or column-0 sites that end a link, as nodes of a firebox (R310). -/
def linkSites (l : Nat) (far : Bool) : List Nat :=
  if l = 2 then (List.range 10).map fun r => (if far then 100 else 0) + 10 * r else (List.range 10).map (100 * l + ·)

/-- The router that takes a flit from a link's end, and the port it comes by: the one that its sender routed it to (R310). A flit that
names none there is taken by the first that its tables hold. -/
def entryNode (s : State) (l : Nat) (far : Bool) (f : LinkFlit) : Nat × Nat :=
  if l = 2 ∨ far then
    let rs := (linkSites l far).filter (genGraph s f.gen).nodes.contains
    (if rs.contains (viaOf f.payload) then viaOf f.payload else rs.headD ((linkSites l far).headD 0), if l = 2 then 6 else 5)
  else (200, l)

/-- A message whose head has moved to the escape channel at a router takes its later flits along (R313, R318). -/
def followsHead (s : State) (f : MeshFlit) : Bool :=
  f.vc % 2 == 0 && (s.fabric.flits.any (fun g => g.node == f.node && g.msg == f.msg && g.vc == f.vc + 1) ||
    s.fabric.holding.any fun h => h.1 / 96 == f.node && h.1 % 12 == f.vc + 1 && h.2 == f.msg)

/-- A flit enters a router. -/
def enterRouter (s : State) (f : MeshFlit) : State :=
  let f := if followsHead s f then { f with vc := f.vc + 1 } else f
  modFabric s fun x => { x with flits := x.flits ++ [f] }

/-- Accept a DATA flit into its channel's buffer and hand it to the router there. -/
def acceptFlit (s : State) (l : Nat) (far : Bool) (f : LinkFlit) : State :=
  let n := entryNode s l far f
  let m := meshFlitOf f.payload (freshFlitId s) n.1 n.2 f.vc f.gen
  let s := modEnd s l far fun e =>
    { e with expect := e.expect + 1, rxBuf := e.rxBuf ++ [f], unacked := e.unacked + 1, ctrlSince := some (e.ctrlSince.getD (now s)),
             nakAt := none }
  linkEventT (enterRouter s m) l 1 (flitTag f.payload)

/-- The table of R347 for a DATA flit that passes both checks. -/
def sequenceFlit (s : State) (l : Nat) (far : Bool) (f : LinkFlit) : State :=
  let d := (f.seq - (linkEnd s l far).expect).toNat
  if d = 0 then acceptFlit s l far f
  else if d ≤ 1023 then wantNak s l far
  else if 64512 ≤ d then linkEventT s l 13 (flitTag f.payload)
  else modEnd s l far fun e => { e with protoErrors := e.protoErrors + 1 }

/-- The group carries flits of the link now. -/
def onGroup (s : State) (l group : Nat) : Bool := linkRuns s l && (groupsNow s l).contains group

def execLinkDataReceive (link : Nat) (far : Bool) (group : Nat) (flit : List Byte) (s : State) : Out :=
  guarded (Instr.wellFormed (.linkDataReceive link far group flit)) .noSuchUnit <|
    if !onGroup s link group then s
    else if !flitGood flit then flitLost s link far group flit
    else if flitType flit = 1 then sequenceFlit s link far (flitOf flit)
    else s

/-! ## Acknowledgement and replay (R347-R349) -/

/-- Flits before SEQ `a` leave the replay buffer (R345). -/
def acknowledge (s : State) (l : Nat) (far : Bool) (a : BitVec 16) : State :=
  modEnd s l far fun e =>
    match e.replay with
    | [] => e
    | f :: _ =>
      let n := (a - f.seq).toNat
      if n = 0 ∨ e.replay.length < n then e
      else { e with replay := e.replay.drop n, ackAt := now s,
                    uncharged := e.uncharged.filter fun q => (e.replay.drop n).any (·.seq == q),
                    resend := e.resend.filter fun g => (e.replay.drop n).contains g }

/-- A replay round starts, and counts as one retry (R349). -/
def replayRound (s : State) (l : Nat) (far : Bool) : State :=
  linkEvent (modEnd s l far fun e =>
    { e with resend := e.replay, retries := (now s :: e.retries).take 65, ackAt := now s }) l 2 1

/-- What a CTRL delivers (R345, R349-R352). -/
def takeCtrl (s : State) (l : Nat) (far : Bool) (p : List Byte) : State :=
  let s := acknowledge s l far (BitVec.ofNat 16 (fld p 0 2))
  let s := modEnd s l far fun e =>
    { e with returned := (List.range 12).foldl (fun m v => putD 0 m v (fld p (4 + 2 * v) 2)) e.returned }
  let s := if fld p 2 1 % 2 = 1 then replayRound s l far else s
  if fld p 2 1 / 2 % 2 = 1 then modLink s l fun x => { x with due := some (x.due.getD 2) } else s

def execLinkCtrlReceive (link : Nat) (far : Bool) (group : Nat) (flit : List Byte) (s : State) : Out :=
  guarded (Instr.wellFormed (.linkCtrlReceive link far group flit)) .noSuchUnit <|
    if !onGroup s link group then s
    else if !flitGood flit then flitLost s link far group flit
    else if flitType flit = 2 then takeCtrl s link far flit
    else s

/-- 200 ns with DATA flits unacknowledged and no acknowledgement advancing (R349). -/
def execReplayTimeout (link : Nat) (far : Bool) (s : State) : Out :=
  guarded (Instr.wellFormed (.replayTimeout link far)) .noSuchUnit <|
    let e := linkEnd s link far
    if linkRuns s link && !e.replay.isEmpty && due s e.ackAt 200 then replayRound s link far else s

/-! ## Sending (R323, R344, R346, R348, R350) -/

/-- Capacity of a channel buffer (R350). -/
def channelCapacity (v : Nat) : Nat := if v % 2 = 1 then 32 else 256

/-- Credits a sender holds for a channel (R330, R350). -/
def credits (e : LinkEnd) (v : Nat) : Nat :=
  channelCapacity v - (lookD 0 e.heldAtRetrain v + lookD 0 e.sent v + 65536 - lookD 0 e.returned v) % 65536

/-- Put the bytes of a slot on the wire: slot k goes to the active group at position k mod G, in the block k / G of unit intervals,
over the lanes in use there (R341, R346). -/
def putSlot (s : State) (l : Nat) (far : Bool) (bytes : List Byte) : State :=
  let gs := groupsNow s l
  let k := (linkEnd s l far).slot
  let g := gs.getD (k % gs.length) 0
  let x : Slot := { block := k / gs.length, group := g, bytes := bytes, lanes := stripe (lookD [] (link s l).failedLanes g) bytes }
  modEnd s l far fun e => { e with wire := e.wire ++ [x], slot := k + 1 }

/-- R348 asks for a CTRL now: 256 acceptances are unacknowledged, 8 ns are over since the oldest acceptance or freed entry that no CTRL
has carried, or a NAK is to be sent. No other CTRL is sent. -/
def ctrlDue (s : State) (e : LinkEnd) : Bool :=
  e.nakDue || 256 ≤ e.unacked || (match e.ctrlSince with | some t => due s t 8 | none => false)

/-- A CTRL in one slot: it acknowledges, returns credits, and carries what is due (R345, R348). -/
def sendCtrl (s : State) (l : Nat) (far : Bool) : State :=
  let e := linkEnd s l far
  let s := linkEvent (putSlot s l far (flitBytes (ctrlPayload e) 0 2)) l 11 1
  let s := if e.nakDue then linkEvent s l 3 1 else s
  modEnd s l far fun x =>
    { x with unacked := 0, ctrlSince := none, nakDue := false, nakAt := if e.nakDue then some (now s) else x.nakAt }

/-- Rank of a channel for the bridge's class arbitration (R323, R340). -/
def vcRank (v : Nat) : Nat := 2 * (v / 4) + (if v / 2 % 2 = 1 then 0 else 1)

/-- The next new DATA flit: by class on the bridge, in order of commitment on a flue link (R323, R340). -/
def nextData (l : Nat) (e : LinkEnd) : Option LinkFlit :=
  if 1024 ≤ e.replay.length then none
  else if l = 2 then
    (e.txq.filter fun f => 0 < credits e f.vc).foldl (fun b f => match b with
      | none => some f
      | some x => if vcRank f.vc < vcRank x.vc then some f else some x) none
  else match e.txq with
    | [] => none
    | f :: _ => if 0 < credits e f.vc then some f else none

/-- A new DATA flit takes its SEQ and enters the replay buffer. -/
def commitData (e : LinkEnd) (f : LinkFlit) (t : Nat) : LinkEnd :=
  { e with txq := e.txq.erase f, nextSeq := e.nextSeq + 1, replay := e.replay ++ [{ f with seq := e.nextSeq }],
           sent := putD 0 e.sent f.vc ((lookD 0 e.sent f.vc + 1) % 65536), ackAt := if e.replay.isEmpty then t else e.ackAt }

/-- A replayed flit goes out again; one that the last retrain left uncharged costs its credit now (R330, R350). -/
def resendData (e : LinkEnd) (f : LinkFlit) (rest : List LinkFlit) : LinkEnd :=
  if e.uncharged.contains f.seq then
    { e with resend := rest, uncharged := e.uncharged.filter (· != f.seq),
             sent := putD 0 e.sent f.vc ((lookD 0 e.sent f.vc + 1) % 65536) }
  else { e with resend := rest }

/-- The next DATA flit for the relay: of the older generation while the part leaves the detour (R361, R363), with room in the replay
buffer and a credit (R330). -/
def relayData (s : State) (e : LinkEnd) : Option LinkFlit :=
  if 1024 ≤ e.replay.length then none
  else match e.txq.find? fun f => !(leavingDetour s && f.gen == s.fabric.bank1) with
    | some f => if 0 < credits e f.vc then some f else none
    | none => none

/-- A DATA flit that reaches a bridge port in detour enters the relay after the replayed ones (R361). -/
def relayNew (s : State) (far : Bool) : State :=
  let e := linkEnd s 2 far
  match relayData s e with
  | none => s
  | some f =>
    let s' := modEnd s 2 far fun e => commitData e f (now s)
    modEnd s' 2 (!far) fun x => { x with relayIn := x.relayIn ++ [{ f with seq := e.nextSeq }] }

/-- A slot passes with a flit ready that has no credit (0xA0E + 16 L). -/
def creditStarved (e : LinkEnd) : Bool := e.txq.any fun f => credits e f.vc = 0

def execLinkFlitSend (link : Nat) (far : Bool) (s : State) : Out :=
  guarded (Instr.wellFormed (.linkFlitSend link far)) .noSuchUnit <|
    let e := linkEnd s link far
    if link = 2 ∧ e.detourBegun then relayNew s far
    else if !linkRuns s link then s
    else
      match e.resend with
      | f :: rest =>
        linkEventT (modEnd (putSlot s link far (dataFlit f)) link far fun e => resendData e f rest) link 0 (flitTag f.payload)
      | [] =>
        match nextData link e with
        | some f =>
          let s' := putSlot s link far (dataFlit { f with seq := e.nextSeq })
          let s' := linkEventT (modEnd s' link far fun e => commitData e f (now s)) link 0 (flitTag f.payload)
          if f.vc / 4 = 0 then linkEventT s' link 15 (flitTag f.payload) else s'
        | none =>
          let s := if creditStarved e then linkEvent s link 14 1 else s
          if ctrlDue s e then sendCtrl s link far else linkEvent (putSlot s link far (flitBytes [] 0 0)) link 10 1

/-- A CTRL that the bounds of R348 require; it carries RETRAIN_REQ and SUSPECT where they are set (R351). -/
def execCtrlSend (link : Nat) (far : Bool) (s : State) : Out :=
  guarded (Instr.wellFormed (.ctrlSend link far)) .noSuchUnit <|
    if linkRuns s link && ctrlDue s (linkEnd s link far) then sendCtrl s link far else s

/-! ## Lane health (R351, R352) -/

/-- The n-th newest of a list of times lies within `ns` of the newest. -/
def burst (l : List Nat) (n ns : Nat) : Bool :=
  match l.head?, l[n]? with
  | some a, some b => a - b ≤ ns
  | _, _ => false

def execGroupSuspect (link : Nat) (far : Bool) (group : Nat) (s : State) : Out :=
  guarded (Instr.wellFormed (.groupSuspect link far group)) .noSuchUnit <|
    let e := linkEnd s link far
    if linkRuns s link && burst (lookD [] e.gchk group) 16 100000000 && !e.suspect.getLsbD group then
      let s := modEnd s link far fun e => { e with suspect := setBit e.suspect group true, retrainReq := true }
      modLink s link fun x =>
        { x with due := some (x.due.getD 0), suspicions := put x.suspicions group (now s :: lookD [] x.suspicions group) }
    else s

def execRetryStorm (link : Nat) (far : Bool) (s : State) : Out :=
  guarded (Instr.wellFormed (.retryStorm link far)) .noSuchUnit <|
    let e := linkEnd s link far
    if linkRuns s link && burst e.retries 64 1000000 && !e.retrainReq then
      modLink (modEnd s link far fun e => { e with retrainReq := true }) link fun x => { x with due := some (x.due.getD 1) }
    else s

/-! ## Retraining (R353-R358) -/

/-- Lanes of a group that failed their test and are not mapped around yet (R353 step 3). -/
def newLanes (s : State) (l : Nat) (found : RetrainFindings) (g : Nat) : List Nat :=
  (((found.failedLanes.filter (·.1 == g)).map (·.2)).filter fun x => !(lookD [] (link s l).failedLanes g).contains x).eraseDups

/-- Outcome of one group (R354). -/
def groupOutcome (s : State) (l : Nat) (found : RetrainFindings) (g : Nat) : Option FieldUnit :=
  let f := (newLanes s l found g).length
  let used := (linkNow s l).spareMap.toNat / 4 ^ g % 4
  let thrice := 3 ≤ ((lookD [] (link s l).suspicions g).filter fun t => now s ≤ t + 10000000000).length
  if found.noLock.contains g || 2 - used < f then some (.linkNarrow l g)
  else if 0 < f then some (.linkSpare l g f)
  else if thrice then some (.linkNarrow l g)
  else none

def outcomes (s : State) (l : Nat) (found : RetrainFindings) : List FieldUnit := (groupsNow s l).filterMap (groupOutcome s l found)

/-- The lanes found failed are mapped around from now on, in both directions (R341). -/
def remapLanes (s : State) (l : Nat) (found : RetrainFindings) : State :=
  let add (m : SMap (List Nat)) (g : Nat) : SMap (List Nat) :=
    if (newLanes s l found g).isEmpty then m else put m g (lookD [] m g ++ newLanes s l found g)
  modLink s l fun x => { x with failedLanes := (groupsNow s l).foldl add x.failedLanes }

/-- Step 4: the outcomes wait for their publication, and are counted. -/
def applyOutcomes (s : State) (l : Nat) (us : List FieldUnit) : State :=
  us.foldl (fun s u =>
    let s := fenceUnit s u
    match u with
    | .linkSpare _ _ n => linkEvent s l 8 n
    | _ => linkEvent s l 9 1) s

/-- Occupancy of the peer's channel buffers, as the retrain handshake reports it (R330). -/
def occupancy (peer : LinkEnd) : SMap Nat :=
  (List.range 12).foldl (fun m v => putD 0 m v (peer.rxBuf.filter (·.vc == v)).length) []

/-- Step 5 for one sender: E and occupancy of the far end, credits, counts, replay round, slot 0 (R330, R353). What it holds for replay
has not reached the far end's buffers, so it costs its credit when it is sent again. The retry times stay (R351, R354). -/
def exchangeEnd (s : State) (l : Nat) (far : Bool) : State :=
  let peer := linkEnd s l (!far)
  let s := acknowledge s l far peer.expect
  let s := modEnd s l far fun e =>
    { e with sent := [], returned := [], freed := [], slot := 0, gchk := [], suspect := 0, retrainReq := false, ctrlSince := none,
             nakDue := false, nakAt := none, unacked := 0, uncharged := e.replay.map (·.seq),
             heldAtRetrain := occupancy peer }
  replayRound s l far

/-- DETAIL of LINK_RETRAIN, DETOUR and DETOUR_END (R391); the duration is open. -/
def retrainDetail (s : State) (l before after trigger suspect : Nat) : List Byte :=
  detail [(0, 1, l), (1, 1, (linkNow s l).level), (2, 1, before), (3, 1, after), (4, 1, trigger), (8, 4, suspect),
    (12, 4, (Config.freeWord s.free).toNat % 2 ^ 32)]

def suspects (s : State) (l : Nat) : Nat := ((linkEnd s l false).suspect ||| (linkEnd s l true).suspect).toNat

/-- A retrain that changed nothing is recorded (R366). -/
def retrainRecord (s : State) (l groups trigger suspect : Nat) : State :=
  bumpFree (raiseAsh s 0x10 (0x300 + l) 0xFF 0 (retrainDetail s l groups groups trigger suspect) [0] [])

/-- A flue link goes DOWN: work on its firebox's sites ends HEARTH_RETIRED, and work elsewhere with a request in flight on it
LINK_LOST (R48, R358). -/
def flueLinkDown (s : State) (l : Nat) : State :=
  let sites := ((List.range 100).map (· + 100 * l)).filter (siteLive s)
  let s := modLink s l fun x => { x with state := .down, due := none, secondTry := false }
  loseFlueRequests (retireSites s sites) l

/-- Steps 1 and 2 of R360 at an end: it stops sending, and DETOUR_BEGIN with its oldest unacknowledged SEQ and their number goes to the
other end, then the flits themselves. -/
def LinkEnd.begin (e : LinkEnd) : LinkEnd := { e with detourBegun := true, resend := [] }
def LinkEnd.begunBy (e peer : LinkEnd) : LinkEnd :=
  { e with relayIn := e.relayIn ++ peer.replay,
           beginIn := some (((peer.replay.head?).map (·.seq)).getD peer.nextSeq, peer.replay.length) }

def beginDetour (s : State) (far : Bool) : State :=
  modEnd (modEnd s 2 far LinkEnd.begin) 2 (!far) fun e => e.begunBy (linkEnd s 2 far)

/-- Either end may declare the bridge failed first, or both before the other's DETOUR_BEGIN arrives (R360): which do is free
(log entry 13). True in the first place: FB0's end declares; in the second: FB1's. -/
def declarers (s : State) : Bool × Bool :=
  (Config.freeBool s.free, !Config.freeBool s.free || Config.freeBool (s.free + 1))

/-- Each declaring end does its step 1. -/
def declareFailed (s : State) : State :=
  let d := declarers s
  modLink { s with free := s.free + 2 } 2 fun x =>
    let near := if d.1 then x.near.begin else x.near
    let far := if d.2 then x.farEnd.begin else x.farEnd
    { x with near := if d.2 then near.begunBy x.farEnd else near, farEnd := if d.1 then far.begunBy x.near else far }

/-- The bridge is declared failed: the detour, permanent when fewer than 8 groups are left (R359, R360). Sites that only the bridge
reached retire (R315). -/
def bridgeFailed (s : State) (trigger before suspect : Nat) : State :=
  let after := activeGroups s 2
  let s := declareFailed s
  let s := modLink s 2 fun x =>
    { x with state := if after < 8 then .down else .detour, due := none, secondTry := false, detourAt := now s, detourTries := 0 }
  modEpoch (retireCutOff s) fun e =>
    { e with waiting := e.waiting ++ [{ action := .detourEnter trigger before after suspect, reply := none }] }

/-- Steps 4 and 5 of R353 with the groups' outcomes, and what follows a link of fewer than 8 groups (R357-R359). -/
def finishRetrain (s : State) (l : Nat) (us : List FieldUnit) : State :=
  let before := activeGroups s l
  let trigger := ((link s l).due).getD 0
  let suspect := suspects s l
  let s := linkEvent (applyOutcomes s l us) l 6 1
  if activeGroups s l < 8 then (if l = 2 then bridgeFailed s trigger before suspect else flueLinkDown s l)
  else
    let s := exchangeEnd (exchangeEnd s l false) l true
    let s := modLink s l fun x => { x with state := .up, due := none, secondTry := false }
    if us.isEmpty then retrainRecord s l before trigger suspect else s

/-- A retrain is due on the link (R352, R357). -/
def retrainDue (s : State) (l : Nat) : Bool :=
  (link s l).trained && (link s l).due.isSome && ((link s l).state == .up || (link s l).state == .retraining) &&
    (l != 2 || (s.fabric.link0.state != .down && s.fabric.link1.state != .down))

def execRetrainStart (link : Nat) (found : RetrainFindings) (s : State) : Out :=
  guarded (Instr.wellFormed (.retrainStart link found)) .noSuchUnit <|
    if retrainDue s link then finishRetrain (remapLanes s link found) link (outcomes s link found) else s

def execRetrainBoundMiss (link : Nat) (confirmed : List Nat) (s : State) : Out :=
  guarded (Instr.wellFormed (.retrainBoundMiss link confirmed)) .noSuchUnit <|
    if !retrainDue s link then s
    else if link = 2 then
      bridgeFailed (linkEvent s 2 6 1) (((Machine.link s 2).due).getD 0) (activeGroups s 2) (suspects s 2)
    else if (Machine.link s link).secondTry then
      finishRetrain s link (((groupsNow s link).filter fun g => !confirmed.contains g).map fun g => .linkNarrow link g)
    else
      modLink (retrainRecord (linkEvent s link 6 1) link (activeGroups s link) (((Machine.link s link).due).getD 0) (suspects s link))
        link fun x => { x with state := .retraining, secondTry := true }

/-! ## The detour (R360-R363) -/

/-- The bridge carries nothing: it is in detour, or DOWN. -/
def inDetour (s : State) : Bool := s.fabric.link2.state == .detour || s.fabric.link2.state == .down

/-- The relay runs through both flue links (R362): while one retrains or is DOWN its flits wait. -/
def relayRuns (s : State) : Bool := linkRuns s 0 && linkRuns s 1

/-- An end receives the DETOUR_BEGIN on its way to it, and does the same unless it has declared itself (R360 step 2). -/
def execDetourBeginReceive (far : Bool) (firstSeq count : Nat) (s : State) : Out :=
  .next <|
    if inDetour s && relayRuns s && (linkEnd s 2 far).beginIn == some (BitVec.ofNat 16 firstSeq, count) && firstSeq < 65536 then
      let s := modEnd s 2 far fun e => { e with beginIn := none }
      if (linkEnd s 2 far).detourBegun then s else beginDetour s far
    else s

/-- The next relayed flit, by R347 against the bridge's E; its sender's entry is acknowledged and its freed entries are returned through
the detour (R330, R361). -/
def relayStep (s : State) (far : Bool) : State :=
  match (linkEnd s 2 far).relayIn with
  | [] => s
  | f :: rest =>
    let s := modEnd s 2 far fun e => { e with relayIn := rest }
    let s := linkEventT (sequenceFlit s 2 far f) 2 12 (flitTag f.payload)
    let s := modEnd s 2 (!far) fun e => { e with returned := (linkEnd s 2 far).freed }
    acknowledge s 2 (!far) (linkEnd s 2 far).expect

/-- DETOUR_BEGIN comes before the flits it announces. -/
def execRelayedFlitReceive (far : Bool) (s : State) : Out :=
  .next <| if inDetour s && relayRuns s && (linkEnd s 2 far).beginIn.isNone then relayStep s far else s

/-- Every flit still in the relay arrives. -/
def drainRelay (s : State) (far : Bool) : State := ((linkEnd s 2 far).relayIn).foldl (fun s _ => relayStep s far) s

/-- A successful attempt: SEQ, E and slots restart at 0, replay buffers are empty and credits are at capacity (R363 step 1). The retry
times stay (R351). -/
def restartBridge (s : State) : State :=
  let s := drainRelay (drainRelay s false) true
  let clean (e : LinkEnd) : LinkEnd :=
    { LinkEnd.reset with txq := e.txq, wire := e.wire, detourBegun := e.detourBegun, retries := e.retries, protoErrors := e.protoErrors }
  modLink s 2 fun x => { x with near := clean x.near, farEnd := clean x.farEnd }

/-- An Epoch change of the detour waits. -/
def detourPending (s : State) : Bool := (s.epoch.running.toList ++ s.epoch.waiting).any fun c =>
  match c.action with | .detourEnter _ _ _ _ | .detourLeave _ _ => true | _ => false

/-- Periods of 10 s since t0 of the detour that are over. -/
def detourPeriods (s : State) : Nat := (now s - (link s 2).detourAt) / 10000000000

/-- A fast retrain of the bridge during the detour, every 10 s from t0 (R363, R364). -/
def execDetourRetry (locked : Bool) (found : RetrainFindings) (s : State) : Out :=
  guarded (Instr.wellFormed (.detourRetry locked found)) .noSuchUnit <|
    let l := s.fabric.link2
    if !(l.state == .detour && l.detourTries < detourPeriods s && !detourPending s && s.fabric.link0.state != .down &&
        s.fabric.link1.state != .down) then s
    else
      let before := activeGroups s 2
      let n := detourPeriods s
      let s := modLink (linkEvent s 2 6 1) 2 fun x => { x with detourTries := n }
      if !locked then retrainRecord s 2 before 3 0
      else
        let us := outcomes s 2 found
        let s := applyOutcomes (remapLanes s 2 found) 2 us
        let after := activeGroups s 2
        if after < 8 then modLink s 2 fun x => { x with state := .down }
        else
          let s := if us.isEmpty then retrainRecord s 2 before 3 0 else s
          modEpoch (restartBridge s) fun e =>
            { e with waiting := e.waiting ++ [{ action := .detourLeave before after, reply := none }] }

end Sys2Proof.Machine
end

