-- ==== Sys2Proof/Machine/Fabric.lean ====
section
/-! DEFINITION. Routing generations, Epoch changes, the mesh and the devtime copies (14 R303-R327, 15 R330, R338,
21 R455-R464). -/

namespace Sys2Proof.Machine

/-! ## Routing generations and Epoch changes -/

/-- A change that installs routing tables waits already. -/
def routingPending (s : State) : Bool := (s.epoch.running.toList ++ s.epoch.waiting).any fun c =>
  match c.action with | .routing | .detourEnter _ _ _ _ | .detourLeave _ _ => true | _ => false

/-- Tables for a changed graph, and their Epoch change (R319). -/
def execRoutingGeneration (s : State) : Out :=
  .next <|
    match s.fpt.table with
    | none => s
    | some t =>
      if live s && graphOf s t != graphIn s && !routingPending s then
        modEpoch s fun e => { e with waiting := e.waiting ++ [{ action := .routing, reply := none }] }
      else s

/-- The graph of the table in force goes into the bank in force (R319). -/
def installRoutes (s : State) : State :=
  match s.fpt.table with
  | none => s
  | some t =>
    let g := graphOf s t
    let s := modFabric s fun f => if f.bank1 then { f with graph1 := g } else { f with graph0 := g }
    g.nodes.foldl (fun s i => countAt s 0x516 i 1) s

/-- A DETOUR or DETOUR_END record to the admin ring and to every tenant, and vector 4 (R360, R363). -/
def detourRecord (s : State) (ty before after trigger suspect : Nat) : State :=
  raiseVector (bumpFree (raiseAsh s ty 0x302 0xFF 0 (retrainDetail s 2 before after trigger suspect) (0 :: liveTenants s) [])) 0 4

/-- What a change installs in the new generation (R464, R446, R447). -/
def install (s : State) : EpochAction → State
  | .assign t sites => sites.foldl (fun s x => setOwner s x (some t)) s
  | .define t n r =>
    let s := setRegion (forgetWords s r) t n { r with generation := s.epoch.generation }
    if r.hbm then modSec s fun c => { c with keys := c.keys ++ [(t, n, r.key)] } else s
  | .delete t n =>
    removeRegion (modEpoch s fun e => { e with frozen := (region? s t n).toList }) t n
  | .bind d t p => modChain s fun c => { c with domains := put c.domains d { tenant := t, port := p, exports := [] } }
  | .routing | .detourEnter _ _ _ _ | .detourLeave _ _ => installRoutes s

/-- What the end of a change brings: the records of the detour, and the bridge again (R360 step 5, R363 step 3). -/
def conclude (s : State) : EpochAction → State
  | .detourEnter trigger before after suspect => detourRecord s 0x11 before after trigger suspect
  | .detourLeave before after =>
    let clear (e : LinkEnd) : LinkEnd := { e with detourBegun := false }
    let s := drainRelay (drainRelay s false) true
    let s := modLink s 2 fun x =>
      if x.state == .detour then { x with state := .up, near := clear x.near, farEnd := clear x.farEnd } else x
    detourRecord s 0x12 before after 3 0
  | _ => s

/-- The tenant that a change is for has been destroyed meanwhile (06 edge cases). -/
def orphanChange (s : State) : EpochAction → Bool
  | .assign t _ | .define t _ _ | .delete t _ | .bind _ t _ => !(tenant s t).alive
  | _ => false

def replyTo (s : State) (c : EpochChange) (rc : Rc) : State :=
  match c.reply with
  | none => s
  | some (fn, seq, payload) => respondTo s fn seq rc 0 (if rc = .ok then payload else [])

/-- A firebox's flue link is DOWN: its islands need not acknowledge (R463). -/
def cutOff (s : State) (node : Nat) : Bool := node < 200 && flueDown s node

/-- Flits of one generation that an end of a link holds. -/
def LinkEnd.holds (e : LinkEnd) (gen : Bool) : Bool := (e.txq ++ e.replay ++ e.relayIn).any (·.gen == gen)

/-- A router, a link layer or an agent still holds a message of a generation (R461 step 5). -/
def heldGen (s : State) (gen : Bool) : Bool :=
  s.fabric.flits.any (fun f => f.gen == gen && !cutOff s f.node) ||
    (List.range 3).any fun l => ((link s l).state != .down || (l == 2 && relayRuns s)) &&
      ((linkEnd s l false).holds gen || (linkEnd s l true).holds gen)

/-- No message of the generation before the one in force is left. -/
def drained (s : State) : Bool := !heldGen s !s.fabric.bank1

/-- Step 6: the change ends, vector 5 is raised, and its command responds (R461). -/
def endChange (s : State) (c : EpochChange) : State :=
  let s := modEpoch (conclude s c.action) fun e => { e with mixed := false, running := none, frozen := [] }
  replyTo (raiseVector s 0 5) c .ok

/-- Steps 1 to 4: the new generation is in force beside the older one (R461, R464). -/
def beginChange (s : State) (c : EpochChange) : State :=
  install (modEpoch (flipGeneration s) fun e => { e with mixed := true, running := some c }) c.action

/-- The change that runs ends once the older generation has drained. With none running, and nothing of an older generation left, the
change at the front starts, and ends at once if no message is under way (R461, R462). -/
def execEpochChange (s : State) : Out :=
  .next <|
    match s.epoch.running with
    | some c => if drained s then endChange s c else s
    | none =>
      match s.epoch.waiting with
      | [] => s
      | c :: rest =>
        if !drained s then s
        else
          let s := modEpoch s fun e => { e with waiting := rest }
          if orphanChange s c.action then replyTo s c .eState
          else
            let s := beginChange s c
            if drained s then endChange s c else s

/-! ## The mesh (R310, R316-R323) -/

/-- Is `b` the site reached from `a` through mesh port `p` (0 north, 1 south, 2 east, 3 west; DESIGN CHOICE log entry 11). -/
def gridPort (a b : Nat) : Option Nat :=
  if a / 100 ≠ b / 100 then none
  else if b + 10 = a then some 0 else if a + 10 = b then some 1 else if a + 1 = b then some 2 else if b + 1 = a then some 3 else none

/-- Output port of node `x` toward neighbour `y`. -/
def portTo (x y : Nat) : Nat :=
  if x = 200 then y / 100 else if y = 200 then 5 else (gridPort x y).getD 6

/-- Input port at which a mesh neighbour receives what leaves by a mesh port. -/
def opposite (p : Nat) : Nat := if p = 0 then 1 else if p = 1 then 0 else if p = 2 then 3 else 2

/-- The graph that routes a flit (R319). -/
def flitGraph (s : State) (f : MeshFlit) : Graph := genGraph s f.gen

/-- A flit on an escape channel. -/
def MeshFlit.escape (f : MeshFlit) : Bool := f.vc % 2 == 1

/-- The next node of a flit: its own node at its destination. -/
def nextNode (s : State) (f : MeshFlit) : Option Nat :=
  if f.dest = f.node then some f.node
  else if f.escape then (flitGraph s f).escapeNext f.node f.dest f.down
  else (flitGraph s f).next f.node f.dest

def outPort (s : State) (f : MeshFlit) : Option Nat :=
  (nextNode s f).map fun y => if y = f.node then 4 else portTo f.node y

/-- Flits in a router's input buffer. -/
def occupied (s : State) (node port vc : Nat) : Nat :=
  (s.fabric.flits.filter fun f => f.node == node && f.inPort == port && f.inVc == vc).length

/-- Link and end that a die port of a node feeds: a row-0 site's flue port, a column-0 site's bridge port, the flue fabric's two. -/
def diePort (node port : Nat) : Nat × Bool :=
  if node = 200 then (port, false) else if port = 5 then (node / 100, true) else (2, decide (100 ≤ node))

/-- Capacity of a mesh port's channel buffer (R322). -/
def meshCapacity (vc : Nat) : Nat := if vc % 2 = 1 then 2 else 8

/-- A downstream credit for a flit at an output: an entry of the next router's buffer; at a die port an entry of the far end's buffer
that no flit committed before needs, and on a flue link at most 64 flits committed ahead (R322, R323, R330). -/
def hasCredit (s : State) (node port vc : Nat) (y : Nat) : Bool :=
  if port = 4 then true
  else if node ≠ 200 ∧ port < 4 then occupied s y (opposite port) vc < meshCapacity vc
  else
    let d := diePort node port
    let e := linkEnd s d.1 d.2
    (e.txq.filter (·.vc == vc)).length < credits e vc &&
      (d.1 == 2 || ((link s d.1).state != .down && decide (e.txq.length < 64)))

/-! ## Messages (R313) -/

/-- Key of an output channel in Fabric.holding. -/
def channelKey (node port vc : Nat) : Nat := 96 * node + 12 * port + vc

/-- No flit of its message is ahead of it at this router, and the output channel carries no other message: a message's flits travel
together and in order (R313). -/
def inTurn (s : State) (port : Nat) (f : MeshFlit) : Bool :=
  ((s.fabric.flits.find? fun g => g.node == f.node && g.msg == f.msg).map (·.id)) == some f.id &&
    (match look s.fabric.holding (channelKey f.node port f.vc) with | some m => m == f.msg | none => true)

/-- The message holds its output channel until its last flit has gone. -/
def holdChannel (s : State) (port : Nat) (f : MeshFlit) : State :=
  let k := channelKey f.node port f.vc
  modFabric s fun x => { x with holding := if f.last then x.holding.filter (·.1 != k) else put x.holding k f.msg }

/-- Rank of a candidate (R323): C0 responses, C0 requests, aged flits, then C1 and C2. -/
def grantRank (f : MeshFlit) : Nat :=
  if f.vc / 4 = 0 then vcRank f.vc else if f.aged then 2 else 1 + vcRank f.vc

/-- Of two candidates, the one granted: lower rank, the longest waiting of aged flits, then the input port whose turn is first. In a turn
that an aged flit takes before the order of classes (`forced`), the longest waiting goes first (R323, R327). -/
def grantBetter (forced : Bool) (last : Nat) (a b : MeshFlit) : MeshFlit :=
  let turn (f : MeshFlit) : Nat := (f.inPort + 6 - last) % 7
  let rank (f : MeshFlit) : Nat := if forced then 2 else grantRank f
  let age (f : MeshFlit) : Nat := if rank f = 2 ∧ f.aged then f.waited else 0
  if rank b < rank a ∨ (rank b = rank a ∧ (age a < age b ∨ (age a = age b ∧ turn b < turn a))) then b else a

/-- Free the entry of a link's channel buffer when its flit leaves the router there (R345). -/
def freeEntry (s : State) (f : MeshFlit) : State :=
  let give (s : State) (l : Nat) (far : Bool) : State :=
    modEnd s l far fun e =>
      match e.rxBuf.find? (·.vc == f.inVc) with
      | none => e
      | some x => { e with rxBuf := e.rxBuf.erase x, ctrlSince := some (e.ctrlSince.getD (now s)),
                           freed := putD 0 e.freed f.inVc ((lookD 0 e.freed f.inVc + 1) % 65536) }
  if f.node = 200 then (if f.inPort < 2 then give s f.inPort false else s)
  else if f.inPort = 5 then give s (f.node / 100) true
  else if f.inPort = 6 then give s 2 (decide (100 ≤ f.node))
  else s

/-- The escape route has taken a down edge once the flit is at the next node. -/
def downAfter (s : State) (f : MeshFlit) (y : Nat) : Bool := f.escape && (f.down || !(flitGraph s f).up f.node y)

/-- The response that an endpoint owes the sender of a request it has taken (R326). -/
def MeshFlit.answer (f : MeshFlit) : MeshFlit :=
  { f with node := f.dest, inPort := 4, inVc := f.vc / 2 * 2 + 2, vc := f.vc / 2 * 2 + 2, dest := f.src, agent := f.srcAgent, src := f.dest,
           srcAgent := f.agent, down := false, waited := 0, starved := 0, aged := false, error := false }

/-- Key of an endpoint. -/
def endpoint (node agent : Nat) : Nat := 32 * node + agent

/-- An endpoint takes a flit: the last of a request asks for a response, the last of a C0 response closes its requester's C0 request
(R325, R326). -/
def takeFlit (s : State) (f : MeshFlit) : State :=
  modFabric s fun x =>
    { x with delivered := x.delivered ++ [f],
             offers := if f.last && f.vc / 2 % 2 == 0 then x.offers ++ [f.answer] else x.offers,
             c0Open := if f.last && f.vc / 2 == 1 then putD 0 x.c0Open (endpoint f.dest f.agent) (lookD 0 x.c0Open (endpoint f.dest f.agent) - 1)
               else x.c0Open }

/-- A granted flit crosses to the next router, link layer or endpoint (R304, R323). -/
def moveFlit (s : State) (f : MeshFlit) (port y : Nat) : State :=
  let s := freeEntry (modFabric s fun x => { x with flits := x.flits.filter (·.id != f.id) }) f
  let s := if f.node < 200 then
      let ev := if port ≤ 3 then port else if port = 4 then 4 else 5
      let s := countTAt s (0x500 + ev) f.node f.tenant 1
      if f.gen == s.fabric.bank1 then s else countAt s 0x517 f.node 1
    else s
  let s := holdChannel s port f
  if port = 4 then takeFlit s f
  else
    let g := { f with down := downAfter s f y }
    if f.node ≠ 200 ∧ port < 4 then
      enterRouter s { g with node := y, inPort := opposite port, inVc := f.vc, waited := 0, starved := 0, aged := false }
    else
      let d := diePort f.node port
      modEnd s d.1 d.2 fun e => { e with txq := e.txq ++ [{ seq := 0, vc := f.vc, gen := f.gen, payload := g.payload y }] }

/-- Flits that may leave by a port: in turn, with a downstream credit. -/
def candidates (s : State) (node port : Nat) : List MeshFlit :=
  (s.fabric.flits.filter fun f => f.node == node && outPort s f == some port).filter fun f =>
    hasCredit s node port f.vc ((nextNode s f).getD node) && inTurn s port f

/-- A flit that stays counts the cycle, and without a credit also toward its move to the escape channel (R318, R323). -/
def waitOn (s : State) (node port : Nat) (gone : Option Nat) (f : MeshFlit) : MeshFlit :=
  if f.node == node && outPort s f == some port && some f.id != gone then
    { f with waited := f.waited + 1,
             starved := if hasCredit s node port f.vc ((nextNode s f).getD node) then 0 else f.starved + 1 }
  else f

/-- It is an aged flit and no aged candidate has waited longer. -/
def longestAged (pool : List MeshFlit) (f : MeshFlit) : Bool := f.aged && pool.all fun g => !g.aged || decide (g.waited ≤ f.waited)

/-- One MR cycle of one output port (R323, R327). The 32 cycles run since the longest-waiting aged flit was granted (DEDUCED, log
entry 11). -/
def grant (s : State) (node port : Nat) : State :=
  let ready := candidates s node port
  let k := 8 * node + port
  let since := lookD 32 s.fabric.sinceAged k
  let last := lookD 6 s.fabric.lastIn k
  let aged := ready.filter (·.aged)
  let forced := !aged.isEmpty && 32 ≤ since
  match if forced then aged else ready with
  | [] =>
    let stuck := s.fabric.flits.any fun f => f.node == node && outPort s f == some port
    modFabric (if stuck && node < 200 then countAt s 0x50B node 1 else s) fun x =>
      { x with flits := x.flits.map (waitOn s node port none), sinceAged := putD 32 x.sinceAged k (min 32 (since + 1)) }
  | f :: rest =>
    let w := rest.foldl (grantBetter forced last) f
    let s' := modFabric s fun x =>
      { x with flits := x.flits.map (waitOn s node port (some w.id)),
               sinceAged := putD 32 x.sinceAged k (if longestAged ready w then 0 else min 32 (since + 1)), lastIn := put x.lastIn k w.inPort }
    moveFlit s' w port ((nextNode s w).getD node)

/-- Change the first entry that a test picks. -/
def modFirst {α : Type} (p : α → Bool) (f : α → α) : List α → List α
  | [] => []
  | x :: t => if p x then f x :: t else x :: modFirst p f t

/-! ## Injection (R179, R312, R321, R325, R326, R460) -/

/-- An endpoint may inject the flit: its channel at the local port has room, and a C0 flit keeps to the shaper, at most one per 64 ns over
any 4 µs, with at most 32 C0 requests outstanding (R325). -/
def mayInject (s : State) (f : MeshFlit) : Bool :=
  let k := endpoint f.src f.srcAgent
  occupied s f.node 4 f.vc < meshCapacity f.vc &&
    (f.vc / 4 != 0 || ((((lookD [] s.fabric.c0Times k).filter fun t => now s < t + 4000).length < 62) &&
      (f.vc / 2 != 0 || lookD 0 s.fabric.c0Open k < 32)))

/-- The flit enters the mesh as a message of its own, under the generation in force. -/
def putFlit (s : State) (f : MeshFlit) : State :=
  let k := endpoint f.src f.srcAgent
  let c0 := f.vc / 4 == 0
  modFabric s fun x =>
    { x with flits := x.flits ++ [{ f with id := freshFlitId s, inPort := 4, inVc := f.vc, msg := x.messages, last := true, gen := x.bank1 }],
             messages := (x.messages + 1) % 2 ^ 64,
             c0Times := if c0 then put x.c0Times k (now s :: (lookD [] x.c0Times k).filter fun t => now s < t + 4000) else x.c0Times,
             c0Open := if c0 && f.vc / 2 == 0 then putD 0 x.c0Open k (lookD 0 x.c0Open k + 1) else x.c0Open }

/-- A request of an endpoint, before it has its number: one flit, since it moves no more than one 32-byte word. -/
def requestFlit (node agent dest destAgent tenant : Nat) (t : Traffic) : MeshFlit :=
  { id := 0, node := node, inPort := 4, inVc := t.vc, vc := t.vc, down := false, dest := dest, agent := destAgent, src := node,
    srcAgent := agent, tenant := tenant, msg := 0, last := true, gen := false, waited := 0, starved := 0, aged := false, error := false,
    data := 0 }

/-- Node and agent that answer for a word of memory. -/
def placeNode (p : Place) : Nat × Nat := if p.hbm then (200, hbmAgent p.unit) else (p.unit, 0)

/-- Node and agent that a request of an item goes to: of a stream the other site, of a transfer the first word of its first 256 that
leaves the hearth (R179). -/
def itemTarget (s : State) (site : Nat) (u : TagUse) : Option (Nat × Nat × Nat) := do
  let it ← (lookD [] (hearth s site).queues u.queue).find? (·.num == u.num)
  let t := (hearth s site).tenant
  if u.queue = 2 then
    return ((← streamSite (hearth s site) (it.f 1 1) (it.f 2 1)), 0, it.f 0x10 1)
  else
    let spots := (List.range (min 256 (it.f 0x10 8 / 32))).flatMap fun i =>
      (if it.f 0x18 1 == 1 then [it.f 0 8 + 32 * i] else []) ++ (if it.f 0x19 1 == 1 then [it.f 8 8 + 32 * i] else [])
    let a ← spots.find? fun a => leaves s t site a
    let p ← (region? s t (regionOf a)).bind fun r => regionPlace r (offsetOf a)
    return ((placeNode p).1, (placeNode p).2, it.f 0x1A 1)

/-- The next request that a hearth's engines have a tag for (R179, R326). -/
def itemRequest (s : State) (site : Nat) : Option (TagUse × MeshFlit) :=
  (hearth s site).tags.findSome? fun u =>
    if u.sent < u.count && !u.abandoned then
      (itemTarget s site u).map fun d => (u, requestFlit site 0 d.1 d.2.1 (hearth s site).tenant (.item d.2.2))
    else none

/-- Node and agent that an event's C0 message leaves from (R389). -/
def ashOrigin (e : AshEvent) : Nat × Nat :=
  let c := e.source
  if c < 200 then (c, 0) else if c < 0x300 then (200, hbmAgent (c - 0x200)) else if c < 0x310 then (200, 1)
  else if c < 0x400 then (200, 12 + (c - 0x310) % 4) else if c = 0x401 then (200, 0) else if c = 0x402 then (200, 18)
  else if c = 0x403 then (200, 11) else if c = 0x404 then (200, 16) else (200, 1)

/-- The first event of a node whose message has not left (R392). -/
def ashRequest (s : State) (node : Nat) : Option (AshEvent × MeshFlit) :=
  (s.ash.flying.find? fun e => !e.sent && (ashOrigin e).1 == node).map fun e =>
    (e, requestFlit node (ashOrigin e).2 200 16 e.tenant .ash)

/-- A message of the part's own traffic: it is due while its mark differs from the one its endpoint sent last. -/
structure Notice where
  key : Nat
  mark : Nat
  flit : MeshFlit
deriving DecidableEq, Repr

/-- What the flue die's agents have to tell a site: its configuration generation, what it is to run, its tokens of this period. -/
def siteNotices (s : State) (site : Nat) : List Notice :=
  let h := hearth s site
  [{ key := 8 * site, mark := s.epoch.generation, flit := requestFlit 200 1 site 0 0 .configuration },
   { key := 8 * site + 1, mark := match h.disp with | some d => d + 1 | none => 0, flit := requestFlit 200 0 site 0 h.tenant .dispatch },
   { key := 8 * site + 2, mark := lookD 0 s.counters.raw (256 * 0xE00 + 255), flit := requestFlit 200 18 site 0 0 .token }]

/-- Node and agent that hold a submission ring (R144). -/
def ringNode (s : State) (t q : Nat) : Nat × Nat :=
  let x := queue s t q
  match if x.sqHbm then (region? s t (regionOf x.sqBase.toNat)).bind fun r => regionPlace r (offsetOf x.sqBase.toNat) else none with
  | some p => placeNode p
  | none => (200, 11)

/-- Messages of the part's own traffic that leave a node: from the flue die also descriptor fetches and the zero words of
tenant.destroy; from a hearth counter snapshots and the fetch of its recipe's line where that lies elsewhere (R321). -/
def notices (s : State) (node : Nat) : List Notice :=
  if node = 200 then
    (graphIn s).nodes.flatMap (siteNotices s) ++
      (match s.work.disps.getLast? with
       | some d => [{ key := 1601, mark := s.work.nextId,
                      flit := requestFlit 200 0 (ringNode s d.tenant d.queue).1 (ringNode s d.tenant d.queue).2 d.tenant .fetch }]
       | none => []) ++
      (match s.mem.hbmZeroed.getLast? with
       | some e => [{ key := 1602, mark := s.mem.hbmZeroed.length, flit := requestFlit 200 1 200 (hbmAgent e.1) 0 .sanitise }]
       | none => [])
  else
    let h := hearth s node
    let p := (region? s h.tenant h.codeRegion).bind fun r => regionPlace r (h.pc.toNat / 256 * 256)
    { key := 8 * node + 3, mark := s.counters.windows.foldl (fun m w => max m w.2.snapAt) 0,
      flit := requestFlit node 0 200 17 0 .snapshot } ::
    (match p with
     | some p => if p.hbm || p.unit != node then
         [{ key := 8 * node + 4, mark := if h.seq = .running then h.pc.toNat / 256 + 1 else 0,
            flit := requestFlit node 0 (placeNode p).1 (placeNode p).2 h.tenant .fetch }] else []
     | none => [])

/-- A notice has something new to say. -/
def isNews (s : State) (n : Notice) : Bool := lookD 0 s.fabric.told n.key != n.mark

/-- What an endpoint of the node injects next: a response it owes, a C0 message, a request of an item, or other traffic of the part. -/
def inject (s : State) (node : Nat) : State :=
  match s.fabric.offers.find? fun f => f.node == node && mayInject s f with
  | some f => putFlit (modFabric s fun x => { x with offers := x.offers.erase f }) f
  | none =>
    match (ashRequest s node).filter fun r => mayInject s r.2 with
    | some (e, f) =>
      putFlit (modAsh s fun a => { a with flying := modFirst (· == e) (fun x => { x with sent := true }) a.flying }) f
    | none =>
      match if node < 200 then (itemRequest s node).filter fun r => mayInject s r.2 else none with
      | some (u, f) =>
        putFlit (modHearth s node fun h => { h with tags := modFirst (· == u) (fun x => { x with sent := x.sent + 1 }) h.tags }) f
      | none =>
        match (notices s node).find? fun n => isNews s n && mayInject s n.flit with
        | some n => putFlit (modFabric s fun x => { x with told := putD 0 x.told n.key n.mark }) n.flit
        | none => s

/-- The cycle of the local port also takes what its endpoints inject. -/
def execOutputPortGrant (node port : Nat) (s : State) : Out :=
  guarded (nodePortOk node port) .noSuchUnit <|
    if port = 4 ∧ (node = 200 ∨ routes s node) then inject (grant s node port) node else grant s node port

/-- A router holds the flit. -/
def flit? (s : State) (id : Nat) : Option MeshFlit := s.fabric.flits.find? (·.id == id)

def modFlit (s : State) (id : Nat) (f : MeshFlit → MeshFlit) : State :=
  modFabric s fun x => { x with flits := x.flits.map fun g => if g.id = id then f g else g }

/-- A flit of the message has left this router already: its others must follow by the channel it took. -/
def partSent (s : State) (f : MeshFlit) : Bool := s.fabric.holding.any fun h => h.1 / 96 == f.node && h.2 == f.msg

/-- 64 MR cycles without a credit on its normal channel: the flits of its message at this router move with it, and those still to come
follow (R313, R318). -/
def execEscapeMove (flit : Nat) (s : State) : Out :=
  .next <|
    match flit? s flit with
    | none => s
    | some f =>
      match nextNode s f, outPort s f with
      | some y, some p =>
        if !f.escape && 64 ≤ f.starved && f.dest != f.node && !hasCredit s f.node p f.vc y && !partSent s f then
          let s := if f.node < 200 then countTAt s 0x506 f.node f.tenant 1 else s
          modFabric s fun x => { x with flits := x.flits.map fun g =>
            if g.node = f.node ∧ g.msg = f.msg ∧ g.vc = f.vc then { g with vc := g.vc + 1, down := false, starved := 0 } else g }
        else s
      | _, _ => s

/-- 1,024 MR cycles at one router (R323). -/
def execFlitAged (flit : Nat) (s : State) : Out :=
  .next <|
    match flit? s flit with
    | none => s
    | some f =>
      if 1024 ≤ f.waited && !f.aged then
        let s := if f.node < 200 then countTAt s 0x507 f.node f.tenant 1 else s
        modFlit s flit fun g => { g with aged := true }
      else s

/-- A request addressed to a hearth that has left service is answered with an error response (R320). -/
def execRetiredHearthRequest (flit : Nat) (s : State) : Out :=
  .next <|
    match flit? s flit with
    | none => s
    | some f =>
      if f.vc / 2 % 2 = 0 ∧ f.dest < 200 ∧ siteRetired s f.dest then
        modFlit s flit fun g => { g with vc := g.vc + 2, dest := g.src, agent := g.srcAgent, src := g.dest, srcAgent := g.agent, error := true,
                                          waited := 0, starved := 0, aged := false }
      else s

/-! ## The devtime copies (R25, R308) -/

/-- Where an island's copy stands after sync number `k` once it has slewed. -/
def copyTarget (island k : Nat) : Int := (Config.copySkew k island % 17 : Nat) - 8

/-- A copy slews by at most 1 ns per 64 ns (R308). -/
def slew (a b : Int) (ns : Nat) : Int := if a ≤ b then min b (a + ns / 64) else max b (a - ns / 64)

/-- Devtime as an island reads it: within 8 ns of the master once TRAIN has calibrated the paths, and never running backwards; before
that it is not aligned (R25, R308). -/
def islandTime (s : State) (island : Nat) : Nat :=
  if s.fabric.link2.trained then
    let f := s.fabric
    ((now s : Int) + slew (copyTarget island (f.syncs - 1)) (copyTarget island f.syncs) (now s - f.syncAt)).toNat
  else now s + Config.copyOffset island

/-- Every 1,024 ns the master sends its value and each copy slews (R308). -/
def execDevtimeSync (s : State) : Out :=
  .next <|
    if s.ao.vauxOk && due s s.fabric.syncAt 1024 then
      modFabric s fun f => { f with syncs := f.syncs + 1, syncAt := now s }
    else s

end Sys2Proof.Machine
end

