-- ==== Sys2Proof/Machine/Batches.lean ====
section
/-! DEFINITION. The checks of a batch descriptor and the launches it makes (13 R278-R287). -/

namespace Sys2Proof.Machine

/-- Working lanes of a list of sites, added up (R279). -/
def slotCount (s : State) (sites : List Nat) : Nat := sites.foldl (fun n x => n + (workingLanes s x).length) 0

/-- First slot of each site (R279). -/
def firstSlots (s : State) : Nat → List Nat → List (Nat × Nat)
  | _, [] => []
  | n, x :: t => (x, n) :: firstSlots s (n + (workingLanes s x).length) t

/-- Bytes from the first record of a batch to the end of its last. -/
def recordSpan (count stride size : Nat) : Nat := (count - 1) * stride + size

/-- Spans [a, a+n) and [b, b+m) of one region spansMeet. -/
def spansMeet (a n b m : Nat) : Bool := regionOf a == regionOf b && a < b + m && b < a + n

/-- With OUT_STAGING, each site's records lie in staging (R283, R287). -/
def stagingFits (s : State) (b : Batch) (m : Img) (sites : List Nat) : Bool :=
  !b.outStaging || (firstSlots s 0 sites).all fun x =>
    let k := siteRecords b.count (slotCount s sites) (workingLanes s x.1).length x.2
    k == 0 || decide (b.outBase + recordSpan k b.outStride (outSize m b) ≤ Config.stagingBytes)

/-- The checks of R283 in order; none when they all pass. -/
def batchCheck (s : State) (t addr : Nat) (m : Img) (b : Batch) (sites : List Nat) : Option (Status × Nat) :=
  let inLen := recordSpan b.count b.inStride (inSize m)
  let outLen := recordSpan b.count b.outStride (outSize m b)
  if !b.rangeOk m then some (.aborted, 3)
  else if !b.ikOk m then some (.aborted, 3)
  else if !stagingFits s b m sites then some (.aborted, 3)
  else if !(spanIn s t b.inBase inLen && (b.outStaging || spanIn s t b.outBase outLen)) then some (.prot, 3)
  else if slotCount s sites = 0 then some (.aborted, 5)
  else if !b.outStaging && (spansMeet b.outBase outLen b.inBase inLen || spansMeet b.outBase outLen addr 96) then some (.aborted, 3)
  else none

/-- The launch of a checked batch on one of its sites: environments with their places in the lane order (R278, R279). -/
def newLaunch (s : State) (disp : Option Nat) (item t model : Nat) (b : Batch) (taken slots first site : Nat) : Launch :=
  let n := (workingLanes s site).length
  let envs := siteEnvs b.count slots n first
  { disp := disp, item := item, tenant := t, model := model, image := [], fetchBad := false, desc := b, takenAt := taken, slots := slots,
    firstSlot := first, lanes := workingLanes s site, started := false, waiting := envs, reruns := [], reports := [],
    left := envs.length }

/-- A launch enters its site's Andiron queue. -/
def enqueueLaunch (s : State) (site : Nat) (l : Launch) : State :=
  modHearth s site fun h => { h with launches := h.launches ++ [l] }

end Sys2Proof.Machine
end

