-- ==== Sys2Proof/Machine/Pcie.lean ====
section
/-! DEFINITION. PCIe events: PERST_N, configuration requests, SR-IOV, bus mastering, MSI-X unmasking, function-level
reset (03 R68-R76, R467; 05 R122). -/

namespace Sys2Proof.Machine

/-- The host reaches a function: link up, and for a virtual function VF Enable with NumVFs high enough (R70, R72, R122). -/
def fnReachable (s : State) (fn : Nat) : Bool :=
  !s.pcie.perst && s.pcie.linkUp && s.dev.state != .off && (fn == 0 || (s.pcie.vfEnable && fn ≤ s.pcie.numVfs))

/-- Functions 0 to 16. -/
def allFns : List Nat := List.range 17

/-- PERST_N asserts: configuration space and the interface reset, every tenant and every mailbox resets (R72, R133, R467). -/
def execPerstNAssert (s : State) : Out :=
  .next <|
    if s.pcie.perst then s
    else
      let s := countU s 0xC0F 1
      let s := modPcie s fun p =>
        { p with perst := true, linkUp := false, vfEnable := false, numVfs := 0, fns := [], latched := [] }
      let s := (liveTenants s).foldl (fun s t => tenantReset s t false) s
      if s.dev.state = .off then s else allFns.foldl resetMailbox s

/-- PERST_N is released: the link trains unless the part is in OFF (R122). -/
def execPerstNRelease (s : State) : Out :=
  .next <| modPcie s fun p => { p with perst := false, linkUp := s.dev.state != .off }

/-! ## Configuration space (R69, R70, R73, R74) -/

/-- Capabilities of every function by identifier (PRESUMED, log entry 6): power management, PCI Express, MSI-X; and AER, ACS,
ARI. -/
def capabilities : List Nat := [0x01, 0x10, 0x11]
def extCapabilities : List Nat := [0x0001, 0x000D, 0x000E]
/-- Those of function 0 alone: SR-IOV, Resizable BAR, VF Resizable BAR, the three physical layers and lane margining. -/
def adminCapabilities : List Nat := [0x0010, 0x0015, 0x0024, 0x0026, 0x0027, 0x002A, 0x0031]

/-- Bytes of BAR0 (R73). -/
def bar0Size (fn : Nat) : Nat := if fn = 0 then 2 ^ 26 else 2 ^ 20

/-- Size and type of a function's BAR; type bit 2 is 64 bits wide, bit 3 prefetchable (R73, R74). -/
def barSize (s : State) (fn n : Nat) : Nat := if n = 0 then bar0Size fn else if n = 2 then (pcieFn s fn).bar2Size else 0
def barType (n : Nat) : Nat := if n = 0 then 4 else if n = 2 then 0xC else 0

/-- What a configuration read of a field returns; the SR-IOV capability is function 0's (R70). A virtual function's own IDs
read all ones, as the SR-IOV specification has it (PRESUMED, log entry 6). -/
def cfgValue (s : State) (fn : Nat) (f : CfgField) : Nat :=
  let admin (v : Nat) : Nat := if fn = 0 then v else 0
  let x := pcieFn s fn
  match f with
  | .vendorId => if fn = 0 then 0x1F3C else 0xFFFF
  | .deviceId => if fn = 0 then 0x0176 else 0xFFFF
  | .classCode => 0x120000
  | .subsystemIds => Config.subsystemIds
  | .totalVfs => admin 16
  | .vfOffset => admin 1
  | .vfStride => admin 1
  | .vfDeviceId => admin 0x0177
  | .numVfs => admin s.pcie.numVfs
  | .vfEnable => admin (b2n s.pcie.vfEnable)
  | .barSize n => barSize s fn n
  | .barType n => barType n
  | .vfBarSize n => admin (barSize s 1 n)
  | .vfBarType n => admin (barType n)
  | .capability id => b2n (capabilities.contains id)
  | .extCapability id => b2n (extCapabilities.contains id || (fn == 0 && adminCapabilities.contains id))
  | .powerState => if x.d3hot then 3 else 0
  | .maxPayload => x.maxPayload
  | .maxReadRequest => x.maxReadReq
  | .aerUncorrectableMask => x.aerUncMask.toNat
  | .aerCorrectableMask => x.aerCorMask.toNat

/-- A power of two from 2^lo to 2^hi. -/
def sizeIn (v lo hi : Nat) : Bool := (List.range (hi + 1)).any fun k => lo ≤ k && v == 2 ^ k

/-- A configuration write of a field: of the values R69 and R74 allow; every other write changes nothing. NumVFs and VF Enable
are written by their own command. The BARs of the virtual functions are resized together, through function 0. -/
def cfgWrite (s : State) (fn : Nat) (f : CfgField) (v : Nat) : State :=
  let set (ok : Bool) (g : PcieFn → PcieFn) : State := if ok then modPcieFn s fn g else s
  match f with
  | .powerState => set (v == 0 || v == 3) fun x => { x with d3hot := v == 3 }
  | .maxPayload => set (sizeIn v 7 9) fun x => { x with maxPayload := v }
  | .maxReadRequest => set (sizeIn v 7 12) fun x => { x with maxReadReq := v }
  | .aerUncorrectableMask => set true fun x => { x with aerUncMask := BitVec.ofNat 32 v }
  | .aerCorrectableMask => set true fun x => { x with aerCorMask := BitVec.ofNat 32 v }
  | .barSize n => set (fn == 0 && n == 2 && sizeIn v 28 36) fun x => { x with bar2Size := v }
  | .vfBarSize n =>
    if fn == 0 && n == 2 && sizeIn v 28 36 then
      (allFns.drop 1).foldl (fun s g => modPcieFn s g fun x => { x with bar2Size := v }) s
    else s
  | _ => s

/-- A configuration request: retried before boot step 2, answered normally after it (R122). -/
def execConfigRequest (req : CfgRequest) (s : State) : Out :=
  guarded (Instr.wellFormed (.configRequest req)) .noSuchFunction <|
    if s.pcie.perst || !s.pcie.linkUp || s.dev.state == .off then modPcie s fun p => { p with cfgReply := .linkDown }
    else
      let s := countU s 0xC0C 1
      if s.dev.state = .boot ∧ s.dev.step < 2 then
        countU (modPcie s fun p => { p with cfgReply := .retry }) 0xC0D 1
      else if !fnReachable s req.fn then modPcie s fun p => { p with cfgReply := .absent }
      else
        match req.access with
        | .read f => modPcie s fun p => { p with cfgReply := .completion, cfgData := cfgValue s req.fn f }
        | .write f v => modPcie (cfgWrite s req.fn f v) fun p => { p with cfgReply := .completion }

/-- A write of the SR-IOV capability lowers NumVFs below `n`, or clears VF Enable (R71). NumVFs and VF Enable that PERST_N
cleared are not cleared or lowered again (R72). -/
def vfGoes (p : Pcie) (numVfs : Nat) (vfEnable : Bool) (n : Nat) : Bool :=
  (p.vfEnable && !vfEnable) || (numVfs < n && n ≤ p.numVfs)

/-- A write of the SR-IOV capability; tenants whose function goes are ended (R71). -/
def execVfDisable (numVfs : Nat) (vfEnable : Bool) (s : State) : Out :=
  guarded (Instr.wellFormed (.vfDisable numVfs vfEnable)) .noSuchFunction <|
    if !fnReachable s 0 then s
    else
      let gone := (liveTenants s).filter (vfGoes s.pcie numVfs vfEnable)
      let lost := (allFns.drop 1).filter (vfGoes s.pcie numVfs vfEnable)
      let s := modPcie s fun p => { p with vfEnable := vfEnable, numVfs := numVfs }
      let s := lost.foldl (fun s f => setPcieFn s f .reset) s
      let s := gone.foldl endTenant s
      lost.foldl (fun s f => setPcieFn s f .reset) s

/-- A function's Bus Master Enable is written (R467). -/
def execBusMasterEnableSet (fn : Nat) (on : Bool) (s : State) : Out :=
  guarded (Instr.wellFormed (.busMasterEnableSet fn on)) .noSuchFunction <|
    if fnReachable s fn then modPcieFn s fn fun f => { f with busMaster := on } else s

/-- The host lets vectors send; pending ones send one message each (R76). -/
def execMsixUnmask (fn : Nat) (what : Unmask) (s : State) : Out :=
  guarded (Instr.wellFormed (.msixUnmask fn what)) .noSuchFunction <|
    if fnReachable s fn then
      flushPending (modPcieFn s fn fun f =>
        match what with
        | .vector v => { f with unmasked := if v < vectors fn ∧ !f.unmasked.contains v then f.unmasked ++ [v] else f.unmasked }
        | .msixEnable => { f with msixEnable := true }
        | .functionMask => { f with functionMask := false }) fn
    else s

/-- A function-level reset: mailbox reset, tenant reset of a virtual function, then the function's own configuration
(R133, R173; the last PRESUMED, log entry 6). No event is discarded: what is pending stays pending (R76). -/
def execFunctionLevelReset (fn : Nat) (s : State) : Out :=
  guarded (Instr.wellFormed (.functionLevelReset fn)) .noSuchFunction <|
    if fnReachable s fn then
      let s := resetMailbox (countT s 0xC0E fn 1) fn
      let s := if fn = 0 then s else tenantReset s fn false
      modPcieFn s fn fun f => { PcieFn.reset with bar2Size := f.bar2Size, maxPayload := f.maxPayload, pending := f.pending }
    else s

end Sys2Proof.Machine
end

