-- ==== Sys2Proof/Machine/Queues.lean ====
section
/-! DEFINITION. The dispatcher's queues: what it may take next, taking a descriptor, and what FENCE, SIGNAL and WAIT wait
for (07 R153-R156, R163, R170, R171). -/

namespace Sys2Proof.Machine

/-! ## Holding back (R170, R171) -/

/-- OPCODE of a taken descriptor; 0 after a failed fetch. -/
def Disp.op (d : Disp) : Nat := fld d.desc 0 1

/-- A dispatch of the queue that now has the number; one of a queue that is gone is an orphan (R174). -/
def Disp.of (d : Disp) (t q : Nat) : Bool := d.tenant == t && d.queue == q && !d.orphan

/-- A FENCE or WAIT that holds its queue, or a TURNOVER that holds its tenant. -/
def holds (d : Disp) (t q : Nat) : Bool :=
  !d.ended && ((d.of t q && (d.op == 6 || d.op == 8)) || (d.tenant == t && d.op == 9))

def held (s : State) (t q : Nat) : Bool := s.work.disps.any fun d => holds d t q

/-! ## Limits (R154, R155) -/

/-- Every tenant's reserved share of device slots. -/
def slotShare (s : State) : Nat := min 1024 (4096 / (liveTenants s).length)

/-- Unused shares of the other tenants. -/
def sharesLeft (s : State) (t : Nat) : Nat :=
  ((liveTenants s).filter (· != t)).foldl (fun n u => n + (slotShare s - inflightOf s u)) 0

/-- The device and tenant limits let the tenant take one more. -/
def slotFree (s : State) (t : Nat) : Bool :=
  let used := s.work.disps.length
  decide (inflightOf s t < 1024 ∧ used < 4096 ∧ (inflightOf s t < slotShare s ∨ sharesLeft s t < 4096 - used))

/-- Dispatches of a queue that are to write a record in its completion ring (R154). -/
def reserved (s : State) (t q : Nat) : Nat := (s.work.disps.filter (·.of t q)).length

/-- Untaken descriptors, and unconsumed records, of a queue. -/
def Queue.posted (q : Queue) : Nat := (q.sqTail + 2 * q.sqEntries - q.sqHead) % (2 * q.sqEntries)
def Queue.unread (q : Queue) : Nat := (q.cqTail + 2 * q.cqEntries - q.cqHead) % (2 * q.cqEntries)

/-- The dispatcher may take a descriptor from a queue (R154, R467). -/
def takeable (s : State) (t q : Nat) : Bool :=
  let x := tenant s t
  let u := queue s t q
  live s && x.alive && !x.halted && u.state == .active && decide (u.sqHead ≠ u.sqTail) &&
    decide (u.unread + reserved s t q < u.cqEntries) && slotFree s t && (u.sqHbm || hostReachable s t) && !held s t q

/-- The first of the numbers after `last`, in turn modulo `n`, that a test passes. -/
def turn (n last : Nat) (ok : Nat → Bool) : Option Nat := ((List.range n).map fun i => (last + 1 + i) % n).find? ok

/-- The queue of a tenant whose turn it is. -/
def queueTurn (s : State) (t : Nat) : Option Nat := turn 64 (tenant s t).lastQueue (takeable s t)

/-- Whose turn it is: tenant and queue (R156). -/
def nextTake (s : State) : Option (Nat × Nat) :=
  match turn 17 s.work.lastTenant fun t => (queueTurn s t).isSome with
  | none => none
  | some t => (queueTurn s t).map fun q => (t, q)

/-! ## Taking -/

/-- The fetch of the next descriptor of a queue (R153). -/
def fetchDesc (s : State) (t q : Nat) : Span × State :=
  let u := queue s t q
  ringRead s t u.sqHbm u.sqBase (64 * (u.sqHead % u.sqEntries)) 64 6

/-- The dispatch that a taken descriptor becomes. -/
def newDisp (s : State) (t q : Nat) (desc : List Byte) : Disp :=
  { id := s.work.nextId, tenant := t, queue := q, sqIndex := (queue s t q).sqHead, desc := desc, started := now s,
    ended := false, endedAt := 0, working := [], unclaimed := false, reports := [], frames := 0, orphan := false }

/-- A descriptor is taken: SQ_HEAD and INFLIGHT advance (R153, R154, R156). -/
def enterDisp (s : State) (t q : Nat) (desc : List Byte) : State :=
  let d := newDisp s t q desc
  let op := d.op
  let s := countT s 0x800 t 1
  let s := if 1 ≤ op ∧ op ≤ 9 then countT s (0x800 + op) t 1 else s
  let s := modQueue s t q fun u => { u with sqHead := (u.sqHead + 1) % (2 * u.sqEntries), inflight := u.inflight + 1 }
  modWork (modTenant s t fun x => { x with lastQueue := q }) fun w =>
    { w with disps := w.disps ++ [d], nextId := w.nextId + 1, lastTenant := t }

/-- A dispatch ends at once with one status and no unit (R163). -/
def endWith (s : State) (id : Nat) (st : Status) (det : Nat) : State :=
  endDisp s id [{ site := 0xFFFF, status := st, detail := det }]

/-- Take the next descriptor of a queue when it is its turn and the descriptor is one that `row` takes: a failed fetch
ends it, otherwise `run` goes on with its number and bytes (R156, R163). -/
def takeDesc (s : State) (t q : Nat) (row : List Byte → Bool) (run : State → Nat → List Byte → State) : State :=
  if nextTake s ≠ some (t, q) then s
  else
    match fetchDesc s t q with
    | (.bytes b, s') => if row b then run (enterDisp s' t q b) s.work.nextId b else s
    | (_, s') =>
      if (queue s t q).sqHbm then endWith (enterDisp s' t q []) s.work.nextId .poisoned 0
      else endWith (enterDisp s' t q []) s.work.nextId .aborted 0x0A

/-! ## Conditions that completions and signals bring about (R170) -/

def signalOf (s : State) (t n : Nat) : Word := lookD 0 (tenant s t).signals n

/-- The condition of a WAIT. -/
def waitMet (s : State) (d : Disp) : Bool :=
  let v := signalOf s d.tenant (fld d.desc 8 1)
  let x := BitVec.ofNat 64 (fld d.desc 0x10 8)
  if fld d.desc 9 1 = 0 then x ≤ v else v == x

/-- Every WAIT whose condition holds completes. -/
def wakeWaits (s : State) : State :=
  (s.work.disps.filter fun d => d.op == 8 && !d.ended && waitMet s d).foldl (fun s d => endWith s d.id .done 0) s

def putSignal (s : State) (t n : Nat) (v : Word) : State :=
  modTenant s t fun x => { x with signals := putD 0 x.signals n v }

/-- A signal takes a value, and WAITs on it re-evaluate. -/
def setSignal (s : State) (t n : Nat) (v : Word) : State := wakeWaits (putSignal s t n v)

/-- SIGNAL's action. -/
def applySignal (s : State) (d : Disp) : State :=
  let n := fld d.desc 8 1
  let v := BitVec.ofNat 64 (fld d.desc 0x10 8)
  setSignal s d.tenant n (if fld d.desc 9 1 = 0 then v else signalOf s d.tenant n + v)

/-- Two dispatches of one queue, the same one under its number. -/
def Disp.sameQueue (d e : Disp) : Bool := e.tenant == d.tenant && e.queue == d.queue && e.orphan == d.orphan

/-- Every earlier dispatch that a FENCE or SIGNAL waits for has completed. -/
def earlierDone (s : State) (d : Disp) : Bool :=
  let whole := d.op == 6 && fld d.desc 8 1 == 1
  !s.work.disps.any fun e => e.id < d.id && ((whole && e.tenant == d.tenant) || d.sameQueue e)

/-- An earlier dispatch of its queue still waits to start: what runs on units starts in ring order (R170; that a FENCE, SIGNAL, WAIT
or TURNOVER needs no start is DEDUCED, log entry 18). -/
def behind (s : State) (d : Disp) : Bool := s.work.disps.any fun e => e.unclaimed && e.id < d.id && d.sameQueue e

/-- FENCEs and SIGNALs whose condition holds act and end. -/
def settleWork (s : State) : State :=
  (s.work.disps.filter fun d => (d.op == 6 || d.op == 7) && !d.ended && earlierDone s d).foldl (fun s d =>
    endWith (if d.op = 7 then applySignal s d else s) d.id .done 0) s

end Sys2Proof.Machine
end

