-- ==== Sys2Proof/Machine/Regs.lean ====
section
/-! DEFINITION. Register writes and the latching read: the mailbox indices, the doorbells, the ash ring's index and
every other writable register (00 R5-R7, 05 R124, 06 R126-R140, 07 R151-R152, 17 R388). -/

namespace Sys2Proof.Machine

/-! ## Mailbox registers (R124, R126, R127, R133) -/

/-- The function's MBX_ block answers (R112, R124). -/
def mbxOpen (s : State) (fn : Nat) : Bool :=
  fnReachable s fn && s.dev.state != .off && s.dev.state != .boot && !(bootRomOnly s && fn != 0)

/-- An index write is rejected: PI_ERROR. -/
def rejectIndex (s : State) (fn : Nat) : State := countT (modMbx s fn fun m => { m with piError := true }) 0x81B fn 1

/-- MBX_REQ_PI, the doorbell (R127, R133). -/
def writeReqPi (s : State) (fn v : Nat) : State :=
  let m := mbx s fn
  let v := v % 128
  if m.resetting then s
  else
    let s := countT s 0x81A fn 1
    let new := (v + 128 - m.reqCi) % 128
    if 64 < new ∨ new < (m.reqPi + 128 - m.reqCi) % 128 then rejectIndex s fn
    else modMbx s fn fun m => { m with reqPi := v }

/-- An urgent response that waited goes to the slot that was freed, with the generation of its writing (R134, R140). -/
def freeUrgent (s : State) (fn : Nat) : State :=
  let m := mbx s fn
  match m.urgWaiting with
  | none => s
  | some (_, bytes) =>
    if 64 ≤ slotsUsed m then s
    else postResponse (modMbx s fn fun m => { m with urgWaiting := none, urgBusy := false }) fn
      (splice bytes 0xC (leBytes 4 s.epoch.generation))

/-- MBX_RSP_CI (R127, R133). -/
def writeRspCi (s : State) (fn v : Nat) : State :=
  let m := mbx s fn
  let v := v % 128
  if m.resetting then s
  else if (m.rspPi + 128 - m.rspCi) % 128 < (m.rspPi + 128 - v) % 128 then rejectIndex s fn
  else freeUrgent (modMbx s fn fun m => { m with rspCi := v }) fn

/-- MBX_CTRL: IRQ_EN is stored, RESET starts a mailbox reset (R126, R133). -/
def writeMbxCtrl (s : State) (fn v : Nat) : State :=
  let s := modMbx s fn fun m => { m with irqEn := v % 2 == 1 }
  if v / 2 % 2 = 1 then resetMailbox s fn else s

/-- MBX_STATUS: the two W1C bits. -/
def writeMbxStatus (s : State) (fn v : Nat) : State :=
  modMbx s fn fun m => { m with urgOverrun := m.urgOverrun && v / 4 % 2 == 0, piError := m.piError && v / 8 % 2 == 0 }

/-! ## The urgent slot (R140) -/

/-- Opcodes of interface level 4 (R142). -/
def opcodes : List Nat :=
  [0x1, 0x2, 0x3, 0x4, 0x100, 0x101, 0x102, 0x103, 0x104, 0x105, 0x106, 0x107, 0x200, 0x201, 0x300, 0x301, 0x302, 0x303,
   0x304, 0x305, 0x400, 0x401, 0x402, 0x500, 0x501, 0x502, 0x503, 0x504, 0x600, 0x601, 0x602, 0x603, 0x700, 0x701, 0x702,
   0x703, 0x800, 0x801]

/-- The request's opcode and LEVEL do not fit the negotiated level (R136 step 1, R139). -/
def wrongVersion (level : Nat) (msg : List Byte) : Bool :=
  let op := fld msg 0 2
  let lv := fld msg 6 1
  if op = 1 then lv ≠ 0 else level = 0 || lv ≠ level || !opcodes.contains op

/-- A message as taken: the Stoker's own copy (R128). -/
def newTaken (s : State) (fn slot : Nat) (msg : List Byte) : Taken :=
  { seq := s.work.nextTake, slot := slot, msg := msg, started := false, startedAt := now s, discard := false, level := none,
    owned := ownedBy s (namedTenant fn msg) }

/-- The Stoker takes a message. -/
def takeMsg (s : State) (fn : Nat) (t : Taken) : State :=
  modMbx (modWork s fun w => { w with nextTake := w.nextTake + 1 }) fn fun m => { m with taken := m.taken ++ [t] }

/-- MBX_URG_GO: the urgent slot is posted; anything but tenant.halt and draught.trip_test is answered at once. -/
def writeUrgGo (s : State) (fn : Nat) : State :=
  let m := mbx s fn
  if m.resetting then s
  else if m.urgBusy then modMbx s fn fun m => { m with urgOverrun := true }
  else
    let msg := m.urg.read 0 0 256
    let t := newTaken s fn 255 msg
    let s := takeMsg (modMbx (countT s 0x81D fn 1) fn fun m => { m with urgBusy := true }) fn t
    if wrongVersion m.level msg then respond s fn t .eVersion 0 []
    else if fld msg 0 2 = 0x105 ∨ fld msg 0 2 = 0x603 then s
    else respond s fn t .eArg 0 []

/-! ## Doorbells (R151, R152) -/

def rejectQueue (s : State) (t q : Nat) : State := countT (modQueue s t q fun u => { u with indexError := true }) 0x81B t 1

/-- DBL_SQ_TAIL. -/
def writeSqTail (s : State) (t q v : Nat) : State :=
  let u := queue s t q
  let v := v % 8192
  if u.state = .absent then s
  else
    let s := countT s 0x81A t 1
    let new := (v + 2 * u.sqEntries - u.sqHead) % (2 * u.sqEntries)
    if u.state = .draining ∨ 2 * u.sqEntries ≤ v ∨ u.sqEntries < new ∨ new < u.posted then rejectQueue s t q
    else modQueue s t q fun u => { u with sqTail := v }

/-- DBL_CQ_HEAD. -/
def writeCqHead (s : State) (t q v : Nat) : State :=
  let u := queue s t q
  let v := v % 8192
  if u.state = .absent then s
  else if 2 * u.cqEntries ≤ v ∨ u.unread < (u.cqTail + 2 * u.cqEntries - v) % (2 * u.cqEntries) then rejectQueue s t q
  else modQueue s t q fun u => { u with cqHead := v }

/-- DBL_Q_STATE: INDEX_ERROR is W1C. -/
def writeQState (s : State) (t q v : Nat) : State :=
  if (queue s t q).state = .absent then s
  else modQueue s t q fun u => { u with indexError := u.indexError && v / 4 % 2 == 0 }

/-- DBL_SIGNAL, whole or one half (R7, log entry 19). -/
def writeSignal (s : State) (t n off width : Nat) (v : Word) : State :=
  if !(tenant s t).alive then s
  else if width = 8 then setSignal s t n v
  else
    let old := signalOf s t n
    let half : Word := (v &&& 0xFFFFFFFF#64)
    setSignal s t n (if off = 0 then (old &&& 0xFFFFFFFF00000000#64) ||| half
      else (old &&& 0xFFFFFFFF#64) ||| (half <<< 32))

/-- A DBL_ register of a virtual function; live in READY and DEGRADED (R124, R149). -/
def writeDbl (s : State) (fn off width : Nat) (v : Word) : State :=
  if fn = 0 || !live s then s
  else if 0x8000 ≤ off ∧ off < 0x8800 then writeSignal s fn ((off - 0x8000) / 8) (off % 8) width v
  else if width ≠ 4 ∨ 0x8000 ≤ off then s
  else
    let q := off / 0x200
    let r := off % 0x200
    if r = 0 then writeSqTail s fn q v.toNat else if r = 0x10 then writeCqHead s fn q v.toNat
    else if r = 0x20 then writeQState s fn q v.toNat else s

/-! ## The ash ring's registers (R388) -/

/-- ASH_CI: forward, and not past PI, modulo 2^32. -/
def writeAshCi (s : State) (fn v : Nat) : State :=
  let r := ashRing s fn
  let m := 2 ^ 32
  let v := v % m
  if (r.pi + m - r.ci) % m < (r.pi + m - v) % m then modAshRing s fn fun r => { r with ciError := true }
  else modAshRing s fn fun r => { r with ci := v }

def writeAsh (s : State) (fn off v : Nat) : State :=
  if !live s then s
  else if off = 4 then writeAshCi s fn v
  else if off = 8 then modAshRing s fn fun r => { r with ciError := r.ciError && v / 2 % 2 == 0, loss := r.loss && v / 4 % 2 == 0 }
  else if off = 0xC then modAshRing s fn fun r => { r with irqEn := v % 2 == 1 }
  else s

/-! ## The MSI-X table (R73, R76) -/

/-- Table bytes; the mask bit of each entry decides whether its vector may send. -/
def writeMsix (s : State) (fn off : Nat) (bs : List Byte) : State :=
  if 16 * vectors fn < off + bs.length then s
  else
    let v := off / 16
    let s := modPcieFn s fn fun f => { f with table := f.table.write off bs }
    if off % 16 ≤ 12 ∧ 12 < off % 16 + bs.length then
      let masked := fld bs (12 - off % 16) 1 % 2 = 1
      let s := modPcieFn s fn fun f =>
        { f with unmasked := if masked then f.unmasked.filter (· != v)
                             else if f.unmasked.contains v then f.unmasked else f.unmasked ++ [v] }
      flushPending s fn
    else s

/-! ## Any write (R5-R7) -/

/-- A register of the MBX_ block; slots are plain memory (log entry 19). -/
def writeMbx (s : State) (fn off width : Nat) (v : Word) : State :=
  let bs := leBytes width v.toNat
  if 0x1000 ≤ off ∧ off < 0x1100 then modMbx s fn fun m => { m with urg := m.urg.write (off - 0x1000) bs }
  else if 0x4000 ≤ off ∧ off < 0x8000 then modMbx s fn fun m => { m with req := m.req.write (off - 0x4000) bs }
  else if width ≠ 4 then s
  else if off = 0 then writeReqPi s fn v.toNat else if off = 0xC then writeRspCi s fn v.toNat
  else if off = 0x10 then writeMbxCtrl s fn v.toNat else if off = 0x14 then writeMbxStatus s fn v.toNat
  else if off = 0x18 ∧ v.toNat % 2 = 1 then writeUrgGo s fn else s

/-- One naturally aligned access of 4 or 8 bytes to a BAR0 offset of a reachable function. -/
def writeBar0 (s : State) (fn off width : Nat) (v : Word) : State :=
  if 0x10000 ≤ off ∧ off < 0x20000 then (if mbxOpen s fn then writeMbx s fn (off - 0x10000) width v else s)
  else if 0x20000 ≤ off ∧ off < 0x30000 then writeDbl s fn (off - 0x20000) width v
  else if 0x40000 ≤ off ∧ off < 0x41000 then (if width = 4 then writeAsh s fn (off - 0x40000) v.toNat else s)
  else if 0x50000 ≤ off ∧ off < 0x58000 then writeMsix s fn (off - 0x50000) (leBytes width v.toNat)
  else if off = 0x43008 ∧ fn = 0 ∧ width = 4 ∧ s.dev.state ≠ .boot then
    modFpt s fun f => { f with changed := f.changed && v.toNat / 8 % 2 == 0 }
  else s

/-- Any other width or alignment changes nothing (R7). -/
def aligned (off width : Nat) : Bool := (width == 4 || width == 8) && off % width == 0

def execRegisterWrite (fn offset width : Nat) (value : Word) (s : State) : Out :=
  guarded (Instr.wellFormed (.registerWrite fn offset width value)) .noSuchFunction <|
    if fnReachable s fn && aligned offset width then writeBar0 s fn offset width value else s

/-- Offset of the CTW_VALUE or CTW_TIME register of a window. -/
def windowAt (off : Nat) : Option (Nat × Nat) :=
  if 0x30000 ≤ off ∧ off < 0x40000 then some ((off - 0x30000) / 32, off % 32) else none

/-- CTW_VALUE latches CTW_TIME of its snapshot; CTW_TIME gives it up (R432). -/
def latchTime (s : State) (fn off : Nat) : State :=
  match windowAt off with
  | none => s
  | some (w, r) =>
    let x := window s fn w
    let x := if r = 0 then { x with timeLatch := some x.snapAt } else if r = 8 then { x with timeLatch := none } else x
    if live s && x.selected then modCounters s fun c => { c with windows := put c.windows (64 * fn + w) x } else s

/-- A read completion carries a value. -/
def answerRead (s : State) (v : Nat) : State := modPcie s fun p => { p with readData := BitVec.ofNat 64 v }

/-- Key of the high half latched for a 64-bit register. -/
def latchKey (fn base : Nat) : Nat := 2 ^ 26 * fn + base

/-- A 32-bit read: the low half of a 64-bit RO register latches the high half, and the next read of the high half returns what
was latched (R7). -/
def read32 (s : State) (fn off : Nat) : State :=
  let base := off / 8 * 8
  let v := regValue s fn base
  if isRo64 fn off then
    latchTime (modPcie (answerRead s (v % 2 ^ 32)) fun p =>
      { p with latched := put p.latched (latchKey fn off) (BitVec.ofNat 32 (v / 2 ^ 32)) }) fn off
  else if isRo64 fn base then
    modPcie (answerRead s (match look s.pcie.latched (latchKey fn base) with
      | some h => h.toNat
      | none => v / 2 ^ 32)) fun p => { p with latched := del p.latched (latchKey fn base) }
  else if isSignal fn base then answerRead s (if off = base then v % 2 ^ 32 else v / 2 ^ 32)
  else answerRead s (regValue s fn off)

/-- A 64-bit read of a 64-bit register, or of eight bytes of a window. -/
def read64 (s : State) (fn off : Nat) : State :=
  if isWindow fn off then answerRead s (regValue s fn off + 2 ^ 32 * regValue s fn (off + 4))
  else latchTime (answerRead s (regValue s fn off)) fn off

/-- A register is read with an access of `read.width` bytes (R5, R7). The row is named for the low half of a 64-bit RO register and
is the table's only row for a read. A read of any other width or alignment returns an unpredictable value and has no side
effect. -/
def execLowHalfRead (fn : Nat) (read : RegRead) (s : State) : Out :=
  let off := read.offset
  guarded (Instr.wellFormed (.lowHalfRead fn read)) .noSuchFunction <|
    if !fnReachable s fn then s
    else if read.width = 4 ∧ off % 4 = 0 then read32 s fn off
    else if read.width = 8 ∧ off % 8 = 0 ∧ (isRo64 fn off || isSignal fn off || isWindow fn off) then read64 s fn off
    else bumpFree (answerRead s (Config.freeWord s.free).toNat)

def execMbxReqPiWrite (fn : Nat) (value : BitVec 32) (s : State) : Out :=
  guarded (Instr.wellFormed (.mbxReqPiWrite fn value)) .noSuchFunction <|
    if mbxOpen s fn then writeReqPi s fn value.toNat else s

def execMbxRspCiWrite (fn : Nat) (value : BitVec 32) (s : State) : Out :=
  guarded (Instr.wellFormed (.mbxRspCiWrite fn value)) .noSuchFunction <|
    if mbxOpen s fn then writeRspCi s fn value.toNat else s

/-- Writing 1 to MBX_CTRL.RESET (R133). -/
def execMailboxReset (fn : Nat) (s : State) : Out :=
  guarded (Instr.wellFormed (.mailboxReset fn)) .noSuchFunction <| if mbxOpen s fn then resetMailbox s fn else s

/-- Every command taken before the reset has run to completion: RESETTING clears (R133). -/
def execMailboxResetDone (fn : Nat) (s : State) : Out :=
  guarded (Instr.wellFormed (.mailboxResetDone fn)) .noSuchFunction <|
    if (mbx s fn).resetting && (mbx s fn).taken.all (!·.discard) then modMbx s fn fun m => { m with resetting := false } else s

def execUrgentGo (fn : Nat) (s : State) : Out :=
  guarded (Instr.wellFormed (.urgentGo fn)) .noSuchFunction <| if mbxOpen s fn then writeUrgGo s fn else s

def execAshCiWrite (fn : Nat) (value : BitVec 32) (s : State) : Out :=
  guarded (Instr.wellFormed (.ashCiWrite fn value)) .noSuchFunction <|
    if fnReachable s fn && live s then writeAshCi s fn value.toNat else s

def execDblSqTailWrite (fn queue : Nat) (value : BitVec 32) (s : State) : Out :=
  guarded (Instr.wellFormed (.dblSqTailWrite fn queue value)) .noSuchQueue <|
    if fnReachable s fn && live s then writeSqTail s fn queue value.toNat else s

def execDblCqHeadWrite (fn queue : Nat) (value : BitVec 32) (s : State) : Out :=
  guarded (Instr.wellFormed (.dblCqHeadWrite fn queue value)) .noSuchQueue <|
    if fnReachable s fn && live s then writeCqHead s fn queue value.toNat else s

def execDblSignalWrite (fn signal : Nat) (value : Word) (s : State) : Out :=
  guarded (Instr.wellFormed (.dblSignalWrite fn signal value)) .noSuchQueue <|
    if fnReachable s fn && live s then writeSignal s fn signal 0 8 value else s

end Sys2Proof.Machine
end

