-- ==== Sys2Proof/Machine/MailCore.lean ====
section
/-! DEFINITION. What every mailbox command shares: taking a request, the checks of R136 in their order, the objects a
command names and who holds them, and the row that carries a command out (06 R127-R142, 05 R124, 20 R449). -/

namespace Sys2Proof.Machine

/-! ## Taking (R128, R129, R131, R139) -/

/-- The Stoker may take a request of a function. -/
def mayTake (s : State) (fn : Nat) : Bool :=
  let m := mbx s fn
  s.dev.state != .off && s.dev.state != .boot && !(bootRomOnly s && fn != 0) && !m.resetting && m.reqPi != m.reqCi &&
    decide (slotsUsed m ≤ 62)

/-- Level 3 is offered, and what its commands do is outside the manual (R1, R139). -/
def undescribed (level : Nat) (msg : List Byte) : Bool := level == 3 && fld msg 0 2 != 1 && fld msg 6 1 == 3

/-- The request at MBX_REQ_CI. -/
def nextRequest (s : State) (fn : Nat) : List Byte := (mbx s fn).req.read 0 (256 * ((mbx s fn).reqCi % 64)) 256

def takeRequest (s : State) (fn : Nat) : State :=
  let msg := nextRequest s fn
  let t := newTaken s fn ((mbx s fn).reqCi % 64) msg
  let s := modWork (countT s 0x81C fn 1) fun w => { w with lastMbx := fn }
  let s := takeMsg (modMbx s fn fun m => { m with reqCi := (m.reqCi + 1) % 128 }) fn t
  if opcodes.contains (fld msg 0 2) then s else respond s fn t .eVersion 0 []

def execMbxTakeRequest (fn : Nat) (s : State) : Out :=
  if !fnOk fn then .fault .noSuchFunction
  else if turn 17 s.work.lastMbx (mayTake s) ≠ some fn then .next s
  else if undescribed (mbx s fn).level (nextRequest s fn) then .refused .undescribedLevel
  else .next (takeRequest s fn)

/-! ## Objects (R131) -/

/-- What a command may name. -/
inductive Obj where
  | tenant (n : Nat)
  | site (n : Nat)
  | region (t n : Nat)
  | queue (t q : Nat)
  | port (p : Nat)
  | domain (d : Nat)
  | firmware | training | draught
deriving DecidableEq, Repr

/-- Sites listed in tenant.assign and tenant.release. -/
def siteList (msg : List Byte) : List Nat := (List.range (fld msg 0x11 1)).map fun i => fld msg (0x14 + 2 * i) 2

/-- A mask of 32 bytes at an offset. -/
def maskAt (msg : List Byte) (off : Nat) : BitVec 256 := BitVec.ofNat 256 (fld msg off 32)

def boundTenant (s : State) (dom : Nat) : Nat := match look s.chain.domains dom with | some d => d.tenant | none => 0

/-- The region a ring base names when the ring lies in HBM. -/
def baseRegion (t : Nat) (inHbm : Bool) (base : Nat) : List Obj := if inHbm then [.region t (regionOf base)] else []

/-- The objects that a request's fields identify. -/
def objects (s : State) (fn : Nat) (msg : List Byte) : List Obj :=
  let op := fld msg 0 2
  let t := namedTenant fn msg
  if op = 0x3 then [.firmware] else if op = 0x4 then [.training]
  else if op = 0x102 ∨ op = 0x103 then .tenant t :: (siteList msg).map .site
  else if 0x100 ≤ op ∧ op ≤ 0x107 then [.tenant t]
  else if op = 0x200 then
    .queue t (fld msg 0x11 1) :: (baseRegion t (fld msg 0x16 1 % 2 = 1) (fld msg 0x18 8) ++
      baseRegion t (fld msg 0x16 1 / 2 % 2 = 1) (fld msg 0x20 8))
  else if op = 0x201 then [.queue t (fld msg 0x11 1)]
  else if op = 0x300 then (if fld msg 0x11 1 = 0 then (bits (maskAt msg 0x20)).map .site else [])
  else if op = 0x301 ∨ op = 0x302 ∨ op = 0x303 ∨ op = 0x304 ∨ op = 0x400 ∨ op = 0x402 then [.region t (fld msg 0x12 2)]
  else if op = 0x500 then (if fld msg 0x14 2 = 0xFFFF then [] else [.site (fld msg 0x14 2)])
  else if op = 0x501 then baseRegion t (fld msg 0x11 1 % 2 = 1) (fld msg 0x18 8)
  else if op = 0x600 ∨ op = 0x601 then [.draught]
  else if op = 0x700 then [.port (fld msg 0x10 1)]
  else if op = 0x701 then [.domain (fld msg 0x10 2), .port (fld msg 0x13 1)]
  else if op = 0x702 then
    [.domain (fld msg 0x10 2), .region (boundTenant s (fld msg 0x10 2)) (fld msg 0x14 2)]
  else if op = 0x703 then [.domain (fld msg 0x10 2)]
  else []

def shares (s : State) (fn : Nat) (msg : List Byte) (fn' : Nat) (msg' : List Byte) : Bool :=
  (objects s fn msg).any fun o => (objects s fn' msg').contains o

/-- An urgent response of function `fn'` that waits for a slot still holds its tenant (R140). -/
def urgHolds (s : State) (fn' fn : Nat) (msg : List Byte) : Bool :=
  match (mbx s fn').urgWaiting with
  | some (t, _) => t != 0 && (objects s fn msg).contains (.tenant t)
  | none => false

/-! ## The order of starting (R131, R140) -/

/-- Own commands taken before `t` and not answered. -/
def ownEarlier (s : State) (fn : Nat) (t : Taken) : List Taken :=
  (mbx s fn).taken.filter fun e => e.seq < t.seq && e.slot != 255

/-- A command must wait: ORDERED behind any earlier one, or for one that holds an object it names. -/
def blocked (s : State) (fn : Nat) (t : Taken) : Bool :=
  let ordered := fld t.msg 4 1 % 2 == 1
  (ownEarlier s fn t).any (fun e => ordered || shares s fn t.msg fn e.msg) ||
    ((mbx s fn).taken.any fun e => e.slot == 255 && shares s fn t.msg fn e.msg) || urgHolds s fn fn t.msg

/-- The command starts now: it need not wait, and every command before it in its ring has started or must wait. -/
def mayStart (s : State) (fn : Nat) (t : Taken) : Bool :=
  t.slot == 255 || (!blocked s fn t && (ownEarlier s fn t).all fun e => e.started || blocked s fn e)

/-- An object it names is held by another function's command in progress (R131, R140). -/
def busyElsewhere (s : State) (fn : Nat) (t : Taken) : Bool :=
  t.slot != 255 && (List.range 17).any fun f =>
    f != fn && ((mbx s f).taken.any (fun e => (e.seq < t.seq || e.slot == 255) && shares s fn t.msg f e.msg) ||
      urgHolds s f fn t.msg)

/-! ## The checks of R136 -/

/-- A field that must be zero: offset in the message, size, and the bits of it (R134, R142; a flag bit that the
tables do not name is reserved, DEDUCED, log entry 20). -/
abbrev Zero := Nat × Nat × Nat

def zero (off n : Nat) : Zero := (off, n, 2 ^ (8 * n) - 1)
def zeroBits (off n mask : Nat) : Zero := (off, n, mask)

/-- Reserved header fields of a request (R134). -/
def headerZeros : List Zero := [zeroBits 4 1 0xFE, zero 5 1, zero 7 1, zero 0xA 2, zero 0xC 4]

/-- Payload bytes a request needs, and its reserved fields, by opcode (R142). -/
def shape (op : Nat) (msg : List Byte) : Nat × List Zero :=
  if op = 0x1 then (4, [zero 0x12 2])
  else if op = 0x3 then (0x10 + fld msg 0x14 2, [zero 0x17 9])
  else if op = 0x4 then (4, [zero 0x11 3])
  else if op = 0x100 ∨ op = 0x107 then (4, [zeroBits 0x11 1 0xFE, zero 0x12 2])
  else if op = 0x102 ∨ op = 0x103 then (4 + 2 * fld msg 0x11 1, [zero 0x12 2])
  else if 0x101 ≤ op ∧ op ≤ 0x106 then (4, [zero 0x11 3])
  else if op = 0x200 then (0x18, [zeroBits 0x16 1 0xF8, zero 0x17 1])
  else if op = 0x201 then (4, [zero 0x12 2])
  else if op = 0x300 then (0x30, [zero 0x14 4])
  else if op = 0x301 ∨ op = 0x303 then (4, [zero 0x11 1])
  else if op = 0x302 then (0x38, [zero 0x11 1, zero 0x14 4])
  else if op = 0x304 then (0x20, [zero 0x11 1, zero 0x14 4])
  else if op = 0x305 then (0x10, [zero 0x11 7])
  else if op = 0x400 then (0x10, [zero 0x11 1])
  else if op = 0x401 then (4, [zero 0x11 1])
  else if op = 0x402 then (0x10, [])
  else if op = 0x500 then (8, [zeroBits 0x12 2 0xF000, zero 0x16 2])
  else if op = 0x501 then (0x10, [zeroBits 0x11 1 0xFE, zero 0x12 2])
  else if op = 0x502 then (4, [zero 0x12 2])
  else if op = 0x503 then (8, [zero 0x14 4])
  else if op = 0x504 then (2, [])
  else if op = 0x600 then (4, [])
  else if op = 0x601 then (4, [zero 0x13 1])
  else if op = 0x603 then (4, [zero 0x12 2])
  else if op = 0x700 then (0x10, [])
  else if op = 0x701 then (4, [])
  else if op = 0x702 then (8, [zeroBits 0x13 1 0xFC, zero 0x16 2])
  else if op = 0x703 then (4, [zero 0x12 2])
  else if op = 0x800 then (0x24, [zero 0x31 3])
  else if op = 0x801 then (8, [zero 0x14 4])
  else (0, [])

/-- The field that sets the request's length, when it is out of its range. -/
def badLength (op : Nat) (msg : List Byte) : Option Nat :=
  if op = 0x102 ∨ op = 0x103 then (if 1 ≤ fld msg 0x11 1 ∧ fld msg 0x11 1 ≤ 100 then none else some 0x11)
  else if op = 0x3 then
    let n := fld msg 0x14 2
    if 16 ≤ n ∧ n ≤ 224 ∧ n % 16 = 0 then none else some 0x14
  else none

/-- R136 step 2: DETAIL of the first that fails. -/
def argCheck (msg : List Byte) : Option Nat :=
  let op := fld msg 0 2
  let len := fld msg 8 2
  if 240 < len then some 8
  else match badLength op msg with
    | some d => some d
    | none =>
      let sh := shape op msg
      if len < sh.1 then some 8
      else ((headerZeros ++ sh.2).find? fun z => fld msg z.1 z.2.1 &&& z.2.2 != 0).map (·.1)

/-- Commands of the admin function only (R142). -/
def adminOnly (op : Nat) : Bool :=
  [0x3, 0x4, 0x100, 0x101, 0x102, 0x103, 0x502, 0x503, 0x600, 0x601, 0x602, 0x603, 0x700, 0x701, 0x702, 0x703, 0x801].contains op

/-- Offset of the TENANT field. -/
def tenantField (op : Nat) : Option Nat :=
  if op = 0x701 then some 0x12
  else if [0x100, 0x101, 0x102, 0x103, 0x104, 0x105, 0x106, 0x107, 0x200, 0x201, 0x300, 0x301, 0x302, 0x303, 0x304, 0x305,
    0x400, 0x401, 0x402, 0x500, 0x501].contains op then some 0x10 else none

/-- The TENANT value is one the caller may give (R137, R428). -/
def tenantOk (fn op v : Nat) : Bool :=
  if fn ≠ 0 then v == 0 || v == fn
  else (1 ≤ v && v ≤ 16) || (op == 0x500 && (v == 0 || v == 0xFF)) || (op == 0x501 && v == 0)

/-- Regions, models and sites that a tenant's objects must hold (R137, R144). -/
def notHeld (s : State) (fn : Nat) (msg : List Byte) : Bool :=
  let op := fld msg 0 2
  let t := namedTenant fn msg
  let missing (n : Nat) : Bool := (region? s t n).isNone
  if op = 0x301 ∨ op = 0x302 ∨ op = 0x303 ∨ op = 0x304 ∨ op = 0x400 ∨ op = 0x402 then missing (fld msg 0x12 2)
  else if op = 0x200 then
    (fld msg 0x16 1 % 2 == 1 && missing (regionOf (fld msg 0x18 8))) ||
      (fld msg 0x16 1 / 2 % 2 == 1 && missing (regionOf (fld msg 0x20 8)))
  else if op = 0x501 then t != 0 && fld msg 0x11 1 % 2 == 1 && missing (regionOf (fld msg 0x18 8))
  else if op = 0x401 then (look (tenant s t).models (fld msg 0x12 2)).isNone
  else if op = 0x500 then fn != 0 && fld msg 0x14 2 != 0xFFFF && ownerOf s (fld msg 0x14 2) != some fn
  else false

/-- A tenant asks for a U event (R428). -/
def unattributable (fn : Nat) (msg : List Byte) : Bool :=
  fn != 0 && fld msg 0 2 == 0x500 && eventAttr (fld msg 0x12 2) == some .none_

/-- The state of the part lets the command run (R124, R449). -/
def stateAllows (s : State) (fn op : Nat) : Bool :=
  if s.sec.keysCleared && !(op == 1 || op == 2 || op == 3) then false
  else if live s then true
  else if s.dev.state = .train then op == 1
  else if s.dev.state = .failed then op == 1 || (fn == 0 && (op == 3 || (op == 4 && !bootRomOnly s)))
  else false

/-- The tenant a command concerns, which must exist. -/
def scope (fn : Nat) (msg : List Byte) : Option Nat :=
  let op := fld msg 0 2
  if op = 0x100 ∨ op = 0x500 then none
  else if op = 0x501 then (if namedTenant fn msg = 0 then none else some (namedTenant fn msg))
  else if op = 0x701 then some (fld msg 0x12 1)
  else (tenantField op).map fun _ => namedTenant fn msg

/-- The first check that fails, up to the command's own (R131, R136). -/
def preCheck (s : State) (fn : Nat) (t : Taken) : Option (Rc × Nat) :=
  let msg := t.msg
  let op := fld msg 0 2
  let exists_ := match scope fn msg with | none => true | some n => (tenant s n).alive
  if wrongVersion (t.level.getD (mbx s fn).level) msg then some (.eVersion, 0)
  else match argCheck msg with
    | some d => some (.eArg, d)
    | none =>
      if (fn ≠ 0 && adminOnly op) || (match tenantField op with | some o => !tenantOk fn op (fld msg o 1) | none => false) ||
          (exists_ && notHeld s fn msg) || unattributable fn msg then some (.ePerm, 0)
      else if !stateAllows s fn op then some (.eState, 0)
      else if busyElsewhere s fn t then some (.eBusy, 0)
      else if !exists_ then some (.eState, 0)
      else none

/-! ## The row of a command -/

/-- The request of a function in a slot with an opcode, taken and not begun. -/
def request? (s : State) (fn slot op : Nat) : Option Taken :=
  (mbx s fn).taken.find? fun t => t.slot == slot && fld t.msg 0 2 == op && !t.started

/-- A command is carried out when its turn has come: the checks, then `run`. -/
def mailRow (fn slot op : Nat) (s : State) (run : Taken → State → State) : Out :=
  guarded (fnOk fn) .noSuchFunction <|
    match request? s fn slot op with
    | none => s
    | some t =>
      if !mayStart s fn t then s
      else match preCheck s fn t with
        | some (rc, d) => respond s fn t rc d []
        | none => run t s

/-- OK with a payload. -/
def ok (s : State) (fn : Nat) (t : Taken) (payload : List Byte) : State := respond s fn t .ok 0 payload

/-- E_ARG at an offset of the payload. -/
def arg (s : State) (fn : Nat) (t : Taken) (off : Nat) : State := respond s fn t .eArg (0x10 + off) []

/-- E_ARG for something that no field of the message holds: which offset DETAIL names is open (log entry 4). -/
def argOpen (s : State) (fn : Nat) (t : Taken) : State :=
  respond (bumpFree s) fn t .eArg ((Config.freeWord s.free).toNat % 2 ^ 16) []

def fail (s : State) (fn : Nat) (t : Taken) (rc : Rc) : State := respond s fn t rc 0 []

/-- A command goes on until its Epoch change or its drain ends. -/
def begin_ (s : State) (fn : Nat) (t : Taken) : State :=
  modMbx s fn fun m => { m with taken := m.taken.map fun e => if e.seq = t.seq then { e with started := true, startedAt := now s } else e }

/-- A command queues its Epoch change, whose end answers it (R461, R462). -/
def startChange (s : State) (fn : Nat) (t : Taken) (a : EpochAction) (payload : List Byte) : State :=
  modEpoch (begin_ s fn t) fun e => { e with waiting := e.waiting ++ [{ action := a, reply := some (fn, t.seq, payload) }] }

end Sys2Proof.Machine
end

