-- ==== Sys2Proof/Machine/ChainPorts.lean ====
section
/-! DEFINITION. Chain ports and the Trathar transport, and the chain commands of the mailbox (04 R87-R107, 06 R142, R148,
17 R382, 21 R465). A frame is given from its destination address to the end of its FCS. -/

namespace Sys2Proof.Machine

/-! ## Frames (R92-R95) -/

/-- A field of a frame, most significant byte first; `off` counts from the Trathar header. -/
def hdr (f : List Byte) (off n : Nat) : Nat := beNat (slice f (14 + off) n)

def frameType (f : List Byte) : Nat := hdr f 0 1 % 16
def frameClass (f : List Byte) : Nat := hdr f 1 1 / 16 % 4
def frameInit (f : List Byte) : Bool := hdr f 1 1 / 64 % 2 == 1
def frameAcks (f : List Byte) : Bool := hdr f 1 1 / 128 == 1
def frameSeq (f : List Byte) : BitVec 16 := BitVec.ofNat 16 (hdr f 4 2)
def frameAck (f : List Byte) : BitVec 16 := BitVec.ofNat 16 (hdr f 6 2)
def frameLen (f : List Byte) : Nat := hdr f 10 2
def frameOffset (f : List Byte) : Nat := hdr f 16 8
def framePayload (f : List Byte) : List Byte := slice f 46 (frameLen f)

/-- WRITE and READ_RESP carry LENGTH bytes (R94). -/
def carries (ty : Nat) : Bool := ty == 1 || ty == 3

/-- The FCS as it stands in a frame, its low byte first (R92; PRESUMED from IEEE 802.3, log entry 22). -/
def fcs (b : List Byte) : List Byte := leBytes 4 (crc32 b).toNat

/-- A frame that a port takes: EtherType, type, version, reserved fields, LENGTH and OFFSET (R88, R94), a good FCS (R92), and room
for the header, the payload and the FCS. That a bad FCS and a frame too short for its header or its LENGTH are grounds to discard
and count it too is the model's choice (DESIGN CHOICE, log entry 22). -/
def frameOk (p : ChainPort) (f : List Byte) : Bool :=
  let ty := frameType f
  beNat (slice f 12 2) == p.etherType.toNat && 1 ≤ ty && ty ≤ 7 && hdr f 0 1 / 16 == 1 && hdr f 1 1 % 16 == 0 &&
    zeros f 39 7 && frameLen f ≤ 4096 && frameLen f % 32 == 0 && frameOffset f % 32 == 0 &&
    (if carries ty then 50 + frameLen f else 50) ≤ f.length && f.drop (f.length - 4) == fcs (f.take (f.length - 4))

/-- The bytes of a frame (R92, R93, R95). -/
def frameBytes (p : ChainPort) (x : ChainFrame) (ack : Option (BitVec 16)) (init : Bool) : List Byte :=
  let b := beBytes 6 p.dst.toNat ++ beBytes 6 p.src.toNat ++ beBytes 2 p.etherType.toNat ++ beBytes 1 (16 + x.type_) ++
    beBytes 1 (128 * b2n ack.isSome + 64 * b2n init + 16 * x.cls) ++ beBytes 2 x.domain ++ beBytes 2 x.seq.toNat ++
    beBytes 2 ((ack.getD 0).toNat) ++ beBytes 2 x.tag ++ beBytes 2 x.length ++ beBytes 2 x.region ++
    beBytes 2 x.refSeq.toNat ++ beBytes 8 x.offset ++ beBytes 1 x.err ++ beBytes 7 0 ++ x.payload
  let c := b ++ List.replicate (60 - b.length) 0#8
  c ++ fcs c

/-- An empty frame of a type. -/
def plainFrame (ty : Nat) : ChainFrame :=
  { seq := 0, type_ := ty, cls := 0, copy := none, tag := 0, domain := 0, region := 0, offset := 0, length := 0, refSeq := 0,
    err := 0, dstKind := 0, dst := 0, payload := [] }

/-- Put a frame on the wire. -/
def transmit (s : State) (port : Nat) (bytes : List Byte) : State :=
  modChainPort s port fun p => { p with wire := p.wire ++ [bytes], txAt := now s }

/-- Event `i` of a port (R427). -/
def countPort (s : State) (port i tag n : Nat) : State :=
  let e := 0xB00 + 8 * port + i
  if eventAttr e = some .none_ then countU s e n else countT s e tag n

/-- Tag of a domain's tenant. -/
def domainTag (s : State) (dom : Nat) : Nat := match look s.chain.domains dom with | some d => d.tenant | none => 31

/-! ## Acknowledgements (R98, R99, R104) -/

/-- Refusals not yet acknowledged hold the port's own ACK and NAK frames. -/
def ackHeld (p : ChainPort) : Bool := (p.window ++ p.waiting).any (·.type_ == 4)

/-- `a` stands before `b` in the sequence space of at most 256 frames. -/
def seqBefore (a b : BitVec 16) : Bool := 1 ≤ (b - a).toNat && (b - a).toNat ≤ 256

/-- The ACK that a sequenced frame of a SEQ may carry: never past a refused frame whose ERROR_RESP comes after it (R104). -/
def ackValue (p : ChainPort) (seq : BitVec 16) : BitVec 16 :=
  match (p.window.filter fun x => seqBefore seq x.seq).find? (·.type_ == 4) with
  | some x => x.refSeq
  | none => match p.waiting.find? (·.type_ == 4) with | some x => x.refSeq | none => p.expect

/-- An ACK (5) or NAK (6) frame goes out. -/
def sendAck (s : State) (port ty : Nat) : State :=
  let p := chainPort s port
  if ackHeld p then s
  else modChainPort (transmit s port (frameBytes p (plainFrame ty) (some p.expect) false)) port fun p => { p with unacked := 0 }

/-- A NAK, at most once per 2 us (R97). -/
def sendNak (s : State) (port : Nat) : State :=
  let p := chainPort s port
  let soon := match p.nakAt with | some t => !due s t 2000 | none => false
  if soon || ackHeld p then s
  else modChainPort (countPort (sendAck s port 6) port 4 31 1) port fun p => { p with nakAt := some (now s) }

/-- The 32nd acceptance not yet acknowledged draws an acknowledgement, unless R104 holds it (R98). -/
def ackAtBound (s : State) (port : Nat) : State := if 32 ≤ (chainPort s port).unacked then sendAck s port 5 else s

/-- A frame, or a read, of a copy is done with; the last one completes it (R103). -/
def frameDone (s : State) (id : Nat) : State :=
  match disp? s id with
  | none => s
  | some d =>
    if d.ended then s
    else if d.frames ≤ 1 then endDisp s id [{ site := 0xFFFF, status := .done, detail := 0 }]
    else modDisp s id fun d => { d with frames := d.frames - 1 }

/-- A cumulative acknowledgement arrives. -/
def takeAck (s : State) (port : Nat) (a : BitVec 16) : State :=
  let p := chainPort s port
  match p.window with
  | [] => s
  | x :: _ =>
    let n := (a - x.seq).toNat
    if n = 0 ∨ p.window.length < n then s
    else
      let gone := p.window.take n
      let keep (f : ChainFrame) : Bool := !gone.any (·.seq == f.seq)
      let s := modChainPort s port fun p =>
        { p with window := p.window.drop n, resend := p.resend.filter keep, ackAt := now s, idleRounds := 0 }
      gone.foldl (fun s f => match f.copy with | some id => frameDone s id | none => s) s

/-- Every unacknowledged frame goes out again, oldest first (R99). The 50 us start again with every round, one that a NAK started
too (DESIGN CHOICE, log entry 22). -/
def retransmitAll (s : State) (port : Nat) : State :=
  modChainPort s port fun p =>
    if p.window.isEmpty then p else { p with resend := p.window, idleRounds := p.idleRounds + 1, ackAt := now s }

/-! ## Failure (R106) -/

/-- Copies with frames or reads on a port. -/
def portCopies (p : ChainPort) : List Nat :=
  ((p.window ++ p.waiting).filterMap (·.copy) ++ p.reads.map (·.2.copy)).eraseDups

/-- A copy ends LINK_LOST on a port; the statuses it met count too. -/
def copyLost (port : Nat) (s : State) (id : Nat) : State :=
  match disp? s id with
  | none => s
  | some d => if d.ended then s else endDisp s id [{ site := 0xFFFF, status := .linkLost, detail := port }]

/-- What a port that goes down keeps: its addresses, its lock and what it has sent. -/
def idlePort (p : ChainPort) (st : PortState) : ChainPort :=
  { ChainPort.reset with state := st, locked := p.locked, lockLostAt := p.lockLostAt, failedAt := p.failedAt,
                         etherType := p.etherType, dst := p.dst, src := p.src, rxAt := p.rxAt, txAt := p.txAt, wire := p.wire }

/-- A port goes down: its copies complete LINK_LOST. -/
def portDown (s : State) (port : Nat) (st : PortState) : State :=
  let s := (portCopies (chainPort s port)).foldl (copyLost port) s
  modChainPort s port fun p => idlePort p st

/-- Tenants bound to a domain on a port. -/
def portTenants (s : State) (port : Nat) : List Nat :=
  ((s.chain.domains.filter (·.2.port == port)).map (·.2.tenant)).eraseDups

/-- A port fails under condition `cond` of R106 (4 to 7). LEVEL, the group counts, SUSPECT and DURATION_NS have no
meaning for a chain port and are free. -/
def failPort (s : State) (port cond : Nat) : State :=
  let s := modChainPort (portDown s port .failed) port fun p => { p with failedAt := now s }
  let v := (Config.freeWord s.free).toNat
  let d := detail [(0, 1, 0x10 + port), (1, 1, v), (2, 1, v / 2 ^ 8), (3, 1, v / 2 ^ 16), (4, 1, cond),
    (8, 4, v / 2 ^ 24), (12, 4, v / 2 ^ 32)]
  let s := raiseAsh (bumpFree (countPort s port 7 31 1)) 0x13 (0x310 + port) 0xFF 0 d (0 :: portTenants s port) []
  raiseVector s 0 4

/-! ## Coming up (R105) -/

/-- A PROBE goes out. -/
def sendProbe (s : State) (port : Nat) (init : Bool) : State :=
  transmit s port (frameBytes (chainPort s port) (plainFrame 7) none init)

/-- The port becomes UP: both directions start at SEQ 0, and one PROBE with INIT clear goes out. -/
def becomeUp (s : State) (port : Nat) : State :=
  sendProbe (modChainPort s port fun p => { idlePort p .up with rxAt := now s, ackAt := now s }) port false

/-! ## Receiving (R97, R102-R106) -/

/-- A refused frame: an ERROR_RESP waits for its SEQ; its class is not stated and is C0 (DESIGN CHOICE, log entry 22). -/
def refuse (s : State) (port : Nat) (f : List Byte) (err : Nat) : State :=
  let tag := if frameType f = 2 then hdr f 8 2 else 0
  let x := { plainFrame 4 with cls := 0, tag := tag, domain := hdr f 2 2, region := hdr f 12 2, refSeq := frameSeq f, err := err }
  modChainPort (countPort s port 5 (domainTag s (hdr f 2 2)) 1) port fun p => { p with waiting := p.waiting ++ [x] }

/-- The first four checks of R102: the tenant and region address, or the ERR. -/
def checkFrame (s : State) (port : Nat) (f : List Byte) (write : Bool) : Nat × Nat × Nat :=
  match look s.chain.domains (hdr f 2 2) with
  | none => (1, 0, 0)
  | some d =>
    if d.port ≠ port then (1, 0, 0)
    else match look d.exports (hdr f 12 2) with
      | none => (2, 0, 0)
      | some (rn, r, w) =>
        match region? s d.tenant rn with
        | none => (2, 0, 0)
        | some g =>
          if g.size < frameOffset f + frameLen f then (3, 0, 0)
          else if !(if write then w else r) then (4, 0, 0)
          else (0, d.tenant, 2 ^ 48 * rn + frameOffset f)

/-- A WRITE takes effect or is refused. -/
def applyWrite (s : State) (port : Nat) (f : List Byte) : State :=
  let c := checkFrame s port f true
  if c.1 ≠ 0 then refuse s port f c.1 else (writeSpan s c.2.1 c.2.2 (framePayload f) 10).2

/-- A READ_REQ is answered with the data or refused. The answer's class is the request's; for the value 3, which no rule names,
C2 (DESIGN CHOICE, log entry 22). -/
def applyRead (s : State) (port : Nat) (f : List Byte) : State :=
  let c := checkFrame s port f false
  if c.1 ≠ 0 then refuse s port f c.1
  else match readSpan s c.2.1 c.2.2 (frameLen f) 10 with
    | (.bytes b, s) =>
      let x := { plainFrame 3 with cls := min 2 (frameClass f), tag := hdr f 8 2, domain := hdr f 2 2, region := hdr f 12 2,
                                   offset := frameOffset f, length := frameLen f, payload := b }
      modChainPort s port fun p => { p with waiting := p.waiting ++ [x] }
    | (.bad 3, s) => refuse s port f 6
    | (_, s) => refuse s port f 5

/-- Read data for a copy's destination (R103, R382). -/
def deliver (s : State) (d : Disp) (r : ChainRead) (bytes : List Byte) : Option Status × State :=
  let a := r.dst.toNat + r.got
  if r.dstKind = 0 then
    (if hostReachable s d.tenant then (none, hostWrite s d.tenant a bytes) else (some .busError, s))
  else
    match writeSpan s d.tenant a bytes 6 with
    | (.ok, s) => (none, s)
    | (.prot, s) => (some .prot, s)
    | (.bad k, s) => (some (ueStatus k), s)

/-- A READ_RESP: data of a reset tenant's read is discarded (04 edge cases). -/
def applyResp (s : State) (port : Nat) (f : List Byte) : State :=
  let tag := hdr f 8 2
  match look (chainPort s port).reads tag with
  | none => s
  | some r =>
    let n := frameLen f
    let fin := r.length ≤ r.got + n
    let s1 := modChainPort s port fun p =>
      { p with reads := if fin then del p.reads tag else put p.reads tag { r with got := r.got + n } }
    match disp? s1 r.copy with
    | none => s1
    | some d =>
      if d.ended then s1
      else
        let x := deliver s1 d r (framePayload f)
        let s2 := match x.1 with
          | none => x.2
          | some st => modDisp x.2 r.copy fun d =>
              { d with reports := d.reports ++ [{ site := 0xFFFF, status := st, detail := if st = .prot then 3 else 0 }] }
        if fin then frameDone s2 r.copy else s2

/-- An ERROR_RESP, matched by REF_SEQ to the copy that owns the refused frame (R103). Of the values that no rule names, ERR 0
counts with 0x01 to 0x04 and those above 0x06 with 0x05 and 0x06 (DESIGN CHOICE, log entry 22). -/
def applyError (s : State) (port : Nat) (f : List Byte) : State :=
  let err := hdr f 24 1
  match (chainPort s port).window.find? fun x => x.seq.toNat == hdr f 14 2 with
  | none => s
  | some x =>
    match x.copy with
    | none => s
    | some id =>
      let r : Report := if err ≤ 4 then { site := 0xFFFF, status := .prot, detail := 5 }
        else { site := 0xFFFF, status := .poisoned, detail := 0 }
      let s := modDisp s id fun d => if d.ended then d else { d with reports := d.reports ++ [r] }
      if x.type_ = 2 then frameDone (modChainPort s port fun p => { p with reads := del p.reads x.tag }) id else s

/-- A port hears frames: enabled, locked, not in OFF. -/
def hears (s : State) (port : Nat) : Bool :=
  let p := chainPort s port
  s.dev.state != .off && p.locked && p.state != .disabled

/-- A valid frame reaches an UP port. -/
def heard (s : State) (port : Nat) (f : List Byte) : State :=
  modChainPort s port fun p => { p with rxAt := now s, clearSeen := p.clearSeen || !frameInit f }

/-- A sequenced frame: accepted in order with its effect, and its acknowledgement taken after it; the 32nd acceptance draws an
acknowledgement; otherwise R97. -/
def sequenced (s : State) (port : Nat) (f : List Byte) (effect : State → State) : State :=
  let s := heard s port f
  let p := chainPort s port
  let d := (frameSeq f - p.expect).toNat
  if d = 0 then
    let s := modChainPort (countPort s port 1 (domainTag s (hdr f 2 2)) 1) port fun p =>
      { p with expect := p.expect + 1, unacked := p.unacked + 1 }
    let s := effect s
    ackAtBound (if frameAcks f then takeAck s port (frameAck f) else s) port
  else
    let s := countPort s port 3 31 1
    if d ≤ 255 then sendNak s port else if 65280 ≤ d then sendAck s port 5 else s

/-- The row of a sequenced frame type. -/
def chainRow (port ty : Nat) (f : List Byte) (s : State) (effect : State → State) : Out :=
  guarded (portOk port) .noSuchUnit <|
    let p := chainPort s port
    if hears s port && frameOk p f && frameType f == ty then
      (if p.state = .up then sequenced s port f effect else s)
    else s

def execChainWrite (port : Nat) (frame : List Byte) (s : State) : Out :=
  chainRow port 1 frame s fun s => applyWrite s port frame
def execChainReadReq (port : Nat) (frame : List Byte) (s : State) : Out :=
  chainRow port 2 frame s fun s => applyRead s port frame
def execChainReadResp (port : Nat) (frame : List Byte) (s : State) : Out :=
  chainRow port 3 frame s fun s => applyResp s port frame
def execChainErrorResp (port : Nat) (frame : List Byte) (s : State) : Out :=
  chainRow port 4 frame s fun s => applyError s port frame

/-- An unsequenced frame of a type reaches an UP port. -/
def plainRow (port ty : Nat) (f : List Byte) (s : State) (effect : State → State) : Out :=
  guarded (portOk port) .noSuchUnit <|
    let p := chainPort s port
    if hears s port && frameOk p f && frameType f == ty then
      (if p.state = .up then effect (heard s port f) else s)
    else s

def execChainAck (port : Nat) (frame : List Byte) (s : State) : Out :=
  plainRow port 5 frame s fun s => ackAtBound (if frameAcks frame then takeAck s port (frameAck frame) else s) port

/-- A NAK acknowledges what its ACK has passed and starts a retransmission (R99). -/
def execChainNak (port : Nat) (frame : List Byte) (s : State) : Out :=
  plainRow port 6 frame s fun s =>
    retransmitAll (ackAtBound (if frameAcks frame then takeAck s port (frameAck frame) else s) port) port

/-- One more PROBE with INIT at `t`: the first one stays noted. -/
def initSpell (x : Option (Nat × Nat)) (t : Nat) : Option (Nat × Nat) := some ((x.map (·.1)).getD t, t)

/-- 100 us lie between the time from which the port had both received and sent a PROBE with INIT and a time by which it has
received one and sent one again (R105; DEDUCED, log entry 40). -/
def initDone (p : ChainPort) : Bool :=
  match p.initRx, p.initTx with
  | some r, some t => decide (max r.1 t.1 + 100000 ≤ min r.2 t.2)
  | _, _ => false

/-- A PROBE brings the port up, is ignored, or fails an UP port (R105, R106). -/
def execChainProbe (port : Nat) (frame : List Byte) (s : State) : Out :=
  guarded (portOk port) .noSuchUnit <|
    let p := chainPort s port
    if !(hears s port && frameOk p frame && frameType frame == 7) then s
    else if p.state = .probing then
      if frameInit frame then
        modChainPort s port fun p => { p with rxAt := now s, initRx := initSpell p.initRx (now s) }
      else if p.initRx.isSome then becomeUp s port else s
    else if p.state = .up then
      if frameInit frame && p.clearSeen then failPort s port 7
      else
        let s := heard s port frame
        ackAtBound (if frameAcks frame then takeAck s port (frameAck frame) else s) port
    else s

/-- A frame that is not taken is counted and dropped (R88, R92, R94). -/
def execFrameDiscard (port : Nat) (frame : List Byte) (s : State) : Out :=
  guarded (portOk port) .noSuchUnit <|
    if hears s port && !frameOk (chainPort s port) frame then countPort s port 3 31 1 else s

/-! ## Sending (R96, R98-R100, R103-R106) -/

/-- A waiting frame may be sent: a READ_REQ needs a free tag. -/
def sendable (p : ChainPort) (x : ChainFrame) : Bool := x.type_ != 2 || p.reads.length < 1024

/-- The next new frame: by class, the oldest of its class first, but a C2 frame after 15 of higher classes (R100). -/
def nextFrame (p : ChainPort) : Option ChainFrame :=
  let w := p.waiting.filter (sendable p)
  let c (k : Nat) := w.find? (·.cls == k)
  if 15 ≤ p.overC2 ∧ (c 2).isSome then c 2 else (c 0).or ((c 1).or (c 2))

/-- The acknowledgement a sequenced frame carries: whenever acceptances are unacknowledged. -/
def carriedAck (p : ChainPort) (seq : BitVec 16) : Option (BitVec 16) := if p.unacked = 0 then none else some (ackValue p seq)

/-- One sequenced frame goes on the wire. -/
def sendFrame (s : State) (port : Nat) (x : ChainFrame) : State :=
  let p := chainPort s port
  modChainPort (transmit s port (frameBytes p x (carriedAck p x.seq) false)) port fun p =>
    { p with unacked := if ackValue p x.seq = p.expect then 0 else p.unacked }

/-- A new frame takes its SEQ, and a READ_REQ its tag. -/
def sendNew (s : State) (port : Nat) (x : ChainFrame) : State :=
  let p := chainPort s port
  let tag := if x.type_ = 2 then (firstFree p.reads 1024).getD 0 else x.tag
  let y := { x with seq := p.nextSeq, tag := tag }
  let s := modChainPort s port fun p =>
    { p with nextSeq := p.nextSeq + 1, window := p.window ++ [y], waiting := p.waiting.erase x,
             ackAt := if p.window.isEmpty then now s else p.ackAt,
             overC2 := if x.cls = 2 then 0 else p.overC2 + 1,
             reads := if x.type_ = 2 then
                 match x.copy with
                 | some id => put p.reads tag { copy := id, got := 0, length := x.length, dstKind := x.dstKind,
                                                dst := x.dst, sentAt := now s }
                 | none => p.reads
               else p.reads }
  let who := domainTag s x.domain
  sendFrame (countPort (countPort s port 0 who 1) port 6 who (y.payload.length / 32)) port y

/-- A port sends its next sequenced frame: a retransmission first, then a new one while the window has room. -/
def execChainFrameSend (port : Nat) (s : State) : Out :=
  guarded (portOk port) .noSuchUnit <|
    let p := chainPort s port
    if p.state ≠ .up ∨ !p.locked then s
    else match p.resend with
      | x :: rest =>
        sendFrame (countPort (modChainPort s port fun p => { p with resend := rest }) port 2 (domainTag s x.domain) 1) port x
      | [] =>
        if 256 ≤ p.window.length then s
        else match nextFrame p with
          | none => s
          | some x => sendNew s port x

def execChainAckDue (port : Nat) (s : State) : Out :=
  guarded (portOk port) .noSuchUnit <|
    let p := chainPort s port
    if p.state = .up ∧ 0 < p.unacked then sendAck s port 5 else s

def execChainRetransmit (port : Nat) (s : State) : Out :=
  guarded (portOk port) .noSuchUnit <|
    let p := chainPort s port
    if p.state = .up ∧ !p.window.isEmpty ∧ due s p.ackAt 50000 then retransmitAll s port else s

/-! ## Port state (R105, R106) -/

def execPcsLock (port : Nat) (s : State) : Out :=
  guarded (portOk port) .noSuchUnit <|
    if s.dev.state = .off then s
    else modChainPort s port fun p =>
      if p.state = .noLock then { p with locked := true, state := .probing, initRx := none, initTx := none }
      else { p with locked := true }

def execPcsLockLoss (port : Nat) (s : State) : Out :=
  guarded (portOk port) .noSuchUnit <|
    modChainPort s port fun p =>
      if !p.locked then p
      else { p with locked := false, lockLostAt := now s, state := if p.state = .probing then .noLock else p.state }

def execInitProbe (port : Nat) (s : State) : Out :=
  guarded (portOk port) .noSuchUnit <|
    let p := chainPort s port
    if p.state = .probing ∧ (∀ x, p.initTx = some x → due s x.2 10000) then
      modChainPort (sendProbe s port true) port fun p => { p with initTx := initSpell p.initTx (now s) }
    else s

/-- 100 us of both receiving and sending PROBEs with INIT. -/
def execChainPortUp (port : Nat) (s : State) : Out :=
  guarded (portOk port) .noSuchUnit <|
    let p := chainPort s port
    if p.state = .probing ∧ initDone p then becomeUp s port else s

def execIdleProbe (port : Nat) (s : State) : Out :=
  guarded (portOk port) .noSuchUnit <|
    let p := chainPort s port
    if p.state = .up ∧ due s p.txAt 100000 then sendProbe s port false else s

/-- Lock lost for more than 10 ms, 1 ms without a frame, or 16 idle rounds; the fourth condition is a PROBE's. -/
def execChainPortFail (port : Nat) (s : State) : Out :=
  guarded (portOk port) .noSuchUnit <|
    let p := chainPort s port
    if p.state ≠ .up then s
    else if !p.locked && due s p.lockLostAt 10000001 then failPort s port 4
    else if due s p.rxAt 1000000 then failPort s port 5
    else if 16 ≤ p.idleRounds then failPort s port 6
    else s

/-- A failed port tries again 1 s after its failure. -/
def execChainPortRetry (port : Nat) (s : State) : Out :=
  guarded (portOk port) .noSuchUnit <|
    let p := chainPort s port
    if p.state = .failed ∧ due s p.failedAt 1000000000 then
      modChainPort s port fun p => { p with state := if p.locked then .probing else .noLock, initRx := none, initTx := none }
    else s

/-- A read without an answer for 1 ms: its copy completes LINK_LOST (R103), at once, and its frames not yet sent are dropped (DESIGN
CHOICE, log entry 22). -/
def execChainReadTimeout (port tag : Nat) (s : State) : Out :=
  guarded (portOk port) .noSuchUnit <|
    match look (chainPort s port).reads tag with
    | none => s
    | some r =>
      if due s r.sentAt 1000000 then
        copyLost port (dropFrames (modChainPort s port fun p => { p with reads := del p.reads tag }) [r.copy]) r.copy
      else s

/-! ## Mailbox commands -/

/-- chain.port.config (R92, R148). -/
def execChainPortConfig (fn slot : Nat) (s : State) : Out :=
  mailRow fn slot 0x700 s fun t s =>
    let port := fld t.msg 0x10 1
    let on := fld t.msg 0x11 1
    let p := chainPort s port
    if 3 < port then arg s fn t 0
    else if 1 < on then arg s fn t 1
    else if !p.window.isEmpty || !p.reads.isEmpty then fail s fn t .eBusy
    else
      let s := portDown s port .disabled
      ok (modChainPort s port fun p =>
        { p with state := if on = 0 then .disabled else if p.locked then .probing else .noLock,
                 etherType := BitVec.ofNat 16 (fld t.msg 0x12 2), dst := BitVec.ofNat 48 (fld t.msg 0x14 6),
                 src := BitVec.ofNat 48 (fld t.msg 0x1A 6) }) fn t []

/-- Domains bound, or on their way. -/
def boundCount (s : State) : Nat :=
  s.chain.domains.length + (s.epoch.waiting.filter fun c => match c.action with | .bind _ _ _ => true | _ => false).length

def execChainDomainBind (fn slot : Nat) (s : State) : Out :=
  mailRow fn slot 0x701 s fun t s =>
    let dom := fld t.msg 0x10 2
    let port := fld t.msg 0x13 1
    if 3 < port then arg s fn t 3
    else if (look s.chain.domains dom).isSome then fail s fn t .eBusy
    else if 256 ≤ boundCount s then fail s fn t .eNospace
    else startChange s fn t (.bind dom (fld t.msg 0x12 1) port) []

/-- chain.domain.export; a domain that is not bound is E_STATE (DEDUCED, log entry 21). -/
def execChainDomainExport (fn slot : Nat) (s : State) : Out :=
  mailRow fn slot 0x702 s fun t s =>
    let dom := fld t.msg 0x10 2
    let i := fld t.msg 0x12 1
    let access := fld t.msg 0x13 1
    let rn := fld t.msg 0x14 2
    match look s.chain.domains dom with
    | none => fail s fn t .eState
    | some d =>
      let set (x : SMap (Nat × Bool × Bool)) : State :=
        modChain s fun c => { c with domains := put c.domains dom { d with exports := x } }
      if 63 < i then arg s fn t 2
      else if access = 0 then ok (set (del d.exports i)) fn t []
      else if (region? s d.tenant rn).isNone then arg s fn t 4
      else ok (set (put d.exports i (rn, access % 2 == 1, access / 2 == 1))) fn t []

def execChainDomainUnbind (fn slot : Nat) (s : State) : Out :=
  mailRow fn slot 0x703 s fun t s =>
    let dom := fld t.msg 0x10 2
    if (look s.chain.domains dom).isNone then fail s fn t .eState else ok (unbindDomain s dom) fn t []

end Sys2Proof.Machine
end

