-- ==== Sys2Proof/Machine/Dispatcher.lean ====
section
/-! DEFINITION. The dispatcher's rows: taking and checking each descriptor, claiming sites and tokens, waiting, turning
over, ending recipes and writing records (07 R153-R171, 09 R196, R207, R209, 11 R243, R249). -/

namespace Sys2Proof.Machine

/-! ## Checks (R158, R163) -/

/-- FLAGS [7:1] and the reserved bytes of header and body, given as (offset, length). -/
def reservedOk (b : List Byte) (rs : List (Nat × Nat)) : Bool :=
  fld b 1 1 ≤ 1 && zeros b 2 2 && rs.all fun r => zeros b r.1 r.2

/-- The first failing check of a list, with its status, DETAIL and site. -/
def firstFail : List (Bool × Status × Nat × Nat) → Option (Status × Nat × Nat)
  | [] => none
  | (ok, x) :: t => if ok then firstFail t else some x

/-- A check that names no site. -/
def must (ok : Bool) (st : Status) (det : Nat) : Bool × Status × Nat × Nat := (ok, st, det, 0xFFFF)

/-- End a dispatch at a failed check. -/
def refuseDisp (s : State) (id : Nat) (f : Status × Nat × Nat) : State :=
  endDisp s id [{ site := f.2.2, status := f.1, detail := f.2.1 }]

/-- Every site of the rectangle of a descriptor, in its order. -/
def allRect (b : List Byte) : List Nat := rectSites (fld b 8 1) (fld b 9 1) (fld b 0xA 1) (fld b 0xB 1)

/-- The non-skipped sites: DISABLED ones are left out. -/
def usedRect (s : State) (b : List Byte) : List Nat := (allRect b).filter fun x => (siteRec s x).state != .disabled

/-- Rows, package columns, and one site that is not DISABLED. -/
def rectOk (s : State) (b : List Byte) : Bool :=
  1 ≤ fld b 0xA 1 && 1 ≤ fld b 0xB 1 && fld b 8 1 + fld b 0xA 1 ≤ 10 && fld b 9 1 + fld b 0xB 1 ≤ 20 &&
    !(usedRect s b).isEmpty

/-- The lowest site of a list that a test passes, or 0xFFFF. -/
def lowestSite (l : List Nat) (p : Nat → Bool) : Nat := (l.filter p).foldl min 0xFFFF

/-- Every non-skipped site belongs to the tenant (R158). -/
def sitesOwned (s : State) (t : Nat) (b : List Byte) : Bool × Status × Nat × Nat :=
  let foreign (x : Nat) : Bool := ownerOf s x != some t
  (!(usedRect s b).any foreign, .prot, 1, lowestSite (usedRect s b) foreign)

/-- No site of the rectangle is RETIRED (R163). -/
def noneRetired (s : State) (b : List Byte) : Bool × Status × Nat × Nat :=
  (!(usedRect s b).any (siteRetired s), .hearthRetired, 0, lowestSite (usedRect s b) (siteRetired s))

/-- The tenant has the region that an address names. -/
def hasRegion (s : State) (t a : Nat) : Bool := (region? s t (regionOf a)).isSome

/-! ## RUN_RECIPE and its claim (R160, R196) -/

/-- CODE_REGION and CODE_OFFSET pass the span check of R160. -/
def codeOk (s : State) (t : Nat) (b : List Byte) : Bool :=
  match region? s t (fld b 0xC 2) with
  | none => false
  | some r => !r.hbm && decide (fld b 0x10 8 < r.share) && (usedRect s b).all fun x => (extentOn r x).isSome

def recipeChecks (s : State) (t : Nat) (b : List Byte) : List (Bool × Status × Nat × Nat) :=
  [must (reservedOk b [(0xE, 2), (0x30, 16)]) .aborted 1,
   must (rectOk s b && fld b 0x10 8 % 32 == 0) .aborted 3,
   sitesOwned s t b,
   must (region? s t (fld b 0xC 2)).isSome .prot 2,
   must (codeOk s t b) .prot 3,
   noneRetired s b]

/-! ## ANDIRON_BATCH (R161, R278, R283) -/

def batchChecks (s : State) (t : Nat) (b : List Byte) : List (Bool × Status × Nat × Nat) :=
  let a := fld b 0x10 8
  [must (reservedOk b [(0xE, 2), (0x18, 40)]) .aborted 1,
   must (rectOk s b && a % 32 == 0) .aborted 3,
   sitesOwned s t b,
   must ((look (tenant s t).models (fld b 0xC 2)).isSome && hasRegion s t a) .prot 2,
   must (spanIn s t a 96) .prot 3,
   noneRetired s b]

/-- A checked batch enters the Andiron queue of every site; a launch behind the fourth waits for an entry (R278, R332;
DEDUCED, log entry 36). -/
def launchBatch (s : State) (d : Disp) (bd : Batch) : State :=
  let sites := usedRect s d.desc
  let n := slotCount s sites
  let s' := modDisp s d.id fun d => { d with working := sites }
  (firstSlots s 0 sites).foldl (fun s x =>
    enqueueLaunch s x.1 (newLaunch s (some d.id) 0 d.tenant (fld d.desc 0xC 2) bd d.started n x.2 x.1)) s'

/-- A batch starts: its descriptor is read and checked (R283). -/
def startBatch (s : State) (d : Disp) : State :=
  let a := fld d.desc 0x10 8
  match readSpan s d.tenant a 96 6 with
  | (.bytes bd, s) =>
    match batchCheck s d.tenant a (lookD [] (tenant s d.tenant).models (fld d.desc 0xC 2)) bd (usedRect s d.desc) with
    | some f => endWith s d.id f.1 f.2
    | none => launchBatch s d bd
  | (.prot, s) => endWith s d.id .prot 3
  | (.bad _, s) => endWith s d.id .poisoned 0

/-! ## EMBER_RUN and its tokens (R161, R243, R249) -/

/-- Every ember that the run uses is usable (R45). -/
def embersUsable (s : State) (t : Nat) (b : List Byte) : Bool :=
  match region? s t (fld b 8 2) with
  | none => false
  | some r => (runSpans s t b).all fun sp => siteLive s sp.1 && (spanEmbers r sp.1 sp.2.1 sp.2.2).all (emberLive s sp.1)

def emberChecks (s : State) (t : Nat) (b : List Byte) : List (Bool × Status × Nat × Nat) :=
  let a := fld b 0x10 8
  let r := region? s t (fld b 8 2)
  [must (reservedOk b [(0xA, 6), (0x29, 7)]) .aborted 1,
   must (a % 32 == 0 && fld b 0x18 8 % 32 == 0 && fld b 0x20 8 % 32 == 0 && fld b 0x28 1 ≤ 7) .aborted 3,
   must (r.isSome && hasRegion s t a) .prot 2,
   must ((match r with | some g => decide (fld b 0x18 8 + fld b 0x20 8 ≤ g.size) | none => false) && spanIn s t a 32) .prot 3,
   must (match r with | some g => g.die | none => false) .aborted 6,
   must (embersUsable s t b) .aborted 5]

/-- A program read by its header: 32 bytes, then COUNT micro-operations of the reader `rd` (R244). -/
def readProg (rd : State → Nat → Nat → Span × State) (s : State) (a : Nat) : Span × State :=
  match rd s a 32 with
  | (.bytes h, s) =>
    match rd s (a + 32) (4 * min 32 (progCount h)) with
    | (.bytes ops, s) => (.bytes (h ++ ops), s)
    | x => x
  | x => x

/-- The queue entry of a checked run on one site. -/
def newEntry (h : Hearth) (disp : Option Nat) (item t rn : Nat) (sp : Nat × Nat × Nat) (prog params : List Byte)
    (table : Nat) (embers : List Nat) : EmberEntry :=
  { id := h.emberNext, disp := disp, item := item, tenant := t, region := rn, offset := sp.2.1, length := sp.2.2,
    planes := rn :: (List.range 7).map fun k => progPlane prog (k + 1), prog := progOps prog,
    params := (List.range 4).map fun k => BitVec.ofNat 32 (fld params (4 * k) 4),
    act := table, table := none, toStart := embers, toEnd := embers, reports := [] }

/-- An entry takes a token of its hearth (R243). -/
def enqueueEmber (s : State) (site : Nat) (en : EmberEntry) : State :=
  countAt (modHearth s site fun h => { h with emberNext := h.emberNext + 1, emberQ := h.emberQ ++ [en] }) 0x30E site 1

/-- A hearth has a free ember token. -/
def tokenFree (s : State) (site : Nat) : Bool := decide ((hearth s site).emberQ.length < 16)

/-- A checked EMBER_RUN holds a token on every hearth it uses; one that uses none ends. -/
def startRun (s : State) (d : Disp) (r : Region) (prog : List Byte) : State :=
  let spans := runSpans s d.tenant d.desc
  let s := modDisp s d.id fun d => { d with unclaimed := false, working := spans.map (·.1) }
  if spans.isEmpty then endWith s d.id .done 0
  else spans.foldl (fun s sp =>
    enqueueEmber s sp.1 (newEntry (hearth s sp.1) (some d.id) 0 d.tenant (fld d.desc 8 2) sp prog (slice d.desc 0x30 16)
      (fld d.desc 0x28 1) (spanEmbers r sp.1 sp.2.1 sp.2.2))) s

/-! ## COPY (R162, R382; 04 R100-R103) -/

def copyChecks (s : State) (t : Nat) (b : List Byte) : List (Bool × Status × Nat × Nat) :=
  let n := fld b 0x18 8
  let sk := fld b 0x20 1
  let dk := fld b 0x21 1
  let chain := sk == 2 || dk == 2
  let dom := fld b 0x24 2
  [must (reservedOk b [(0x23, 1), (0x28, 24)]) .aborted 1,
   must (n % 32 == 0 && 32 ≤ n && n ≤ 2 ^ 40 && sk ≤ 2 && dk ≤ 2 && !(sk == 2 && dk == 2) && 1 ≤ fld b 0x22 1 &&
     fld b 0x22 1 ≤ 2 && (chain || (dom == 0 && fld b 0x26 2 == 0))) .aborted 3,
   must ((sk != 1 || hasRegion s t (fld b 8 8)) && (dk != 1 || hasRegion s t (fld b 0x10 8)) &&
     (!chain || (match look s.chain.domains dom with | some d => d.tenant == t | none => true))) .prot 2,
   must (!chain || (look s.chain.domains dom).isSome) .prot 4,
   must ((sk != 1 || spanIn s t (fld b 8 8) n) && (dk != 1 || spanIn s t (fld b 0x10 8) n)) .prot 3]

/-- Read `n` bytes of a local side of a COPY. -/
def copyRead (s : State) (t kind a n : Nat) : Span × State :=
  if kind = 0 then (if hostReachable s t then hostRead s t a n else (.bad 6, s)) else readSpan s t a n 6

/-- Write bytes to a local side of a COPY; a status when it could not be written. -/
def copyWrite (s : State) (t kind a : Nat) (bs : List Byte) : Option Status × State :=
  if kind = 0 then (if hostReachable s t then (none, hostWrite s t a bs) else (some .busError, s))
  else match writeSpan s t a bs 6 with
    | (.ok, s) => (none, s)
    | (.prot, s) => (some .prot, s)
    | (.bad k, s) => (some (ueStatus k), s)

/-- Words of a local COPY moved in ascending order; the first failure ends it. -/
def copyWords (t sk src dk dst : Nat) : Nat → State → Option Status × State
  | 0, s => (none, s)
  | n + 1, s =>
    match copyRead s t sk src 32 with
    | (.bytes b, s) =>
      match copyWrite s t dk dst b with
      | (none, s) => copyWords t sk (src + 32) dk (dst + 32) n s
      | x => x
    | (.prot, s) => (some .prot, s)
    | (.bad k, s) => (some (ueStatus k), s)

/-- A copy ends with a status and the DETAIL of R166. -/
def endCopy (s : State) (id : Nat) (st : Option Status) : State :=
  endWith s id (st.getD .done) (if st = some .prot then 3 else 0)

/-- One frame of a chain copy: piece `i` of at most 4,096 bytes (R94, R102). A remote OFFSET that is not a multiple of 32 passes the
checks of R163, which name none for it, and goes out as it is (DESIGN CHOICE, log entry 22). -/
def copyFrame (id : Nat) (b data : List Byte) (i : Nat) : ChainFrame :=
  let n := min 4096 (fld b 0x18 8 - 4096 * i)
  let out := fld b 0x21 1 = 2
  { plainFrame (if out then 1 else 2) with
      cls := fld b 0x22 1, copy := some id, domain := fld b 0x24 2, region := fld b 0x26 2,
      offset := (fld b (if out then 0x10 else 8) 8 + 4096 * i) % 2 ^ 64, length := n, dstKind := fld b 0x21 1,
      dst := BitVec.ofNat 64 (fld b 0x10 8 + 4096 * i), payload := if out then slice data (4096 * i) n else [] }

/-- The frames of a chain copy wait at the domain's port; each read counts twice, once for its answer (R103). -/
def sendCopy (s : State) (id : Nat) (b data : List Byte) (port : Nat) : State :=
  let k := (fld b 0x18 8 + 4095) / 4096
  let fs := (List.range k).map (copyFrame id b data)
  modDisp (modChainPort s port fun p => { p with waiting := p.waiting ++ fs }) id fun d =>
    { d with frames := if fld b 0x21 1 = 2 then k else 2 * k }

/-- A chain copy: LINK_LOST at once through a port that is not UP (DEDUCED, log entry 22). -/
def chainCopy (s : State) (id t : Nat) (b : List Byte) : State :=
  match look s.chain.domains (fld b 0x24 2) with
  | none => endWith s id .prot 4
  | some d =>
    if (chainPort s d.port).state ≠ .up then endWith s id .linkLost d.port
    else if fld b 0x21 1 = 2 then
      match copyRead s t (fld b 0x20 1) (fld b 8 8) (fld b 0x18 8) with
      | (.bytes data, s) => sendCopy s id b data d.port
      | (.prot, s) => endWith s id .prot 3
      | (.bad k, s) => endWith s id (ueStatus k) 0
    else sendCopy s id b [] d.port

/-- A checked copy starts: through its chain port, or word by word. -/
def startCopy (s : State) (d : Disp) : State :=
  let b := d.desc
  if fld b 0x20 1 = 2 ∨ fld b 0x21 1 = 2 then chainCopy s d.id d.tenant b
  else
    let r := copyWords d.tenant (fld b 0x20 1) (fld b 8 8) (fld b 0x21 1) (fld b 0x10 8) (fld b 0x18 8 / 32) s
    endCopy r.2 d.id r.1

/-! ## FILL (R161, R237, R382) -/

def fillChecks (s : State) (t : Nat) (b : List Byte) : List (Bool × Status × Nat × Nat) :=
  let a := fld b 8 8
  [must (reservedOk b [(0x38, 8)]) .aborted 1,
   must (offsetOf a % 32 == 0 && fld b 0x10 8 % 32 == 0) .aborted 3,
   must (hasRegion s t a) .prot 2,
   must (spanIn s t a (fld b 0x10 8)) .prot 3]

/-- A checked fill. -/
def startFill (s : State) (d : Disp) : State :=
  let b := d.desc
  let r := fillSpan s d.tenant (regionOf (fld b 8 8)) (offsetOf (fld b 8 8)) (fld b 0x10 8) (bytesLine (slice b 0x18 32))
  endWith r.2 d.id (if r.1 then .done else .busError) 0

/-! ## Starting in ring order (R170) -/

/-- What a batch, a copy or a fill does when it starts; recipes and ember runs start by their claims. -/
def startWork (s : State) (d : Disp) : State :=
  if d.op = 2 then startBatch s d else if d.op = 4 then startCopy s d else if d.op = 5 then startFill s d else s

/-- A checked descriptor starts, or waits behind an earlier one of its queue that has not started. -/
def startOrWait (s : State) (id : Nat) : State :=
  match disp? s id with
  | none => s
  | some d => if behind s d then modDisp s id fun d => { d with unclaimed := true } else startWork s d

/-- Batches, copies and fills of a queue start that no longer wait behind an earlier descriptor. -/
def startWaiting (s : State) (t q : Nat) : State :=
  ((s.work.disps.filter fun d => d.unclaimed && d.tenant == t && d.queue == q && (d.op == 2 || d.op == 4 || d.op == 5)).map
    (·.id)).foldl (fun s id =>
      match disp? s id with
      | none => s
      | some d => if d.unclaimed && !behind s d then startWork (modDisp s id fun d => { d with unclaimed := false }) d else s) s

/-- Take a descriptor of RUN_RECIPE or EMBER_RUN, which waits for its claim, or refuse it. -/
def takeClaimed (tenant queue op : Nat) (checks : State → Nat → List Byte → List (Bool × Status × Nat × Nat)) (s : State) : Out :=
  guarded (queueOk tenant queue) .noSuchQueue <|
    takeDesc s tenant queue (fun b => fld b 0 1 == op) fun s id b =>
      match firstFail (checks s tenant b) with
      | some f => refuseDisp s id f
      | none => modDisp s id fun d => { d with unclaimed := true }

/-- Take a descriptor of ANDIRON_BATCH, COPY or FILL, and start it in its turn, or refuse it. -/
def takeStarted (tenant queue op : Nat) (checks : State → Nat → List Byte → List (Bool × Status × Nat × Nat)) (s : State) : Out :=
  guarded (queueOk tenant queue) .noSuchQueue <|
    takeDesc s tenant queue (fun b => fld b 0 1 == op) fun s id b =>
      match firstFail (checks s tenant b) with
      | some f => refuseDisp s id f
      | none => startOrWait s id

def execRunRecipe (tenant queue : Nat) (s : State) : Out := takeClaimed tenant queue 1 recipeChecks s
def execAndironBatch (tenant queue : Nat) (s : State) : Out := takeStarted tenant queue 2 batchChecks s
def execEmberRun (tenant queue : Nat) (s : State) : Out := takeClaimed tenant queue 3 emberChecks s
def execCopy (tenant queue : Nat) (s : State) : Out := takeStarted tenant queue 4 copyChecks s
def execFill (tenant queue : Nat) (s : State) : Out := takeStarted tenant queue 5 fillChecks s

/-! ## Claims (R196, R243) -/

/-- A sequencer at the start of a recipe (R160, R177, R195-R197, R209, R280). -/
def claimHearth (d : Disp) (row col : Nat) (h : Hearth) : Hearth :=
  let b := d.desc
  let g := [(1, row), (2, col), (3, fld b 0xA 1), (4, fld b 0xB 1), (5, fld b 0x18 8), (6, fld b 0x20 8), (7, fld b 0x28 8)]
  { h with regs := g.foldl (fun m r => putD 0 m r.1 (BitVec.ofNat 64 r.2)) [], preds := 0,
           pc := BitVec.ofNat 64 (fld b 0x10 8), tvec := 0, tpc := 0, tcause := 0, tval := 0, inTrap := false, sticky := 0,
           seq := .running, disp := some d.id, tenant := d.tenant, codeRegion := fld b 0xC 2, rect := allRect b,
           rectCols := fld b 0xB 1, completed := [], issued := [], arrival := [], ibuf := [], queues := [], waited := [], races := [],
           dmaHalted := [],
           fails := [], launchCount := 0 }

/-- A RUN_RECIPE that waits, its turn come, claims every site of its rectangle when all are free (R170, R196). -/
def execRecipeClaim (disp : Nat) (s : State) : Out :=
  .next <|
    match disp? s disp with
    | none => s
    | some d =>
      let sites := usedRect s d.desc
      if !(d.unclaimed && d.op == 1 && !behind s d && sites.all fun x => (hearth s x).disp.isNone) then s
      else
        let all := allRect d.desc
        let cols := fld d.desc 0xB 1
        let s := modDisp s disp fun d => { d with unclaimed := false, working := sites }
        let s := (List.range all.length).foldl (fun s i =>
          let x := all.getD i 0
          if sites.contains x then modHearth s x (claimHearth d (i / cols) (i % cols)) else s) s
        startWaiting s d.tenant d.queue

/-- A run that holds its tokens, or fails: its region deleted meanwhile (10 edge cases), a site that has retired, an ember that has left,
the checks of its program (R45, R49, R249). -/
def claimTokens (s : State) (d : Disp) : State :=
  let spans := runSpans s d.tenant d.desc
  let gone := (spans.map (·.1)).filter (siteRetired s)
  match region? s d.tenant (fld d.desc 8 2) with
  | none => endWith s d.id .prot 3
  | some r =>
    if !gone.isEmpty then endDisp s d.id [{ site := gone.foldl min 0xFFFF, status := .hearthRetired, detail := 0 }]
    else if !embersUsable s d.tenant d.desc then endWith s d.id .aborted 5
    else
      match readProg (fun s a n => readSpan s d.tenant a n 4) s (fld d.desc 0x10 8) with
      | (.bytes p, s) =>
        match emberProgCheck s d.tenant (fld d.desc 8 2) p spans (fld d.desc 0x18 8) (fld d.desc 0x20 8) with
        | some f => endWith s d.id f.1 f.2
        | none => startRun s d r p
      | (.prot, s) => endWith s d.id .prot 3
      | (.bad k, s) => endWith s d.id (ueStatus k) 0

/-- An EMBER_RUN that waits, its turn come, takes a token of every hearth it uses when all have one (R170, R243). -/
def execEmberTokenClaim (disp : Nat) (s : State) : Out :=
  .next <|
    match disp? s disp with
    | none => s
    | some d =>
      if d.unclaimed && d.op == 3 && !behind s d && (runSpans s d.tenant d.desc).all fun sp => tokenFree s sp.1 then
        startWaiting (claimTokens s d) d.tenant d.queue
      else s

/-! ## FENCE, SIGNAL, WAIT, TURNOVER (R170, R171) -/

def execFence (tenant queue : Nat) (s : State) : Out :=
  guarded (queueOk tenant queue) .noSuchQueue <|
    takeDesc s tenant queue (fun b => fld b 0 1 == 6) fun s id b =>
      match firstFail [must (reservedOk b [(9, 55)]) .aborted 1, must (fld b 8 1 ≤ 1) .aborted 3] with
      | some f => refuseDisp s id f
      | none => settleWork s

def execSignal (tenant queue : Nat) (s : State) : Out :=
  guarded (queueOk tenant queue) .noSuchQueue <|
    takeDesc s tenant queue (fun b => fld b 0 1 == 7) fun s id b =>
      match firstFail [must (reservedOk b [(0xA, 6), (0x18, 40)]) .aborted 1, must (fld b 9 1 ≤ 1) .aborted 3] with
      | some f => refuseDisp s id f
      | none => settleWork s

def execWait (tenant queue : Nat) (s : State) : Out :=
  guarded (queueOk tenant queue) .noSuchQueue <|
    takeDesc s tenant queue (fun b => fld b 0 1 == 8) fun s id b =>
      match firstFail [must (reservedOk b [(0xA, 6), (0x20, 32)]) .aborted 1, must (fld b 9 1 ≤ 1) .aborted 3] with
      | some f => refuseDisp s id f
      | none => wakeWaits s

def execTurnover (tenant queue : Nat) (s : State) : Out :=
  guarded (queueOk tenant queue) .noSuchQueue <|
    takeDesc s tenant queue (fun b => fld b 0 1 == 9) fun s id b =>
      match firstFail [must (reservedOk b [(9, 55)]) .aborted 1, must (fld b 8 1 ≤ 15) .aborted 3] with
      | some f => refuseDisp s id f
      | none => s

/-- A descriptor of no opcode (R163). -/
def execUndefinedDescriptorOpcode (tenant queue : Nat) (s : State) : Out :=
  guarded (queueOk tenant queue) .noSuchQueue <|
    takeDesc s tenant queue (fun b => fld b 0 1 == 0 || 9 < fld b 0 1) fun s id _ => endWith s id .aborted 2

/-- TIMEOUT_NS of a pending WAIT is reached (R170). -/
def execWaitTimeout (disp : Nat) (s : State) : Out :=
  .next <|
    match disp? s disp with
    | none => s
    | some d =>
      let t := fld d.desc 0x18 8
      if d.op == 8 && !d.ended && t != 0 && due s d.started t then endWith (countT s 0x818 d.tenant 1) disp .aborted 4 else s

/-- Every weight page of a site is invalidated (R183). -/
def staleWeights (h : Hearth) : Hearth := { h with weightPages := h.weightPages.map fun p => (p.1, { p.2 with valid := false }) }

/-- Every other dispatch of the tenant has completed: the TURNOVER invalidates, sets PHASE and writes its record (R171). -/
def execTurnoverDrained (disp : Nat) (s : State) : Out :=
  .next <|
    match disp? s disp with
    | none => s
    | some d =>
      if !(d.op == 9 && !d.ended && s.work.disps.all fun e => e.tenant != d.tenant || e.id == disp) then s
      else
        let s := (ownedBy s d.tenant).foldl (fun s x => modHearth s x staleWeights) s
        let s := modTenant s d.tenant fun x => { x with phase := fld d.desc 8 1 }
        let s := endWith (countT s 0x819 d.tenant 1) disp .done 0
        match disp? s disp with
        | some d => writeRecord s d
        | none => s

/-! ## Completion (R164-R170, R207) -/

/-- The record of a dispatch whose units have all ended is written; what waited for it goes on. -/
def execDispatchComplete (disp : Nat) (s : State) : Out :=
  .next <|
    match disp? s disp with
    | none => s
    | some d => if d.ended then settleWork (startWaiting (writeRecord s d) d.tenant d.queue) else s

/-- Every item of a site has completed. -/
def itemsDone (h : Hearth) : Bool := h.queues.all fun q => q.2.all (·.done)

/-- A site that executed END, with every item done, ends with the lowest-ranked of its failures (R207, R208). -/
def execRecipeSiteEnd (site : Nat) (s : State) : Out :=
  guarded (siteOk site) .noSuchSite <|
    let h := hearth s site
    if h.seq = .ending ∧ itemsDone h then
      let r := worstReport (h.fails.map fun f => { site := site, status := f.status, detail := f.detail })
      endSite s site r.status r.detail
    else s

/-! ## Instruction buffer (R209, R382) -/

/-- A sequencer executes: it holds a recipe, has not reached END, and its tenant is not halted (06 R142). -/
def executing (s : State) (site : Nat) : Bool :=
  let h := hearth s site
  h.seq == .running && h.disp.isSome && !(tenant s h.tenant).halted && siteLive s site

/-- The line of the buffer that holds the instruction at pc. -/
def lineAt (h : Hearth) : Option (List Byte) :=
  match look h.ibuf (h.pc.toNat / 256 % 128) with
  | some (o, bs) => if o = h.pc.toNat / 256 * 256 then some bs else none
  | none => none

/-- A miss fills the line of pc from the site's share of CODE_REGION. -/
def execIbufFill (site : Nat) (s : State) : Out :=
  guarded (siteOk site) .noSuchSite <|
    let h := hearth s site
    if !executing s site || (lineAt h).isSome then s
    else
      let o := h.pc.toNat / 256 * 256
      let share := match region? s h.tenant h.codeRegion with | some r => r.share | none => 0
      let s := countAt s 0x004 site 1
      if share ≤ h.pc.toNat then endSite s site .prot 3
      else match readShare s h.tenant site (2 ^ 48 * h.codeRegion + o) (min 256 (share - o)) 1 with
        | (.bytes b, s) => modHearth s site fun h => { h with ibuf := put h.ibuf (o / 256 % 128) (o, b) }
        | (.prot, s) => endSite s site .prot 3
        | (.bad _, s) => siteTrap s site 4 h.pc

end Sys2Proof.Machine
end

