-- ==== Sys2Proof/Machine/Issue.lean ====
section
/-! DEFINITION. What ISSUE checks of an item block and what issuing an item does (08 R175-R178, 09 R202-R208, 11 R249,
13 R283). -/

namespace Sys2Proof.Machine

/-! ## Layout checks (R202, R203, R206): the byte offset of the first faulty field -/

/-- The first failing check of a list, with the offset of its field. -/
def badField : List (Bool × Nat) → Option Nat
  | [] => none
  | (ok, off) :: t => if ok then badField t else some off

/-- A staging span aligned to `al` lies in staging. -/
def stagingOk (a n al : Nat) : Bool := a % al == 0 && a < Config.stagingBytes && decide (a + n ≤ Config.stagingBytes)

def badTile (b : List Byte) : Option Nat :=
  let t := tileOf b
  badField
    [(t.format ≤ 3, 0), (t.quad ≤ 4 && !(t.keep && t.fromPages), 1), (t.fp8 < 4, 2), (1 ≤ t.m && t.m ≤ 64, 3),
     (16 ≤ t.n && t.n ≤ 256, 4), (1 ≤ t.kg && t.k ≤ 65536, 6), (stagingOk t.a (t.m * t.rowBytes) 32, 8),
     (stagingOk t.c ((t.m - 1) * t.pitch + 4 * t.n) 32, 0xC), (t.fromPages || t.w % 32 == 0, 0x10),
     (!(t.keep || t.fromPages) || stagingOk t.page t.wBytes 4096, 0x18), (!t.status || stagingOk t.statusAddr 8 8, 0x1C)]

/-- Bytes of D of a vector item (R203, R205). -/
def vecOut (op fmt rows cols : Nat) : Nat :=
  if op = 0xB ∨ op = 0xC then 4 * rows
  else if op = 0xD then
    rows * (if fmt = 5 then up32 (17 * (cols / 32)) else if fmt = 0 then 4 * cols else if fmt = 1 then 2 * cols else cols)
  else 4 * (rows * cols)

def badVector (b : List Byte) : Option Nat :=
  let op := fld b 0 1
  let fmt := fld b 1 1
  let rows := fld b 4 2
  let cols := fld b 6 2
  let n := 4 * (rows * cols)
  let nb := if op = 9 then 544 else 4 * vecB op rows cols
  badField
    [(op ≤ 0xE, 0), (op != 0xD || fmt ≤ 5, 1), (zeros b 2 2, 2), (1 ≤ rows && rows ≤ 4096, 4),
     (1 ≤ cols && cols ≤ 4096 && !(op == 0xD && fmt == 5 && cols % 32 != 0), 6), (stagingOk (fld b 8 4) n 32, 8),
     (nb == 0 || stagingOk (fld b 0xC 4) nb 32, 0xC), (op != 5 || stagingOk (fld b 0x10 4) n 32, 0x10),
     (stagingOk (fld b 0x14 4) (vecOut op fmt rows cols) 32, 0x14)]

/-- The other site is a non-skipped site of the rectangle (R206). -/
def streamTarget (s : State) (site : Nat) (b : List Byte) : Bool :=
  match streamSite (hearth s site) (fld b 1 1) (fld b 2 1) with
  | some x => (siteRec s x).state != .disabled
  | none => false

def badStream (s : State) (site : Nat) (b : List Byte) : Option Nat :=
  let n := fld b 0xC 4
  let fits (a : Nat) : Bool := a % 32 == 0 && decide (a < Config.stagingBytes) &&
    (decide (Config.stagingBytes < n) || decide (a + n ≤ Config.stagingBytes))
  badField
    [(fld b 0 1 ≤ 1, 0), (streamTarget s site b, 1), (if fld b 0 1 = 0 then fld b 3 1 ≤ 15 else fld b 3 1 == 0, 3),
     (fits (fld b 4 4), 4), (fits (fld b 8 4), 8), (n % 32 == 0 && decide (n ≤ Config.stagingBytes), 0xC),
     (1 ≤ fld b 0x10 1 && fld b 0x10 1 ≤ 2, 0x10), (zeros b 0x11 15, 0x11)]

def badEmber (b : List Byte) : Option Nat :=
  badField
    [(fld b 2 1 ≤ 7, 2), (zeros b 3 1, 3), (fld b 4 4 % 32 == 0, 4), (fld b 8 8 % 32 == 0, 8), (fld b 0x10 8 % 32 == 0, 0x10),
     (stagingOk (fld b 0x18 4) 16 32, 0x18), (zeros b 0x1C 4, 0x1C)]

def badAndiron (b : List Byte) : Option Nat :=
  badField [(zeros b 2 6, 2), (fld b 8 8 % 32 == 0, 8), (zeros b 0x10 16, 0x10)]

def badDma (b : List Byte) : Option Nat :=
  let n := fld b 0x10 8
  let lenOk := n % 32 == 0 && 32 ≤ n && decide (n ≤ 2 ^ 32)
  let side (kind a : Nat) : Bool := kind != 0 || (if lenOk then stagingOk a n 32 else stagingOk a 0 32)
  badField
    [(side (fld b 0x18 1) (fld b 0 8), 0), (side (fld b 0x19 1) (fld b 8 8), 8), (lenOk, 0x10), (fld b 0x18 1 ≤ 1, 0x18),
     (fld b 0x19 1 ≤ 1, 0x19), (1 ≤ fld b 0x1A 1 && fld b 0x1A 1 ≤ 2, 0x1A), (zeros b 0x1B 5, 0x1B)]

/-- The queue numbers of R202. -/
def queueNumber (q : Nat) : Bool := q ≤ 4 || (8 ≤ q && q ≤ 15)

def badItem (s : State) (site q : Nat) (b : List Byte) : Option Nat :=
  if q = 0 then badTile b else if q = 1 then badVector b else if q = 2 then badStream s site b else if q = 3 then badEmber b
  else if q = 4 then badAndiron b else badDma b

/-! ## Ownership and spans (R202): PROT with its DETAIL -/

/-- A share span of a region of the tenant that lies on the site. -/
def shareSpan (s : State) (t site rn off n : Nat) : Option Nat :=
  match region? s t rn with
  | none => some 2
  | some r => if (extentOn r site).isSome && decide (off + n ≤ r.share) then none else some 3

/-- A region span of the tenant. -/
def regionSpan (s : State) (t a n : Nat) : Option Nat :=
  if !hasRegion s t a then some 2 else if spanIn s t a n then none else some 3

/-- Ownership failures come before span failures. -/
def bothSpans (a b : Option Nat) : Option Nat := if a = some 2 ∨ b = some 2 then some 2 else a.or b

def itemProt (s : State) (site q : Nat) (b : List Byte) : Option Nat :=
  let t := (hearth s site).tenant
  if q = 0 then
    let x := tileOf b
    if x.fromPages then none else shareSpan s t site (regionOf x.w) (offsetOf x.w) x.wBytes
  else if q = 3 then
    bothSpans (shareSpan s t site (fld b 0 2) (fld b 0x10 8) (fld b 4 4))
      (shareSpan s t site (regionOf (fld b 8 8)) (offsetOf (fld b 8 8)) 32)
  else if q = 4 then
    if (look (tenant s t).models (fld b 0 2)).isNone then some 2 else regionSpan s t (fld b 8 8) 96
  else if 8 ≤ q then
    bothSpans (if fld b 0x18 1 = 1 then regionSpan s t (fld b 0 8) (fld b 0x10 8) else none)
      (if fld b 0x19 1 = 1 then regionSpan s t (fld b 8 8) (fld b 0x10 8) else none)
  else none

/-- A unit that the item needs is absent from the site (R45, R192, R211): the value of TVAL, or none where it is free. -/
def itemAbsent (s : State) (site q : Nat) (b : List Byte) : Option (Option Word) :=
  if q = 0 then
    let x := (tileOf b).quad
    if (if x < 4 then quadLive s site x else (List.range 4).any (quadLive s site)) then none else some (some 1)
  else if q = 4 then (if (workingLanes s site).isEmpty then some none else none)
  else none

/-! ## Credits (R175, R176) -/

/-- Credits in use and credits of a queue: an item's credit returns when it is done; tokens and launches are shared with
EMBER_RUN and ANDIRON_BATCH (R208, R243). -/
def creditFree (h : Hearth) (q : Nat) : Bool :=
  let used := ((lookD [] h.queues q).filter fun i => !i.done).length
  if q = 3 then decide (h.emberQ.length < 16) else if q = 4 then decide (h.launches.length < 4)
  else if q = 2 then decide (used < 16) else if q < 2 then decide (used < 32) else decide (used < 8)

/-! ## What an item enters -/

/-- A failed item: its failure is recorded, and its counter advances (R208). -/
def failItem (s : State) (site q num : Nat) (st : Status) (det : Nat) : State :=
  itemDone (recordFail s site st det) site q num

/-- An ember item: its program is read and checked, and it takes a token (R243, R249). -/
def issueEmber (s : State) (site num : Nat) (b : List Byte) : State :=
  let t := (hearth s site).tenant
  let sp := (site, fld b 0x10 8, fld b 4 4)
  match region? s t (fld b 0 2) with
  | none => failItem s site 3 num .prot 2
  | some r =>
    let es := spanEmbers r site sp.2.1 sp.2.2
    match readProg (fun s a n => readShare s t site a n 4) s (fld b 8 8) with
    | (.prot, s) => failItem s site 3 num .prot 3
    | (.bad k, s) => failItem s site 3 num (ueStatus k) 0
    | (.bytes p, s) =>
      match emberProgCheck s t (fld b 0 2) p [sp] (fld b 0x10 8) (fld b 4 4) with
      | some f => failItem s site 3 num f.1 f.2
      | none =>
        if !es.all (emberLive s site) then failItem s site 3 num .aborted 5
        else match stRead s site (fld b 0x18 4) 16 (byItem 4 site 3 num) with
          | (none, s) => failItem s site 3 num .busError 0
          | (some ps, s) => enqueueEmber s site (newEntry (hearth s site) none num t (fld b 0 2) sp p ps (fld b 2 1) es)

/-- An Andiron item: its batch descriptor is read and checked, and its launch enters the queue (R278, R283, R295). -/
def issueAndiron (s : State) (site num : Nat) (b : List Byte) : State :=
  let t := (hearth s site).tenant
  let a := fld b 8 8
  match readSpan s t a 96 (byItem 5 site 4 num) with
  | (.prot, s) => failItem s site 4 num .prot 3
  | (.bad _, s) => failItem s site 4 num .poisoned 0
  | (.bytes bd, s) =>
    match batchCheck s t a (lookD [] (tenant s t).models (fld b 0 2)) bd [site] with
    | some f => failItem s site 4 num f.1 f.2
    | none => enqueueLaunch s site (newLaunch s none num t (fld b 0 2) bd (now s) (slotCount s [site]) 0 site)

/-- The item takes its number and its copy of the block (R202); it knows what its program has waited for (R178). -/
def queueItem (s : State) (site q num : Nat) (b : List Byte) : State :=
  modHearth s site fun h =>
    { h with issued := putD 0 h.issued q num,
             queues := putD [] h.queues q
               (lookD [] h.queues q ++ [{ num := num, block := b, started := false, done := false, quad := 0, waited := h.waited,
                                          before := h.issued }]) }

/-- Number of the next item of a queue. -/
def nextItem (h : Hearth) (q : Nat) : Nat := (lookD 0 h.issued q + 1) % 2 ^ 32

/-- An item is issued. -/
def issueItem (s : State) (site q : Nat) (b : List Byte) : State :=
  let num := nextItem (hearth s site) q
  let s := queueItem s site q num b
  if q = 3 then issueEmber s site num b else if q = 4 then issueAndiron s site num b else s

end Sys2Proof.Machine
end

