-- ==== Sys2Proof/Machine/AndironRows.lean ====
section
/-! DEFINITION. The Andiron rows: a launch starts, environments start, iterate and end, a launch ends (12 R260, 13
R278-R301). -/

namespace Sys2Proof.Machine

/-- The launch at the front of a site's Andiron queue. -/
def headLaunch (s : State) (site : Nat) : Option Launch := (hearth s site).launches.head?

/-- Its tenant is not halted: environments and launches may start (R301). -/
def launchFree (s : State) (l : Launch) : Bool := !(tenant s l.tenant).halted

/-- The model is fetched, the lane order fixed, and every environment has its lane (R260, R279, R280); a fetch that meets an
uncorrectable error is delivered and recorded (R382, R383). -/
def beginLaunch (s : State) (site : Nat) (l : Launch) : State :=
  let k := (hearth s site).launchCount % l.lanes.length
  let lanes := l.lanes.drop k ++ l.lanes.take k
  let bad := (tenant s l.tenant).modelBad.contains l.model
  let d := detail [(0, 8, 2 ^ 64 - 1), (8, 4, 2 ^ 32 - 1), (12, 2, 0xFFFF), (14, 1, 5)]
  let s := if bad then raiseAsh s 2 site l.tenant 5 d (adminAnd (some l.tenant)) [] else s
  modHearth s site fun h =>
    modLaunch { h with launchCount := h.launchCount + 1 } fun l =>
      { l with started := true, image := lookD [] (tenant s l.tenant).models l.model, fetchBad := bad, lanes := lanes,
               waiting := l.waiting.map fun e => (e.1, lanes.getD e.2 0) }

/-- The cluster starts its next launch, its model fetched from the flue die with a mesh request tag (R179, R260); with no lane left its environments end MEMORY_ERROR (R278, R281). -/
def execAndironLaunchStart (site : Nat) (s : State) : Out :=
  guarded (siteOk site) .noSuchSite <|
    match headLaunch s site with
    | none => s
    | some l =>
      if l.started || !siteLive s site || !launchFree s l || tagsFree (hearth s site) == 0 then s
      else endNoLane (countAt (countAt (beginLaunch s site l) 0x40B site 1) 0x401 site 1) site

/-- The next environment for a lane: one that restarts, else the first that waits for it or for a lane that is gone
(R279, R281); the flag is RERUN. -/
def nextEnv (s : State) (site lane : Nat) (l : Launch) : Option (Nat × Bool) :=
  match l.reruns with
  | i :: _ => some (i, true)
  | [] => (l.waiting.find? fun e => e.2 == lane || !laneLive s site e.2).map fun e => (e.1, false)

/-- An environment leaves the launch's lists and runs on a lane. -/
def placeEnv (s : State) (site lane : Nat) (e : EnvRun) : State :=
  modHearth s site fun h =>
    modLaunch { h with lanes := put h.lanes lane e } fun l =>
      if e.rerun then { l with reruns := l.reruns.filter (· != e.env) }
      else { l with waiting := l.waiting.filter fun w => w.1 != e.env }

/-- A lane fetches its input record; an uncorrectable word, or a model whose fetch met one, is MEMORY_ERROR (R260, R284, R300). -/
def fetchInput (s : State) (site : Nat) (l : Launch) (i : Nat) : Option (List Int) × State :=
  if l.fetchBad then (none, s) else
  match amid s site 4 l.item fun s =>
      readSpan s l.tenant (Batch.inBase l.desc + i * Batch.inStride l.desc) (inSize l.image) (laneReq site l) with
  | (.bytes b, s) => (some (recordWords b (inWords l.image)), s)
  | (_, s) => (none, s)

/-- Input words that the guards are compared with (R285): up to the first that fails. -/
def wordsChecked (l : Launch) (e : EnvRun) : Nat :=
  let gs := inputGuards l.image l.desc
  if e.stop = some 5 then 0
  else ((if e.stop = some 2 then gs.take (e.word + 1) else gs).filter (·.isSome)).length

/-- A free lane takes its next environment: fetch, guards, renormalisation, preparation (R285, R288, R294). -/
def execEnvironmentStart (site lane : Nat) (s : State) : Out :=
  guarded (inSite site lane 16) .noSuchSite <|
    match headLaunch s site with
    | none => s
    | some l =>
      if !l.started || !launchFree s l || !laneLive s site lane || (look (hearth s site).lanes lane).isSome then s
      else match nextEnv s site lane l with
        | none => s
        | some (i, rerun) =>
          if !tagFor s l.tenant site (Batch.inBase l.desc + i * Batch.inStride l.desc) (inSize l.image) then s else
          let r := fetchInput s site l i
          let e := envStart l i rerun r.1
          placeEnv (countAt r.2 0x40F site (wordsChecked l e)) site lane e

/-- A lane finishes an iteration and tests its stop conditions by its island's devtime (R291-R299). -/
def execAndironIteration (site lane : Nat) (s : State) : Out :=
  guarded (inSite site lane 16) .noSuchSite <|
    match headLaunch s site, look (hearth s site).lanes lane with
    | some l, some e =>
      if e.stop.isSome || !siteLive s site then s
      else countAt (modHearth s site fun h =>
        { h with lanes := put h.lanes lane (envIterate l e (islandTime s (14 * site + 3))) }) 0x409 site 1
    | _, _ => s

/-- A result record that leaves the hearth waits for a mesh request tag (R179). -/
def resultTag (s : State) (site : Nat) (l : Launch) (i : Nat) : Bool :=
  Batch.outStaging l.desc || tagFor s l.tenant site (Batch.outBase l.desc + i * Batch.outStride l.desc) (outSize l.image l.desc)

/-- A lane that has stopped writes its result record and is free (R286, R300). -/
def execEnvironmentEnd (site lane : Nat) (s : State) : Out :=
  guarded (inSite site lane 16) .noSuchSite <|
    match headLaunch s site, look (hearth s site).lanes lane with
    | some l, some e => if e.stop.isSome && siteLive s site && resultTag s site l e.env then finishEnv s site lane l e else s
    | _, _ => s

/-- The launch's item completes, a failure recorded (R208); a batch's site reports, and a failing one stops its siblings
(R166, R167). -/
def reportLaunch (s : State) (site : Nat) (l : Launch) : State :=
  let w := { worstReport l.reports with site := site }
  match l.disp with
  | some id =>
    let s := endUnit s id site w
    if w.status.stops then stopSiblings s id else s
  | none => itemDone (if w.status = .done then s else recordFail s site w.status w.detail) site 4 l.item

/-- Every environment of the running launch has its record: the launch leaves the queue (R176, R278). -/
def execLaunchComplete (site : Nat) (s : State) : Out :=
  guarded (siteOk site) .noSuchSite <|
    match headLaunch s site with
    | none => s
    | some l =>
      if l.started && l.left == 0 && (hearth s site).lanes.isEmpty then
        reportLaunch (modHearth s site fun h => { h with launches := h.launches.drop 1 }) site l
      else s

end Sys2Proof.Machine
end

