-- ==== Sys2Proof/Machine/Apertures.lean ====
section
/-! DEFINITION. Accesses to BAR2, the aperture onto a function's HBM regions (03 R74, 05 R124, 17 R382, R391). -/

namespace Sys2Proof.Machine

/-- The mapping that backs a whole access, and the region address it reaches. -/
def backing (s : State) (fn off len : Nat) : Option Nat :=
  if fn = 0 then none
  else ((tenant s fn).apertures.find? fun a => a.offset ≤ off && off + len ≤ a.offset + a.length).map fun a =>
    2 ^ 48 * a.region + a.regionOffset + (off - a.offset)

/-- An access that no region backs: a PROT record to the function's own ring. -/
def protRecord (s : State) (fn off : Nat) (write : Bool) : State :=
  raiseAsh (countT s 0xC04 fn 1) 0x40 0x403 fn 0 (detail [(0, 8, off), (8, 1, b2n write)]) [fn] []

def answerBar2 (s : State) (bytes : List Byte) (poisoned : Bool) : State :=
  modPcie s fun p => { p with bar2Data := bytes, bar2Poisoned := poisoned }

def allOnes (n : Nat) : List Byte := List.replicate n 0xFF#8

/-- An access reaches BAR2 of a function. -/
def inBar2 (s : State) (fn off len : Nat) : Bool := fnReachable s fn && decide (off + len ≤ (pcieFn s fn).bar2Size)

def execApertureRead (fn offset len : Nat) (s : State) : Out :=
  guarded (Instr.wellFormed (.apertureRead fn offset len)) .noSuchFunction <|
    if !inBar2 s fn offset len then s
    else if !live s then answerBar2 s (allOnes len) false
    else
      let s := countT s 0xC02 fn 1
      match backing s fn offset len with
      | none => answerBar2 (protRecord s fn offset false) (allOnes len) false
      | some a =>
        match readSpan s fn a len 8 with
        | (.bytes b, s) => answerBar2 s b false
        | (_, s) => answerBar2 (countU s 0xC07 1) (allOnes len) true

/-- A write; a part of a word whose old content is uncorrectable is discarded (R234). -/
def execApertureWrite (fn offset : Nat) (bytes : List Byte) (s : State) : Out :=
  guarded (Instr.wellFormed (.apertureWrite fn offset bytes)) .noSuchFunction <|
    if !inBar2 s fn offset bytes.length || !live s then s
    else
      let s := countT s 0xC03 fn 1
      match backing s fn offset bytes.length with
      | none => protRecord s fn offset true
      | some a => (writeSpan s fn a bytes 9).2

end Sys2Proof.Machine
end

