-- ==== Sys2Proof/Machine/AshRows.lean ====
section
/-! DEFINITION. The ash collector: arrival in its FIFO, the writing of records, LOST records (17 R387-R394, 15 R336,
03 R467). -/

namespace Sys2Proof.Machine

/-! ## Losses (R393) -/

/-- `n` events are lost for one ring: the event of an entry and those folded into it (R336). -/
def loseEvent (s : State) (fn ty n : Nat) : State :=
  let c := ashCategory ty
  let up (m : SMap Nat) : SMap Nat := put m c (min (lookD 0 m c + n) (2 ^ 32 - 1))
  modAshRing (countT s (0xD18 + c) fn n) fn fun r => { r with loss := true, lost := up r.lost, unreported := up r.unreported }

/-- The ring has room for one more record. -/
def AshRing.space (r : AshRing) : Bool := r.placed && (r.pi + 2 ^ 32 - r.ci) % 2 ^ 32 != r.entries

/-! ## One record (R389, R392) -/

/-- The 64 bytes of a record. -/
def ashBytes (seq : Nat) (e : AshEvent) : List Byte :=
  leBytes 4 seq ++ leBytes 1 1 ++ leBytes 1 (ashCategory e.type_) ++ leBytes 2 e.type_ ++ leBytes 8 e.at_ ++ leBytes 8 e.lastAt ++
    leBytes 4 e.repeats ++ leBytes 2 e.source ++ leBytes 1 e.tenant ++ leBytes 1 e.reason ++ e.detail

/-- Write a record to a ring with space: its place is PI mod ENTRIES; PI advances, and vector 1 follows IRQ_EN. The flag
says whether it could be written. -/
def postAsh (s : State) (fn : Nat) (e : AshEvent) (alert : Bool) : Bool × State :=
  let r := ashRing s fn
  match ringPost s fn r.hbm r.base (64 * (r.pi % r.entries)) (ashBytes r.pi e) with
  | (false, s) => (false, s)
  | (true, s) =>
    let s := modAshRing s fn fun r => { r with pi := (r.pi + 1) % 2 ^ 32 }
    (true, if alert && (ashRing s fn).irqEn then raiseVector s fn 1 else s)

/-- The LOST record of a ring (R391, R394). -/
def lostEvent (s : State) (fn : Nat) : AshEvent :=
  let r := ashRing s fn
  { type_ := 0xF0, source := 0x404, tenant := fn, reason := 0,
    detail := detail ((List.range 8).map fun c => (4 * c, 4, lookD 0 r.unreported c)),
    at_ := now s, lastAt := now s, repeats := 0, dests := [fn], alerts := [fn], sent := true }

/-- A ring with unreported losses and space receives its LOST record (R394). -/
def reportLost (s : State) (fn : Nat) : State :=
  let r := ashRing s fn
  if r.unreported.isEmpty || !r.space then s
  else match postAsh s fn (lostEvent s fn) true with
    | (true, s) => modAshRing s fn fun r => { r with unreported := [] }
    | (false, s) => s

def execLost (fn : Nat) (s : State) : Out :=
  guarded (fnOk fn) .noSuchFunction <| if s.ash.fifo.length < 64 then reportLost s fn else s

/-! ## Arrival and writing (R392, R393) -/

/-- A pending entry that an event folds into. -/
def AshEvent.folds (e x : AshEvent) : Bool := x.source == e.source && x.type_ == e.type_ && x.dests == e.dests

/-- Fold an event into the first pending entry that takes it. -/
def foldInto (e : AshEvent) : List AshEvent → List AshEvent
  | [] => []
  | x :: t => if e.folds x then { x with repeats := x.repeats + 1, lastAt := e.at_ } :: t else x :: foldInto e t

/-- The oldest event in flight reaches the collector: it counts as raised for each destination, and it enters the FIFO, folds, or is
lost (R336, whose terms the collector holds; log entry 43). -/
def execAshEventArrive (s : State) : Out :=
  .next <|
    match s.ash.flying with
    | [] => s
    | e :: rest =>
      let s := e.dests.foldl (fun s d => countT s (0xD00 + ashCategory e.type_) d 1) (modAsh s fun a => { a with flying := rest })
      if s.ash.fifo.length < 64 then modAsh s fun a => { a with fifo := a.fifo ++ [e] }
      else if s.ash.fifo.any e.folds then
        e.dests.foldl (fun s d => countT s (0xD10 + ashCategory e.type_) d 1) (modAsh s fun a => { a with fifo := foldInto e a.fifo })
      else e.dests.foldl (fun s d => loseEvent s d e.type_ 1) s

/-- An entry at one of its destinations: a LOST record first, then the record, or a loss (R392-R394). -/
def deliverAsh (s : State) (e : AshEvent) (fn : Nat) : State :=
  let s := reportLost s fn
  if !(ashRing s fn).space then loseEvent s fn e.type_ (1 + e.repeats)
  else match postAsh s fn e (e.alerts.contains fn) with
    | (true, s) => countT s (0xD08 + ashCategory e.type_) fn 1
    | (false, s) => loseEvent s fn e.type_ (1 + e.repeats)

/-- The collector takes the entry at the front of its FIFO. -/
def execAshRecordWrite (s : State) : Out :=
  .next <|
    match s.ash.fifo with
    | [] => s
    | e :: rest => e.dests.foldl (fun s d => deliverAsh s e d) (modAsh s fun a => { a with fifo := rest })

end Sys2Proof.Machine
end

