-- ==== Sys2Proof/Machine/Boot.lean ====
section
/-! DEFINITION. The Stoker's start: boot step 4 and TRAIN, its timeout, and the saved training record (05 R108-R125,
02 R29, R86, 18 R402-R417, 20 R440-R450). -/

namespace Sys2Proof.Machine

/-- The copy taken at start: the valid one, of two the newer, of equals A (R29). True: B. -/
def selectFlash (f : Fpt) : Option (Bool × FptTable) :=
  match f.flashA, f.flashB with
  | none, none => none
  | some a, none => some (false, a)
  | none, some b => some (true, b)
  | some a, some b => if a.generation < b.generation then some (true, b) else some (false, a)

/-- Two readings lie within 15 K, inclusive (R119). -/
def within15 (a b : Int) : Bool := (a - b).natAbs ≤ 1920

/-- Bytes 0x00 to 0x3B of a training record (R118). -/
def TrainRec.head (r : TrainRec) : List Byte :=
  leBytes 4 r.magic ++ leBytes 2 r.format ++ leBytes 2 64 ++ leBytes 8 r.sequence ++ leBytes 1 r.level ++ leBytes 1 r.major ++
    leBytes 1 r.minor ++ leBytes 1 r.patch ++ leBytes 2 r.tFb0.toNat ++ leBytes 2 r.tFb1.toNat ++ leBytes 2 r.tFlue.toNat ++
    leBytes 2 0 ++ leBytes 4 r.linkMapCrc.toNat ++ leBytes 4 r.bodySize ++ leBytes 4 0 ++ leBytes 8 r.savedAt ++ leBytes 12 0

/-- The CRC of a record: of bytes 0x00 to 0x3B followed by the body (R118). -/
def TrainRec.sum (r : TrainRec) : BitVec 32 := crc32c (r.head ++ r.body)

/-- The bytes of a record: the 64-byte header, then the body at 0x40 (R118). -/
def TrainRec.bytes (r : TrainRec) : List Byte := r.head ++ leBytes 4 r.crc.toNat ++ r.body

/-- MAGIC, FORMAT, BODY_SIZE and CRC are valid (R119). -/
def TrainRec.valid (r : TrainRec) : Bool :=
  r.magic == 0x314E5254 && r.format == 1 && r.bodySize ≤ 65472 && r.body.length == r.bodySize && r.crc == r.sum

/-- A record as it is written: SAVED_AT and the CRC over it (R118). -/
def TrainRec.stamp (r : TrainRec) (at_ : Nat) : TrainRec :=
  let r := { r with savedAt := at_ }
  { r with crc := r.sum }

/-- A saved record qualifies (R119). -/
def recordFits (s : State) (t : FptTable) (i : Image) (r : TrainRec) : Bool :=
  r.valid && r.level == i.level && r.major == i.major && r.minor == i.minor && r.patch == i.patch && r.linkMapCrc == t.linkCrc &&
    within15 (s16 r.tFb0) (hotFb s 0) && within15 (s16 r.tFb1) (hotFb s 1) && within15 (s16 r.tFlue) (hotFlue s) &&
    !s.ao.fullNext

/-- SEQUENCE of a valid copy, 0 of one that is not. -/
def seqOf (r : Option TrainRec) : Nat := match r with | some r => if r.valid then r.sequence else 0 | none => 0

/-- The record whose settings are reused: of the records that qualify the one with the higher SEQUENCE, none when none does
(R119). True: B. -/
def chosenRecord (s : State) (t : FptTable) (i : Image) : Option Bool :=
  let fits (r : Option TrainRec) : Bool := match r with | some r => recordFits s t i r | none => false
  if fits s.fpt.trainA then
    some (fits s.fpt.trainB && decide (seqOf s.fpt.trainA < seqOf s.fpt.trainB))
  else if fits s.fpt.trainB then some true else none

/-- The record to write after a start with full training (R118, R121). SAVED_AT and the CRC are those of its writing. -/
def newRecord (s : State) (i : Image) (t0 t1 tf : Int) (lanes : List (Nat × Nat × Nat)) : TrainRec :=
  let body := (Config.trainBody s.free).take 65472
  { magic := 0x314E5254, format := 1, bodySize := body.length, body := body, failedLanes := lanes, crc := 0, sequence := (max (seqOf s.fpt.trainA) (seqOf s.fpt.trainB) + 1) % 2 ^ 64, level := i.level, major := i.major,
    minor := i.minor, patch := i.patch, tFb0 := bv16 t0, tFb1 := bv16 t1, tFlue := bv16 tf,
    linkMapCrc := match s.fpt.table with | some t => t.linkCrc | none => 0, savedAt := 0 }

/-- Revocation bits of lower slots that the running image names (R440). -/
def revokeSlots (s : State) (i : Image) : State :=
  modSec s fun c => { c with revoked := c.revoked ||| (i.revoke &&& BitVec.ofNat 4 (2 ^ i.keySlot - 1)) }

/-- The self-tests and the lot-key check (R441, R442, R450). -/
def securityTests (s : State) (found : TrainFindings) : State :=
  modSec s fun c => { c with svcFail := found.svcFail, tested := true, zeroised := c.lotKeyBlown || !found.lotKeyOk,
                             drbgSeeded := found.svcFail &&& 0x18#5 == 0, drbgRequests := 0 }

/-- The changes that steps 6 to 11 found, one t0 for all (R116). -/
def foundChanges (s : State) (l : List FieldUnit) : State :=
  modFpt s fun f => { f with waiting := l.map fun u => { unit := u, selfTest := true, at_ := now s } }

/-- Publish every waiting change, in order (R113 step 12). -/
def publishAll : Nat → State → State
  | 0, s => s
  | n + 1, s => if s.fpt.waiting.isEmpty then s else publishAll n (publishNext s)

/-- The first routing tables and configuration generation 1 (R319, R458). -/
def firstRoutes (s : State) : State :=
  let g := match s.fpt.table with | some t => graphOf s t | none => .empty
  countU (modEpoch (modFabric s fun f => { f with graph0 := .empty, graph1 := g, bank1 := true })
    fun e => { e with generation := 1 }) 0x81F 1

/-- The newest entry of the thermal-cycle journal supplies the counts (R417). -/
def loadJournal (s : State) : State :=
  match newestEntry s.fpt.journal with
  | none => s
  | some e => modDraught s fun d =>
      { d with half10k := e.half10k, half30k := e.half30k, extSaved := some (s16 e.ext0, s16 e.ext1) }

/-- One firebox's tracker as the part leaves TRAIN (R415). -/
def startCycle (s : State) (fb : Nat) : State :=
  let t := hotLogic s fb
  let s := match s.draught.extSaved with
    | none => s
    | some e =>
      let d : Int := (((if fb = 0 then e.1 else e.2) - t).natAbs : Nat)
      if deg 10 ≤ d then countHalf s d else s
  setCycle s fb { ref := t, ext := t, up := true }

/-- 0.040 K/W in binary32 (R402). -/
def rEstStart : BitVec 32 := 0x3D23D70A#32

/-- What the draught controller starts with as the part leaves TRAIN (R402, R410, R411, R415); the cap loop sets L_th for
the first time at that moment (DESIGN CHOICE, log entry 12). -/
def startDraught (s : State) (power : Nat) : State :=
  capLoop (modDraught (startCycle (startCycle s 0) 1) fun d =>
    { d with rEst := rEstStart, ak := power, floor := power, measured := power })

/-- Step 13: the final state, with vector 2 (R113, R124). -/
def finalState (s : State) (power : Nat) : State :=
  match s.fpt.table with
  | none => s
  | some t =>
    let s := modDev s fun d => { d with step := 13 }
    if t.flue0.down && t.flue1.down then
      raiseVector (setDevState s .failed 3) 0 2
    else
      startDraught (raiseVector (setDevState s (if degradedBy t then .degraded else .ready) 0) 0 2) power

/-- Failed lanes of one link by group, ascending. -/
def lanesOf (l : Nat) (lanes : List (Nat × Nat × Nat)) : SMap (List Nat) :=
  (lanes.filter (·.1 == l)).foldl (fun m x => put m x.2.1 ((lookD [] m x.2.1).filter (· != x.2.2) ++ [x.2.2])) []

/-- The links as trained, with their records' states and the failed lanes that a reused record lists or full training finds (R113
steps 6 and 7, R341, R365). -/
def trainLinks (s : State) (t : FptTable) (lanes : List (Nat × Nat × Nat)) : State :=
  let up (l : Nat) (r : LinkRec) : Link :=
    { Link.reset with trained := true, state := if r.down then .down else .up, failedLanes := lanesOf l lanes }
  modFabric s fun f => { f with link0 := up 0 t.flue0, link1 := up 1 t.flue1, link2 := up 2 t.bridge, syncs := 0, syncAt := now s }

def recordCopy (f : Fpt) (b : Bool) : Option TrainRec := if b then f.trainB else f.trainA

/-- Steps 5 to 13, from the table selected (R113). -/
def train (s : State) (b : Bool) (t : FptTable) (i : Image) (found : TrainFindings) : State :=
  let s := modDev (setDevState s .train 0) fun d => { d with step := 4 }
  -- the table is the flash copy's, with PUBLISHED_AT 0 until a change is published (R33, R125)
  let t := { t with publishedAt := 0 }
  let s := modFpt s fun f => { f with table := some t, selectedB := b, published := false, waiting := [], trainDue := none }
  let s := loadJournal (modAo s fun a => { a with deadSensors := [] })
  let used := chosenRecord s t i
  let fast := used.isSome && !found.reuseFailed
  let t0 := hotFb s 0
  let t1 := hotFb s 1
  let tf := hotFlue s
  let s := modAo s fun a => { a with fullNext := false, deadSensors := found.deadSensors }
  let listed := match used with | some b => (recordCopy s.fpt b).map TrainRec.failedLanes | none => none
  let lanes := if fast then listed.getD found.lanesOut else found.lanesOut
  let s := securityTests (trainLinks s t lanes) found
  let s := publishAll (found.failing.length + 1) (foundChanges s found.failing)
  let s := firstRoutes s
  let s := modFpt s fun f => { f with published := true, trainUsed := used,
                                      trainDue := if fast then none else some (newRecord s i t0 t1 tf found.lanesOut) }
  finalState (modDev (if fast then s else bumpFree s) fun d => { d with fast := fast }) found.power

/-- The bound of boot step 4, from the entry into BOOT: longer with a single-mode firmware flash (R110, R111). -/
def bootBound (s : State) : Nat := if s.dev.fwQuad then 160000000 else 545000000

/-- The part enters FAILED with CAUSE BOOT_TIMEOUT (R108). -/
def failBoot (s : State) : State := raiseVector (setDevState s .failed 4) 0 2

/-- Boot step 4 and TRAIN; without a valid table copy the part is FAILED (R29, R110). A start after the bound of step 4 comes too
late (R8). -/
def execStokerStart (found : TrainFindings) (s : State) : Out :=
  guarded (Instr.wellFormed (.stokerStart found)) .noSuchUnit <|
    match s.dev.image with
    | none => s
    | some i =>
      if s.dev.state = .boot ∧ s.dev.bootAt + bootBound s < now s then failBoot s
      else if s.dev.state = .boot then
        let s := revokeSlots s i
        match selectFlash s.fpt with
        | none => raiseVector (setDevState s .failed 2) 0 2
        | some (b, t) => train s b t i found
      else s

/-- Step 4 misses its bound with an image running (R108, R110, R111). -/
def execBootTimeout (s : State) : Out :=
  .next <|
    if s.dev.state = .boot ∧ s.dev.image.isSome ∧ due s s.dev.bootAt (bootBound s) then failBoot s else s

/-- The copy that does not hold the higher SEQUENCE (R121). True: B. -/
def recordTarget (f : Fpt) : Bool := seqOf f.trainB < seqOf f.trainA

def setRecord (s : State) (b : Bool) (r : Option TrainRec) : State :=
  modFpt s fun f => if b then { f with trainB := r } else { f with trainA := r }

/-- The record of this start is written, to the other copy if the first write fails (R121). -/
def execTrainingRecordWrite (firstOk secondOk : Bool) (s : State) : Out :=
  .next <|
    match s.fpt.trainDue with
    | none => s
    | some r =>
      if !(live s || s.dev.state == .failed) then s
      else
        let r := some (r.stamp (now s))
        let b := recordTarget s.fpt
        let s := modFpt s fun f => { f with trainDue := none }
        if firstOk then setRecord s b r
        else
          let s := bumpFree (setRecord s b (failedCopy s (recordCopy s.fpt b)))
          if secondOk then setRecord s (!b) r
          else bumpFree (setRecord s (!b) (failedCopy s (recordCopy s.fpt !b)))

/-! ## The configuration flash, byte by byte (R86) -/

/-- An entry of the thermal-cycle journal as its 32 bytes (R417). -/
def JournalEntry.bytes (e : JournalEntry) : List Byte :=
  let b := leBytes 4 e.sequence ++ leBytes 4 e.half10k ++ leBytes 4 e.half30k ++ leBytes 2 e.ext0.toNat ++ leBytes 2 e.ext1.toNat ++
    leBytes 12 0
  b ++ leBytes 4 (crc32c b).toNat

/-- A byte of a flash area that holds `content`, erased above it; where the copy is not valid its bytes are not known. -/
def areaByte (base i : Nat) : Option (List Byte) → Byte
  | some l => l.getD i 0xFF#8
  | none => Config.factoryConfig (base + i)

/-- The byte at an offset of the configuration flash: the header, the two table copies with erased bytes above 0x1997, the two
training records, the journal, and the reserved area, which is erased (R86). -/
def configByte (f : Fpt) (a : Nat) : Byte :=
  if a < 0x1000 then Config.factoryConfig a
  else if a < 0x3000 then areaByte 0x1000 (a - 0x1000) (f.flashA.map FptTable.image)
  else if a < 0x5000 then areaByte 0x3000 (a - 0x3000) (f.flashB.map FptTable.image)
  else if a < 0x15000 then areaByte 0x5000 (a - 0x5000) (f.trainA.map TrainRec.bytes)
  else if a < 0x25000 then areaByte 0x15000 (a - 0x15000) (f.trainB.map TrainRec.bytes)
  else if a < 0x35000 then
    match look f.journal ((a - 0x25000) / 32) with
    | some e => e.bytes.getD (a % 32) 0xFF#8
    | none => 0xFF#8
  else 0xFF#8

end Sys2Proof.Machine
end

