-- ==== Sys2Proof/Machine/CmdTenants.lean ====
section
/-! DEFINITION. Mailbox commands for tenants and queues (06 R142, R144, R145, 07 R149-R151, R173, R174). -/

namespace Sys2Proof.Machine

/-! ## Tenants -/

def execTenantCreate (fn slot : Nat) (s : State) : Out :=
  mailRow fn slot 0x100 s fun t s =>
    let n := namedTenant fn t.msg
    if s.pcie.numVfs < n ∨ (tenant s n).alive then fail s fn t .eState
    else ok (setTenant s n { Tenant.reset with alive := true, poisonNotify := fld t.msg 0x11 1 % 2 == 1 }) fn t []

/-- An Epoch change runs: one inside a command waits for its end (R462). -/
def changing (s : State) : Bool := s.epoch.running.isSome

def execTenantDestroy (fn slot : Nat) (s : State) : Out :=
  mailRow fn slot 0x101 s fun t s =>
    if changing s then s else ok (destroyTenant s (namedTenant fn t.msg)) fn t []

/-- Index of the first listed site that a test refuses. -/
def badSite (msg : List Byte) (bad : Nat → Bool) : Option Nat := (siteList msg).findIdx? bad

/-- The site has an owner or waits to be assigned. -/
def siteTaken (s : State) (site : Nat) : Bool :=
  (ownerOf s site).isSome ||
    s.epoch.waiting.any fun c => match c.action with | .assign _ l => l.contains site | _ => false

def countPayload (msg : List Byte) : List Byte := leBytes 1 (fld msg 0x11 1)

def execTenantAssign (fn slot : Nat) (s : State) : Out :=
  mailRow fn slot 0x102 s fun t s =>
    match badSite t.msg fun i => !siteOk i || !siteLive s i with
    | some k => arg s fn t (4 + 2 * k)
    | none =>
      if (siteList t.msg).any (siteTaken s) then fail s fn t .eBusy
      else startChange s fn t (.assign (namedTenant fn t.msg) (siteList t.msg)) (countPayload t.msg)

def execTenantRelease (fn slot : Nat) (s : State) : Out :=
  mailRow fn slot 0x103 s fun t s =>
    let n := namedTenant fn t.msg
    match badSite t.msg fun i => ownerOf s i != some n with
    | some k => arg s fn t (4 + 2 * k)
    | none => if changing s then s else ok (sanitise s n (siteList t.msg)) fn t (countPayload t.msg)

def execTenantReset (fn slot : Nat) (s : State) : Out :=
  mailRow fn slot 0x104 s fun t s => ok (tenantReset s (namedTenant fn t.msg) false) fn t []

def execTenantHalt (fn slot : Nat) (s : State) : Out :=
  mailRow fn slot 0x105 s fun t s =>
    ok (modTenant s (namedTenant fn t.msg) fun x => { x with halted := true }) fn t []

def execTenantResume (fn slot : Nat) (s : State) : Out :=
  mailRow fn slot 0x106 s fun t s =>
    let n := namedTenant fn t.msg
    if (tenant s n).halted then ok (modTenant s n fun x => { x with halted := false }) fn t [] else fail s fn t .eState

def execTenantNotify (fn slot : Nat) (s : State) : Out :=
  mailRow fn slot 0x107 s fun t s =>
    ok (modTenant s (namedTenant fn t.msg) fun x => { x with poisonNotify := fld t.msg 0x11 1 % 2 == 1 }) fn t []

/-! ## Queues -/

/-- A power of 2 within bounds. -/
def powerIn (lo hi v : Nat) : Bool := lo ≤ v && v ≤ hi && (List.range 17).any fun k => v == 2 ^ k

/-- A ring base: E_ARG when it is misaligned or names a slice region (R144). -/
def badBase (s : State) (t : Nat) (hbm : Bool) (base : Nat) : Bool :=
  if hbm then
    offsetOf base % 4096 != 0 || (match region? s t (regionOf base) with | some r => !r.hbm | none => false)
  else base % 4096 != 0

/-- The ring leaves its region (R144). -/
def ringOutside (s : State) (t : Nat) (hbm : Bool) (base size : Nat) : Bool := hbm && !spanIn s t base size

def execQueueCreate (fn slot : Nat) (s : State) : Out :=
  mailRow fn slot 0x200 s fun t s =>
    let n := namedTenant fn t.msg
    let q := fld t.msg 0x11 1
    let sq := fld t.msg 0x12 2
    let cq := fld t.msg 0x14 2
    let f := fld t.msg 0x16 1
    let sqHbm := f % 2 == 1
    let cqHbm := f / 2 % 2 == 1
    let sqb := fld t.msg 0x18 8
    let cqb := fld t.msg 0x20 8
    if 63 < q then arg s fn t 1
    else if !powerIn 16 4096 sq then arg s fn t 2
    else if !powerIn 16 4096 cq then arg s fn t 4
    else if badBase s n sqHbm sqb then arg s fn t 8
    else if badBase s n cqHbm cqb then arg s fn t 0x10
    else if (queue s n q).state ≠ .absent then fail s fn t .eBusy
    else if ringOutside s n sqHbm sqb (64 * sq) || ringOutside s n cqHbm cqb (32 * cq) then fail s fn t .eProt
    else ok (setQueue s n q { Queue.reset with state := .active, sqEntries := sq, cqEntries := cq, sqHbm := sqHbm,
                                               cqHbm := cqHbm, irq := f / 4 % 2 == 1, sqBase := BitVec.ofNat 64 sqb,
                                               cqBase := BitVec.ofNat 64 cqb, inflight := (queue s n q).inflight }) fn t []

/-- queue.destroy begins: the queue drains, its untaken descriptors go, and its WAITs end (R145, 07 edge cases). -/
def drainQueue (s : State) (n q : Nat) : State :=
  let s := modQueue s n q fun u => { u with state := .draining, sqHead := u.sqTail }
  (s.work.disps.filter fun d => d.tenant == n && d.queue == q && d.op == 8 && !d.ended).foldl
    (fun s d => endWith s d.id .aborted 8) s

/-- The drain goes on: the queue is deleted once nothing of it is in flight; after 1 s the command gives up. -/
def finishDrain (s : State) (fn : Nat) (t : Taken) (n q : Nat) : State :=
  if !(tenant s n).alive then fail s fn t .eState
  else if reserved s n q = 0 then ok (setQueue s n q { Queue.reset with inflight := (queue s n q).inflight }) fn t []
  else if due s t.startedAt 1000000000 then fail s fn t .eTimeout
  else s

/-- A queue.destroy that drains. -/
def draining? (s : State) (fn slot : Nat) : Option Taken :=
  (mbx s fn).taken.find? fun t => t.slot == slot && fld t.msg 0 2 == 0x201 && t.started

def execQueueDestroy (fn slot : Nat) (s : State) : Out :=
  if !fnOk fn then .fault .noSuchFunction
  else match draining? s fn slot with
    | some t => .next (finishDrain s fn t (namedTenant fn t.msg) (fld t.msg 0x11 1))
    | none =>
      mailRow fn slot 0x201 s fun t s =>
        let n := namedTenant fn t.msg
        let q := fld t.msg 0x11 1
        if 63 < q then arg s fn t 1
        else if (queue s n q).state = .absent then fail s fn t .eState
        else
          let s := drainQueue (begin_ s fn t) n q
          finishDrain s fn { t with startedAt := now s } n q

end Sys2Proof.Machine
end

