-- ==== Sys2Proof/Machine/Power.lean ====
section
/-! DEFINITION. Power, pins, sensors and the tray bus: VAUX_UP to HARDWARE_TRIP, TRAY_READ, TRAY_SENSOR_LOST,
VAUX_LOSS (03 R57-R67, R80-R83, 05 R108-R112, 18 R395-R399, R418). -/

namespace Sys2Proof.Machine

/-! ## Firmware images (R85, R438, R439) -/

/-- A byte of the firmware flash. -/
def fwByte (d : Dev) (a : Nat) : Byte :=
  match look d.fwFlash a with
  | some b => b
  | none => if d.fwErased.contains (a / 4096) then 0xFF#8 else Config.factoryFirmware a

def fwBytes (d : Dev) (a n : Nat) : List Byte := (List.range n).map fun i => fwByte d (a + i)

/-- Offset of a slot (R85). -/
def slotBase (b : Bool) : Nat := if b then 0x790000 else 0x10000

/-- Verify the image in a slot (R439): the image, if every check passes. -/
def verifyImage (s : State) (slotB : Bool) : Option Image :=
  let base := slotBase slotB
  let h := fwBytes s.dev base 256
  let size := fld h 8 4
  let key := fld h 6 1
  let big (o : Nat) : BitVec 384 := BitVec.ofNat 384 (fld h o 48)
  if !(fld h 0 4 == 0x31574D46 && fld h 4 2 == 1 && key < 4 && fld h 7 1 < 16 && zeros h 0xD0 48 && 256 ≤ size &&
      size ≤ 1536 * 1024) then none
  else if s.sec.revoked.getLsbD key then none
  else if Config.sha384 (slice h 0x10 0x60) ≠ Config.slotHash key then none
  else
    let m := Config.sha384 (h.take 0x70 ++ fwBytes s.dev (base + 0x100) (size - 0x100))
    if Config.ecdsaVerify (big 0x10) (big 0x40) (big 0x70) (big 0xA0) m then
      some { level := fld h 0xC 1, major := fld h 0xD 1, minor := fld h 0xE 1, patch := fld h 0xF 1, keySlot := key,
             revoke := BitVec.ofNat 4 (fld h 7 1), measurement := m }
    else none

/-! ## Entry into BOOT (R61 step 5, R110 steps 1 to 3, R112) -/

/-- The conditions of OFF to BOOT: PWR_GOOD and PKG_RESET_N both high (R108). -/
def bootReady (s : State) : Bool :=
  s.ao.vauxOk && s.dev.state == .off && s.ao.pwrGood && s.ao.pkgResetN && s.ao.pwrEn && !s.ao.tripLatched

/-- Boot steps 1 to 3: the boot ROM verifies the preferred slot, then the other; no slot gives FAILED NO_FIRMWARE. -/
def enterBoot (s : State) (katOk : Bool) : State :=
  if !bootReady s then s
  else
    let s := modAo (modPcie (setDevState s .boot 0) fun p => { p with linkUp := !p.perst }) fun a =>
      { a with seeking := false, retrying := false }
    let s := modAsh (modDev s fun d => { d with bootAt := now s, step := 2, image := none }) fun a => { a with leakBase := now s }
    let p := s.dev.preferB
    match (if katOk then verifyImage s p else none) with
    | some i => modDev s fun d => { d with image := some i, slotB := p, step := 3 }
    | none =>
      match (if katOk then verifyImage s !p else none) with
      | some i => modDev s fun d => { d with image := some i, slotB := !p, step := 3 }
      | none => raiseVector (setDevState s .failed 1) 0 2

/-! ## Pins -/

/-- VAUX enters tolerance (R61 step 1, R109); pins other parts drive keep their levels. -/
def execVauxUp (strap : Nat) (s : State) : Out :=
  guarded (Instr.wellFormed (.vauxUp strap)) .noSuchUnit <|
    if s.ao.vauxOk then s
    else { s with ao := { Ao.reset with vauxOk := true, addrStrap := BitVec.ofNat 3 strap, pwrGood := s.ao.pwrGood,
                                        pkgResetN := s.ao.pkgResetN, coolOk := s.ao.coolOk, seeking := true } }

/-- VAUX leaves tolerance: everything the part holds outside flash and OTP is lost (R58, R109, R143). -/
def execVauxLoss (s : State) : Out :=
  .next <|
    if s.ao.vauxOk then
      let o := enterOff s
      { o with ao := { Ao.reset with pwrGood := s.ao.pwrGood, pkgResetN := s.ao.pkgResetN, coolOk := s.ao.coolOk } }
    else s

/-- Step 2 of R61: PWR_EN goes high once its conditions hold, t0 + 50 ms being the latest time when they do; when they do
not hold by then, step 2 waits and retries. -/
def execDrivePwrEn (s : State) : Out :=
  .next <|
    if !(s.ao.vauxOk && s.ao.seeking && !s.ao.tripLatched) then s
    else if 3 ≤ s.ao.goodTrayReads ∧ s.ao.coolOk then
      modAo s fun a => { a with pwrEn := true, pwrEnRoseAt := a.devtime, seeking := false }
    else if due s s.ao.seekAt 50000000 then modAo s fun a => { a with retrying := true } else s

/-- This power-up is abandoned: PWR_EN goes low, and step 2 is retried after 1 s (R62). -/
def abandonPowerUp (s : State) : State := modAo (dropPwrEn s) fun a => { a with retrying := true }

/-- PWR_GOOD was not high by 65 ms after PWR_EN rose (R8, R62). -/
def pwrGoodLate (s : State) : Bool :=
  s.ao.vauxOk && s.ao.pwrEn && !s.ao.pwrGood && decide (s.ao.pwrEnRoseAt + 65000000 < now s)

/-- PWR_GOOD rises; with PKG_RESET_N high the part enters BOOT (R61 steps 4 and 5). A rise after the bound of R62 comes too
late: PWR_EN is low by then (R8). -/
def execPwrGoodRise (katOk : Bool) (s : State) : Out :=
  .next <|
    let s' := if pwrGoodLate s then abandonPowerUp s else s
    enterBoot (alertOn s' (modAo s' fun a => { a with pwrGood := true })) katOk

/-- 65 ms without PWR_GOOD (R62). -/
def execPwrGoodTimeout (s : State) : Out :=
  .next <|
    if s.ao.vauxOk && s.ao.pwrEn && !s.ao.pwrGood && due s s.ao.pwrEnRoseAt 65000000 then abandonPowerUp s else s

/-- PWR_GOOD falls: with PWR_EN high the part enters OFF at once and drives PWR_EN low (R63). -/
def execPwrGoodFall (s : State) : Out :=
  .next <|
    let s' := alertOn s (modAo s fun a => { a with pwrGood := false })
    if s.ao.vauxOk && s.ao.pwrEn then enterOff (dropPwrEn s') else s'

/-- The full reset of R65: everything except the AO domain, and the part enters OFF with PWR_EN held. A power-up that has not
driven PWR_EN high yet is given up; it reruns under R66. -/
def packageReset (s : State) : State :=
  if s.ao.vauxOk then enterOff (modAo s fun a => { a with seeking := false }) else s

/-- PKG_RESET_N has been low for 1 ms within the command: a latched trip is cleared if no trip condition holds (R64). -/
def resetFor1ms (s : State) : State :=
  let s := packageReset s
  if s.ao.vauxOk && tripCauses s == 0 then clearTrip s else s

/-- PKG_RESET_N is held low for `lowNs`, at 1 ms or more until its release; shorter pulses end by themselves (R65). -/
def execPkgResetAssert (lowNs : Nat) (katOk : Bool) (s : State) : Out :=
  .next <|
    if lowNs < 1000 then s
    else if lowNs < 1000000 then
      if Config.freeBool s.free then enterBoot (packageReset (bumpFree s)) katOk else bumpFree s
    else trackTrip (resetFor1ms (modAo s fun a => { a with pkgResetN := false }))

/-- PKG_RESET_N rises: a trip whose conditions have been gone for 1 ms of the low level is cleared, and with the main rails good
the part enters BOOT (R64, R65, R66). -/
def execPkgResetRelease (katOk : Bool) (s : State) : Out :=
  .next <|
    if s.ao.pkgResetN then s
    else enterBoot (modAo (settleTrip s) fun a => { a with pkgResetN := true, tripQuietAt := none }) katOk

/-- Steps 2 to 5 of R61 run again (R66). The three consecutive tray readings are counted anew from the rerun's t0
(DESIGN CHOICE, log entry 37). -/
def execPowerUpRerun (s : State) : Out :=
  .next <|
    let waited := match s.ao.pwrEnFellAt with | none => true | some t => due s t 1000000000
    if s.ao.vauxOk && s.dev.state == .off && !s.ao.pwrEn && s.ao.pkgResetN && !s.ao.tripLatched && waited &&
        !s.ao.seeking then
      modAo s fun a => { a with seeking := true, seekAt := a.devtime, retrying := true, goodTrayReads := 0 }
    else s

/-- A change on COOL_OK; after power-up step 2 it is an event of the draught controller (R67, R398, R421). -/
def execCoolOkChange (level : Bool) (s : State) : Out :=
  .next <|
    if s.ao.coolOk = level then s
    else
      let s := alertOn s (modAo s fun a => { a with coolOk := level })
      if live s then draughtRecord s (if level then 7 else 6) (!level) 0xFFFF 0 else s

/-! ## Sensors and the trip (R395, R418) -/

/-- The AO domain samples every sensor; sensors not listed read as they did. -/
def execSensorSample (readings : List Reading) (s : State) : Out :=
  guarded (Instr.wellFormed (.sensorSample readings)) .noSuchUnit <|
    if s.ao.vauxOk then
      let s := modAo s fun a =>
        { a with sensorsBefore := a.sensors, sensors := readings.foldl (fun m r => putD 0 m r.sensor r.value) a.sensors }
      trackLayers (settleTrip s) (readings.map (·.sensor))
    else s

/-- The comparator fires when a condition of R418 holds. -/
def execHardwareTrip (s : State) : Out :=
  .next <| if s.ao.vauxOk && !s.ao.tripLatched && tripCauses s != 0 then fireTrip s (tripCauses s) else s

/-! ## Tray bus (R80-R83, R398, R399) -/

/-- A valid read: length, MODULE_ID, FORMAT, CRC and VALID bits (R81, R83). R83 does not say which VALID bits are needed: all
three are, outlet included (DESIGN CHOICE, log entry 37). -/
def trayValid (b : List Byte) : Bool :=
  b.length == 14 && fld b 0 1 == 0x5A && fld b 1 1 == 1 && fld b 0xD 1 == (crc8 (b.take 13)).toNat && fld b 2 1 % 8 == 7

/-- A coolant condition begins or ends (R398, R421). -/
def coolantChange (s : State) (event : Nat) (was is : Bool) : State :=
  if was = is then s else draughtRecord s event is 0xFFFF 0

/-- Inlet and flow ranges, and the return of the tray sensor, as the draught controller sees a valid read. -/
def trayConditions (s : State) : State :=
  if !live s then s
  else
    let out := decide (s16 s.ao.inlet < deg 15) || decide (deg 40 < s16 s.ao.inlet)
    let low := decide (s.ao.flow.toNat < 1500)
    let s := coolantChange (modDraught s fun d => { d with inletOut := out }) 3 s.draught.inletOut out
    coolantChange (modDraught s fun d => { d with flowLow := low }) 4 s.draught.flowLow low

/-- A read that is discarded counts as one of low flow (R83). -/
def discardTray (s : State) : State :=
  settleTrip (countU (modAo s fun a => { a with goodTrayReads := 0, lowFlowReads := a.lowFlowReads + 1 }) 0xE07 1)

/-- A read of the tray sensor module; none is a NACK. -/
def execTrayRead (bytes : Option (List Byte)) (s : State) : Out :=
  .next <|
    if !s.ao.vauxOk then s
    else
      match bytes with
      | some b =>
        if trayValid b then
          let t := now s
          let seq := b.getD 3 0
          let same := s.ao.traySeq == some seq
          let stale := same && due s s.ao.traySeqAt 100000000
          let flow := fld b 8 2
          let inlet := BitVec.ofNat 16 (fld b 4 2)
          let fit := 1500 ≤ flow && decide (deg 15 ≤ s16 inlet) && decide (s16 inlet ≤ deg 40)
          let s := settleTrip (countU (modAo s fun a =>
            { a with inlet := inlet, outlet := BitVec.ofNat 16 (fld b 6 2), flow := BitVec.ofNat 16 flow, traySeq := some seq,
                     traySeqAt := if same then a.traySeqAt else t, trayValidAt := t,
                     goodTrayReads := if fit then a.goodTrayReads + 1 else 0,
                     lowFlowReads := if stale || decide (flow < 800) then a.lowFlowReads + 1 else 0 }) 0xE06 1)
          let s := if s.draught.trayLost && !stale then
              draughtRecord (modDraught s fun d => { d with trayLost := false }) 2 false 0xFFFF 0 else s
          trayConditions s
        else discardTray s
      | none => discardTray s

/-- No valid read for 200 ms, or SEQ unchanged for 100 ms: L_th becomes 900 W and R_est is held (R83, R399). -/
def execTraySensorLost (s : State) : Out :=
  .next <|
    if live s && !s.draught.trayLost && (due s s.ao.trayValidAt 200000000 || due s s.ao.traySeqAt 100000000) then
      setLimit (draughtRecord (modDraught s fun d => { d with trayLost := true }) 1 true 0xFFFF 0) 900
    else s

end Sys2Proof.Machine
end

