-- ==== Sys2Proof/Machine/CmdDraught.lean ====
section
/-! DEFINITION. Mailbox commands of the draught controller and of the security module (06 R142, R147, 18 R402-R413, R418,
20 R444-R453). -/

namespace Sys2Proof.Machine

/-! ## draught.cap.set, draught.ramp.set, draught.status -/

def execDraughtCapSet (fn slot : Nat) (s : State) : Out :=
  mailRow fn slot 0x600 s fun t s =>
    let cap := fld t.msg 0x10 2
    let margin := fld t.msg 0x12 2
    if cap < 900 ∨ 2200 < cap then arg s fn t 0
    else if 2560 < margin then arg s fn t 2
    else ok (applyCaps (modDraught s fun d => { d with mailboxCap := cap, margin := margin })) fn t []

def execDraughtRampSet (fn slot : Nat) (s : State) : Out :=
  mailRow fn slot 0x601 s fun t s =>
    let r := fld t.msg 0x10 2
    let b := fld t.msg 0x12 1
    if r < 150 ∨ 2000 < r then arg s fn t 0
    else if 1 < b then arg s fn t 2
    else ok (modDraught s fun d => { d with ramp := r, banking := b == 1 }) fn t []

def draughtPayload (s : State) : List Byte :=
  leBytes 2 s.draught.cap ++ leBytes 2 s.draught.powerAvg ++ leBytes 4 (rEstReg s.draught.rEst) ++ leBytes 8 (bankingJ s) ++
    tempsBytes s ++ leBytes 6 0

def execDraughtStatus (fn slot : Nat) (s : State) : Out :=
  mailRow fn slot 0x602 s fun t s => ok s fn t (draughtPayload s)

/-! ## draught.trip_test (R147) -/

/-- CHECK: the comparator latches; the time it took is open within R418's bound (log entry 4). -/
def tripPayload (s : State) : List Byte := leBytes 1 1 ++ leBytes 3 0 ++ leBytes 4 ((Config.freeWord s.free).toNat % 2 ^ 32)

def execDraughtTripTest (fn slot : Nat) (s : State) : Out :=
  mailRow fn slot 0x603 s fun t s =>
    let mode := fld t.msg 0x10 1
    let src := fld t.msg 0x11 1
    if 1 < mode then arg s fn t 0
    else if 2 < src then arg s fn t 1
    else if tripCauses s ≠ 0 then fireTrip s (tripCauses s)
    else if mode = 1 then fireTrip s (BitVec.ofNat 8 (2 ^ src))
    else ok (bumpFree s) fn t (tripPayload s)

/-! ## attest.report (R444, R445, R452) -/

/-- Bytes 0x00-0x7F of the report, which the signature covers. -/
def reportBody (s : State) (fn : Nat) (i : Image) (nonce : List Byte) : List Byte :=
  leBytes 4 0x31525441 ++ leBytes 2 1 ++ leBytes 2 224 ++ leBytes 1 i.level ++ leBytes 1 i.major ++ leBytes 1 i.minor ++
    leBytes 1 i.patch ++ leBytes 1 fn ++ leBytes 1 s.dev.state.code ++
    leBytes 1 (pack [(0, b2n (approved s)), (1, b2n s.dev.slotB), (2, b2n (s.sec.svcFail != 0))]) ++ leBytes 1 i.keySlot ++
    leBytes 48 i.measurement.toNat ++ leBytes 4 Config.romVersion.toNat ++
    leBytes 2 (if fn = 0 then 0 else (ownedBy s fn).length) ++ leBytes 2 0 ++ leBytes 8 Config.lotKeyId.toNat ++ nonce ++
    leBytes 16 0

/-- The 224 bytes of the report; each signature has a value of its own (R453). -/
def report (s : State) (fn : Nat) (i : Image) (nonce : List Byte) : List Byte :=
  let b := reportBody s fn i nonce
  let sig := Config.ecdsaSign s.free b
  b ++ leBytes 48 sig.1.toNat ++ leBytes 48 sig.2.toNat

def attestPayload (s : State) (fn : Nat) (i : Image) (nonce : List Byte) : List Byte :=
  leBytes 2 224 ++ leBytes 1 0 ++ leBytes 1 0 ++ leBytes 2 224 ++ leBytes 10 0 ++ report s fn i nonce

def execAttestReport (fn slot : Nat) (s : State) : Out :=
  mailRow fn slot 0x800 s fun t s =>
    match s.dev.image with
    | none => fail s fn t .eState
    | some i =>
      if fld t.msg 0x30 1 ≠ 0 then arg s fn t 0x20
      else if s.sec.zeroised || s.sec.svcFail &&& 0x1E#5 != 0 then fail s fn t .eState
      else if s.sec.entropyRerun then fail s fn t .eBusy
      else ok (bumpFree (modSec s fun c => { c with drbgRequests := c.drbgRequests + 1 })) fn t
        (attestPayload s fn i (slice t.msg 0x10 32))

/-! ## security.zeroise (R449) -/

/-- Steps 1 to 3: tenants halt, volatile keys and DRBG state go, the lot key is blown. -/
def zeroise (s : State) : State :=
  let s := (liveTenants s).foldl (fun s n => modTenant s n fun x => { x with halted := true }) s
  modSec s fun c => { c with keys := [], keysCleared := true, drbgSeeded := false, lotKeyBlown := true, zeroised := true }

def execSecurityZeroise (fn slot : Nat) (s : State) : Out :=
  mailRow fn slot 0x801 s fun t s =>
    if fld t.msg 0x10 4 ≠ 0x5A45524F then arg s fn t 0 else ok (zeroise s) fn t []

end Sys2Proof.Machine
end

