-- ==== Sys2Proof/Machine/CmdEngines.lean ====
section
/-! DEFINITION. Mailbox commands for models, activation tables, counter windows, ash rings, buckets, Sweep and the floor
plan (06 R142, R146, 11 R252, 12 R260-R267, 17 R372, R385, R387, 19 R428-R429). -/

namespace Sys2Proof.Machine

/-! ## Reading for the Stoker -/

/-- What a command reads from a region of its tenant (REGION at 0x12, LENGTH at 0x14, OFFSET at 0x18). -/
def readBlob (s : State) (n : Nat) (msg : List Byte) : Span × State :=
  readSpan s n (2 ^ 48 * fld msg 0x12 2 + fld msg 0x18 8) (fld msg 0x14 4) 7

/-- OFFSET and LENGTH lie within the region. -/
def blobInside (s : State) (n : Nat) (msg : List Byte) : Bool :=
  match region? s n (fld msg 0x12 2) with
  | some r => decide (fld msg 0x18 8 + fld msg 0x14 4 ≤ r.size)
  | none => false

/-! ## andiron.model.load and unload (R260, R261, R267) -/

/-- The image's LENGTH is TOTAL_SIZE of its own header, at most 9,504 (R267). -/
def sizeOk (img : List Byte) : Bool := img.length ≤ 9504 && fld img 8 4 == img.length

def execAndironModelLoad (fn slot : Nat) (s : State) : Out :=
  mailRow fn slot 0x400 s fun t s =>
    let n := namedTenant fn t.msg
    if !blobInside s n t.msg || 9504 < fld t.msg 0x14 4 then respond s fn t .eArg 0x0101 []
    else match readBlob s n t.msg with
      | (.bytes b, s') =>
        if !sizeOk b then respond s' fn t .eArg 0x0101 []
        else match Img.check b with
          | some r => respond s' fn t .eArg r []
          | none =>
            match firstFree (tenant s' n).models 64 with
            | none => fail s' fn t .eNospace
            | some k => ok (modTenant s' n fun x => { x with models := put x.models k b, modelBad := x.modelBad.filter (· != k) }) fn t (leBytes 2 k)
      | (_, s') => fail s' fn t .eFault

/-- A batch in flight, or a launch of a recipe's item, uses the model. -/
def modelUsed (s : State) (n k : Nat) : Bool :=
  (s.work.disps.any fun d => d.tenant == n && fld d.desc 0 1 == 2 && fld d.desc 0xC 2 == k) ||
    s.hearths.any fun h => h.2.launches.any fun l => l.tenant == n && l.model == k

def execAndironModelUnload (fn slot : Nat) (s : State) : Out :=
  mailRow fn slot 0x401 s fun t s =>
    let n := namedTenant fn t.msg
    let k := fld t.msg 0x12 2
    if modelUsed s n k then fail s fn t .eBusy
    else ok (modTenant s n fun x => { x with models := del x.models k, modelBad := x.modelBad.filter (· != k) }) fn t []

/-! ## ember.act.load (R252) -/

def tableOk (b : List Byte) : Bool := fld b 0 1 ≤ 1 && fld b 0xC 2 ≤ 511 && zeros b 1 3 && zeros b 0xE 18

/-- The table reaches every ember of the sites that the tenant owned when the command was taken, but for those it has lost since. -/
def loadTable (s : State) (n : Nat) (owned : List Nat) (k : Nat) (b : List Byte) : State :=
  (owned.filter fun x => ownerOf s x == some n && !siteRetired s x).foldl (fun s x =>
    modHearth s x fun h => { h with actTables := put h.actTables k b }) s

def execEmberActLoad (fn slot : Nat) (s : State) : Out :=
  mailRow fn slot 0x402 s fun t s =>
    let n := namedTenant fn t.msg
    if 7 < fld t.msg 0x11 1 then arg s fn t 1
    else if fld t.msg 0x14 4 ≠ 544 then arg s fn t 4
    else if !blobInside s n t.msg then fail s fn t .eProt
    else match readBlob s n t.msg with
      | (.bytes b, s') => if tableOk b then ok (loadTable s' n t.owned (fld t.msg 0x11 1) b) fn t [] else argOpen s' fn t
      | (_, s') => fail s' fn t .eFault

/-! ## counter.window.set (R428, R429) -/

/-- Sites (255: the flue die) that a new window shows. -/
def windowSites (s : State) (w : Window) : List Nat :=
  if !hearthEvent w.event then [255]
  else if w.site = 0xFFFF then
    (List.range 200).filter fun i => ((siteRec s i).works || (siteRec s i).state == .retired) && w.follows (ownerOf s i)
  else if w.follows (ownerOf s w.site) then [w.site] else []

/-- The window as set, with its baselines. -/
def newWindow (s : State) (share site event : Nat) : Window :=
  let w := { Window.reset with selected := true, share := share, site := site, event := event }
  { w with baselines := (windowSites s w).foldl (fun b i => put b i (s.counters.shown w i)) [] }

def baselineSum (w : Window) : Nat := w.baselines.foldl (fun n b => n + b.2) 0 % 2 ^ 48

def execCounterWindowSet (fn slot : Nat) (s : State) : Out :=
  mailRow fn slot 0x500 s fun t s =>
    let k := fld t.msg 0x11 1
    let e := fld t.msg 0x12 2
    let site := fld t.msg 0x14 2
    let siteFits := if hearthEvent e then site == 0xFFFF || (site < 200 && (siteRec s site).works) else site == 0xFFFF
    if (if fn = 0 then 63 else 15) < k then arg s fn t 1
    else if (eventAttr e).isNone then arg s fn t 2
    else if !siteFits then arg s fn t 4
    else
      let w := newWindow s (if fn = 0 then fld t.msg 0x10 1 else fn) site e
      ok (modCounters s fun c => { c with windows := put c.windows (64 * fn + k) w }) fn t (leBytes 8 (baselineSum w))

/-! ## ash.ring.config, ash.bucket.config, sweep.config (R372, R385, R387) -/

def execAshRingConfig (fn slot : Nat) (s : State) : Out :=
  mailRow fn slot 0x501 s fun t s =>
    let n := namedTenant fn t.msg
    let hbm := fld t.msg 0x11 1 % 2 == 1
    let entries := fld t.msg 0x14 4
    let base := fld t.msg 0x18 8
    if n = 0 ∧ hbm then arg s fn t 1
    else if !powerIn 64 65536 entries then arg s fn t 4
    else if badBase s n hbm base then arg s fn t 8
    else if ringOutside s n hbm base (64 * entries) then fail s fn t .eProt
    else ok (modAshRing s n fun r => { r with placed := true, hbm := hbm, entries := entries, base := BitVec.ofNat 64 base,
                                              pi := 0, ci := 0 }) fn t []

def execAshBucketConfig (fn slot : Nat) (s : State) : Out :=
  mailRow fn slot 0x502 s fun t s =>
    let v := fld t.msg 0x10 2
    if v < 1 ∨ 3600 < v then arg s fn t 0 else ok (modAsh s fun a => { a with leakS := v, leakAt := [], leakBase := now s }) fn t []

def execSweepConfig (fn slot : Nat) (s : State) : Out :=
  mailRow fn slot 0x503 s fun t s =>
    let v := fld t.msg 0x10 4
    if v < 15 ∨ 10080 < v then arg s fn t 0 else ok (modMem s fun m => { m with passMin := v }) fn t []

/-! ## floorplan.read (R55, R146) -/

/-- Sites a function may read, from START on. -/
def readableSites (s : State) (fn start : Nat) : List Nat :=
  (List.range 200).filter fun i => start ≤ i && (fn == 0 || ownerOf s i == some fn)

def planPayload (tb : FptTable) (sites : List Nat) : List Byte :=
  let now_ := sites.take 6
  let next := match sites.drop 6 with | [] => 0xFFFF | x :: _ => x
  leBytes 8 tb.generation ++ leBytes 1 now_.length ++ leBytes 1 0 ++ leBytes 2 next ++ leBytes 4 0 ++
    now_.flatMap fun i => leBytes 2 i ++ (tb.site i).bytes

def execFloorplanRead (fn slot : Nat) (s : State) : Out :=
  mailRow fn slot 0x504 s fun t s =>
    match s.fpt.table with
    | none => fail s fn t .eState
    | some tb => ok s fn t (planPayload tb (readableSites s fn (fld t.msg 0x10 2)))

end Sys2Proof.Machine
end

