-- ==== Sys2Proof/Machine/CmdRegions.lean ====
section
/-! DEFINITION. Mailbox commands for regions and apertures (06 R142, R144, 10 R216-R224, R237, R238, 20 R444-R447). -/

namespace Sys2Proof.Machine

/-! ## Placement (R217-R221) -/

/-- Regions that a waiting region.define will bring: tenant, number, region. -/
def pendingRegions (s : State) : List (Nat × Nat × Region) :=
  s.epoch.waiting.filterMap fun c => match c.action with | .define t n r => some (t, n, r) | _ => none

/-- Every region in force or on its way. -/
def allRegions (s : State) : List (Nat × Nat × Region) :=
  (s.work.tenants.flatMap fun t => t.2.regions.map fun r => (t.1, r.1, r.2)) ++ pendingRegions s

/-- Extents of one kind on one unit, those of a deletion that still runs among them (R464). -/
def extentsOn (s : State) (hbm : Bool) (unit : Nat) : List Extent :=
  ((allRegions s).map (·.2.2) ++ s.epoch.frozen).filterMap fun r => if r.hbm == hbm then r.extents.find? (·.unit == unit) else none

/-- The lowest free region number of a tenant. -/
def freeNumber (s : State) (t : Nat) : Option Nat :=
  (List.range 1024).find? fun n => !(allRegions s).any fun p => p.1 == t && p.2.1 == n

/-- SHARE (R219). -/
def shareOf (size n : Nat) : Nat := ((size + n - 1) / n + 65535) / 65536 * 65536

/-- Two ranges meet. -/
def meets (a n b m : Nat) : Bool := a < b + m && b < a + n

/-- The lowest of `starts` from which `n` fits below `limit` without meeting a range in use. -/
def lowestFit (starts : List Nat) (n limit : Nat) (used : List (Nat × Nat)) : Option Nat :=
  (starts.filter fun a => a + n ≤ limit && !used.any fun u => meets a n u.1 u.2).foldl
    (fun m a => some (match m with | none => a | some b => min a b)) none

/-- The extent of a share on a site: the lowest rows free in every bank of its list (R220). -/
def sliceExtent (s : State) (site share : Nat) : Option Extent :=
  let banks := bits (siteRec s site).bank
  let rows := (share + 2048 * banks.length - 1) / (2048 * banks.length)
  let used := ((extentsOn s false site).filter fun e => e.banks.any banks.contains).map fun e => (e.base, e.count)
  if banks.isEmpty || 256 ≤ (extentsOn s false site).length then none
  else (lowestFit (0 :: used.map fun u => u.1 + u.2) rows 6144 used).map fun r =>
    { unit := site, banks := banks, base := r, count := rows }

/-- The extent of a share in a pseudo-channel: any free place that is a multiple of 64 KiB (R221, log entry 4). -/
def hbmExtent (s : State) (pc share : Nat) : Option Extent :=
  let n := share / 32
  let used := (extentsOn s true pc).map fun e => (e.base, e.count)
  let wish := 2048 * (Config.freeBase s.free pc % 17166)
  let at_ (b : Nat) : Extent := { unit := pc, banks := [], base := b, count := n }
  if wish + n ≤ Config.channelWords && !used.any fun u => meets wish n u.1 u.2 then some (at_ wish)
  else (lowestFit (0 :: used.map fun u => u.1 + u.2) n Config.channelWords used).map at_

/-- An extent in every unit, or none. -/
def placeAll (f : Nat → Option Extent) : List Nat → Option (List Extent)
  | [] => some []
  | u :: t =>
    match f u, placeAll f t with
    | some e, some l => some (e :: l)
    | _, _ => none

/-! ## region.define -/

/-- A unit that the tenant may not use: a pseudo-channel whose mask bit is 0, a site it does not own or that is unusable (R142, R216). -/
def unusable (s : State) (t : Nat) (hbm : Bool) (u : Nat) : Bool :=
  if hbm then !(hbmMask s).getLsbD u else !(u < 200 && ownerOf s u == some t && siteLive s u)

def definePayload (n size : Nat) : List Byte := leBytes 2 n ++ leBytes 6 0 ++ leBytes 8 size

/-- A region key is drawn: two halves from the DRBG, named by a number no other key has (R446). -/
def drawKey (s : State) : State := bumpFree (modSec s fun c => { c with drbgRequests := c.drbgRequests + 2 })

def runRegionDefine (fn : Nat) (t : Taken) (s : State) : State :=
  let m := t.msg
  let n := namedTenant fn m
  let hbm := fld m 0x11 1 == 1
  let die := fld m 0x12 1 == 1
  let size := fld m 0x18 8
  let mask := maskAt m 0x20
  let units := bits mask
  if 1 < fld m 0x11 1 then arg s fn t 1
  else if 1 < fld m 0x12 1 || (hbm && die) then arg s fn t 2
  else if 1 < fld m 0x13 1 then arg s fn t 3
  else if size = 0 then arg s fn t 8
  else if units.isEmpty || units.any (unusable s n hbm) then arg s fn t 0x10
  else if hbm && s.sec.svcFail &&& 0x18#5 != 0 then fail s fn t .eState
  else if hbm && s.sec.entropyRerun then fail s fn t .eBusy
  else
    let share := shareOf size units.length
    match freeNumber s n, placeAll (fun u => if hbm then hbmExtent s u share else sliceExtent s u share) units with
    | some num, some es =>
      if 4096 ≤ (allRegions s).length then fail s fn t .eNospace
      else
        let r : Region := { hbm := hbm, die := die, bankLocal := fld m 0x13 1 == 1, mask := mask, share := share,
                            size := units.length * share, extents := es, init := [], generation := 0,
                            key := if hbm then s.free else 0 }
        startChange (if hbm then drawKey s else s) fn t (.define n num r) (definePayload num (units.length * share))
    | _, _ => fail s fn t .eNospace

def execRegionDefine (fn slot : Nat) (s : State) : Out := mailRow fn slot 0x300 s (runRegionDefine fn)

/-! ## region.delete, region.fill, region.query -/

/-- An aperture, a chain export, a queue or the ash ring uses the region. -/
def regionUsed (s : State) (t rn : Nat) : Bool :=
  (tenant s t).apertures.any (·.region == rn) || (tenant s t).queues.any (fun q => queueIn q.2 rn) ||
    (s.chain.domains.any fun d => d.2.tenant == t && d.2.exports.any (·.2.1 == rn)) ||
    ((ashRing s t).placed && (ashRing s t).hbm && regionOf (ashRing s t).base.toNat == rn)

def execRegionDelete (fn slot : Nat) (s : State) : Out :=
  mailRow fn slot 0x301 s fun t s =>
    let n := namedTenant fn t.msg
    let rn := fld t.msg 0x12 2
    if regionUsed s n rn then fail s fn t .eBusy else startChange s fn t (.delete n rn) []

/-- region.fill: a span outside the region is E_PROT (DEDUCED, log entry 21). -/
def execRegionFill (fn slot : Nat) (s : State) : Out :=
  mailRow fn slot 0x302 s fun t s =>
    let n := namedTenant fn t.msg
    let rn := fld t.msg 0x12 2
    let off := fld t.msg 0x18 8
    let len := fld t.msg 0x20 8
    let inside := match region? s n rn with | some r => decide (off + len ≤ r.size) | none => false
    if off % 32 ≠ 0 then arg s fn t 8
    else if len % 32 ≠ 0 then arg s fn t 0x10
    else if !inside then fail s fn t .eProt
    else
      let r := fillSpan s n rn off len (bytesLine (slice t.msg 0x28 32))
      if r.1 then ok r.2 fn t [] else fail r.2 fn t .eFault

def queryPayload (r : Region) : List Byte :=
  leBytes 1 (b2n r.hbm) ++ leBytes 1 (b2n r.die) ++ leBytes 1 (b2n r.bankLocal) ++ leBytes 5 0 ++ leBytes 8 r.size ++
    leBytes 32 r.mask.toNat

def execRegionQuery (fn slot : Nat) (s : State) : Out :=
  mailRow fn slot 0x303 s fun t s =>
    match region? s (namedTenant fn t.msg) (fld t.msg 0x12 2) with
    | some r => ok s fn t (queryPayload r)
    | none => fail s fn t .ePerm

/-! ## Apertures (R74) -/

def mib2 : Nat := 2 ^ 21

def execApertureMap (fn slot : Nat) (s : State) : Out :=
  mailRow fn slot 0x304 s fun t s =>
    let n := namedTenant fn t.msg
    let rn := fld t.msg 0x12 2
    let a := fld t.msg 0x18 8
    let o := fld t.msg 0x20 8
    let len := fld t.msg 0x28 8
    match region? s n rn with
    | none => fail s fn t .ePerm
    | some r =>
      if !r.hbm then arg s fn t 2
      else if a % mib2 ≠ 0 ∨ (pcieFn s n).bar2Size < a + len then arg s fn t 8
      else if o % mib2 ≠ 0 then arg s fn t 0x10
      else if len % mib2 ≠ 0 then arg s fn t 0x18
      else if r.size < o + len then fail s fn t .eProt
      else if (tenant s n).apertures.any fun x => meets a len x.offset x.length then fail s fn t .eBusy
      else ok (modTenant s n fun x =>
        { x with apertures := x.apertures ++ [{ offset := a, region := rn, regionOffset := o, length := len }] }) fn t []

def execApertureUnmap (fn slot : Nat) (s : State) : Out :=
  mailRow fn slot 0x305 s fun t s =>
    let n := namedTenant fn t.msg
    let a := fld t.msg 0x18 8
    if (tenant s n).apertures.any (·.offset == a) then
      ok (modTenant s n fun x => { x with apertures := x.apertures.filter (·.offset != a) }) fn t []
    else arg s fn t 8

end Sys2Proof.Machine
end

