-- ==== Sys2Proof/Machine/CmdSystem.lean ====
section
/-! DEFINITION. Mailbox commands of the system group: sys.hello, sys.status, fw.update, training.policy
(06 R139, R142, R143, 05 R112). -/

namespace Sys2Proof.Machine

/-! ## sys.hello -/

/-- Levels on offer: the boot ROM offers level 4 only (R112, R139). -/
def offered (s : State) : List Nat := if bootRomOnly s then [4] else [4, 3]

/-- The highest level on offer within the range asked for. -/
def chooseLevel (s : State) (msg : List Byte) : Option Nat :=
  (offered s).find? fun l => fld msg 0x10 1 ≤ l && l ≤ fld msg 0x11 1

def helloPayload (s : State) (l : Nat) : List Byte :=
  let v := match s.dev.image with | some i => (i.major, i.minor, i.patch) | none => (0, 0, 0)
  leBytes 1 l ++ leBytes 1 (if bootRomOnly s then 4 else 3) ++ leBytes 1 4 ++ leBytes 1 v.1 ++ leBytes 1 v.2.1 ++
    leBytes 1 v.2.2 ++ leBytes 2 63

/-- The level negotiated holds for the function, or, after a mailbox reset, for the requests that run on (R133). -/
def setLevel (m : Mbx) (t : Taken) (l : Nat) : Mbx :=
  if t.discard then { m with taken := m.taken.map fun e => if e.discard then { e with level := some l } else e }
  else { m with level := l }

def execSysHello (fn slot : Nat) (s : State) : Out :=
  mailRow fn slot 0x1 s fun t s =>
    if (mbx s fn).taken.any fun e => e.seq < t.seq then fail s fn t .eBusy
    else match chooseLevel s t.msg with
      | none => fail s fn t .eVersion
      | some l => ok (modMbx s fn fun m => setLevel m t l) fn t (helloPayload s l)

/-! ## sys.status -/

def statusPayload (s : State) (fn : Nat) : List Byte :=
  leBytes 8 s.epoch.generation ++ leBytes 8 (fptGenReg s) ++ leBytes 1 s.dev.state.code ++ leBytes 1 fn ++ leBytes 2 0

def execSysStatus (fn slot : Nat) (s : State) : Out :=
  mailRow fn slot 0x2 s fun t s => ok s fn t (statusPayload s fn)

/-! ## fw.update (R143) -/

/-- The slot that is not running; under the boot ROM alone neither runs, and it is the one not preferred (R142, 06 edge cases;
DEDUCED, log entry 41). -/
def targetSlot (s : State) : Bool := if s.dev.image.isSome then !s.dev.slotB else !s.dev.preferB

/-- Two byte ranges (offset, length) overlap. -/
def overlap (a b : Nat × Nat) : Bool := a.1 < b.1 + b.2 && b.1 < a.1 + a.2

/-- A 4 KiB sector is erased. -/
def eraseSector (d : Dev) (k : Nat) : Dev :=
  { d with fwFlash := d.fwFlash.filter fun c => c.1 / 4096 != k,
           fwErased := if d.fwErased.contains k then d.fwErased else k :: d.fwErased, fwFresh := k :: d.fwFresh }

/-- Sectors of an absolute range. -/
def sectorsOf (a n : Nat) : List Nat := (List.range ((a + n - 1) / 4096 - a / 4096 + 1)).map (· + a / 4096)

def putBytes (m : SMap Byte) (a : Nat) : List Byte → SMap Byte
  | [] => m
  | b :: t => putBytes (put m a b) (a + 1) t

/-- A WRITE at a flash address: erase what the range enters and is not erased yet, then write. -/
def fwWrite (d : Dev) (a : Nat) (data : List Byte) : Dev :=
  let d := ((sectorsOf a data.length).filter fun k => !d.fwFresh.contains k).foldl eraseSector d
  { d with fwFlash := putBytes d.fwFlash a data, fwWritten := (a, data.length) :: d.fwWritten }

/-- A WRITE at OFFSET 0 starts a new image; only it forgets what has been erased and written. -/
def fwStart (d : Dev) : Dev := { d with fwOpen := true, fwFresh := [], fwWritten := [] }

def slotPayload (s : State) : List Byte := leBytes 1 (b2n (targetSlot s))

def runFwUpdate (fn : Nat) (t : Taken) (s : State) : State :=
  let off := fld t.msg 0x10 4
  let n := fld t.msg 0x14 2
  let action := fld t.msg 0x16 1
  if 2 < action then arg s fn t 6
  else if action = 2 then ok (modDev s fun d => { d with fwOpen := false }) fn t (slotPayload s)
  else if action = 1 then
    if !s.dev.fwOpen || s.sec.svcFail &&& 0x6#5 != 0 then fail s fn t .eState
    else if (verifyImage s (targetSlot s)).isNone then argOpen s fn t
    else ok (modDev s fun d => { d with fwOpen := false, preferB := targetSlot s }) fn t (slotPayload s)
  else if off % 16 ≠ 0 ∨ 7680 * 1024 < off + n then arg s fn t 0
  else
    let d := if off = 0 then fwStart s.dev else s.dev
    let a := slotBase (targetSlot s) + off
    if d.fwWritten.any (overlap (a, n)) then arg s fn t 0
    else ok (modDev s fun _ => fwWrite d a (slice t.msg 0x20 n)) fn t (slotPayload s)

def execFwUpdate (fn slot : Nat) (s : State) : Out := mailRow fn slot 0x3 s (runFwUpdate fn)

/-! ## training.policy (R143) -/

def execTrainingPolicy (fn slot : Nat) (s : State) : Out :=
  mailRow fn slot 0x4 s fun t s =>
    let a := fld t.msg 0x10 1
    if 2 < a then arg s fn t 0
    else if a = 2 then ok (modFpt s fun f => { f with trainA := none, trainB := none }) fn t []
    else ok (modAo s fun x => { x with fullNext := a == 1 }) fn t []

end Sys2Proof.Machine
end

