-- ==== Sys2Proof/Machine/Islands.lean ====
section
/-! DEFINITION. Droop, the islands' voltage and frequency loop and the power tokens (14 R306, 15 R333-R334, 18 R405-R413,
R421). What the manual leaves to an implementation here are the opaque functions of Config (log entry 12). -/

namespace Sys2Proof.Machine

/-! ## Islands (R22, R306, R407) -/

/-- MX islands: two at the start of each site's fourteen. -/
def isMx (i : Nat) : Bool := i < 2800 && i % 14 < 2

/-- Nominal clock of an island in MHz (R24, R306). -/
def nominalClock (i : Nat) : Nat :=
  if i < 2800 then
    if i % 14 < 2 then 1800 else if i % 14 = 2 then 1500 else if i % 14 = 3 then 1200 else if i % 14 < 12 then 800
    else if i % 14 = 13 then 2000 else Config.nominalMhz i
  else Config.nominalMhz i

/-- MR, FF, FL and BL islands are never set below half their nominal clock (R306). -/
def isFabric (i : Nat) : Bool := if i < 2800 then i % 14 == 13 else decide (i < 2822)

/-- Lowest clock that the loops may set. -/
def floorMhz (i : Nat) : Nat := if isFabric i then (nominalClock i + 1) / 2 else 0

/-- Clock points of an island, slowest first: an MX island's, and otherwise the nominal clock among points that are open (R24, R407). -/
def clockPoints (i : Nat) : List Nat :=
  if isMx i then (List.range 16).map fun k => 600 + 100 * k
  else ((Config.clockPoints i).filter (· < nominalClock i)) ++ nominalClock i :: (Config.clockPoints i).filter (nominalClock i < ·)

/-- Those at or above its floor. -/
def allowedPoints (i : Nat) : List Nat := (clockPoints i).filter (floorMhz i ≤ ·)

/-- A clock as far as an EM island's layer leaves it to the island (R257). -/
def emLimited (s : State) (i f : Nat) : Nat :=
  if i < 2800 ∧ 4 ≤ i % 14 ∧ i % 14 < 12 then
    min f (match lookD 0 s.mem.emStep (8 * (i / 14) + (i % 14 - 4)) with | 0 => 800 | 1 => 400 | _ => 0)
  else f

/-- The nearest logic sensor: quadrant sensors for MX, the fifth for SQ and AN. -/
def nearestOf (i : Nat) : Nat :=
  let site := i / 14
  if 2800 ≤ i then 6400 + Config.nearestSensor i % 8
  else if i % 14 < 2 then 32 * site + 16 + 2 * (i % 14) + Config.nearestSensor i % 2
  else if i % 14 < 4 then 32 * site + 20 else 32 * site + 16 + Config.nearestSensor i % 5

/-- Its reading; other logic sensors of the same die area stand for an excluded one (R396). -/
def islandTemp (s : State) (i : Nat) : Int :=
  if sensorOk s (nearestOf i) then reading s (nearestOf i)
  else if 2800 ≤ i then hotFlue s else (hottest s (logicSensors (i / 14))).getD 0

def island (s : State) (i : Nat) : Island := lookD .reset s.draught.islands i

/-- Highest point whose estimated power fits the grant, else the lowest (R407). -/
def gridPoint (i estimate grant : Nat) : Nat :=
  let ps := allowedPoints i
  ((ps.filter fun f => min estimate (Config.islandPower i f) ≤ grant).getLast?).getD (ps.headD (nominalClock i))

/-- The next point below, and above, a clock. -/
def pointBelow (i f : Nat) : Nat :=
  (((allowedPoints i).filter (· < f)).getLast?).getD ((allowedPoints i).headD (nominalClock i))
def pointAbove (i f : Nat) : Nat := ((allowedPoints i).find? (f < ·)).getD f

/-- One period of an island (R407): above 105 degrees one point down; up again only after 100 ms at least 2 K below. -/
def dvfsStep (s : State) (i estimate : Nat) : Island :=
  let x := island s i
  let want := emLimited s i (gridPoint i estimate x.grant)
  let t := islandTemp s i
  let held (f : Nat) : Option Nat := if f < want then some (x.heldSince.getD (now s)) else none
  if deg 105 < t then
    let f := min want (pointBelow i x.mhz)
    { x with mhz := f, coolSince := none, heldSince := held f }
  else if x.heldSince.isSome then
    let cool := if t ≤ deg 103 then some (x.coolSince.getD (now s)) else none
    let f := match cool with
      | some c => if due s c 100000000 then min want (pointAbove i x.mhz) else min want x.mhz
      | none => min want x.mhz
    { x with mhz := f, coolSince := cool, heldSince := held f }
  else { x with mhz := want, coolSince := none }

/-- The bridge's BL islands have stopped: a flue link is DOWN (R358). -/
def bridgeStopped (s : State) : Bool := s.fabric.link0.state == .down || s.fabric.link1.state == .down

/-- An island of a disabled site is never powered (R23); those of a site that leaves service are until its router has forwarded what the
older routing tables send over it (R320). -/
def islandPowered (s : State) (i : Nat) : Bool :=
  if i < 2800 then sensed s (i / 14) || routes s (i / 14) else !(decide (i < 2802) && bridgeStopped s)

/-- A supply droop stretches the clock of a powered island: nothing but the count of stretches changes (R405, R406). -/
def execDroop (island : Nat) (s : State) : Out :=
  guarded (islandOk island) .noSuchUnit <| if s.dev.state == .off || !islandPowered s island then s else countU s 0xE0A 1

def execIslandDvfsPeriod (island estimate : Nat) (s : State) : Out :=
  guarded (islandOk island) .noSuchUnit <|
    if live s && islandPowered s island then
      modDraught s fun d => { d with islands := put d.islands island (dvfsStep s island estimate) }
    else s

/-! ## Ceilings (R396, R408) -/

/-- A site's ceiling in the next period. -/
def nextCeiling (s : State) (site : Nat) : Rat :=
  let c := lookD 1 s.draught.ceiling site
  let ts := (List.range 8).map (layerTemp s site)
  if (List.range 8).any (layerBlind s site) then 1 / 2
  else if ts.any fun t => deg 95 < t then max (1 / 16) (c * 15 / 16)
  else if ts.all fun t => t ≤ deg 93 then min 1 (c + 1 / 64)
  else c

def nextCeilings (s : State) : SMap Rat :=
  ((List.range 200).filter (sensed s)).filterMap fun x =>
    if nextCeiling s x = 1 then none else some (x, nextCeiling s x)

/-! ## Grants (R334, R409) -/

/-- The flue link of the site's firebox retrains: its islands keep their grants (R334). -/
def keepsGrant (s : State) (site : Nat) : Bool :=
  (if site < 100 then s.fabric.link0 else s.fabric.link1).state == .retraining

/-- One round of water-filling: each site takes up to the lesser of its demand and its ceiling's part of the equal share;
a site that took less than the share is done. What the division leaves over stays in the pool. -/
def fillRound (ceil : Nat → Rat) (share : Nat) (open_ : List (Nat × Nat)) : List (Nat × Nat) × List (Nat × Nat) :=
  let took (x : Nat × Nat) : Nat := min x.2 (ceil x.1 * share).floor.toNat
  (open_.map fun x => (x.1, took x),
   (open_.filter fun x => took x = share && share < x.2).map fun x => (x.1, x.2 - share))

/-- Water-filling of `rest` tokens among sites with demand (R409). -/
def waterFill (ceil : Nat → Rat) : Nat → Nat → List (Nat × Nat) → SMap Nat → SMap Nat
  | 0, _, _, got => got
  | n + 1, rest, open_, got =>
    if open_.isEmpty || rest < open_.length then got
    else
      let r := fillRound ceil (rest / open_.length) open_
      let got := r.1.foldl (fun g x => putD 0 g x.1 (lookD 0 g x.1 + x.2)) got
      waterFill ceil n (rest - r.1.foldl (fun t x => t + x.2) 0) r.2 got

/-- Tokens split over islands in an open way; the parts add up to the whole (R409, log entry 12). -/
def splitTokens (free : Nat) : List Nat → Nat → SMap Nat
  | [], _ => []
  | [i], g => [(i, g)]
  | i :: t, g =>
    let x := min g (Config.tokenSplit free i)
    (i, x) :: splitTokens free t (g - x)

/-- The stack of an HB island reports above 95 degrees: its grant stays its standing grant (R421). -/
def hotStack (s : State) (i : Nat) : Bool := 2822 ≤ i && i < 2830 && s.draught.hbmHot.contains (i - 2822)

/-- Islands that receive grants in this period: all that are powered and reached, and the fabric's. -/
def grantIslands (s : State) : List Nat :=
  (List.range 2842).filter fun i => islandPowered s i && (2800 ≤ i || !keepsGrant s (i / 14))
def fabricIslands (s : State) : List Nat := (grantIslands s).filter fun i => (2800 ≤ i || i % 14 == 13) && !hotStack s i

/-- Islands that keep what they hold: every one of a firebox whose flue link retrains, its site in service or not (R334). -/
def keptIslands (s : State) : SMap Island := s.draught.islands.filter fun i => i.1 < 2800 && keepsGrant s (i.1 / 14)

/-- The tokens they hold. -/
def keptTokens (s : State) : Nat := (keptIslands s).foldl (fun n i => n + i.2.grant) 0

/-- The grants of one period. -/
structure Grants where
  islands : SMap Island
  sites : SMap Nat
  total : Nat
deriving DecidableEq, Repr

/-- Grants of at most `a` tokens, standing grants in every case (R409). -/
def grantsFor (s : State) (a : Nat) (f : PowerFigures) (ceil : SMap Rat) : Grants :=
  let kept := keptTokens s
  let fab := min f.fabric (a - f.standing - kept)
  let want := f.demand.filter fun x => sensed s x.1 && !keepsGrant s x.1
  let got := waterFill (lookD 1 ceil) 201 (a - f.standing - kept - fab) want []
  let std := splitTokens (3 * s.free) (grantIslands s) f.standing
  let fabs := splitTokens (3 * s.free + 1) (fabricIslands s) fab
  let works := got.flatMap fun x => splitTokens (3 * s.free + 2) ((List.range 13).map (14 * x.1 + ·)) x.2
  let old := keptIslands s
  let new := (grantIslands s).map fun i => (i, { island s i with grant := lookD 0 std i + lookD 0 fabs i + lookD 0 works i })
  { islands := new.foldl (fun m x => put m x.1 x.2) old,
    sites := got.foldl (fun m x => put m x.1 x.2) (s.draught.siteGrant.filter fun x => keepsGrant s x.1),
    total := f.standing + kept + fab + got.foldl (fun n x => n + x.2) 0 }

/-! ## One token period (R404, R408-R413) -/

/-- A_k, with the fraction of r / 10 carried over. -/
def nextA (d : Draught) (power : Nat) : Nat × Nat :=
  (min (1000 * d.cap) (power + (d.ramp + d.carry) / 10), (d.ramp + d.carry) % 10)

/-- F_k and the tenths carried of its fall. -/
def nextFloor (d : Draught) (load : Nat) : Nat × Nat :=
  if d.banking then (min (1000 * d.cap) (max load (d.floor - (d.ramp + d.floorCarry) / 10)), (d.ramp + d.floorCarry) % 10)
  else (load, 0)

/-- Tokens asked for in a period. -/
def tokensAsked (f : PowerFigures) : Nat := f.standing + f.fabric + f.demand.foldl (fun n x => n + x.2) 0

def tokenPeriod (s : State) (f : PowerFigures) : State :=
  let d := s.draught
  let a := nextA d f.power
  let fl := nextFloor d f.load
  let bank := if d.banking then fl.1 - f.load else 0
  let ceil := nextCeilings s
  let g := grantsFor s a.1 f ceil
  let count (s : State) (ev : Nat) (on : Bool) : State := if on then countU s ev 1 else s
  let s := count (count s 0xE00 true) 0xE01 (decide (1000 * d.cap < d.granted))
  let s := countU s 0xE02 ((d.banked + bank) / 10000 - d.banked / 10000)
  let s := count (count s 0xE03 d.thermalLimit) 0xE04 (!ceil.isEmpty)
  let s := count s 0xE05 (decide (a.1 < 1000 * d.cap) && decide (g.total < tokensAsked f))
  modDraught (bumpFree s) fun d =>
    { d with capTokens := 1000 * d.cap, ak := a.1, carry := a.2, measured := f.power, floor := fl.1, floorCarry := fl.2,
             bank := bank, banked := d.banked + bank, granted := g.total, siteGrant := g.sites, ceiling := ceil,
             islands := g.islands }

def execPowerTokenPeriod (figures : PowerFigures) (s : State) : Out := .next <| if live s then tokenPeriod s figures else s

end Sys2Proof.Machine
end

