-- ==== Sys2Proof/Machine/Draughts.lean ====
section
/-! DEFINITION. The slow rows of the draught controller: R_est, the cap loop, the heat balance, the lasting conditions, the
thermal-cycle counter and its journal, the maps (18 R396-R403, R407, R408, R415-R421). -/

namespace Sys2Proof.Machine

/-! ## R_est and the cap (R402) -/

/-- The binary32 value nearest to n / d, ties to even; the quotient is taken far enough for one rounding. -/
def ratio32 (n : Int) (d : Nat) : BitVec 32 :=
  let k := 64 + Nat.log2 d
  let v := n.natAbs * 2 ^ k
  round32 (.fin (decide (n < 0)) (2 * (v / d) + b2n (v % d != 0)) (-(k : Int) - 1))

/-- R_est after one update, each operation rounded (DEDUCED, log entry 12). -/
def nextREst (s : State) (powerW : Nat) : BitVec 32 :=
  let x := ratio32 (hotPackage s - s16 s.ao.inlet) (128 * powerW)
  let diff := sub32 x s.draught.rEst
  let step : BitVec 32 := match dec32 diff with
    | .fin neg m e =>
      let n : Int := if neg then -(m : Int) else m
      if e < 0 then ratio32 n (200 * 2 ^ (-e).toNat) else ratio32 (n * (2 ^ e.toNat : Nat)) 200
    | _ => diff
  add32 s.draught.rEst step

/-- Every 10 ms while P is at least 300 W and the tray sensor is not lost (R399, R402). -/
def execREstUpdate (powerW : Nat) (s : State) : Out :=
  .next <|
    if live s && decide (300 ≤ powerW) && !s.draught.trayLost then
      modDraught s fun d => { d with rEst := nextREst s powerW }
    else s

/-- Every 1 s, not while the tray sensor is lost (R399, R402). -/
def execCapLoopPeriod (s : State) : Out := .next <| if live s && !s.draught.trayLost then capLoop s else s

/-! ## The heat balance (R400) -/

/-- |q - P| > 0.15 P + 50 W, in units of 1/384000 W; the last valid tray values stand for the second (log entry 12). -/
def balanceAlarm (s : State) (powerW : Nat) : Bool :=
  let q := 200 * (s.ao.flow.toNat : Int) * (s16 s.ao.outlet - s16 s.ao.inlet)
  decide (57600 * powerW + 19200000 < (q - 384000 * (powerW : Int)).natAbs)

/-- One comparison; ten in a row begin or end BALANCE. -/
def execHeatBalanceCheck (powerW : Nat) (s : State) : Out :=
  .next <|
    if live s then
      let alarm := balanceAlarm s powerW
      let s := modDraught s fun d =>
        { d with powerAvg := powerW, balanceOn := if alarm then min 10 (d.balanceOn + 1) else 0,
                 balanceOff := if alarm then 0 else min 10 (d.balanceOff + 1) }
      let s := if alarm then countU s 0xE0B 1 else s
      if !s.draught.balance && s.draught.balanceOn == 10 then
        draughtRecord (modDraught s fun d => { d with balance := true }) 5 true 0xFFFF 0
      else if s.draught.balance && s.draught.balanceOff == 10 then
        draughtRecord (modDraught s fun d => { d with balance := false }) 5 false 0xFFFF 0
      else s
    else s

/-! ## Conditions that last (R408, R421) -/

def temp16 (t : Int) : Nat := (bv16 t).toNat

/-- A layer above 95 degrees for 1 s, or no longer. -/
def execDramOver (site layer : Nat) (s : State) : Out :=
  guarded (inSite site layer 8) .noSuchSite <|
    let i := 8 * site + layer
    let t := temp16 (layerTemp s site layer)
    let on := s.draught.dramOver.contains i
    match look s.draught.layerHot i with
    | some since =>
      if live s && sensed s site && !on && due s since 1000000000 then
        draughtRecord (modDraught s fun d => { d with dramOver := d.dramOver ++ [i] }) 9 true site t
      else s
    | none =>
      if live s && on then
        draughtRecord (modDraught s fun d => { d with dramOver := d.dramOver.filter (· != i) }) 9 false site t
      else s

/-- An island held below its demand by its sensor for 1 s, or no longer; islands outside the sites name no site. -/
def execLogicOver (site island : Nat) (s : State) : Out :=
  guarded (siteOk site && islandOk island) .noSuchUnit <|
    let t := temp16 (islandTemp s island)
    let on := s.draught.logicOver.contains island
    let place := if island < 2800 then site else 0xFFFF
    if !live s || (decide (island < 2800) && island / 14 != site) then s
    else match (Machine.island s island).heldSince with
      | some since =>
        if !on && due s since 1000000000 then
          draughtRecord (modDraught s fun d => { d with logicOver := d.logicOver ++ [island] }) 10 true place t
        else s
      | none =>
        if on then
          draughtRecord (modDraught s fun d => { d with logicOver := d.logicOver.filter (· != island) }) 10 false place t
        else s

/-- A stack reports its temperature: above 95 degrees its HB island keeps its standing grant. -/
def execHbmHot (stack : Nat) (temp : BitVec 16) (s : State) : Out :=
  guarded (stack < 8) .noSuchUnit <|
    let hot := decide (deg 95 < s16 temp)
    let on := s.draught.hbmHot.contains stack
    if !live s || hot == on then s
    else draughtRecord (modDraught s fun d =>
      { d with hbmHot := if hot then d.hbmHot ++ [stack] else d.hbmHot.filter (· != stack) }) 11 hot 0xFFFF temp.toNat

/-! ## The thermal-cycle counter and its journal (R415, R417) -/

/-- One sample of one firebox (R415). -/
def cycleStep (s : State) (fb : Nat) : State :=
  let c := cycleOf s fb
  let t := hotLogic s fb
  if c.up then
    if c.ext < t then setCycle s fb { c with ext := t }
    else if deg 2 ≤ c.ext - t then setCycle (countHalf s (c.ext - c.ref)) fb { ref := c.ext, ext := t, up := false }
    else s
  else if t < c.ext then setCycle s fb { c with ext := t }
  else if deg 2 ≤ t - c.ext then setCycle (countHalf s (c.ref - c.ext)) fb { ref := c.ext, ext := t, up := true }
  else s

def execThermalCycleSample (s : State) : Out := .next <| if live s then cycleStep (cycleStep s 0) 1 else s

/-- The entry to write: SEQUENCE one above the newest entry's, 1 without one (DESIGN CHOICE, log entry 12). -/
def newEntryOf (s : State) : JournalEntry :=
  { sequence := match newestEntry s.fpt.journal with | some e => (e.sequence + 1) % 2 ^ 32 | none => 1,
    half10k := s.draught.half10k, half30k := s.draught.half30k, ext0 := bv16 s.draught.cycle0.ext,
    ext1 := bv16 s.draught.cycle1.ext }

/-- The next slot is written, its sector erased first when it is the sector's first; a failed write is recorded and the
next slot is the retry (R417). -/
def execJournalAppend (ok : Bool) (s : State) : Out :=
  .next <|
    if live s then
      let k := s.fpt.journalNext
      let e := newEntryOf s
      let kept := if k % 128 = 0 then s.fpt.journal.filter fun x => x.1 / 128 != k / 128 else s.fpt.journal
      let s := modFpt s fun f => { f with journal := if ok then put kept k e else del kept k, journalNext := (k + 1) % 2048 }
      if ok then s else draughtRecord s 12 true 0xFFFF 0
    else s

/-! ## The maps (R420) -/

/-- Map entries: the nonzero ones are listed; a layer without a working sensor reads 0x8000. -/
def layerEntries (s : State) : SMap (BitVec 16) :=
  (List.range 1600).filterMap fun i =>
    let v := if layerBlind s (i / 8) (i % 8) then 0x8000#16 else bv16 (layerTemp s (i / 8) (i % 8))
    if sensed s (i / 8) && v != 0 then some (i, v) else none

def logicEntries (s : State) : SMap (BitVec 16) :=
  (List.range 200).filterMap fun i =>
    let v := match hottest s (logicSensors i) with | some t => bv16 t | none => 0x8000#16
    if sensed s i && v != 0 then some (i, v) else none

def execLayerMapRefresh (s : State) : Out :=
  .next <| if live s then modDraught s fun d => { d with layerMap := layerEntries s, logicMap := logicEntries s } else s

end Sys2Proof.Machine
end

