-- ==== Sys2Proof/Machine/Embers.lean ====
section
/-! DEFINITION. Programs on embers: start, micro-operations, end (11 R242-R257). One row is one micro-operation of the
program that runs on the ember, and acts only when that is the one at j. -/

namespace Sys2Proof.Machine

/-! ## Starting (R243, R246) -/

/-- Banks of an ember that hold part of an entry's span, ascending: (bank, first word, words). -/
def emberBanks (s : State) (site ember : Nat) (en : EmberEntry) : List (Nat × Nat × Nat) :=
  match entryPlane s site en 0 with
  | none => []
  | some (r, e) =>
    let bs := (bankSpan r e en.offset en.length).filter fun b => b.1 / 4 == ember
    ((List.range 4).map (· + 4 * ember)).filterMap fun b => bs.find? (·.1 == b)

/-- The EM island of the ember's layer is paused (R257). -/
def emPaused (s : State) (site ember : Nat) : Bool := lookD 0 s.mem.emStep (8 * site + ember / 4) == 2

/-- No ember of the entry has started on this hearth. -/
def untouched (en : EmberEntry) : Bool := en.toStart.length == en.toEnd.length + en.reports.length

/-- Sites on which an entry's run has entries. -/
def runSites (s : State) (site : Nat) (en : EmberEntry) : List Nat :=
  match en.disp with
  | none => [site]
  | some id => match disp? s id with | some d => site :: d.working.filter (· != site) | none => [site]

/-- A run starts: on each of its sites it keeps the table as it now stands (R252). -/
def fixTables (s : State) (site : Nat) (en : EmberEntry) : State :=
  (runSites s site en).foldl (fun s x =>
    modHearth s x fun h => { h with emberQ := h.emberQ.map fun e =>
      if (if en.disp.isSome then e.disp == en.disp else e.id == en.id) && e.table.isNone then
        { e with table := some (lookD (List.replicate 544 0#8) h.actTables e.act) } else e }) s

/-- The words of all its banks that a program reads or writes (R254). -/
def emberTouch (s : State) (site ember : Nat) (en : EmberEntry) : List (Nat × Nat) :=
  (emberBanks s site ember en).flatMap fun b => touchSpans s site en b.1 b.2.1 b.2.2

/-- The program at the start of one bank. -/
def bankRun (entry bank first n : Nat) (banks : List Nat) (touch : List (Nat × Nat)) : EmberRun :=
  { entry := entry, banks := banks, bank := bank, s := first, n := n, i := 0, j := 0, regs := [], merge := [], touch := touch }

/-- An ember that cannot run ends its part of an entry at once with a report. -/
def emberSkip (s : State) (site ember id : Nat) (st : Status) (det : Nat) : State :=
  countAt (modHearth s site fun h => modEntry h id fun en =>
    { en with toEnd := en.toEnd.filter (· != ember), toStart := en.toStart.filter (· != ember),
              reports := en.reports ++ [{ site := site, status := st, detail := det }] }) 0x309 site 1

/-- The next entry of an ember starts its program there. -/
def execEmberProgramStart (site ember : Nat) (s : State) : Out :=
  guarded (inSite site ember 32) .noSuchSite <|
    let h := hearth s site
    match h.emberQ.find? fun en => en.toEnd.contains ember with
    | none => s
    | some en =>
      if !siteLive s site || (look h.emberRuns ember).isSome || !en.toStart.contains ember || emPaused s site ember ||
          ((tenant s en.tenant).halted && untouched en) then s
      else if !emberLive s site ember then emberSkip s site ember en.id .aborted 5
      else match emberBanks s site ember en with
        | [] => emberSkip s site ember en.id .prot 2
        | (b, first, n) :: rest =>
          modHearth (fixTables s site en) site fun h =>
            modEntry { h with emberRuns := put h.emberRuns ember (bankRun en.id b first n (rest.map (·.1))
              (emberTouch s site ember en)) } en.id
              fun en => { en with toStart := en.toStart.filter (· != ember) }

/-! ## One micro-operation (R245-R247) -/

/-- The micro-operation at j. -/
def EmberEntry.at (en : EmberEntry) (j : Nat) : MicroOp := en.prog.getD j 0

def ereg (r : EmberRun) (n : Nat) : Line := lookD 0 r.regs n
def setRun (s : State) (site ember : Nat) (r : EmberRun) : State :=
  modHearth s site fun h => { h with emberRuns := put h.emberRuns ember r }

/-- Go on at the next micro-operation. -/
def EmberRun.step (r : EmberRun) : EmberRun := { r with j := r.j + 1 }
/-- rd takes a value, and the program goes on. -/
def EmberRun.give (r : EmberRun) (rd : Nat) (v : Line) : EmberRun := { r.step with regs := putD 0 r.regs rd v }

/-- Lanes mapped, and lanes of two registers combined. -/
def mapLanes (f : BitVec 32 → BitVec 32) (a : Line) : Line := fromLanes fun i => f (lane a i)
def zipLanes (f : BitVec 32 → BitVec 32 → BitVec 32) (a b : Line) : Line := fromLanes fun i => f (lane a i) (lane b i)

/-- The row of one opcode: its program, its entry and its micro-operation. -/
def microRow (opc site ember : Nat) (s : State) (run : State → EmberEntry → EmberRun → MicroOp → State) : Out :=
  guarded (inSite site ember 32) .noSuchSite <|
    match look (hearth s site).emberRuns ember with
    | none => s
    | some r =>
      match emberEntry? (hearth s site) r.entry with
      | none => s
      | some en => if (en.at r.j).opc = opc && siteLive s site then run (countAt s 0x30A site 1) en r (en.at r.j) else s

/-- A row that only computes rd. -/
def laneRow (opc site ember : Nat) (s : State) (val : EmberEntry → EmberRun → MicroOp → Line) : Out :=
  microRow opc site ember s fun s en r u => setRun s site ember (r.give u.rd (val en r u))

/-- Plane word index and part of the present iteration (R246). -/
def planeIndex (r : EmberRun) (f : Nat) : Nat := (r.s + r.i) / 2 ^ emberSh f
def planePart (r : EmberRun) (f : Nat) : Nat := (r.s + r.i) % 2 ^ emberSh f

/-- The plane word of a micro-operation. -/
def microPlace (s : State) (site : Nat) (en : EmberEntry) (r : EmberRun) (u : MicroOp) : Option Place :=
  (entryPlane s site en u.plane).map fun p => planePlace p.1 p.2 r.bank (planeIndex r u.fmt)

def wordAddr (s : State) (p : Place) : Nat := homeAddr (homeOf s p.hbm p.unit p.addr)

/-- A word that another requester wrote while the program ran gives it an unpredictable value (R254). -/
def emberSees (s : State) (p : Place) (d : Line) : Line × State :=
  if s.mem.contested.contains p.index then (Config.freeLine s.free p.index, bumpFree s) else (d, s)

/-- LOAD: an uncorrectable word ends the program on this ember (R255). -/
def execEmberLoad (site ember : Nat) (s : State) : Out :=
  microRow 1 site ember s fun s en r u =>
    match microPlace s site en r u with
    | none => emberAbort s site ember .prot 2
    | some p =>
      match readPlace s p (emberReq site en) en.tenant (wordAddr s p) with
      | (.data d, s) =>
        let x := emberSees s p d
        setRun x.2 site ember (r.give u.rd (loadPart u.fmt (planePart r u.fmt) x.1))
      | (.bad k, s) => emberAbort s site ember (ueStatus k) 0

/-- The parts of a plane word in the merge buffer, the new one last. -/
def mergeParts (r : EmberRun) (plane index : Nat) : List (Nat × Nat × Nat × Line) :=
  r.merge.filter fun m => m.1 == plane && m.2.1 == index

/-- STORE: a whole word, or a part that waits for the highest part (R248). What a part never stored then reads as is not stated and is
free (log entry 27). -/
def execEmberStore (site ember : Nat) (s : State) : Out :=
  microRow 2 site ember s fun s en r u =>
    match microPlace s site en r u with
    | none => emberAbort s site ember .prot 2
    | some p =>
      let f := u.fmt
      let bs := storePart f (ereg r u.ra)
      let write (s : State) (line : List Byte) (r : EmberRun) : State :=
        match writePart s p 0 line (emberReq site en) en.tenant (wordAddr s p) with
        | (.data _, s) => setRun s site ember r.step
        | (.bad k, s) => emberAbort s site ember (ueStatus k) 0
      if f = 0 then write s bs r
      else
        let index := planeIndex r f
        let off := bs.length * planePart r f
        let r' := { r with merge := r.merge ++ [(u.plane, index, off + 32 * bs.length, bytesLine bs)] }
        if planePart r f + 1 < 2 ^ emberSh f then setRun s site ember r'.step
        else
          let line := (mergeParts r' u.plane index).foldl (fun l m =>
            splice l (m.2.2.1 % 32) ((lineBytes m.2.2.2).take (m.2.2.1 / 32))) (lineBytes (Config.freeLine s.free 0))
          write (bumpFree (countAt s 0x30F site 1)) line
            { r' with merge := r'.merge.filter fun m => !(m.1 == u.plane && m.2.1 == index) }

def execEmberAdd (site ember : Nat) (s : State) : Out :=
  laneRow 3 site ember s fun _ r u => zipLanes add32 (ereg r u.ra) (ereg r u.rb)
def execEmberSub (site ember : Nat) (s : State) : Out :=
  laneRow 4 site ember s fun _ r u => zipLanes sub32 (ereg r u.ra) (ereg r u.rb)
def execEmberMul (site ember : Nat) (s : State) : Out :=
  laneRow 5 site ember s fun _ r u => zipLanes mul32 (ereg r u.ra) (ereg r u.rb)

/-- Pk, and 1 - Pk rounded once (R247). -/
def param (en : EmberEntry) (k : Nat) : BitVec 32 := en.params.getD k 0
def oneMinus (en : EmberEntry) (k : Nat) : BitVec 32 := sub32 0x3F800000#32 (param en k)

def execEmberScale (site ember : Nat) (s : State) : Out :=
  laneRow 6 site ember s fun en r u =>
    mapLanes (fun x => mul32 x (if u.one then oneMinus en u.param else param en u.param)) (ereg r u.ra)

def execEmberAct (site ember : Nat) (s : State) : Out :=
  laneRow 7 site ember s fun en r u => mapLanes (act32 (en.table.getD (List.replicate 544 0#8))) (ereg r u.ra)

def execEmberCvt (site ember : Nat) (s : State) : Out :=
  laneRow 8 site ember s fun _ r u =>
    mapLanes (fun x => emberWiden u.fmt ((emberFmt u.fmt).narrow (dec32 x))) (ereg r u.ra)

def execEmberMov (site ember : Nat) (s : State) : Out :=
  laneRow 9 site ember s fun en r u => if u.one then fromLanes fun _ => param en u.param else ereg r u.ra

/-- LOOP ends an iteration; a paused layer holds it there (R246, R257). -/
def execEmberLoop (site ember : Nat) (s : State) : Out :=
  microRow 0xA site ember s fun s' _ r u =>
    if emPaused s site ember then s
    else setRun s' site ember { r with i := r.i + 1, j := if r.i + 1 < r.n then u.target else r.j + 1 }

/-- END: the next bank, or the end of the program; parts left in the merge buffer are written (DESIGN CHOICE, log entry 27), and one that
meets an uncorrectable word or a bank out of service ends the program (R224, R234, R255). -/
def execEmberEnd (site ember : Nat) (s : State) : Out :=
  microRow 0 site ember s fun s' en r _ =>
    match emberBanks s site ember en, r.banks with
    | bs, b :: rest =>
      if emPaused s site ember then s
      else
        let f := ((bs.find? (·.1 == b)).getD (b, 0, 0)).2
        match flushMerge s' site en r with
        | (some k, t) => emberDone t site ember (ueStatus k) 0
        | (none, t) => setRun t site ember (bankRun r.entry b f.1 f.2 rest r.touch)
    | _, [] =>
      match flushMerge s' site en r with
      | (some k, t) => emberDone t site ember (ueStatus k) 0
      | (none, t) => emberDone t site ember .done 0

/-! ## The end of an entry (R243, R208) -/

/-- Every program of an entry on this hearth has ended: its token returns, and its item or its dispatch's unit ends. -/
def execEmberProgramEnd (site entry : Nat) (s : State) : Out :=
  guarded (siteOk site) .noSuchSite <|
    match emberEntry? (hearth s site) entry with
    | none => s
    | some en =>
      if !(en.toStart.isEmpty && en.toEnd.isEmpty) then s
      else
        let w := worstReport en.reports
        let s := modHearth s site fun h => { h with emberQ := h.emberQ.filter (·.id != entry) }
        match en.disp with
        | some id => endUnit s id site { w with site := site }
        | none =>
          let s := if w.status = .done then s else recordFail s site w.status w.detail
          itemDone s site 3 en.item

end Sys2Proof.Machine
end

