-- ==== Sys2Proof/Machine/Layers.lean ====
section
/-! DEFINITION. The layers' rows: ember clocks and refresh by the hottest reading of a layer (10 R239-R241, 11 R257). -/

namespace Sys2Proof.Machine

/-- Key of a layer. -/
def layerKey (site layer : Nat) : Nat := 8 * site + layer

/-- The EM step that a reading asks for (R257): 0 is 0.8 GHz, 1 is 0.4 GHz, 2 is paused. -/
def emStepFor (t : Int) : Nat := if t ≤ deg 95 then 0 else if t ≤ deg 103 then 1 else 2

/-- The refresh interval that a reading asks for, in ms (R239). -/
def refreshFor (t : Int) : Nat := if t ≤ deg 85 then 32 else if t ≤ deg 95 then 16 else 8

def emStepOf (s : State) (i : Nat) : Nat := lookD 0 s.mem.emStep i
def refreshOf (s : State) (i : Nat) : Nat := lookD 32 s.mem.refresh i

/-- A layer takes the slower EM step of its reading (R257). -/
def execLayerThrottle (site layer : Nat) (s : State) : Out :=
  guarded (inSite site layer 8) .noSuchSite <|
    let i := layerKey site layer
    let x := emStepFor (layerTemp s site layer)
    if sensed s site && emStepOf s i < x then modMem s fun m => { m with emStep := putD 0 m.emStep i x } else s

/-- The fastest EM step that 1 s of cool readings allows. -/
def emStepBack (s : State) (i : Nat) : Nat := if coolFor s i 1 then 0 else if coolFor s i 2 then 1 else 2

/-- After 1 s at least 2 K below its threshold a layer returns to a faster step (R257). -/
def execLayerUnthrottle (site layer : Nat) (s : State) : Out :=
  guarded (inSite site layer 8) .noSuchSite <|
    let i := layerKey site layer
    if sensed s site && emStepBack s i < emStepOf s i then
      modMem s fun m => { m with emStep := putD 0 m.emStep i (emStepBack s i) }
    else s

/-- A layer moves to the shorter interval of its reading and starts a full pass (R240). -/
def execRefreshIntervalShorten (site layer : Nat) (s : State) : Out :=
  guarded (inSite site layer 8) .noSuchSite <|
    let i := layerKey site layer
    let x := refreshFor (layerTemp s site layer)
    if sensed s site && x < refreshOf s i then
      modMem s fun m => { m with refresh := putD 32 m.refresh i x, refreshPass := del m.refreshPass i }
    else s

/-- The longest interval that 1 s of cool readings allows. -/
def refreshBack (s : State) (i : Nat) : Nat := if coolFor s i 0 then 32 else if coolFor s i 1 then 16 else 8

/-- After 1 s at least 2 K below its threshold a layer returns to a longer interval (R240). -/
def execRefreshIntervalLengthen (site layer : Nat) (s : State) : Out :=
  guarded (inSite site layer 8) .noSuchSite <|
    let i := layerKey site layer
    if sensed s site && refreshOf s i < refreshBack s i then
      modMem s fun m => { m with refresh := putD 32 m.refresh i (refreshBack s i) }
    else s

/-- Rows of a layer in one refresh pass: 6,240 in each of its 16 banks (R239). -/
def passRows : Nat := 16 * 6240

/-- One row is refreshed; nothing stored changes (R239). -/
def execRowRefresh (site bank row : Nat) (s : State) : Out :=
  guarded (inSite site bank 128 && row < 6240) .noSuchSite <|
    if sensed s site then
      let i := layerKey site (bank / 16)
      modMem (countAt s (0x218 + bank / 16) site 1) fun m =>
        { m with refreshPass := putD 0 m.refreshPass i ((lookD 0 m.refreshPass i + 1) % passRows) }
    else s

end Sys2Proof.Machine
end

