-- ==== Sys2Proof/Machine/Matrix.lean ====
section
/-! DEFINITION. The matrix engine's rows: starting and completing tiles, and quadrant rotation (08 R175-R194, R203). -/

namespace Sys2Proof.Machine

/-- An item of a queue of a site that is not counted yet. -/
def item? (s : State) (site q num : Nat) : Option Item := (lookD [] (hearth s site).queues q).find? (·.num == num)

/-- Every item issued to a queue before `num` has started. -/
def earlierStarted (s : State) (site q num : Nat) : Bool :=
  ((lookD [] (hearth s site).queues q).takeWhile (·.num != num)).all fun i => i.started || i.done

/-- Every item issued to a queue before `num` has completed. -/
def earlierDoneItems (s : State) (site q num : Nat) : Bool :=
  ((lookD [] (hearth s site).queues q).takeWhile (·.num != num)).all (·.done)

/-- The engines of a site may start queued items: its recipe's tenant is not halted (08 edge cases). -/
def engineFree (s : State) (site : Nat) : Bool := siteLive s site && !(tenant s (hearth s site).tenant).halted

/-- Mark an item as started on a quadrant. -/
def startItem (s : State) (site q num quad : Nat) : State :=
  mapQueue s site q fun i => if i.num = num then { i with started := true, quad := quad } else i

/-- A tile runs on the quadrant. -/
def quadBusy (s : State) (site x : Nat) : Bool :=
  (lookD [] (hearth s site).queues 0).any fun i => i.started && !i.done && i.quad == x

/-- Working quadrants in the present priority order (R193). -/
def quadOrder (s : State) (site : Nat) : List Nat :=
  let w := (List.range 4).filter (quadLive s site)
  let k := s.fabric.rotation % w.length
  w.drop k ++ w.take k

/-- A queued tile starts, in issue order, on its quadrant or on the first idle working one (R175, R178, R192). -/
def execTileStart (site item : Nat) (s : State) : Out :=
  guarded (siteOk site) .noSuchSite <|
    match item? s site 0 item with
    | none => s
    | some it =>
      let t := tileOf it.block
      if it.started || it.done || !engineFree s site || !earlierStarted s site 0 item ||
          (t.serial && !earlierDoneItems s site 0 item) then s
      else if t.quad < 4 then
        if !quadLive s site t.quad then tileAbsent s site item
        else if quadBusy s site t.quad then s else startItem s site 0 item t.quad
      else if (quadOrder s site).isEmpty then tileAbsent s site item
      else match (quadOrder s site).find? fun x => !quadBusy s site x with
        | none => s
        | some x => startItem s site 0 item x

/-- A running tile ends: C is written, or the site ends with its failure (R176, R177, R188, R208). -/
def execTileComplete (site item : Nat) (s : State) : Out :=
  guarded (siteOk site) .noSuchSite <|
    match item? s site 0 item with
    | none => s
    | some it =>
      if !it.started || it.done || !siteLive s site then s
      else match runTile s site it with
        | (none, s) => itemDone s site 0 item
        | (some st, s) => endSite (itemDone s site 0 item) site st 0

/-- Nanoseconds between two rotations (R193). -/
def rotationNs : Nat := 2000000

/-- At a multiple of 2,000,000 ns the priority order rotates by one position (R193). -/
def execQuadrantRotation (s : State) : Out :=
  .next <|
    if s.dev.state == .off || now s % rotationNs != 0 || s.fabric.rotatedAt == some (now s) then s
    else modFabric s fun f => { f with rotation := f.rotation + 1, rotatedAt := some (now s) }

end Sys2Proof.Machine
end

