-- ==== Sys2Proof/Machine/Sequencer.lean ====
section
/-! DEFINITION. The sequencer's instructions (09 R195-R211). A row executes only when it is the instruction at pc: the
line of pc is in the instruction buffer, and the word's opcode is the row's. -/

namespace Sys2Proof.Machine

/-! ## Registers (R195) -/

def getG (h : Hearth) (n : Nat) : Word := if n = 0 then 0 else lookD 0 h.regs n
def setG (h : Hearth) (n : Nat) (v : Word) : Hearth := if n = 0 then h else { h with regs := putD 0 h.regs n v }
def setP (h : Hearth) (n : Nat) (v : Bool) : Hearth := { h with preds := setBit h.preds n v }

/-! ## Fetching (R198, R209) -/

/-- The instruction word at pc as the buffer holds it; pc bits [1:0] do not select (DESIGN CHOICE, log entry 25). -/
def cachedWord (h : Hearth) : Option Nat := (lineAt h).map fun b => fld b (h.pc.toNat % 256 / 4 * 4) 4

/-- The instruction word at pc as memory now holds it. -/
def memoryWord (s : State) (site : Nat) : Option Nat :=
  let h := hearth s site
  match region? s h.tenant h.codeRegion with
  | none => none
  | some r =>
    match (shareToRegion r site h.pc.toNat).bind (regionPlace r) with
    | none => none
    | some p =>
      match peek s p with
      | .data d => some (fld (lineBytes d) (h.pc.toNat % 32 / 4 * 4) 4)
      | .bad _ => none

/-- The code was written after the line was filled: the fetch is open between the two words (R209). -/
def staleCode (s : State) (site c : Nat) : Bool :=
  match memoryWord s site with
  | some m => m != c
  | none => false

/-- The instruction that the sequencer executes next, if its line is in the buffer. -/
def fetched (s : State) (site : Nat) : Option Nat :=
  if executing s site then
    (cachedWord (hearth s site)).map fun c =>
      if staleCode s site c && Config.freeBool s.free then (memoryWord s site).getD c else c
  else none

/-- A fetch that was open has read a free value. -/
def noteFetch (s : State) (site : Nat) : State :=
  match cachedWord (hearth s site) with
  | some c => if staleCode s site c then bumpFree s else s
  | none => s

/-! ## Fields (R198) -/

/-- Bits [lo+n-1:lo] of an instruction word. -/
def bf (w lo n : Nat) : Nat := w / 2 ^ lo % 2 ^ n

def opcodeOf (w : Nat) : Nat := bf w 26 6
def rdOf (w : Nat) : Nat := bf w 16 5
def raOf (w : Nat) : Nat := bf w 11 5
def rbOf (w : Nat) : Nat := bf w 6 5
def qOf (w : Nat) : Nat := bf w 7 4
/-- A field sign-extended from `n` bits. -/
def sx (n v : Nat) : Word := BitVec.ofInt 64 (signed n v)
def imm11 (w : Nat) : Word := sx 11 (bf w 0 11)
def off21 (w : Nat) : Word := sx 21 (bf w 0 21)

/-- N and P are zero unless G is 1. -/
def guardField (w : Nat) : Bool := bf w 25 1 == 1 || bf w 21 4 == 0

/-- The instruction executes: G is 0, or pP differs from N. -/
def guardOn (h : Hearth) (w : Nat) : Bool := bf w 25 1 == 0 || h.preds.getLsbD (bf w 21 3) != (bf w 24 1 == 1)

/-! ## Retiring and trapping -/

/-- The instruction retires: its effect on the hearth, and where pc goes. -/
def retireTo (s : State) (site : Nat) (pc : Word) (f : Hearth → Hearth) : State :=
  countAt (modHearth s site fun h => { f h with pc := pc }) 0x001 site 1

/-- The instruction retires with pc at the next one. -/
def retire (s : State) (site : Nat) (f : Hearth → Hearth) : State := retireTo s site ((hearth s site).pc + 4) f

/-- ILLEGAL; TVAL is free. -/
def illegalOp (s : State) (site : Nat) : State := siteTrapOpen s site 1

/-- One instruction of a site: fetched, guarded, checked for its unused fields, then executed. -/
def seqRow (site : Nat) (isOp : Nat → Bool) (fieldsOk : Nat → Bool) (s : State) (run : State → Nat → State) : Out :=
  guarded (siteOk site) .noSuchSite <|
    match fetched s site with
    | none => s
    | some w =>
      if !isOp (opcodeOf w) then s
      else
        let s := noteFetch s site
        if !guardOn (hearth s site) w then retire s site id
        else if !(guardField w && fieldsOk w) then illegalOp s site
        else run s w

/-- A row of one opcode. -/
def opRow (op site : Nat) (fieldsOk : Nat → Bool) (s : State) (run : State → Nat → State) : Out :=
  seqRow site (· == op) fieldsOk s run

/-- A row that computes rd from the hearth. -/
def rdRow (op site : Nat) (fieldsOk : Nat → Bool) (s : State) (val : Hearth → Nat → Word) : Out :=
  opRow op site fieldsOk s fun s w => retire s site fun h => setG h (rdOf w) (val h w)

/-! ## Undefined opcodes (R200) -/

/-- The listed opcodes. -/
def definedOp (op : Nat) : Bool :=
  (1 ≤ op && op ≤ 0xD) || (0x10 ≤ op && op ≤ 0x12) || (0x18 ≤ op && op ≤ 0x22) || (0x28 ≤ op && op ≤ 0x2C) ||
    op == 0x30 || op == 0x31 || op == 0x38 || (0x3C ≤ op && op ≤ 0x3F)

def execIllegal (site : Nat) (s : State) : Out :=
  seqRow site (fun op => !definedOp op) (fun _ => true) s fun s _ => illegalOp s site

/-! ## Arithmetic and predicates (R199, R200) -/

/-- ra op rb by fn; none for an undefined fn. -/
def aluOp (fn : Nat) (a b : Word) : Option Word :=
  if fn = 0 then some (a + b) else if fn = 1 then some (a - b) else if fn = 2 then some (a &&& b)
  else if fn = 3 then some (a ||| b) else if fn = 4 then some (a ^^^ b) else if fn = 5 then some (a <<< (b.toNat % 64))
  else if fn = 6 then some (a >>> (b.toNat % 64)) else if fn = 7 then some (a.sshiftRight (b.toNat % 64))
  else if fn = 8 then some (a * b) else if fn = 9 then some (BitVec.ofNat 64 (a.toNat * b.toNat / 2 ^ 64))
  else if fn = 0xA then some (if a.slt b then a else b) else if fn = 0xB then some (if a.slt b then b else a)
  else if fn = 0xC then some (if a < b then a else b) else if fn = 0xD then some (if a < b then b else a) else none

def execAlu (site : Nat) (s : State) : Out :=
  rdRow 1 site (fun w => bf w 0 6 ≤ 0xD) s fun h w => (aluOp (bf w 0 6) (getG h (raOf w)) (getG h (rbOf w))).getD 0

def anyField (_ : Nat) : Bool := true

def execAddi (site : Nat) (s : State) : Out := rdRow 2 site anyField s fun h w => getG h (raOf w) + imm11 w
def execAndi (site : Nat) (s : State) : Out := rdRow 3 site anyField s fun h w => getG h (raOf w) &&& imm11 w
def execOri (site : Nat) (s : State) : Out := rdRow 4 site anyField s fun h w => getG h (raOf w) ||| imm11 w
def execXori (site : Nat) (s : State) : Out := rdRow 5 site anyField s fun h w => getG h (raOf w) ^^^ imm11 w

/-- imm11[10:6] is zero. -/
def shiftField (w : Nat) : Bool := bf w 6 5 == 0

def execSlli (site : Nat) (s : State) : Out := rdRow 6 site shiftField s fun h w => getG h (raOf w) <<< bf w 0 6
def execSrli (site : Nat) (s : State) : Out := rdRow 7 site shiftField s fun h w => getG h (raOf w) >>> bf w 0 6
def execSrai (site : Nat) (s : State) : Out := rdRow 8 site shiftField s fun h w => (getG h (raOf w)).sshiftRight (bf w 0 6)

def execMovi (site : Nat) (s : State) : Out := rdRow 9 site anyField s fun _ w => sx 16 (bf w 0 16)

/-- imm16 put into bits [16k+15:16k]. -/
def movk (k : Nat) (v : Word) (w : Nat) : Word :=
  (v &&& ~~~(0xFFFF#64 <<< (16 * k))) ||| (BitVec.ofNat 64 (bf w 0 16) <<< (16 * k))

def execMovk0 (site : Nat) (s : State) : Out := rdRow 0xA site anyField s fun h w => movk 0 (getG h (rdOf w)) w
def execMovk1 (site : Nat) (s : State) : Out := rdRow 0xB site anyField s fun h w => movk 1 (getG h (rdOf w)) w
def execMovk2 (site : Nat) (s : State) : Out := rdRow 0xC site anyField s fun h w => movk 2 (getG h (rdOf w)) w
def execMovk3 (site : Nat) (s : State) : Out := rdRow 0xD site anyField s fun h w => movk 3 (getG h (rdOf w)) w

/-- The cond field (R199). -/
def condOp (c : Nat) (a b : Word) : Bool :=
  if c = 0 then a == b else if c = 1 then a != b else if c = 2 then a.slt b else if c = 3 then !a.slt b
  else if c = 4 then decide (a < b) else !decide (a < b)

def execCmp (site : Nat) (s : State) : Out :=
  opRow 0x10 site (fun w => bf w 0 5 == 0 && bf w 5 3 ≤ 5) s fun s w =>
    retire s site fun h => setP h (bf w 18 3) (condOp (bf w 5 3) (getG h (bf w 13 5)) (getG h (bf w 8 5)))

def execCmpi (site : Nat) (s : State) : Out :=
  opRow 0x11 site (fun w => bf w 10 3 ≤ 5) s fun s w =>
    retire s site fun h => setP h (bf w 18 3) (condOp (bf w 10 3) (getG h (bf w 13 5)) (sx 10 (bf w 0 10)))

/-- pa op pb by fn. -/
def plogOp (fn : Nat) (a b : Bool) : Bool :=
  if fn = 0 then a && b else if fn = 1 then a || b else if fn = 2 then a != b else if fn = 3 then a && !b else fn == 4

def execPlog (site : Nat) (s : State) : Out :=
  opRow 0x12 site (fun w => bf w 4 8 == 0 && bf w 0 4 ≤ 5) s fun s w =>
    retire s site fun h =>
      setP h (bf w 18 3) (plogOp (bf w 0 4) (h.preds.getLsbD (bf w 15 3)) (h.preds.getLsbD (bf w 12 3)))

/-! ## Loads and stores (R200, R201, R382) -/

/-- ra + scaled offset. -/
def accessAddr (h : Hearth) (w size : Nat) : Word := getG h (raOf w) + BitVec.ofNat 64 size * imm11 w

/-- A staging access: MISALIGN off its alignment or outside staging. -/
def stagingAccess (op site size : Nat) (s : State) (run : State → Nat → Nat → State) : Out :=
  opRow op site anyField s fun s w =>
    let a := accessAddr (hearth s site) w size
    if a.toNat % size ≠ 0 ∨ Config.stagingBytes ≤ a.toNat then siteTrap s site 2 a else run s w a.toNat

/-- The sequencer itself as a requester of loads and stores. -/
def bySequencer (site : Nat) : Req := byItem 0 site 16 0

/-- What the sequencer reads while items that it has not waited for run (R178). -/
def seqAmid {α : Type} (s : State) (site : Nat) (f : State → α × State) : α × State := amid s site 16 0 f

/-- A staging load; an uncorrectable unit ends the site. -/
def loadStaging (size site : Nat) (s : State) (w a : Nat) : State :=
  match seqAmid s site fun s => stRead s site a size (bySequencer site) with
  | (some b, s) => retire s site fun h => setG h (rdOf w) (BitVec.ofNat 64 (leNat b))
  | (none, s) => endSite s site .busError 0

/-- A staging store. -/
def storeStaging (size site : Nat) (s : State) (w a : Nat) : State :=
  retire (stWrite s site a (leBytes size (getG (hearth s site) (rdOf w)).toNat) (bySequencer site)) site id

def execLds (site : Nat) (s : State) : Out := stagingAccess 0x18 site 8 s (loadStaging 8 site)
def execLws (site : Nat) (s : State) : Out := stagingAccess 0x19 site 4 s (loadStaging 4 site)
def execSts (site : Nat) (s : State) : Out := stagingAccess 0x1A site 8 s (storeStaging 8 site)
def execSws (site : Nat) (s : State) : Out := stagingAccess 0x1B site 4 s (storeStaging 4 site)

/-- A region access: MISALIGN off its alignment; one that leaves the hearth waits for a mesh request tag (R179). -/
def regionAccess (op site size : Nat) (s : State) (run : State → Nat → Nat → State) : Out :=
  opRow op site anyField s fun s w =>
    let a := accessAddr (hearth s site) w size
    if a.toNat % size ≠ 0 then siteTrap s site 2 a
    else if tagFor s (hearth s site).tenant site a.toNat size then run s w a.toNat else s

/-- A region load: PROT outside the tenant's regions, BUS_ERROR or POISONED on an uncorrectable word. -/
def loadRegion (size site : Nat) (s : State) (w a : Nat) : State :=
  match seqAmid s site fun s => readSpan s (hearth s site).tenant a size (bySequencer site) with
  | (.bytes b, s) => retire s site fun h => setG h (rdOf w) (BitVec.ofNat 64 (leNat b))
  | (.prot, s) => endSite s site .prot 3
  | (.bad k, s) => endSite s site (ueStatus k) 0

/-- A region store. -/
def storeRegion (size site : Nat) (s : State) (w a : Nat) : State :=
  match writeSpan s (hearth s site).tenant a (leBytes size (getG (hearth s site) (rdOf w)).toNat) (bySequencer site) with
  | (.ok, s) => retire s site id
  | (.prot, s) => endSite s site .prot 3
  | (.bad k, s) => endSite s site (ueStatus k) 0

def execLdr (site : Nat) (s : State) : Out := regionAccess 0x1C site 8 s (loadRegion 8 site)
def execLwr (site : Nat) (s : State) : Out := regionAccess 0x1D site 4 s (loadRegion 4 site)
def execStr (site : Nat) (s : State) : Out := regionAccess 0x1E site 8 s (storeRegion 8 site)
def execSwr (site : Nat) (s : State) : Out := regionAccess 0x1F site 4 s (storeRegion 4 site)

/-! ## Control (R200, R207, R210) -/

/-- pc + 4·x[21]. -/
def branchTo (h : Hearth) (w : Nat) : Word := h.pc + 4#64 * off21 w

def execBr (site : Nat) (s : State) : Out :=
  opRow 0x20 site anyField s fun s w => retireTo s site (branchTo (hearth s site) w) id

def execCall (site : Nat) (s : State) : Out :=
  opRow 0x21 site anyField s fun s w =>
    retireTo s site (branchTo (hearth s site) w) fun h => setG h 31 (h.pc + 4)

/-- Only ra and q of form Q may be non-zero, as `useRd`, `useRa`, `useQ` say. -/
def qFields (useRd useRa useQ : Bool) (w : Nat) : Bool :=
  bf w 0 7 == 0 && (useRd || rdOf w == 0) && (useRa || raOf w == 0) && (useQ || qOf w == 0)

def execJr (site : Nat) (s : State) : Out :=
  opRow 0x22 site (qFields false true false) s fun s w =>
    let a := getG (hearth s site) (raOf w)
    if a.toNat % 4 ≠ 0 then siteTrap s site 2 a else retireTo s site a id

/-! ## Issuing and waiting (R202, R204, R208) -/

/-- The channel of a DMA queue has halted. -/
def channelHalted (h : Hearth) (q : Nat) : Bool := 8 ≤ q && h.dmaHalted.contains (q - 8)

/-- The descriptor of an Andiron item is fetched with a mesh request tag when it lies outside the hearth (R179). -/
def descTag (s : State) (site q : Nat) (b : List Byte) : Bool :=
  q != 4 || tagFor s (hearth s site).tenant site (fld b 8 8) 96

/-- A checked block of a queue with a free credit is issued; rd takes the item's number. -/
def issueBlock (s : State) (site q rd : Nat) (b : List Byte) : State :=
  let num := nextItem (hearth s site) q
  issueItem (retire s site fun h => setG h rd (BitVec.ofNat 64 num)) site q b

def execIssue (site : Nat) (s : State) : Out :=
  opRow 0x28 site (fun w => qFields true true true w && queueNumber (qOf w)) s fun s w =>
    let q := qOf w
    let a := getG (hearth s site) (raOf w)
    if channelHalted (hearth s site) q then endSite s site .channelHalt (q - 8)
    else if a.toNat % 32 ≠ 0 ∨ Config.stagingBytes ≤ a.toNat then siteTrap s site 2 a
    else match seqAmid s site fun s => stRead s site a.toNat 32 (bySequencer site) with
      | (none, s') => endSite s' site .busError 0
      | (some b, s') =>
        match badItem s' site q b with
        | some off => siteTrap s' site 5 (BitVec.ofNat 64 off)
        | none =>
          match itemAbsent s' site q b with
          | some (some v) => siteTrap s' site 3 v
          | some none => siteTrapOpen s' site 3
          | none =>
            match itemProt s' site q b with
            | some det => endSite s' site .prot det
            | none => if creditFree (hearth s' site) q && descTag s' site q b then issueBlock s' site q (rdOf w) b else s

/-- The program has waited for a completion counter to reach `n` (R178). -/
def noteWait (h : Hearth) (q n : Nat) : Hearth :=
  { h with waited := if reached (lookD 0 h.waited q) n then h.waited else putD 0 h.waited q n }

def execWaitq (site : Nat) (s : State) : Out :=
  opRow 0x29 site (fun w => qFields false true true w && queueNumber (qOf w)) s fun s w =>
    let h := hearth s site
    let t := (getG h (raOf w)).toNat % 2 ^ 32
    if channelHalted h (qOf w) then endSite s site .channelHalt (qOf w - 8)
    else if !reached (lookD 0 h.issued (qOf w)) t then siteTrapOpen s site 6
    else if reached (lookD 0 h.completed (qOf w)) t then retire s site fun h => noteWait h (qOf w) t else s

/-- RDQ: a program that has seen the counter has waited for it (DEDUCED, log entry 9). -/
def execRdq (site : Nat) (s : State) : Out :=
  opRow 0x2A site (fun w => qFields true false true w && queueNumber (qOf w)) s fun s w =>
    retire s site fun h =>
      let n := lookD 0 h.completed (qOf w)
      setG (noteWait h (qOf w) n) (rdOf w) (BitVec.ofNat 64 n)

def execWaitf (site : Nat) (s : State) : Out :=
  opRow 0x2B site (qFields false true true) s fun s w =>
    let h := hearth s site
    if reached (lookD 0 h.arrival (qOf w)) ((getG h (raOf w)).toNat % 2 ^ 32) then retire s site id else s

def execRdf (site : Nat) (s : State) : Out :=
  rdRow 0x2C site (qFields true false true) s fun h w => BitVec.ofNat 64 (lookD 0 h.arrival (qOf w))

/-! ## Special registers (R197) -/

/-- Value of special register `n`. -/
def special (s : State) (site n : Nat) : Word :=
  let h := hearth s site
  if n = 0 then h.tvec else if n = 1 then h.tpc else if n = 2 then BitVec.ofNat 64 h.tcause else if n = 3 then h.tval
  else if n = 4 then BitVec.ofNat 64 (b2n h.inTrap) else if n = 5 then h.sticky.setWidth 64
  else if n = 6 then BitVec.ofNat 64 (islandTime s (14 * site + 2)) else if n = 7 then BitVec.ofNat 64 site
  else if n = 8 then (siteRec s site).quad.setWidth 64 else if n = 9 then (siteRec s site).lane.setWidth 64
  else BitVec.ofNat 64 (tenant s h.tenant).phase

def srOf (w : Nat) : Nat := bf w 8 8

def execMfs (site : Nat) (s : State) : Out :=
  opRow 0x30 site (fun w => bf w 0 8 == 0 && srOf w ≤ 10) s fun s w =>
    let v := special s site (srOf w)
    retire s site fun h => setG h (rdOf w) v

/-- MTS to TVEC, TPC or STICKY. -/
def writeSpecial (h : Hearth) (n : Nat) (v : Word) : Hearth :=
  if n = 0 then { h with tvec := v } else if n = 1 then { h with tpc := v }
  else { h with sticky := h.sticky &&& v.setWidth 3 }

def execMts (site : Nat) (s : State) : Out :=
  opRow 0x31 site (fun w => bf w 0 8 == 0 && (srOf w == 0 || srOf w == 1 || srOf w == 5)) s fun s w =>
    retire s site fun h => writeSpecial h (srOf w) (getG h (rdOf w))

/-! ## The rest (R200, R207, R209, R210) -/

def noFields (w : Nat) : Bool := bf w 0 21 == 0

def execIflush (site : Nat) (s : State) : Out :=
  opRow 0x38 site noFields s fun s _ => retire s site fun h => { h with ibuf := [] }

def execTrap (site : Nat) (s : State) : Out :=
  opRow 0x3C site (fun w => bf w 7 14 == 0) s fun s w => siteTrapOpen s site (0x80 + bf w 0 7)

def execRte (site : Nat) (s : State) : Out :=
  opRow 0x3D site noFields s fun s _ => retireTo s site (hearth s site).tpc fun h => { h with inTrap := false }

def execNop (site : Nat) (s : State) : Out := opRow 0x3E site noFields s fun s _ => retire s site id

/-- END: the sequencer waits for its items; pc stays at the END. -/
def execEndRecipe (site : Nat) (s : State) : Out :=
  opRow 0x3F site noFields s fun s _ =>
    retireTo s site (hearth s site).pc fun h => { h with seq := .ending }

end Sys2Proof.Machine
end

