-- ==== Sys2Proof/Machine/Smbus.lean ====
section
/-! DEFINITION. The SMBus management endpoint (03 R77-R79). A block's count byte is not part of the reply. -/

namespace Sys2Proof.Machine

/-- A transaction reaches the endpoint; with a wrong PEC it is NACKed and has no effect (R77). -/
def smbRow (s : State) (pec : Bool) (run : State → State) : State :=
  if !s.ao.vauxOk then s
  else if !pec then modAo s fun a => { a with smbReply := none }
  else run s

/-- The endpoint returns bytes. -/
def smbAnswer (s : State) (bytes : List Byte) : State := modAo s fun a => { a with smbReply := some bytes }

/-- A rejected write sets STATUS bit 6 (R79). -/
def smbReject (s : State) : State := alertOn s (modAo s fun a => { a with writeRejected := true, smbReply := some [] })

/-- STATUS: reading it clears bit 6 and releases SMB_ALERT_N. -/
def execSmbStatus (pec : Bool) (s : State) : Out :=
  .next <| smbRow s pec fun s =>
    modAo (smbAnswer s (leBytes 1 (statusByte s))) fun a => { a with writeRejected := false, smbAlert := false }

/-- The main rails are on. -/
def railsOn (s : State) : Bool := s.ao.pwrEn && s.ao.pwrGood

def execSmbPkgPower (pec : Bool) (s : State) : Out :=
  .next <| smbRow s pec fun s => smbAnswer s (leBytes 2 (if railsOn s then s.draught.measured / 1000 else 0))

def execSmbTemps (pec : Bool) (s : State) : Out := .next <| smbRow s pec fun s => smbAnswer s (tempsBytes s)

def execSmbTray (pec : Bool) (s : State) : Out :=
  .next <| smbRow s pec fun s =>
    smbAnswer s (leBytes 2 s.ao.inlet.toNat ++ leBytes 2 s.ao.outlet.toNat ++ leBytes 2 s.ao.flow.toNat)

/-- BOARD_CAP: a read, or a write of 900 to 2,200 W. -/
def execSmbBoardCap (write : Option (BitVec 16)) (pec : Bool) (s : State) : Out :=
  .next <| smbRow s pec fun s =>
    match write with
    | none => smbAnswer s (leBytes 2 s.ao.boardCap)
    | some v =>
      if v.toNat < 900 ∨ 2200 < v.toNat then smbReject s
      else
        let s := modAo s fun a => { a with boardCap := v.toNat, smbReply := some [] }
        if live s then applyCaps s else s

/-- THERMAL_CYCLES: the counter as the draught controller holds it, which is 0 in OFF and BOOT, before the journal is read
(DESIGN CHOICE, log entry 38). -/
def execSmbThermalCycles (pec : Bool) (s : State) : Out :=
  .next <| smbRow s pec fun s => smbAnswer s (leBytes 4 s.draught.half10k ++ leBytes 4 s.draught.half30k)

/-- FW_LEVEL: zero before BOOT completes, and under the boot ROM. In FAILED with Stoker firmware running (BOOT_TIMEOUT,
NO_FLOOR_PLAN), where BOOT has not completed, it is the level of that firmware (DESIGN CHOICE, log entry 38). -/
def execSmbFwLevel (pec : Bool) (s : State) : Out :=
  .next <| smbRow s pec fun s =>
    smbAnswer s (match s.dev.image with
      | some i => if s.dev.state = .boot then leBytes 4 0
                  else leBytes 1 i.level ++ leBytes 1 i.major ++ leBytes 1 i.minor ++ leBytes 1 i.patch
      | none => leBytes 4 0)

def execSmbTripCause (pec : Bool) (s : State) : Out :=
  .next <| smbRow s pec fun s => smbAnswer s (leBytes 1 s.ao.tripCause.toNat)

/-- RESET_REQ: 0xA5 acts as a 1 ms low pulse on PKG_RESET_N. -/
def execSmbResetReq (value : Byte) (pec katOk : Bool) (s : State) : Out :=
  .next <| smbRow s pec fun s =>
    if value = 0xA5#8 then enterBoot (resetFor1ms (modAo s fun a => { a with smbReply := some [] })) katOk else smbReject s

/-- The Alert Response Address: the endpoint answers with its own address while it drives SMB_ALERT_N low. -/
def execAlertResponseAddress (s : State) : Out :=
  .next <| smbRow s true fun s =>
    if s.ao.smbAlert then smbAnswer s [BitVec.ofNat 8 (2 * (0x60 + s.ao.addrStrap.toNat))]
    else modAo s fun a => { a with smbReply := none }

end Sys2Proof.Machine
end

