-- ==== Sys2Proof/Machine/Vector.lean ====
section
/-! DEFINITION. The vector unit's rows: one operation at a time, in issue order (08 R175-R177, 09 R203, R205, R208). -/

namespace Sys2Proof.Machine

/-- The first item of a queue that has not completed. -/
def headItem (s : State) (site q : Nat) : Option Item := (lookD [] (hearth s site).queues q).find? fun i => !i.done

/-- The next vector operation, when it has not started and its OP is `op`. -/
def nextVector (s : State) (site op : Nat) : Option Item :=
  (headItem s site 1).filter fun it => !it.started && it.f 0 1 == op && engineFree s site

/-- A vector operation reads, computes and writes D; an uncorrectable word ends the site. -/
def vectorRow (op site : Nat) (s : State) : Out :=
  guarded (siteOk site) .noSuchSite <|
    match nextVector s site op with
    | none => s
    | some it =>
      match runVector s site it with
      | (none, s) => startItem s site 1 it.num 0
      | (some st, s) => endSite (itemDone s site 1 it.num) site st 0

def execVectorAdd (site : Nat) (s : State) : Out := vectorRow 0 site s
def execVectorSub (site : Nat) (s : State) : Out := vectorRow 1 site s
def execVectorMul (site : Nat) (s : State) : Out := vectorRow 2 site s
def execVectorMax (site : Nat) (s : State) : Out := vectorRow 3 site s
def execVectorMin (site : Nat) (s : State) : Out := vectorRow 4 site s
def execVectorFma (site : Nat) (s : State) : Out := vectorRow 5 site s
def execVectorScale (site : Nat) (s : State) : Out := vectorRow 6 site s
def execRowscale (site : Nat) (s : State) : Out := vectorRow 7 site s
def execColscale (site : Nat) (s : State) : Out := vectorRow 8 site s
def execVectorAct (site : Nat) (s : State) : Out := vectorRow 9 site s
def execRsqrt (site : Nat) (s : State) : Out := vectorRow 0xA site s
def execRsum (site : Nat) (s : State) : Out := vectorRow 0xB site s
def execRmax (site : Nat) (s : State) : Out := vectorRow 0xC site s
def execVectorCvt (site : Nat) (s : State) : Out := vectorRow 0xD site s
def execCvti (site : Nat) (s : State) : Out := vectorRow 0xE site s

/-- The running operation completes: its counter advances and its credit returns (R176, R177). -/
def execVectorOpComplete (site : Nat) (s : State) : Out :=
  guarded (siteOk site) .noSuchSite <|
    match headItem s site 1 with
    | none => s
    | some it => if it.started && siteLive s site then countAt (itemDone s site 1 it.num) 0x008 site 1 else s

end Sys2Proof.Machine
end

