-- ==== Sys2Proof/Machine/Streams.lean ====
section
/-! DEFINITION. DMA channels and stream operations (08 R175-R179, 09 R203, R206, R208, 17 R382). -/

namespace Sys2Proof.Machine

/-! ## DMA -/

/-- Words of a transfer, of its first 256, whose source or destination lies outside the hearth (R179). -/
def dmaNeed (s : State) (site : Nat) (it : Item) : Nat :=
  let t := (hearth s site).tenant
  ((List.range (min 256 (it.f 0x10 8 / 32))).filter fun i =>
    (it.f 0x18 1 == 1 && leaves s t site (it.f 0 8 + 32 * i)) || (it.f 0x19 1 == 1 && leaves s t site (it.f 8 8 + 32 * i))).length

/-- A request that leaves the hearth waits while no tag is free (R179). -/
def tagWait (s : State) (site need : Nat) : Bool := need != 0 && tagsFree (hearth s site) == 0

/-- The next transfer of a channel starts, one at a time in issue order, and holds tags for what leaves the hearth. -/
def execDmaTransferStart (site channel : Nat) (s : State) : Out :=
  guarded (inSite site channel 8) .noSuchSite <|
    match headItem s site (8 + channel) with
    | none => s
    | some it =>
      let need := dmaNeed s site it
      if it.started || !engineFree s site || (hearth s site).dmaHalted.contains channel || tagWait s site need then s
      else takeTags (startItem s site (8 + channel) it.num 0) site (8 + channel) it.num need

/-- A channel halts: CHANNEL_HALT is recorded, and what its queue holds ends without effect (R208; log entry 26). -/
def haltChannel (s : State) (site ch : Nat) : State :=
  let s := modHearth s site fun h => { h with dmaHalted := h.dmaHalted ++ [ch] }
  advanceQueue (mapQueue (recordFail s site .channelHalt ch) site (8 + ch) fun i => { i with done := true }) site (8 + ch)

/-- The running transfer of a channel ends, moved in ascending order, or halts its channel; responses to a channel that a reset stopped
are discarded first (R331). -/
def execDmaTransferComplete (site channel : Nat) (s : State) : Out :=
  guarded (inSite site channel 8) .noSuchSite <|
    if awaited (hearth s site) (8 + channel) then discardResponses s site (8 + channel)
    else match headItem s site (8 + channel) with
    | none => s
    | some it =>
      if !it.started || !siteLive s site then s
      else match runDma s site channel it with
        | (true, s) => itemDone (freeTags s site (8 + channel) it.num) site (8 + channel) it.num
        | (false, s) => haltChannel (freeTags s site (8 + channel) it.num) site channel

/-! ## Streams -/

/-- Words of a stream item that go through the mesh: all of them, unless its other site is its own (R179). -/
def streamNeed (s : State) (site : Nat) (it : Item) : Nat :=
  if streamSite (hearth s site) (it.f 1 1) (it.f 2 1) = some site then 0 else it.f 0xC 4 / 32

/-- A stream item starts and holds tags for its words. DIR: 0 PUSH, 1 PULL. -/
def streamStart (dir site item : Nat) (s : State) : Out :=
  guarded (siteOk site) .noSuchSite <|
    match item? s site 2 item with
    | none => s
    | some it =>
      if it.f 0 1 != dir || it.started || it.done || !engineFree s site || !earlierStarted s site 2 item ||
          tagWait s site (streamNeed s site it) then s
      else takeTags (startItem s site 2 item 0) site 2 item (streamNeed s site it)

/-- A running stream item takes effect and completes; a site that has left service answers HEARTH_RETIRED (14 R320). Responses to stream
operations that a reset stopped are discarded first (R331). -/
def streamComplete (dir site item : Nat) (s : State) : Out :=
  guarded (siteOk site) .noSuchSite <|
    if awaited (hearth s site) 2 then discardResponses s site 2
    else match item? s site 2 item with
    | none => s
    | some it =>
      if it.f 0 1 != dir || !it.started || it.done || !siteLive s site then s
      else match streamSite (hearth s site) (it.f 1 1) (it.f 2 1) with
        | none => s
        | some o =>
          if !siteLive s o then endSite (itemDone (freeTags s site 2 item) site 2 item) site .hearthRetired 0
          else match runStream s site o it with
            | (none, s) => itemDone (freeTags s site 2 item) site 2 item
            | (some st, s) => endSite (itemDone (freeTags s site 2 item) site 2 item) site st 0

def execPush (site item : Nat) (s : State) : Out := streamStart 0 site item s
def execPushComplete (site item : Nat) (s : State) : Out := streamComplete 0 site item s
def execPull (site item : Nat) (s : State) : Out := streamStart 1 site item s
def execPullComplete (site item : Nat) (s : State) : Out := streamComplete 1 site item s

end Sys2Proof.Machine
end

