-- ==== Sys2Proof/Machine/Sweep.lean ====
section
/-! DEFINITION. Sweep, erasure marks, spare-column repair, leaky buckets (17 R367-R380, R385, 15 R335). -/

namespace Sys2Proof.Machine

/-! ## The column tracker (R373-R375) -/

/-- Does the entry hold the key? -/
def TrackEntry.is (e : TrackEntry) (sub u d : Nat) : Bool := e.subarray == sub && e.u == u && e.d == d

/-- An entry after one more error with its key. -/
def TrackEntry.feed (e : TrackEntry) (value : Bool) : TrackEntry :=
  if e.value = value then { e with rows := e.rows + 1 } else { e with mixed := true }

/-- An entry that is a line fault. -/
def TrackEntry.fault (e : TrackEntry) : Bool := 4 ≤ e.rows && !e.mixed

def setTracker (s : State) (k : Nat) (l : List TrackEntry) : State :=
  modMem s fun m => { m with trackers := putD [] m.trackers k l }

/-- One corrected error of data bit `d` in a row feeds the tracker; the fourth row without MIXED is a line fault (R374, R375). -/
def feedTracker (s : State) (site bank sub u d : Nat) (value : Bool) (addr : Nat) (synd : Check) : State :=
  let k := 128 * site + bank
  let l := lookD [] s.mem.trackers k
  match l.find? (·.is sub u d) with
  | some e =>
    let e' := e.feed value
    if e'.fault then
      modMem (setTracker s k (l.filter fun x => !x.is sub u d)) fun m =>
        { m with faultsDue := m.faultsDue ++
                   [{ site := site, bank := bank, subarray := sub, u := u, d := d, rows := e'.rows, addr := addr, syndrome := synd }] }
    else setTracker s k (l.map fun x => if x.is sub u d then e' else x)
  | none =>
    if l.length < 16 then
      setTracker s k (l ++ [{ subarray := sub, u := u, d := d, value := value, rows := 1, mixed := false }])
    else countAt s 0x227 site 1

/-! ## One word (R370) -/

/-- A Sweep rewrite or poisoning is counted at its site (R426). -/
def countSweep (s : State) (p : Place) (event : Nat) : State := if p.hbm then s else countAt s event p.unit 1

/-- The corrected word is rewritten, its bucket raised, and a slice data bit feeds the tracker (R370, R374). -/
def sweepCorrected (s : State) (p : Place) (h : Option Home) (w : StoredWord) (flips : List Nat) : State :=
  let synd := syndrome w p.cover
  let s := raiseBucket s p (homeTenant s h p.hbm p.unit) (homeAddr h) 0xFF synd
  let fixed := encode (flipData w.data flips) p.cover
  let erased := erasureOf s p
  let s := countSweep (modMem s fun m =>
    if p.hbm then { m with hbm := put m.hbm p.index fixed } else { m with slice := put m.slice p.index fixed }) p 0x226
  match flips.filter fun x => x < 256 && some x != erased with
  | [d] =>
    if p.hbm then s
    else
      let row := p.addr % Config.bankWords / 64
      feedTracker s p.unit p.bank (row / 512) (p.addr % 64) d (w.data.getLsbD d) p.addr synd
  | _ => s

/-- Sweep at one word: eligible words are decoded and acted on; a correction of the erased bit alone is neither rewritten nor counted
(R367, R370, R377, R425). -/
def sweepWord (s : State) (hbm : Bool) (unit addr : Nat) : State :=
  let h := homeOf s hbm unit addr
  if !eligible s h hbm unit then s
  else
    let p := homePlace h hbm unit addr
    let s := countSweep s p 0x225
    match stored? s p with
    | none => s
    | some w =>
      match placeClass s p w with
      | .clean | .poisoned => s
      | .corrected flips =>
        if some flips = (erasureOf s p).map ([·]) then s else sweepCorrected s p h w flips
      | .address | .ue => countSweep (poisonPlace s p h) p 0x226

/-- Key of a unit in Mem.cursor and Mem.passes. -/
def sweepKey : SweepUnit → Nat
  | .bank site b => 128 * site + b
  | .channel pc => 25600 + pc

/-- Rows of a bank, 2 KiB blocks of a pseudo-channel (R368). -/
def sweepSteps : SweepUnit → Nat
  | .bank _ _ => 6144
  | .channel _ => 549317

def sweepUsable (s : State) : SweepUnit → Bool
  | .bank site b => bankLive s site b
  | .channel pc => channelLive s pc

/-- The words of one row or block; the last block of a pseudo-channel is short (R214, R368). -/
def visitUnit (s : State) : SweepUnit → Nat → State
  | .bank site b, row => (List.range 64).foldl (fun s i => sweepWord s false site (Config.bankWords * b + 64 * row + i)) s
  | .channel pc, blk =>
    ((List.range 64).filter fun i => 64 * blk + i < Config.channelWords).foldl (fun s i => sweepWord s true pc (64 * blk + i)) s

/-- The cursor moves on; at the end of a pass the pass counts, and a bank's tracker is cleared (R368, R372, R373). -/
def sweepAdvance (s : State) (u : SweepUnit) : State :=
  let k := sweepKey u
  let c := lookD 0 s.mem.cursor k + 1
  if c < sweepSteps u then modMem s fun m => { m with cursor := putD 0 m.cursor k c }
  else modMem s fun m =>
    { m with cursor := del m.cursor k, passes := put m.passes k ((lookD 0 m.passes k + 1) % 2 ^ 64),
             trackers := if k < 25600 then del m.trackers k else m.trackers }

/-- A unit's visit (R368, R369). -/
def execSweepVisit (u : SweepUnit) (s : State) : Out :=
  guarded u.ok .noSuchUnit <|
    if live s && sweepUsable s u then sweepAdvance (visitUnit s u (lookD 0 s.mem.cursor (sweepKey u))) u else s

/-! ## Line faults and repairs (R376-R379) -/

/-- The oldest line fault is marked, or not, and a repair becomes pending (R376). -/
def execErasureMark (s : State) : Out :=
  .next <|
    match s.mem.faultsDue with
    | [] => s
    | f :: rest =>
      let s := modMem s fun m => { m with faultsDue := rest }
      let k := subKey f.site f.bank f.subarray
      if !bankLive s f.site f.bank then lineRecord s 4 f true false [0]
      else
        let s := modMem s fun m => { m with repairs := m.repairs ++ [f] }
        if (look s.mem.erasures k).isSome then lineRecord s 4 f true false [0]
        else lineRecord (modMem s fun m => { m with erasures := put m.erasures k (f.d, f.u) }) 4 f false false [0]

/-- A pending repair of a bank whose site belongs to no tenant (R378). -/
def execSpareColumnRepair (site bank : Nat) (s : State) : Out :=
  guarded (inSite site bank 128) .noSuchSite <|
    match s.mem.repairs.find? fun f => f.site == site && f.bank == bank with
    | none => s
    | some f => if live s && bankLive s site bank && (ownerOf s site).isNone then repairOne s f else s

/-! ## Leaky buckets (R335, R385) -/

/-- Key of a bucket in Ash.buckets. -/
def bucketNumber : Bucket → Nat
  | .layer site l => 8 * site + l
  | .channel pc => 1600 + pc

/-- LEAK_S seconds have passed since the bucket's last leak: it loses 1, unless it is at 0. -/
def execBucketLeak (b : Bucket) (s : State) : Out :=
  guarded b.ok .noSuchUnit <|
    let k := bucketNumber b
    let since := lookD s.ash.leakBase s.ash.leakAt k
    let step := s.ash.leakS * 10 ^ 9
    if s.dev.state != .off && due s since step then
      modAsh s fun a => { a with buckets := putD 0 a.buckets k (lookD 0 a.buckets k - 1), leakAt := put a.leakAt k (since + step) }
    else s

end Sys2Proof.Machine
end

