-- ==== Sys2Proof/Machine/Dispatch.lean ====
section
/-! DEFINITION. The meaning of each command: one direct call for each constructor of Instr. -/

namespace Sys2Proof.Machine

def exec (i : Instr) (s : State) : Host.Outcome State Fault Refusal :=
  match i with
  | .vauxUp strap => Sys2Proof.Machine.execVauxUp strap s
  | .drivePwrEn => Sys2Proof.Machine.execDrivePwrEn s
  | .pwrGoodRise katOk => Sys2Proof.Machine.execPwrGoodRise katOk s
  | .pwrGoodTimeout => Sys2Proof.Machine.execPwrGoodTimeout s
  | .pwrGoodFall => Sys2Proof.Machine.execPwrGoodFall s
  | .pkgResetAssert lowNs katOk => Sys2Proof.Machine.execPkgResetAssert lowNs katOk s
  | .pkgResetRelease katOk => Sys2Proof.Machine.execPkgResetRelease katOk s
  | .powerUpRerun => Sys2Proof.Machine.execPowerUpRerun s
  | .coolOkChange level => Sys2Proof.Machine.execCoolOkChange level s
  | .sensorSample readings => Sys2Proof.Machine.execSensorSample readings s
  | .hardwareTrip => Sys2Proof.Machine.execHardwareTrip s
  | .perstNAssert => Sys2Proof.Machine.execPerstNAssert s
  | .perstNRelease => Sys2Proof.Machine.execPerstNRelease s
  | .configRequest req => Sys2Proof.Machine.execConfigRequest req s
  | .vfDisable numVfs vfEnable => Sys2Proof.Machine.execVfDisable numVfs vfEnable s
  | .busMasterEnableSet fn on => Sys2Proof.Machine.execBusMasterEnableSet fn on s
  | .msixUnmask fn what => Sys2Proof.Machine.execMsixUnmask fn what s
  | .functionLevelReset fn => Sys2Proof.Machine.execFunctionLevelReset fn s
  | .stokerStart found => Sys2Proof.Machine.execStokerStart found s
  | .bootTimeout => Sys2Proof.Machine.execBootTimeout s
  | .trainingRecordWrite firstOk secondOk => Sys2Proof.Machine.execTrainingRecordWrite firstOk secondOk s
  | .unitFenced u => Sys2Proof.Machine.execUnitFenced u s
  | .fptPublish => Sys2Proof.Machine.execFptPublish s
  | .fptPersist firstOk secondOk => Sys2Proof.Machine.execFptPersist firstOk secondOk s
  | .trayRead bytes => Sys2Proof.Machine.execTrayRead bytes s
  | .traySensorLost => Sys2Proof.Machine.execTraySensorLost s
  | .linkDataReceive link far group flit => Sys2Proof.Machine.execLinkDataReceive link far group flit s
  | .linkCtrlReceive link far group flit => Sys2Proof.Machine.execLinkCtrlReceive link far group flit s
  | .linkFlitSend link far => Sys2Proof.Machine.execLinkFlitSend link far s
  | .ctrlSend link far => Sys2Proof.Machine.execCtrlSend link far s
  | .replayTimeout link far => Sys2Proof.Machine.execReplayTimeout link far s
  | .groupSuspect link far group => Sys2Proof.Machine.execGroupSuspect link far group s
  | .retryStorm link far => Sys2Proof.Machine.execRetryStorm link far s
  | .retrainStart link found => Sys2Proof.Machine.execRetrainStart link found s
  | .retrainBoundMiss link confirmed => Sys2Proof.Machine.execRetrainBoundMiss link confirmed s
  | .detourBeginReceive far firstSeq count => Sys2Proof.Machine.execDetourBeginReceive far firstSeq count s
  | .relayedFlitReceive far => Sys2Proof.Machine.execRelayedFlitReceive far s
  | .detourRetry locked found => Sys2Proof.Machine.execDetourRetry locked found s
  | .routingGeneration => Sys2Proof.Machine.execRoutingGeneration s
  | .epochChange => Sys2Proof.Machine.execEpochChange s
  | .escapeMove flit => Sys2Proof.Machine.execEscapeMove flit s
  | .flitAged flit => Sys2Proof.Machine.execFlitAged flit s
  | .retiredHearthRequest flit => Sys2Proof.Machine.execRetiredHearthRequest flit s
  | .devtimeSync => Sys2Proof.Machine.execDevtimeSync s
  | .registerWrite fn offset width value => Sys2Proof.Machine.execRegisterWrite fn offset width value s
  | .lowHalfRead fn read => Sys2Proof.Machine.execLowHalfRead fn read s
  | .mbxReqPiWrite fn value => Sys2Proof.Machine.execMbxReqPiWrite fn value s
  | .mbxRspCiWrite fn value => Sys2Proof.Machine.execMbxRspCiWrite fn value s
  | .mbxTakeRequest fn => Sys2Proof.Machine.execMbxTakeRequest fn s
  | .mailboxReset fn => Sys2Proof.Machine.execMailboxReset fn s
  | .mailboxResetDone fn => Sys2Proof.Machine.execMailboxResetDone fn s
  | .urgentGo fn => Sys2Proof.Machine.execUrgentGo fn s
  | .sysHello fn slot => Sys2Proof.Machine.execSysHello fn slot s
  | .sysStatus fn slot => Sys2Proof.Machine.execSysStatus fn slot s
  | .fwUpdate fn slot => Sys2Proof.Machine.execFwUpdate fn slot s
  | .trainingPolicy fn slot => Sys2Proof.Machine.execTrainingPolicy fn slot s
  | .tenantCreate fn slot => Sys2Proof.Machine.execTenantCreate fn slot s
  | .tenantDestroy fn slot => Sys2Proof.Machine.execTenantDestroy fn slot s
  | .tenantAssign fn slot => Sys2Proof.Machine.execTenantAssign fn slot s
  | .tenantRelease fn slot => Sys2Proof.Machine.execTenantRelease fn slot s
  | .tenantReset fn slot => Sys2Proof.Machine.execTenantReset fn slot s
  | .tenantHalt fn slot => Sys2Proof.Machine.execTenantHalt fn slot s
  | .tenantResume fn slot => Sys2Proof.Machine.execTenantResume fn slot s
  | .tenantNotify fn slot => Sys2Proof.Machine.execTenantNotify fn slot s
  | .queueCreate fn slot => Sys2Proof.Machine.execQueueCreate fn slot s
  | .queueDestroy fn slot => Sys2Proof.Machine.execQueueDestroy fn slot s
  | .regionDefine fn slot => Sys2Proof.Machine.execRegionDefine fn slot s
  | .regionDelete fn slot => Sys2Proof.Machine.execRegionDelete fn slot s
  | .regionFill fn slot => Sys2Proof.Machine.execRegionFill fn slot s
  | .regionQuery fn slot => Sys2Proof.Machine.execRegionQuery fn slot s
  | .apertureMap fn slot => Sys2Proof.Machine.execApertureMap fn slot s
  | .apertureUnmap fn slot => Sys2Proof.Machine.execApertureUnmap fn slot s
  | .andironModelLoad fn slot => Sys2Proof.Machine.execAndironModelLoad fn slot s
  | .andironModelUnload fn slot => Sys2Proof.Machine.execAndironModelUnload fn slot s
  | .emberActLoad fn slot => Sys2Proof.Machine.execEmberActLoad fn slot s
  | .counterWindowSet fn slot => Sys2Proof.Machine.execCounterWindowSet fn slot s
  | .ashRingConfig fn slot => Sys2Proof.Machine.execAshRingConfig fn slot s
  | .ashBucketConfig fn slot => Sys2Proof.Machine.execAshBucketConfig fn slot s
  | .sweepConfig fn slot => Sys2Proof.Machine.execSweepConfig fn slot s
  | .floorplanRead fn slot => Sys2Proof.Machine.execFloorplanRead fn slot s
  | .draughtCapSet fn slot => Sys2Proof.Machine.execDraughtCapSet fn slot s
  | .draughtRampSet fn slot => Sys2Proof.Machine.execDraughtRampSet fn slot s
  | .draughtStatus fn slot => Sys2Proof.Machine.execDraughtStatus fn slot s
  | .draughtTripTest fn slot => Sys2Proof.Machine.execDraughtTripTest fn slot s
  | .chainPortConfig fn slot => Sys2Proof.Machine.execChainPortConfig fn slot s
  | .chainDomainBind fn slot => Sys2Proof.Machine.execChainDomainBind fn slot s
  | .chainDomainExport fn slot => Sys2Proof.Machine.execChainDomainExport fn slot s
  | .chainDomainUnbind fn slot => Sys2Proof.Machine.execChainDomainUnbind fn slot s
  | .attestReport fn slot => Sys2Proof.Machine.execAttestReport fn slot s
  | .securityZeroise fn slot => Sys2Proof.Machine.execSecurityZeroise fn slot s
  | .smbStatus pec => Sys2Proof.Machine.execSmbStatus pec s
  | .smbPkgPower pec => Sys2Proof.Machine.execSmbPkgPower pec s
  | .smbTemps pec => Sys2Proof.Machine.execSmbTemps pec s
  | .smbTray pec => Sys2Proof.Machine.execSmbTray pec s
  | .smbBoardCap write pec => Sys2Proof.Machine.execSmbBoardCap write pec s
  | .smbThermalCycles pec => Sys2Proof.Machine.execSmbThermalCycles pec s
  | .smbFwLevel pec => Sys2Proof.Machine.execSmbFwLevel pec s
  | .smbTripCause pec => Sys2Proof.Machine.execSmbTripCause pec s
  | .smbResetReq value pec katOk => Sys2Proof.Machine.execSmbResetReq value pec katOk s
  | .alertResponseAddress => Sys2Proof.Machine.execAlertResponseAddress s
  | .dblSqTailWrite fn queue value => Sys2Proof.Machine.execDblSqTailWrite fn queue value s
  | .dblCqHeadWrite fn queue value => Sys2Proof.Machine.execDblCqHeadWrite fn queue value s
  | .dblSignalWrite fn signal value => Sys2Proof.Machine.execDblSignalWrite fn signal value s
  | .apertureRead fn offset len => Sys2Proof.Machine.execApertureRead fn offset len s
  | .apertureWrite fn offset bytes => Sys2Proof.Machine.execApertureWrite fn offset bytes s
  | .runRecipe tenant queue => Sys2Proof.Machine.execRunRecipe tenant queue s
  | .andironBatch tenant queue => Sys2Proof.Machine.execAndironBatch tenant queue s
  | .emberRun tenant queue => Sys2Proof.Machine.execEmberRun tenant queue s
  | .copy tenant queue => Sys2Proof.Machine.execCopy tenant queue s
  | .fill tenant queue => Sys2Proof.Machine.execFill tenant queue s
  | .fence tenant queue => Sys2Proof.Machine.execFence tenant queue s
  | .signal tenant queue => Sys2Proof.Machine.execSignal tenant queue s
  | .wait tenant queue => Sys2Proof.Machine.execWait tenant queue s
  | .turnover tenant queue => Sys2Proof.Machine.execTurnover tenant queue s
  | .waitTimeout disp => Sys2Proof.Machine.execWaitTimeout disp s
  | .turnoverDrained disp => Sys2Proof.Machine.execTurnoverDrained disp s
  | .recipeClaim disp => Sys2Proof.Machine.execRecipeClaim disp s
  | .dispatchComplete disp => Sys2Proof.Machine.execDispatchComplete disp s
  | .recipeSiteEnd site => Sys2Proof.Machine.execRecipeSiteEnd site s
  | .ibufFill site => Sys2Proof.Machine.execIbufFill site s
  | .illegal site => Sys2Proof.Machine.execIllegal site s
  | .alu site => Sys2Proof.Machine.execAlu site s
  | .addi site => Sys2Proof.Machine.execAddi site s
  | .andi site => Sys2Proof.Machine.execAndi site s
  | .ori site => Sys2Proof.Machine.execOri site s
  | .xori site => Sys2Proof.Machine.execXori site s
  | .slli site => Sys2Proof.Machine.execSlli site s
  | .srli site => Sys2Proof.Machine.execSrli site s
  | .srai site => Sys2Proof.Machine.execSrai site s
  | .movi site => Sys2Proof.Machine.execMovi site s
  | .movk0 site => Sys2Proof.Machine.execMovk0 site s
  | .movk1 site => Sys2Proof.Machine.execMovk1 site s
  | .movk2 site => Sys2Proof.Machine.execMovk2 site s
  | .movk3 site => Sys2Proof.Machine.execMovk3 site s
  | .cmp site => Sys2Proof.Machine.execCmp site s
  | .cmpi site => Sys2Proof.Machine.execCmpi site s
  | .plog site => Sys2Proof.Machine.execPlog site s
  | .lds site => Sys2Proof.Machine.execLds site s
  | .lws site => Sys2Proof.Machine.execLws site s
  | .sts site => Sys2Proof.Machine.execSts site s
  | .sws site => Sys2Proof.Machine.execSws site s
  | .ldr site => Sys2Proof.Machine.execLdr site s
  | .lwr site => Sys2Proof.Machine.execLwr site s
  | .str site => Sys2Proof.Machine.execStr site s
  | .swr site => Sys2Proof.Machine.execSwr site s
  | .br site => Sys2Proof.Machine.execBr site s
  | .call site => Sys2Proof.Machine.execCall site s
  | .jr site => Sys2Proof.Machine.execJr site s
  | .issue site => Sys2Proof.Machine.execIssue site s
  | .waitq site => Sys2Proof.Machine.execWaitq site s
  | .rdq site => Sys2Proof.Machine.execRdq site s
  | .waitf site => Sys2Proof.Machine.execWaitf site s
  | .rdf site => Sys2Proof.Machine.execRdf site s
  | .mfs site => Sys2Proof.Machine.execMfs site s
  | .mts site => Sys2Proof.Machine.execMts site s
  | .iflush site => Sys2Proof.Machine.execIflush site s
  | .trap site => Sys2Proof.Machine.execTrap site s
  | .rte site => Sys2Proof.Machine.execRte site s
  | .nop site => Sys2Proof.Machine.execNop site s
  | .endRecipe site => Sys2Proof.Machine.execEndRecipe site s
  | .tileStart site item => Sys2Proof.Machine.execTileStart site item s
  | .tileComplete site item => Sys2Proof.Machine.execTileComplete site item s
  | .quadrantRotation => Sys2Proof.Machine.execQuadrantRotation s
  | .vectorAdd site => Sys2Proof.Machine.execVectorAdd site s
  | .vectorSub site => Sys2Proof.Machine.execVectorSub site s
  | .vectorMul site => Sys2Proof.Machine.execVectorMul site s
  | .vectorMax site => Sys2Proof.Machine.execVectorMax site s
  | .vectorMin site => Sys2Proof.Machine.execVectorMin site s
  | .vectorFma site => Sys2Proof.Machine.execVectorFma site s
  | .vectorScale site => Sys2Proof.Machine.execVectorScale site s
  | .rowscale site => Sys2Proof.Machine.execRowscale site s
  | .colscale site => Sys2Proof.Machine.execColscale site s
  | .vectorAct site => Sys2Proof.Machine.execVectorAct site s
  | .rsqrt site => Sys2Proof.Machine.execRsqrt site s
  | .rsum site => Sys2Proof.Machine.execRsum site s
  | .rmax site => Sys2Proof.Machine.execRmax site s
  | .vectorCvt site => Sys2Proof.Machine.execVectorCvt site s
  | .cvti site => Sys2Proof.Machine.execCvti site s
  | .vectorOpComplete site => Sys2Proof.Machine.execVectorOpComplete site s
  | .dmaTransferStart site channel => Sys2Proof.Machine.execDmaTransferStart site channel s
  | .dmaTransferComplete site channel => Sys2Proof.Machine.execDmaTransferComplete site channel s
  | .push site item => Sys2Proof.Machine.execPush site item s
  | .pushComplete site item => Sys2Proof.Machine.execPushComplete site item s
  | .pull site item => Sys2Proof.Machine.execPull site item s
  | .pullComplete site item => Sys2Proof.Machine.execPullComplete site item s
  | .emberTokenClaim disp => Sys2Proof.Machine.execEmberTokenClaim disp s
  | .emberProgramStart site ember => Sys2Proof.Machine.execEmberProgramStart site ember s
  | .emberEnd site ember => Sys2Proof.Machine.execEmberEnd site ember s
  | .emberLoad site ember => Sys2Proof.Machine.execEmberLoad site ember s
  | .emberStore site ember => Sys2Proof.Machine.execEmberStore site ember s
  | .emberAdd site ember => Sys2Proof.Machine.execEmberAdd site ember s
  | .emberSub site ember => Sys2Proof.Machine.execEmberSub site ember s
  | .emberMul site ember => Sys2Proof.Machine.execEmberMul site ember s
  | .emberScale site ember => Sys2Proof.Machine.execEmberScale site ember s
  | .emberAct site ember => Sys2Proof.Machine.execEmberAct site ember s
  | .emberCvt site ember => Sys2Proof.Machine.execEmberCvt site ember s
  | .emberMov site ember => Sys2Proof.Machine.execEmberMov site ember s
  | .emberLoop site ember => Sys2Proof.Machine.execEmberLoop site ember s
  | .emberProgramEnd site entry => Sys2Proof.Machine.execEmberProgramEnd site entry s
  | .layerThrottle site layer => Sys2Proof.Machine.execLayerThrottle site layer s
  | .layerUnthrottle site layer => Sys2Proof.Machine.execLayerUnthrottle site layer s
  | .refreshIntervalShorten site layer => Sys2Proof.Machine.execRefreshIntervalShorten site layer s
  | .refreshIntervalLengthen site layer => Sys2Proof.Machine.execRefreshIntervalLengthen site layer s
  | .rowRefresh site bank row => Sys2Proof.Machine.execRowRefresh site bank row s
  | .andironLaunchStart site => Sys2Proof.Machine.execAndironLaunchStart site s
  | .environmentStart site lane => Sys2Proof.Machine.execEnvironmentStart site lane s
  | .andironIteration site lane => Sys2Proof.Machine.execAndironIteration site lane s
  | .environmentEnd site lane => Sys2Proof.Machine.execEnvironmentEnd site lane s
  | .launchComplete site => Sys2Proof.Machine.execLaunchComplete site s
  | .chainWrite port frame => Sys2Proof.Machine.execChainWrite port frame s
  | .chainReadReq port frame => Sys2Proof.Machine.execChainReadReq port frame s
  | .chainReadResp port frame => Sys2Proof.Machine.execChainReadResp port frame s
  | .chainErrorResp port frame => Sys2Proof.Machine.execChainErrorResp port frame s
  | .chainAck port frame => Sys2Proof.Machine.execChainAck port frame s
  | .chainNak port frame => Sys2Proof.Machine.execChainNak port frame s
  | .chainProbe port frame => Sys2Proof.Machine.execChainProbe port frame s
  | .frameDiscard port frame => Sys2Proof.Machine.execFrameDiscard port frame s
  | .chainFrameSend port => Sys2Proof.Machine.execChainFrameSend port s
  | .chainAckDue port => Sys2Proof.Machine.execChainAckDue port s
  | .chainRetransmit port => Sys2Proof.Machine.execChainRetransmit port s
  | .pcsLock port => Sys2Proof.Machine.execPcsLock port s
  | .initProbe port => Sys2Proof.Machine.execInitProbe port s
  | .chainPortUp port => Sys2Proof.Machine.execChainPortUp port s
  | .idleProbe port => Sys2Proof.Machine.execIdleProbe port s
  | .chainPortFail port => Sys2Proof.Machine.execChainPortFail port s
  | .chainPortRetry port => Sys2Proof.Machine.execChainPortRetry port s
  | .chainReadTimeout port tag => Sys2Proof.Machine.execChainReadTimeout port tag s
  | .sweepVisit u => Sys2Proof.Machine.execSweepVisit u s
  | .erasureMark => Sys2Proof.Machine.execErasureMark s
  | .spareColumnRepair site bank => Sys2Proof.Machine.execSpareColumnRepair site bank s
  | .bucketLeak b => Sys2Proof.Machine.execBucketLeak b s
  | .ashEventArrive => Sys2Proof.Machine.execAshEventArrive s
  | .ashRecordWrite => Sys2Proof.Machine.execAshRecordWrite s
  | .lost fn => Sys2Proof.Machine.execLost fn s
  | .ashCiWrite fn value => Sys2Proof.Machine.execAshCiWrite fn value s
  | .droop island => Sys2Proof.Machine.execDroop island s
  | .islandDvfsPeriod island estimate => Sys2Proof.Machine.execIslandDvfsPeriod island estimate s
  | .powerTokenPeriod figures => Sys2Proof.Machine.execPowerTokenPeriod figures s
  | .rEstUpdate powerW => Sys2Proof.Machine.execREstUpdate powerW s
  | .capLoopPeriod => Sys2Proof.Machine.execCapLoopPeriod s
  | .heatBalanceCheck powerW => Sys2Proof.Machine.execHeatBalanceCheck powerW s
  | .dramOver site layer => Sys2Proof.Machine.execDramOver site layer s
  | .logicOver site island => Sys2Proof.Machine.execLogicOver site island s
  | .hbmHot stack temp => Sys2Proof.Machine.execHbmHot stack temp s
  | .thermalCycleSample => Sys2Proof.Machine.execThermalCycleSample s
  | .journalAppend ok => Sys2Proof.Machine.execJournalAppend ok s
  | .layerMapRefresh => Sys2Proof.Machine.execLayerMapRefresh s
  | .counterSnapshot => Sys2Proof.Machine.execCounterSnapshot s
  | .entropyHealthFail => Sys2Proof.Machine.execEntropyHealthFail s
  | .entropyRerunDone pass => Sys2Proof.Machine.execEntropyRerunDone pass s
  | .drbgReseed => Sys2Proof.Machine.execDrbgReseed s
  | .vauxLoss => Sys2Proof.Machine.execVauxLoss s
  | .pcsLockLoss port => Sys2Proof.Machine.execPcsLockLoss port s
  | .outputPortGrant node port => Sys2Proof.Machine.execOutputPortGrant node port s
  | .undefinedDescriptorOpcode tenant queue => Sys2Proof.Machine.execUndefinedDescriptorOpcode tenant queue s

end Sys2Proof.Machine
end

