-- ==== Sys2Proof/Machine/Step.lean ====
section
/-! DEFINITION. One step: the command at the front of the queue, or one tick of devtime on an empty queue. -/

namespace Sys2Proof.Machine

/-- An empty queue: a nanosecond passes for the master devtime while VAUX is up (R25; DESIGN CHOICE, log entry 2). -/
def tick (s : State) : State :=
  if s.ao.vauxOk then { s with ao := { s.ao with devtime := (s.ao.devtime + 1) % 2 ^ 64 } } else s

/-- Take the command at the front and carry it out with the queue's rest (log entry 1). -/
def step (s : State) : Host.Outcome State Fault Refusal :=
  match s.pending with
  | [] => .next (tick s)
  | c :: rest => exec c { s with pending := rest }

/-- The command that a word spells at the front of the queue; no word spells one. -/
def State.withFetchWord (s : State) (nbits w : Nat) : State :=
  match decodeTableWord nbits w with
  | none => s
  | some c => { s with pending := c :: s.pending }

end Sys2Proof.Machine
end

