-- ==== Sys2Proof/Safety.lean ====
section
/-! DEFINITION. The terms the statements are made of: a command completes with a property, what is left of the part in OFF, and
the invariants. -/

namespace Sys2Proof.Machine

/-- The command completes, in a state with the property. -/
def Gives (c : Instr) (s : State) (P : State → Prop) : Prop := ∃ t, exec c s = .next t ∧ P t

/-- The command completes and changes nothing. -/
def Idles (c : Instr) (s : State) : Prop := exec c s = .next s

/-- The part entered OFF: everything outside the AO domain, the flash, OTP and host memory is as at reset (R58, R63-R66, R117). -/
def Cold (s t : State) : Prop :=
  t = { State.reset with pending := s.pending, free := t.free, ao := t.ao, dev := t.dev, sec := t.sec, fpt := t.fpt,
                         pcie := { Pcie.reset with perst := s.pcie.perst, sent := s.pcie.sent },
                         mem := { Mem.reset with host := s.mem.host, hostBad := s.mem.hostBad } } ∧
    t.dev = { Dev.reset with changedAt := t.dev.changedAt, bootAt := s.dev.bootAt, preferB := s.dev.preferB,
                             fwQuad := s.dev.fwQuad, cfgQuad := s.dev.cfgQuad, fwFlash := s.dev.fwFlash, fwErased := s.dev.fwErased } ∧
    t.sec = { Sec.reset with revoked := s.sec.revoked, lotKeyBlown := s.sec.lotKeyBlown } ∧
    t.fpt = { Fpt.reset with flashA := s.fpt.flashA, flashB := s.fpt.flashB, trainA := s.fpt.trainA, trainB := s.fpt.trainB,
                             journal := s.fpt.journal, journalNext := s.fpt.journalNext }

/-- Of the AO domain, what a look at the trip conditions may change (R64): the time since which PKG_RESET_N has been low without
one, and, once that is 1 ms ago, the latched trip. -/
def TripSettled (x y : Ao) : Prop :=
  y = { x with tripQuietAt := y.tripQuietAt, tripLatched := y.tripLatched, tripCause := y.tripCause, smbAlert := y.smbAlert } ∧
    (x.pkgResetN = true → y = { x with tripQuietAt := none }) ∧
    (x.tripLatched = false → y = { x with tripQuietAt := y.tripQuietAt })

/-- OTP bits only ever go from 0 to 1 (R440, R449). -/
def OtpKept (s t : State) : Prop :=
  (∀ k, s.sec.revoked.getLsbD k = true → t.sec.revoked.getLsbD k = true) ∧
    (s.sec.lotKeyBlown = true → t.sec.lotKeyBlown = true)

/-- One event of a type was raised, with its SOURCE and the first two bytes of its DETAIL. -/
def Raised (s t : State) (ty source d0 d1 : Nat) : Prop :=
  ∃ e, t.ash.flying = s.ash.flying ++ [e] ∧ e.type_ = ty ∧ e.source = source ∧ e.at_ = s.ao.devtime ∧
    (e.detail.getD 0 0).toNat = d0 ∧ (e.detail.getD 1 0).toNat = d1

/-- Every other end of a die link is as it was. -/
def OtherEnds (s t : State) (l : Nat) (far : Bool) : Prop :=
  ∀ l' far', l' < 3 → (l' ≠ l ∨ far' ≠ far) → linkEnd t l' far' = linkEnd s l' far'

/-- Flits of a router that may go out by a port in this cycle: those with a credit that are next of their message, on a channel that
no other message holds. -/
def readyAt (s : State) (node port : Nat) : List MeshFlit :=
  (s.fabric.flits.filter fun f => f.node == node && outPort s f == some port).filter
    fun f => hasCredit s node port f.vc ((nextNode s f).getD node) && inTurn s port f

/-- An aged flit must be granted now (R323). -/
def agedForced (s : State) (node port : Nat) : Bool :=
  (readyAt s node port).any (·.aged) && decide (32 ≤ lookD 32 s.fabric.sinceAged (8 * node + port))

/-- A flit as it crosses to another router: all that it carries stays (R312, R313). -/
def Carries (g w : MeshFlit) : Prop :=
  g.dest = w.dest ∧ g.agent = w.agent ∧ g.src = w.src ∧ g.srcAgent = w.srcAgent ∧ g.tenant = w.tenant ∧ g.msg = w.msg ∧
    g.last = w.last ∧ g.error = w.error ∧ g.data = w.data ∧ g.gen = w.gen

/-- The ends of the bridge that have declared it failed (`a` FB0's, `b` FB1's) have stopped sending, and DETOUR_BEGIN and their
unacknowledged flits are on their way to the other end (R360 step 1). -/
def Declared (s t : State) (a b : Bool) : Prop :=
  let gone (far : Bool) := (linkEnd t 2 far).detourBegun = true ∧ (linkEnd t 2 far).resend = [] ∧
    (linkEnd t 2 (!far)).relayIn = (linkEnd s 2 (!far)).relayIn ++ (linkEnd s 2 far).replay ∧
    (linkEnd t 2 (!far)).beginIn = some ((((linkEnd s 2 far).replay.head?).map (·.seq)).getD (linkEnd s 2 far).nextSeq,
      (linkEnd s 2 far).replay.length)
  (a = true → gone false) ∧ (b = true → gone true)

/-! ## Mailbox commands -/

/-- The request of a function in a slot is taken, it is its turn, it passes the checks of R136, and no mailbox reset has
discarded its response. -/
def Begins (s : State) (fn slot op : Nat) (tk : Taken) : Prop :=
  fn ≤ 16 ∧ request? s fn slot op = some tk ∧ mayStart s fn tk = true ∧ preCheck s fn tk = none ∧ tk.discard = false

/-- The request is answered with a status and a payload: it is no longer held, and a response that is not urgent stands in the
next response slot (R126, R129, R134, R135). -/
def Answered (s t : State) (fn : Nat) (tk : Taken) (rc : Rc) (payload : List Byte) : Prop :=
  (∀ e ∈ (mbx t fn).taken, e.seq ≠ tk.seq) ∧
    (tk.slot ≠ 255 →
      (mbx t fn).rspPi = ((mbx s fn).rspPi + 1) % 128 ∧
      fld ((mbx t fn).rsp.read 0 (256 * ((mbx s fn).rspPi % 64)) 256) 0 4 = fld tk.msg 0 4 ∧
      fld ((mbx t fn).rsp.read 0 (256 * ((mbx s fn).rspPi % 64)) 256) 5 1 = rc.code ∧
      slice ((mbx t fn).rsp.read 0 (256 * ((mbx s fn).rspPi % 64)) 256) 0x10 payload.length = payload)

/-- The request goes on until the Epoch change it asks for has run (R461, R462). -/
def Awaits (s t : State) (fn : Nat) (tk : Taken) (a : EpochAction) (payload : List Byte) : Prop :=
  t.epoch = { s.epoch with waiting := s.epoch.waiting ++ [{ action := a, reply := some (fn, tk.seq, payload) }] } ∧
    (∀ e ∈ (mbx t fn).taken, e.seq = tk.seq → e.started = true ∧ e.startedAt = s.ao.devtime) ∧
    (mbx t fn).rspPi = (mbx s fn).rspPi

/-- What answering a request may change beside the function's mailbox: the count of free values read, the vector raised. -/
def AnswerFrame (s t : State) : Prop :=
  t = { s with free := t.free, mbx := t.mbx, pcie := t.pcie, counters := t.counters }

/-- The mailbox commands by opcode (R142). -/
def mailCommands : List (Nat × (Nat → Nat → Instr)) :=
  [(0x1, .sysHello), (0x2, .sysStatus), (0x3, .fwUpdate), (0x4, .trainingPolicy), (0x100, .tenantCreate),
   (0x101, .tenantDestroy), (0x102, .tenantAssign), (0x103, .tenantRelease), (0x104, .tenantReset), (0x105, .tenantHalt),
   (0x106, .tenantResume), (0x107, .tenantNotify), (0x200, .queueCreate), (0x201, .queueDestroy)] ++
  [(0x300, .regionDefine), (0x301, .regionDelete), (0x302, .regionFill), (0x303, .regionQuery), (0x304, .apertureMap),
   (0x305, .apertureUnmap), (0x400, .andironModelLoad), (0x401, .andironModelUnload), (0x402, .emberActLoad),
   (0x500, .counterWindowSet), (0x501, .ashRingConfig), (0x502, .ashBucketConfig), (0x503, .sweepConfig),
   (0x504, .floorplanRead)] ++
  [(0x600, .draughtCapSet), (0x601, .draughtRampSet), (0x602, .draughtStatus), (0x603, .draughtTripTest),
   (0x700, .chainPortConfig), (0x701, .chainDomainBind), (0x702, .chainDomainExport), (0x703, .chainDomainUnbind),
   (0x800, .attestReport), (0x801, .securityZeroise)]

/-! ## The dispatcher -/

/-- Every dispatch in flight has a number of its own, below the next one. -/
def FreshIds (s : State) : Prop :=
  (∀ d ∈ s.work.disps, d.id < s.work.nextId) ∧ (s.work.disps.map (·.id)).Nodup

/-- It is the turn of a queue, and the descriptor the dispatcher fetches from it is `b`; `a` is the state with it admitted
(R153, R154, R156). -/
def Fetches (s : State) (tn q : Nat) (b : List Byte) (a : State) : Prop :=
  queueOk tn q = true ∧ nextTake s = some (tn, q) ∧ ∃ s', fetchDesc s tn q = (.bytes b, s') ∧ a = enterDisp s' tn q b

/-- The descriptor is taken: SQ_HEAD and INFLIGHT advance, and its dispatch has the property. -/
def Took (s t : State) (tn q : Nat) (b : List Byte) (P : Disp → Prop) : Prop :=
  (queue t tn q).sqHead = ((queue s tn q).sqHead + 1) % (2 * (queue s tn q).sqEntries) ∧
    (queue t tn q).inflight = (queue s tn q).inflight + 1 ∧ t.work.lastTenant = tn ∧ (tenant t tn).lastQueue = q ∧
    t.work.nextId = s.work.nextId + 1 ∧
    ∃ d ∈ t.work.disps, d.id = s.work.nextId ∧ d.tenant = tn ∧ d.queue = q ∧ d.desc = b ∧ d.started = s.ao.devtime ∧ P d

/-- No descriptor of a queue waits to start, and numbers are fresh (R170). -/
def StartsNow (s : State) (tn q : Nat) : Prop :=
  FreshIds s ∧ ∀ e ∈ s.work.disps, e.unclaimed = true → e.tenant = tn → e.queue = q → e.orphan = true

/-- A dispatch is the only one of its queue that waits to start. -/
def WaitsAlone (s : State) (d : Disp) : Prop :=
  ∀ e ∈ s.work.disps, e.unclaimed = true → e.tenant = d.tenant → e.queue = d.queue → e.id = d.id

/-- The dispatch has ended with one status, DETAIL and site. -/
def EndedWith (d : Disp) (st : Status) (det site : Nat) : Prop :=
  d.ended = true ∧ d.working = [] ∧ d.reports = [{ site := site, status := st, detail := det }]

/-- The commands that take a descriptor of OPCODE 1 to 9, in order (R157). -/
def takeRows (tn q : Nat) : List Instr :=
  [.runRecipe tn q, .andironBatch tn q, .emberRun tn q, .copy tn q, .fill tn q, .fence tn q, .signal tn q, .wait tn q,
   .turnover tn q]

/-- The command takes a descriptor of the queue, whatever its opcode. -/
def TakesFrom (c : Instr) (tn q : Nat) : Prop := c ∈ takeRows tn q ∨ c = .undefinedDescriptorOpcode tn q

/-- Their checks beyond the opcode, in order (R163): rows 1 to 5. -/
def takeChecks (a : State) (tn : Nat) (b : List Byte) : List (Bool × Status × Nat × Nat) :=
  if fld b 0 1 = 1 then recipeChecks a tn b else if fld b 0 1 = 2 then batchChecks a tn b
  else if fld b 0 1 = 3 then emberChecks a tn b else if fld b 0 1 = 4 then copyChecks a tn b
  else if fld b 0 1 = 5 then fillChecks a tn b
  else if fld b 0 1 = 6 then [must (reservedOk b [(9, 55)]) .aborted 1, must (fld b 8 1 ≤ 1) .aborted 3]
  else if fld b 0 1 = 7 then [must (reservedOk b [(0xA, 6), (0x18, 40)]) .aborted 1, must (fld b 9 1 ≤ 1) .aborted 3]
  else if fld b 0 1 = 8 then [must (reservedOk b [(0xA, 6), (0x20, 32)]) .aborted 1, must (fld b 9 1 ≤ 1) .aborted 3]
  else [must (reservedOk b [(9, 55)]) .aborted 1, must (fld b 8 1 ≤ 15) .aborted 3]

/-! ## The sequencer -/

/-- The sequencer of a site executes, the word `w` of an opcode is the one at pc, in the buffer as in memory, and it is guarded on. -/
def Runs (s : State) (site w op : Nat) : Prop :=
  site < 200 ∧ executing s site = true ∧ cachedWord (hearth s site) = some w ∧ staleCode s site w = false ∧ opcodeOf w = op ∧
    guardField w = true ∧ guardOn (hearth s site) w = true

/-- No other hearth changes, and nothing outside the hearths but counters. -/
def SiteOnly (s t : State) (site : Nat) : Prop :=
  (∀ x, x ≠ site → hearth t x = hearth s x) ∧ t = { s with hearths := t.hearths, counters := t.counters }

/-- The instruction retires with pc at `pc`, and counter 0x001 counts it (R422). -/
def Retires (s t : State) (site : Nat) (pc : Word) : Prop :=
  (hearth t site).pc = pc ∧
    lookD 0 t.counters.raw (256 * 0x001 + site) = (lookD 0 s.counters.raw (256 * 0x001 + site) + 1) % 2 ^ 48

/-- The instruction retires; of the hearth only pc and the general register rd change, and g0 stays 0 (R195). -/
def SetsRd (s t : State) (site rd : Nat) (v : Word) : Prop :=
  (∀ n, getG (hearth t site) n = if n = rd ∧ n ≠ 0 then v else getG (hearth s site) n) ∧
    hearth t site = { hearth s site with regs := (hearth t site).regs, pc := (hearth t site).pc } ∧
    Retires s t site ((hearth s site).pc + 4) ∧ SiteOnly s t site

/-- The instruction retires and changes nothing of the hearth but pc. -/
def OnlyPc (s t : State) (site : Nat) (pc : Word) : Prop :=
  hearth t site = { hearth s site with pc := pc } ∧ Retires s t site pc ∧ SiteOnly s t site

/-- The instruction retires and writes one predicate. -/
def SetsP (s t : State) (site pd : Nat) (v : Bool) : Prop :=
  (∀ k, k < 8 → (hearth t site).preds.getLsbD k = if k = pd then v else (hearth s site).preds.getLsbD k) ∧
    hearth t site = { hearth s site with preds := (hearth t site).preds, pc := (hearth t site).pc } ∧
    Retires s t site ((hearth s site).pc + 4) ∧ SiteOnly s t site

/-- A trap enters the handler (R210). -/
def EntersHandler (s t : State) (site code : Nat) : Prop :=
  hearth t site = { hearth s site with tpc := (hearth s site).pc, tcause := code, tval := (hearth t site).tval, inTrap := true,
                                       pc := (hearth s site).tvec, seq := .running } ∧
    (∀ x, x ≠ site → hearth t x = hearth s x) ∧
    t = { s with hearths := t.hearths, counters := t.counters, free := t.free }

/-- A trap enters the handler, or, without one or within it, ends the recipe on the site with TRAP (R210). -/
def Traps (s t : State) (site code : Nat) : Prop :=
  ((hearth s site).tvec ≠ 0 → (hearth s site).inTrap = false → EntersHandler s t site code) ∧
    ((hearth s site).tvec = 0 ∨ (hearth s site).inTrap = true →
      ∃ s', s' = { s with counters := s'.counters, free := s'.free } ∧
        t = endSite s' site .trap (if (hearth s site).tvec = 0 then code else 0x0F))

/-- A trap whose handler finds `v` in TVAL. -/
def TrapsWith (s t : State) (site code : Nat) (v : Word) : Prop :=
  Traps s t site code ∧ ((hearth s site).tvec ≠ 0 → (hearth s site).inTrap = false → (hearth t site).tval = v)

/-- The instructions by opcode (R200). -/
def seqRows : List (Nat × (Nat → Instr)) :=
  [(1, .alu), (2, .addi), (3, .andi), (4, .ori), (5, .xori), (6, .slli), (7, .srli), (8, .srai), (9, .movi), (0xA, .movk0),
   (0xB, .movk1), (0xC, .movk2), (0xD, .movk3), (0x10, .cmp), (0x11, .cmpi), (0x12, .plog), (0x18, .lds), (0x19, .lws)] ++
  [(0x1A, .sts), (0x1B, .sws), (0x1C, .ldr), (0x1D, .lwr), (0x1E, .str), (0x1F, .swr), (0x20, .br), (0x21, .call), (0x22, .jr),
   (0x28, .issue), (0x29, .waitq), (0x2A, .rdq), (0x2B, .waitf), (0x2C, .rdf), (0x30, .mfs), (0x31, .mts)] ++
  [(0x38, .iflush), (0x3C, .trap), (0x3D, .rte), (0x3E, .nop), (0x3F, .endRecipe)]

/-- What ALU writes, by fn (R200). -/
def AluResult (fn : Nat) (a b v : Word) : Prop :=
  (fn = 0 → v.toNat = (a.toNat + b.toNat) % 2 ^ 64) ∧ (fn = 1 → (v.toNat : Int) = ((a.toNat : Int) - b.toNat) % 2 ^ 64) ∧
  (fn = 2 → ∀ i, v.getLsbD i = (a.getLsbD i && b.getLsbD i)) ∧ (fn = 3 → ∀ i, v.getLsbD i = (a.getLsbD i || b.getLsbD i)) ∧
  (fn = 4 → ∀ i, v.getLsbD i = (a.getLsbD i != b.getLsbD i)) ∧ (fn = 5 → v.toNat = a.toNat * 2 ^ (b.toNat % 64) % 2 ^ 64) ∧
  (fn = 6 → v.toNat = a.toNat / 2 ^ (b.toNat % 64)) ∧ (fn = 7 → v.toInt = a.toInt / 2 ^ (b.toNat % 64)) ∧
  (fn = 8 → v.toNat = a.toNat * b.toNat % 2 ^ 64) ∧ (fn = 9 → v.toNat = a.toNat * b.toNat / 2 ^ 64) ∧
  (fn = 0xA → v.toInt = min a.toInt b.toInt) ∧ (fn = 0xB → v.toInt = max a.toInt b.toInt) ∧
  (fn = 0xC → v.toNat = min a.toNat b.toNat) ∧ (fn = 0xD → v.toNat = max a.toNat b.toNat)

/-- The cond field (R199). -/
def CondHolds (c : Nat) (a b : Word) : Prop :=
  (c = 0 ∧ a = b) ∨ (c = 1 ∧ a ≠ b) ∨ (c = 2 ∧ a.toInt < b.toInt) ∨ (c = 3 ∧ b.toInt ≤ a.toInt) ∨
    (c = 4 ∧ a.toNat < b.toNat) ∨ (c = 5 ∧ b.toNat ≤ a.toNat)

/-- Nothing may read as old or new to an item of a site, or to its sequencer: no word is listed with what it held before, none is
contested, and no item that it has overtaken runs (R178, R254). -/
def Calm (s : State) (site q num : Nat) : Prop :=
  (hearth s site).races = [] ∧ s.mem.races = [] ∧ s.mem.contested = [] ∧ overtaken s site q num = []

/-- An access to a word finds a mesh request tag, or needs none: the word is in the hearth's own slice (R179). -/
def HasTag (s : State) (site : Nat) (p : Place) : Prop := (p.hbm = false ∧ p.unit = site) ∨ 0 < tagsFree (hearth s site)

/-- A load sees staging bytes of one word as they stand, or as the whole word was before an item wrote it (R178). -/
def OldOrNew (s : State) (site a n : Nat) (b : List Byte) : Prop :=
  b = (hearth s site).staging.read s.free a n ∨
    ∃ e ∈ (hearth s site).races, e.word = a / 32 ∧ b = slice (lineBytes e.line) (a % 32) n

/-- A staging load or store of `n` bytes reads rd or writes it there (R201). -/
def stagingLoads : List (Nat × Nat × (Nat → Instr)) := [(0x18, 8, .lds), (0x19, 4, .lws)]
def stagingStores : List (Nat × Nat × (Nat → Instr)) := [(0x1A, 8, .sts), (0x1B, 4, .sws)]
def regionLoads : List (Nat × Nat × (Nat → Instr)) := [(0x1C, 8, .ldr), (0x1D, 4, .lwr)]
def regionStores : List (Nat × Nat × (Nat → Instr)) := [(0x1E, 8, .str), (0x1F, 4, .swr)]

/-! ## Items and ember programs -/

/-- An item of a queue completes: items done at the head of the queue leave it and its completion counter advances by as many
(R176, R177). -/
def Completes (s t : State) (site q num : Nat) : Prop :=
  let items := (lookD [] (hearth s site).queues q).map fun i => if i.num = num then { i with done := true } else i
  lookD [] (hearth t site).queues q = items.dropWhile (·.done) ∧
    lookD 0 (hearth t site).completed q = (lookD 0 (hearth s site).completed q + (items.takeWhile (·.done)).length) % 2 ^ 32

/-- The item is marked as started; nothing else of any hearth changes. -/
def StartsItem (s t : State) (site q num quad : Nat) : Prop :=
  lookD [] (hearth t site).queues q =
      (lookD [] (hearth s site).queues q).map (fun i => if i.num = num then { i with started := true, quad := quad } else i) ∧
    (∀ k, k ≠ q → lookD [] (hearth t site).queues k = lookD [] (hearth s site).queues k) ∧
    hearth t site = { hearth s site with queues := (hearth t site).queues } ∧ (∀ x, x ≠ site → hearth t x = hearth s x) ∧
    t = { s with hearths := t.hearths }

/-- The item starts and holds mesh request tags for some of the `need` requests that leave the hearth, at least one and as many as are
free at most (R179). -/
def StartsWithTags (s t : State) (site q num need : Nat) : Prop :=
  ∃ u, StartsItem s u site q num 0 ∧ (need = 0 → t = u) ∧
    (need ≠ 0 → ∃ k, 1 ≤ k ∧ k ≤ need ∧ k ≤ tagsFree (hearth s site) ∧
      hearth t site = { hearth u site with
        tags := (hearth u site).tags ++ [{ queue := q, num := num, count := k, abandoned := false, sent := 0 }] } ∧
      (∀ x, x ≠ site → hearth t x = hearth u x) ∧ t = { u with hearths := t.hearths, free := t.free })

/-- Responses that a stopped engine's requests had outstanding are discarded, and their tags are free; nothing else changes (R331). -/
def Discards (s t : State) (site q : Nat) : Prop :=
  hearth t site = { hearth s site with tags := (hearth s site).tags.filter fun x => !(x.queue == q && x.abandoned) } ∧
    (∀ x, x ≠ site → hearth t x = hearth s x) ∧ t = { s with hearths := t.hearths }

/-- The `i`-th 32-bit word of an array. -/
def word32 (l : List Byte) (i : Nat) : BitVec 32 := BitVec.ofNat 32 (fld l (4 * i) 4)

/-- Staging holds known bytes there, with no uncorrectable unit. -/
def Readable (h : Hearth) (a n : Nat) : Prop := h.staging.unlisted.isSome = true ∧ stagingUe h a n = false

/-- What an elementwise vector OP writes at element `i` (R205). -/
def VecElem (op cols : Nat) (a b c table : List Byte) (sv tv : BitVec 32) (i : Nat) (v : BitVec 32) : Prop :=
  (op = 0 → v = add32 (word32 a i) (word32 b i)) ∧ (op = 1 → v = sub32 (word32 a i) (word32 b i)) ∧
  (op = 2 → v = mul32 (word32 a i) (word32 b i)) ∧ (op = 3 → v = max32 (word32 a i) (word32 b i)) ∧
  (op = 4 → v = min32 (word32 a i) (word32 b i)) ∧ (op = 5 → v = fma32 (word32 a i) (word32 b i) (word32 c i)) ∧
  (op = 6 → v = fma32 (word32 a i) sv tv) ∧ (op = 7 → v = mul32 (word32 a i) (word32 b (i / cols))) ∧
  (op = 8 → v = mul32 (word32 a i) (word32 b (i % cols))) ∧ (op = 9 → v = act32 table (word32 a i)) ∧
  (op = 0xA → v = rsqrt32 (word32 a i)) ∧ (op = 0xE → v = cvti32 (word32 a i))

/-- The vector commands by OP. -/
def vectorRows : List (Nat × (Nat → Instr)) :=
  [(0, .vectorAdd), (1, .vectorSub), (2, .vectorMul), (3, .vectorMax), (4, .vectorMin), (5, .vectorFma), (6, .vectorScale),
   (7, .rowscale), (8, .colscale), (9, .vectorAct), (0xA, .rsqrt), (0xB, .rsum), (0xC, .rmax), (0xD, .vectorCvt), (0xE, .cvti)]

/-- A program runs on an ember, and the micro-operation at j is `u`. -/
def RunsMicro (s : State) (site ember opc : Nat) (en : EmberEntry) (r : EmberRun) (u : MicroOp) : Prop :=
  site < 200 ∧ ember < 32 ∧ siteLive s site = true ∧ look (hearth s site).emberRuns ember = some r ∧
    emberEntry? (hearth s site) r.entry = some en ∧ en.at r.j = u ∧ u.opc = opc

/-- The program on the ember is now `r`; no other program and nothing else of the hearths changes. -/
def RunIs (s t : State) (site ember : Nat) (r : EmberRun) : Prop :=
  look (hearth t site).emberRuns ember = some r ∧
    (∀ e, e ≠ ember → look (hearth t site).emberRuns e = look (hearth s site).emberRuns e) ∧
    hearth t site = { hearth s site with emberRuns := (hearth t site).emberRuns } ∧ (∀ x, x ≠ site → hearth t x = hearth s x)

/-- The micro-operation writes rd lane by lane, and the program goes on (R242, R246). -/
def GivesLanes (s t : State) (site ember : Nat) (r : EmberRun) (rd : Nat) (f : Nat → BitVec 32) : Prop :=
  (∃ r', RunIs s t site ember r' ∧ r' = { r with j := r.j + 1, regs := r'.regs } ∧
    (∀ n, n ≠ rd → ereg r' n = ereg r n) ∧ ∀ i, i < 8 → lane (ereg r' rd) i = f i) ∧
    t = { s with hearths := t.hearths, counters := t.counters, ash := t.ash, free := t.free }

/-! ## Chain ports -/

/-- An UP port takes a frame of a type (R94, R105). -/
def Hears (s : State) (port : Nat) (f : List Byte) (ty : Nat) : Prop :=
  port < 4 ∧ hears s port = true ∧ frameOk (chainPort s port) f = true ∧ frameType f = ty ∧ (chainPort s port).state = .up

end Sys2Proof.Machine
end

