-- ==== Sys2Proof/Certificates/Slice0/Obligations.lean ====
section
/-! DEFINITION. The statements for the provers. -/

open Sys2Proof Sys2Proof.Machine

/-! ## The step -/

/-- The row's cut: a step takes the command at the front of the queue and carries it out with the queue's rest. The model's choice
(log entry 2), on R25: with no command waiting the master devtime counts one nanosecond while VAUX is up, modulo 2^64, and nothing
else changes. The idle tick is the model's choice, log entry 2. -/
def Obligations.StepTakesTheFrontCommand : Prop :=
  (∀ (c : Instr) (rest : List Instr) (s : State), s.pending = c :: rest → step s = exec c { s with pending := rest }) ∧
  (∀ s : State, s.pending = [] →
     ∃ t, step s = .next t ∧
       t.ao.devtime = (if s.ao.vauxOk then (s.ao.devtime + 1) % 2 ^ 64 else s.ao.devtime) ∧
       t = { s with ao := { s.ao with devtime := t.ao.devtime } })

/-! ## Power, pins and sensors (03, 18) -/

/-- R61, R62, R66, R109: VAUX comes up; PWR_EN is driven high once its conditions hold, and step 2 waits and retries when they do
not hold by t0 + 50 ms; PWR_GOOD does not come in 65 ms, or comes later; the power-up runs again. R61, R65, R110, R112, R439: with
the main rails good and PKG_RESET_N high the part enters BOOT; the boot ROM takes the preferred slot if its image verifies, else the
other; with no image the part is FAILED with CAUSE NO_FIRMWARE. That tray readings are counted anew for a rerun is the model's
choice, log entry 37. -/
def Obligations.PowerUpAndBoot : Prop :=
  ((∀ (strap : Nat) (s : State), strap < 8 → s.ao.vauxOk = false →
     Gives (.vauxUp strap) s fun t =>
       t.ao.vauxOk = true ∧ t.ao.devtime = 0 ∧ t.ao.addrStrap.toNat = strap ∧ t.ao.pwrEn = false ∧ t.ao.seeking = true ∧
         t.ao.seekAt = 0 ∧ t.ao.goodTrayReads = 0 ∧ t.ao.boardCap = 2200 ∧ t.ao.tripLatched = false ∧ t.ao.sensors = [] ∧
         t.ao.pwrGood = s.ao.pwrGood ∧ t.ao.pkgResetN = s.ao.pkgResetN ∧ t.ao.coolOk = s.ao.coolOk ∧
         t = { s with ao := t.ao }) ∧
   (∀ s : State, s.ao.vauxOk = true → s.ao.seeking = true → s.ao.tripLatched = false →
     Gives .drivePwrEn s fun t =>
       (3 ≤ s.ao.goodTrayReads ∧ s.ao.coolOk = true →
         t.ao = { s.ao with pwrEn := true, pwrEnRoseAt := s.ao.devtime, seeking := false }) ∧
       (¬ (3 ≤ s.ao.goodTrayReads ∧ s.ao.coolOk = true) → s.ao.seekAt + 50000000 ≤ s.ao.devtime →
         t.ao = { s.ao with retrying := true }) ∧
       (¬ (3 ≤ s.ao.goodTrayReads ∧ s.ao.coolOk = true) → s.ao.devtime < s.ao.seekAt + 50000000 → t = s) ∧
       t = { s with ao := t.ao }) ∧
   (∀ s : State, s.ao.tripLatched = true → Idles .drivePwrEn s) ∧
   (∀ s : State, s.ao.vauxOk = true → s.ao.pwrEn = true → s.ao.pwrGood = false →
     s.ao.pwrEnRoseAt + 65000000 ≤ s.ao.devtime →
     Gives .pwrGoodTimeout s fun t =>
       t = { s with ao := { s.ao with pwrEn := false, pwrEnFellAt := some s.ao.devtime, retrying := true } }) ∧
   (∀ s : State, s.ao.vauxOk = true → s.dev.state = .off → s.ao.pwrEn = false → s.ao.pkgResetN = true →
     s.ao.tripLatched = false → s.ao.seeking = false →
     (∀ at_, s.ao.pwrEnFellAt = some at_ → at_ + 1000000000 ≤ s.ao.devtime) →
     Gives .powerUpRerun s fun t =>
       t = { s with ao := { s.ao with seeking := true, seekAt := s.ao.devtime, retrying := true, goodTrayReads := 0 } })) ∧
  (let boots (s t : State) (katOk : Bool) : Prop :=
     t.dev.bootAt = s.ao.devtime ∧ t.pcie.linkUp = !s.pcie.perst ∧
       t.dev.image = (if katOk then (verifyImage s s.dev.preferB).or (verifyImage s (!s.dev.preferB)) else none) ∧
       (t.dev.image.isSome = true → t.dev.state = .boot ∧ t.dev.step = 3 ∧
         t.dev.slotB = (if (verifyImage s s.dev.preferB).isSome then s.dev.preferB else !s.dev.preferB)) ∧
       (t.dev.image = none → t.dev.state = .failed ∧ t.dev.cause = 1) ∧
       t.dev.changedAt = s.ao.devtime ∧ t.ash = { s.ash with leakBase := s.ao.devtime } ∧
       t = { s with ao := t.ao, dev := t.dev, pcie := t.pcie, ash := t.ash, counters := t.counters }
   (∀ (s : State) (katOk : Bool), s.ao.vauxOk = true → s.dev.state = .off → s.ao.pkgResetN = true → s.ao.pwrEn = true →
     s.ao.tripLatched = false → s.ao.devtime ≤ s.ao.pwrEnRoseAt + 65000000 →
     Gives (.pwrGoodRise katOk) s fun t => t.ao.pwrGood = true ∧ boots s t katOk) ∧
   (∀ (s : State) (katOk : Bool), s.ao.vauxOk = true → s.ao.pwrEn = true → s.ao.pwrGood = false →
     s.ao.pwrEnRoseAt + 65000000 < s.ao.devtime →
     Gives (.pwrGoodRise katOk) s fun t =>
       t = { s with ao := { s.ao with pwrGood := true, pwrEn := false, pwrEnFellAt := some s.ao.devtime, retrying := true,
                                      smbAlert := true } }) ∧
   (∀ (s : State) (katOk : Bool), s.ao.vauxOk = true → s.dev.state = .off → s.ao.pkgResetN = false → s.ao.pwrEn = true →
     s.ao.pwrGood = true → s.ao.tripLatched = false →
     Gives (.pkgResetRelease katOk) s fun t => t.ao.pkgResetN = true ∧ boots s t katOk))

/-- R58, R63, R64, R65, R66, R418: the ways into OFF. Nothing outside the AO domain, the flash, OTP and host memory survives. A
trip ends a power-up that waits; it is cleared when PKG_RESET_N has been low for 1 ms with no trip condition. -/
def Obligations.EntryIntoOffLosesEverythingButAo : Prop :=
  (∀ s : State, s.ao.vauxOk = true → s.ao.pwrEn = true →
    Gives .pwrGoodFall s fun t =>
      Cold s t ∧ t.ao = { s.ao with pwrGood := false, pwrEn := false, pwrEnFellAt := some s.ao.devtime, smbAlert := t.ao.smbAlert }) ∧
  (∀ s : State, s.ao.vauxOk = true → s.ao.tripLatched = false → tripCauses s ≠ 0 →
    Gives .hardwareTrip s fun t =>
      Cold s t ∧ t.ao.tripLatched = true ∧ t.ao.tripCause = tripCauses s ∧ t.ao.pwrEn = false ∧ t.ao.seeking = false ∧
        t.ao.devtime = s.ao.devtime ∧ t.ao.sensors = s.ao.sensors) ∧
  (∀ s : State, s.ao.vauxOk = true →
    Gives .vauxLoss s fun t =>
      Cold s t ∧ t.ao = { Ao.reset with pwrGood := s.ao.pwrGood, pkgResetN := s.ao.pkgResetN, coolOk := s.ao.coolOk }) ∧
  (∀ (s : State) (lowNs : Nat) (katOk : Bool), s.ao.vauxOk = true → 1000000 ≤ lowNs →
    Gives (.pkgResetAssert lowNs katOk) s fun t =>
      Cold s t ∧ t.ao.pkgResetN = false ∧ t.ao.seeking = false ∧ t.ao.pwrEn = s.ao.pwrEn ∧ t.ao.devtime = s.ao.devtime ∧
        (tripCauses s = 0 → t.ao.tripLatched = false) ∧ (tripCauses s ≠ 0 → t.ao.tripLatched = s.ao.tripLatched)) ∧
  (∀ (s : State) (katOk : Bool), s.ao.pkgResetN = false → s.ao.tripLatched = true → s.ao.pwrEn = false →
    Gives (.pkgResetRelease katOk) s fun t =>
      t.ao.pkgResetN = true ∧
        (∀ at_, s.ao.tripQuietAt = some at_ → tripCauses s = 0 → at_ + 1000000 ≤ s.ao.devtime →
          t.ao.tripLatched = false ∧ t.ao.tripCause = 0) ∧
        (tripCauses s ≠ 0 ∨ s.ao.tripQuietAt = none → t.ao.tripLatched = true ∧ t.ao.tripCause = s.ao.tripCause) ∧
        (∀ at_, s.ao.tripQuietAt = some at_ → s.ao.devtime < at_ + 1000000 → t.ao.tripLatched = true) ∧
        t = { s with ao := t.ao }) ∧
  (∀ (s : State) (lowNs : Nat) (katOk : Bool), lowNs < 1000 → Idles (.pkgResetAssert lowNs katOk) s)

/-- R64, R67, R395, R421: a change of COOL_OK is recorded as a DRAUGHT event in READY and DEGRADED; a sample of the sensors replaces the
readings listed and keeps the others, and the sample before it is kept for the trip comparator. R81, R83, R398, R399: a valid read
of the tray sensor sets inlet, outlet, flow and SEQ; a read that is not valid counts as one of low flow; when the sensor is lost
L_th becomes 900 W and R_est is held. A sample and a read are also looks at the trip conditions. Which VALID bits of a tray read
are needed is the model's choice, log entry 37. -/
def Obligations.CoolingInputs : Prop :=
  ((∀ (s : State) (level : Bool), s.ao.coolOk ≠ level → live s = true →
     Gives (.coolOkChange level) s fun t =>
       t.ao = { s.ao with coolOk := level, smbAlert := t.ao.smbAlert } ∧ t.ao.smbAlert = true ∧
         Raised s t 0x30 0x402 (if level then 7 else 6) (if level then 0 else 1) ∧
         t = { s with ao := t.ao, ash := t.ash, pcie := t.pcie, counters := t.counters }) ∧
   (∀ (s : State) (rs : List Reading), s.ao.vauxOk = true → (∀ r ∈ rs, r.sensor < 6408) → (rs.map (·.sensor)).Nodup →
     Gives (.sensorSample rs) s fun t =>
       (∀ r ∈ rs, lookD 0 t.ao.sensors r.sensor = r.value) ∧
         (∀ i, (∀ r ∈ rs, r.sensor ≠ i) → lookD 0 t.ao.sensors i = lookD 0 s.ao.sensors i) ∧
         TripSettled { s.ao with sensorsBefore := s.ao.sensors, sensors := t.ao.sensors } t.ao ∧
         t = { s with ao := t.ao, mem := { s.mem with coolSince := t.mem.coolSince },
                      draught := { s.draught with layerHot := t.draught.layerHot } })) ∧
  ((∀ (s : State) (b : List Byte), s.ao.vauxOk = true → trayValid b = true →
     Gives (.trayRead (some b)) s fun t =>
       t.ao.inlet.toNat = fld b 4 2 ∧ t.ao.outlet.toNat = fld b 6 2 ∧ t.ao.flow.toNat = fld b 8 2 ∧
         t.ao.traySeq = some (b.getD 3 0) ∧ t.ao.trayValidAt = s.ao.devtime ∧
         t.ao.traySeqAt = (if s.ao.traySeq = some (b.getD 3 0) then s.ao.traySeqAt else s.ao.devtime) ∧
         t.ao.goodTrayReads = (if 1500 ≤ fld b 8 2 ∧ deg 15 ≤ s16 t.ao.inlet ∧ s16 t.ao.inlet ≤ deg 40
           then s.ao.goodTrayReads + 1 else 0) ∧
         t.ao.lowFlowReads = (if (s.ao.traySeq = some (b.getD 3 0) ∧ s.ao.traySeqAt + 100000000 ≤ s.ao.devtime) ∨ fld b 8 2 < 800
           then s.ao.lowFlowReads + 1 else 0) ∧
         t = { s with ao := t.ao, draught := t.draught, ash := t.ash, pcie := t.pcie, counters := t.counters }) ∧
   (∀ (s : State) (b : Option (List Byte)), s.ao.vauxOk = true → (∀ x, b = some x → trayValid x = false) →
     Gives (.trayRead b) s fun t =>
       TripSettled { s.ao with goodTrayReads := 0, lowFlowReads := s.ao.lowFlowReads + 1 } t.ao ∧
         t = { s with ao := t.ao, counters := t.counters }) ∧
   (∀ s : State, live s = true → s.draught.trayLost = false →
     (s.ao.trayValidAt + 200000000 ≤ s.ao.devtime ∨ s.ao.traySeqAt + 100000000 ≤ s.ao.devtime) →
     Gives .traySensorLost s fun t =>
       t.draught.trayLost = true ∧ t.draught.lTh = 900 ∧ t.draught.cap = min (configuredCap s) 900 ∧
         t.draught.rEst = s.draught.rEst ∧
         t = { s with draught := { s.draught with trayLost := true, lTh := 900, cap := t.draught.cap, thermalLimit := t.draught.thermalLimit },
                      ash := t.ash, pcie := t.pcie, counters := t.counters }))

/-! ## PCIe (03, 05) -/

/-- R69, R70, R72-R74, R122, R133, R467: PERST_N resets the interface, every mailbox and every tenant; its release trains the link
unless the part is in OFF; a configuration request is answered by the state of the part: a read returns the field, a write of the
size of BAR2 takes a power of two from 256 MiB to 64 GiB. Identifiers of capabilities are presumed, log entry 6. -/
def Obligations.PerstAndConfigurationRequests : Prop :=
  (∀ s : State, s.pcie.perst = false → s.dev.state ≠ .off →
    Gives .perstNAssert s fun t =>
      t.pcie.perst = true ∧ t.pcie.linkUp = false ∧ t.pcie.vfEnable = false ∧ t.pcie.numVfs = 0 ∧ t.pcie.fns = [] ∧
        (∀ fn, fn ≤ 16 → (mbx t fn).reqPi = 0 ∧ (mbx t fn).reqCi = 0 ∧ (mbx t fn).rspPi = 0 ∧ (mbx t fn).rspCi = 0 ∧
          (mbx t fn).level = 0 ∧ (mbx t fn).resetting = true) ∧
        (∀ n, (tenant s n).alive = true → (tenant t n).signals = [] ∧ (tenant t n).phase = 0)) ∧
  (∀ s : State, Gives .perstNRelease s fun t =>
    t = { s with pcie := { s.pcie with perst := false, linkUp := s.dev.state != .off } }) ∧
  (∀ (s : State) (fn : Nat) (a : CfgAccess), fn ≤ 16 →
    Gives (.configRequest ⟨fn, a⟩) s fun t =>
      t.pcie.cfgReply =
        (if s.pcie.perst = true ∨ s.pcie.linkUp = false ∨ s.dev.state = .off then .linkDown
         else if s.dev.state = .boot ∧ s.dev.step < 2 then .retry
         else if fn = 0 ∨ (s.pcie.vfEnable = true ∧ fn ≤ s.pcie.numVfs) then .completion else .absent) ∧
      (t.pcie.cfgReply ≠ .completion → t.pcie.cfgData = s.pcie.cfgData ∧ t.pcie.fns = s.pcie.fns) ∧
      (t.pcie.cfgReply = .completion →
        (∀ f, a = .read f → t.pcie.cfgData = cfgValue s fn f ∧ t.pcie.fns = s.pcie.fns) ∧
        (∀ v, a = .write (.barSize 2) v → fn = 0 →
          t.pcie.cfgData = s.pcie.cfgData ∧ (∀ g, g ≠ 0 → pcieFn t g = pcieFn s g) ∧
          ((∃ k, 28 ≤ k ∧ k ≤ 36 ∧ v = 2 ^ k) → pcieFn t 0 = { pcieFn s 0 with bar2Size := v }) ∧
          ((¬ ∃ k, 28 ≤ k ∧ k ≤ 36 ∧ v = 2 ^ k) → pcieFn t 0 = pcieFn s 0))) ∧
      t = { s with pcie := { s.pcie with cfgReply := t.pcie.cfgReply, cfgData := t.pcie.cfgData, fns := t.pcie.fns },
                   counters := t.counters }) ∧
  (∀ s : State,
    cfgValue s 0 .vendorId = 0x1F3C ∧ cfgValue s 0 .deviceId = 0x0176 ∧ cfgValue s 0 .classCode = 0x120000 ∧
      cfgValue s 0 .totalVfs = 16 ∧ cfgValue s 0 .vfOffset = 1 ∧ cfgValue s 0 .vfStride = 1 ∧ cfgValue s 0 .vfDeviceId = 0x0177 ∧
      cfgValue s 0 (.barSize 0) = 64 * 2 ^ 20 ∧ cfgValue s 0 (.vfBarSize 0) = 2 ^ 20)

/-- R71, R72, R76, R133, R173, R467: bus mastering, unmasking (each pending vector that may now send sends one message, in order),
a function-level reset (which discards no pending vector), and the end of the tenants whose function goes, and of no other. What a
function-level reset does to the function's own configuration is presumed, log entry 6. -/
def Obligations.FunctionControl : Prop :=
  (∀ (s : State) (fn : Nat) (on : Bool), fn ≤ 16 → fnReachable s fn = true →
    Gives (.busMasterEnableSet fn on) s fun t =>
      pcieFn t fn = { pcieFn s fn with busMaster := on } ∧ (∀ g, g ≠ fn → pcieFn t g = pcieFn s g) ∧
        t = { s with pcie := { s.pcie with fns := t.pcie.fns } }) ∧
  (∀ (s : State) (fn v : Nat), fn ≤ 16 → fnReachable s fn = true → v < vectors fn →
    Gives (.msixUnmask fn (.vector v)) s fun t =>
      v ∈ (pcieFn t fn).unmasked ∧
        t.pcie.sent = s.pcie.sent ++ ((pcieFn s fn).pending.filter (canSend (pcieFn t fn))).map (fun x => (fn, x)) ∧
        (pcieFn t fn).pending = (pcieFn s fn).pending.filter (fun x => !canSend (pcieFn t fn) x) ∧
        (∀ g, g ≠ fn → pcieFn t g = pcieFn s g) ∧
        t = { s with pcie := { s.pcie with fns := t.pcie.fns, sent := t.pcie.sent }, counters := t.counters }) ∧
  (∀ (s : State) (fn : Nat), fn ≤ 16 → fnReachable s fn = true →
    Gives (.msixUnmask fn .msixEnable) s (fun t => (pcieFn t fn).msixEnable = true) ∧
      Gives (.msixUnmask fn .functionMask) s (fun t => (pcieFn t fn).functionMask = false)) ∧
  (∀ (s : State) (fn : Nat), fn ≤ 16 → fnReachable s fn = true →
    Gives (.functionLevelReset fn) s fun t =>
      pcieFn t fn = { PcieFn.reset with bar2Size := (pcieFn s fn).bar2Size, maxPayload := (pcieFn s fn).maxPayload,
                                        pending := (pcieFn t fn).pending } ∧
        (∀ v ∈ (pcieFn s fn).pending, v ∈ (pcieFn t fn).pending) ∧
        (mbx t fn).reqPi = 0 ∧ (mbx t fn).reqCi = 0 ∧ (mbx t fn).rspPi = 0 ∧ (mbx t fn).rspCi = 0 ∧ (mbx t fn).level = 0 ∧
        (mbx t fn).resetting = true ∧ (∀ g, g ≠ fn → mbx t g = mbx s g) ∧
        (fn ≠ 0 → (tenant s fn).alive = true → (tenant t fn).signals = [] ∧ (tenant t fn).phase = 0) ∧
        t.work.owner = s.work.owner ∧ t.sec = s.sec ∧ t.fpt.table = s.fpt.table) ∧
  (∀ (s : State) (n : Nat) (on : Bool), n ≤ 16 → fnReachable s 0 = true →
    Gives (.vfDisable n on) s fun t =>
      t.pcie.vfEnable = on ∧ t.pcie.numVfs = n ∧
        (∀ f, 1 ≤ f → f ≤ 16 → ((s.pcie.vfEnable = true ∧ on = false) ∨ (n < f ∧ f ≤ s.pcie.numVfs)) →
          pcieFn t f = .reset ∧ (tenant t f).alive = false) ∧
        (∀ f, ¬ (s.pcie.vfEnable = true ∧ on = false) → ¬ (n < f ∧ f ≤ s.pcie.numVfs) → (tenant t f).alive = (tenant s f).alive))

/-! ## Start and floor plan (05, 02) -/

/-- R29, R108, R110, R113, R402, R440, R442, R458: the Stoker's start selects the newer valid table (the first of equals), burns the
revocation bits its image names, records the self-tests and ends TRAIN with step 13 in READY, DEGRADED or FAILED (CAUSE LINKS);
with no valid table the part is FAILED with CAUSE 2, and with no Stoker start by the bound of boot step 4 (160 ms after the entry
into BOOT, 545 ms with a single-mode flash: R111) it is FAILED with CAUSE 4, as it is when the start comes later. R29: of two valid
copies of the table the newer is selected, of equals copy A. R125: with nothing found the table is the copy selected, with
PUBLISHED_AT 0. Which devtime values the steps of TRAIN take within their bounds is left out (log entry 17). -/
def Obligations.StartSelectsAndTrains : Prop :=
  ((∀ (s : State) (i : Image) (b : Bool) (tbl : FptTable) (found : TrainFindings),
     Instr.wellFormed (.stokerStart found) = true → s.dev.image = some i → s.dev.state = .boot →
     s.ao.devtime ≤ s.dev.bootAt + (if s.dev.fwQuad then 160000000 else 545000000) → selectFlash s.fpt = some (b, tbl) →
     Gives (.stokerStart found) s fun t =>
       (t.dev.state = .ready ∨ t.dev.state = .degraded ∨ (t.dev.state = .failed ∧ t.dev.cause = 3)) ∧ t.dev.step = 13 ∧
         t.fpt.published = true ∧ t.fpt.selectedB = b ∧ t.epoch.generation = 1 ∧
         (found.failing = [] → t.fpt.table = some { tbl with publishedAt := 0 }) ∧
         t.sec.revoked = s.sec.revoked ||| (i.revoke &&& BitVec.ofNat 4 (2 ^ i.keySlot - 1)) ∧
         t.sec.tested = true ∧ t.sec.svcFail = found.svcFail ∧ t.sec.zeroised = (s.sec.lotKeyBlown || !found.lotKeyOk) ∧
         t.ao.fullNext = false ∧ t.ao.deadSensors = found.deadSensors ∧ t.ao.devtime = s.ao.devtime ∧
         (t.dev.state ≠ .failed → t.draught.rEst = 0x3D23D70A#32 ∧ t.draught.ak = found.power ∧
           t.draught.lTh ≤ configuredCap t ∧ (900 ≤ configuredCap t → 900 ≤ t.draught.lTh))) ∧
   (∀ (s : State) (i : Image) (found : TrainFindings),
     Instr.wellFormed (.stokerStart found) = true → s.dev.image = some i → s.dev.state = .boot →
     s.ao.devtime ≤ s.dev.bootAt + (if s.dev.fwQuad then 160000000 else 545000000) → s.fpt.flashA = none → s.fpt.flashB = none →
     Gives (.stokerStart found) s fun t => t.dev.state = .failed ∧ t.dev.cause = 2 ∧ t.dev.changedAt = s.ao.devtime) ∧
   (let fails (s t : State) : Prop := t.dev = { s.dev with state := .failed, cause := 4, changedAt := s.ao.devtime } ∧
      t = { s with dev := t.dev, pcie := t.pcie, counters := t.counters }
    (∀ s : State, s.dev.state = .boot → s.dev.image.isSome = true →
      s.dev.bootAt + (if s.dev.fwQuad then 160000000 else 545000000) ≤ s.ao.devtime → Gives .bootTimeout s (fails s)) ∧
    (∀ (s : State) (found : TrainFindings), Instr.wellFormed (.stokerStart found) = true → s.dev.image.isSome = true →
      s.dev.state = .boot → s.dev.bootAt + (if s.dev.fwQuad then 160000000 else 545000000) < s.ao.devtime →
      Gives (.stokerStart found) s (fails s)))) ∧
  (∀ (f : Fpt) (a b : FptTable), f.flashA = some a → f.flashB = some b →
     selectFlash f = (if a.generation < b.generation then some (true, b) else some (false, a)))

/-- R118, R121: the record of a start with full training, with its time and its CRC, is written over the copy that does not hold the higher SEQUENCE; if that
write fails it is written to the other copy; whichever way it goes nothing but the two copies changes. -/
def Obligations.TrainingRecordIsWritten : Prop :=
  ∀ (s : State) (r : TrainRec) (ok1 ok2 : Bool), s.fpt.trainDue = some r →
    (live s = true ∨ s.dev.state = .failed) →
    Gives (.trainingRecordWrite ok1 ok2) s fun t =>
      t.fpt.trainDue = none ∧
        (ok1 = true → recordCopy t.fpt (recordTarget s.fpt) = some (r.stamp s.ao.devtime) ∧
          recordCopy t.fpt (!recordTarget s.fpt) = recordCopy s.fpt (!recordTarget s.fpt) ∧ t.free = s.free) ∧
        (ok1 = false → ok2 = true → recordCopy t.fpt (!recordTarget s.fpt) = some (r.stamp s.ao.devtime)) ∧
        (ok1 = false → ∀ x, recordCopy t.fpt (recordTarget s.fpt) = some x → recordCopy s.fpt (recordTarget s.fpt) = some x) ∧
        t = { s with free := t.free, fpt := { s.fpt with trainA := t.fpt.trainA, trainB := t.fpt.trainB, trainDue := none } }

/-- R49: a unit that is fenced off leaves service at once and its change waits for its publication, with devtime as t0. -/
def Obligations.FencedUnitLeavesService : Prop :=
  ∀ (s : State) (u : FieldUnit), u.ok = true → live s = true → inService s u = true →
    Gives (.unitFenced u) s fun t =>
      ({ unit := u, selfTest := false, at_ := s.ao.devtime } : FptChange) ∈ t.fpt.waiting ∧
        ((∀ l g n, u ≠ .linkSpare l g n) → inService t u = false) ∧
        t.fpt.table = s.fpt.table ∧ t.ao = s.ao ∧ t.sec = s.sec ∧ t.dev = s.dev

/-- R49, R50, R53: a publication takes the change with the earliest t0, raises GENERATION by one, stamps PUBLISHED_AT, sets CHANGED
and PERSIST_PENDING, and records FPT_CHANGE with the cause and the new generation. R49, R51: the table in force is written to one
flash copy, and to the other one if that write fails; a copy that was not written is as it was or invalid; if both writes fail
PERSIST_FAIL is set, PERSIST_PENDING stays and FPT_PERSIST_FAIL is recorded. That a publication runs as one command is the model's
choice, log entry 3. -/
def Obligations.PublicationsRaiseGenerationAndPersist : Prop :=
  (∀ (s : State) (tbl : FptTable) (c : FptChange), live s = true → s.fpt.table = some tbl →
     s.fpt.waiting = [c] → changes tbl c.unit = true →
     Gives .fptPublish s fun t =>
       (∃ n, t.fpt.table = some n ∧ n.generation = (tbl.generation + 1) % 2 ^ 64 ∧ n.publishedAt = s.ao.devtime ∧
         n.lastSite = unitSite c.unit ∧ n.lastCause = causeCode tbl (tableAfter s tbl c.unit) c.selfTest c.unit) ∧
       t.fpt.published = true ∧ t.fpt.changed = true ∧ t.fpt.persistPending = true ∧ t.fpt.persistDue = true ∧
       t.fpt.waiting.contains c = false ∧ t.fpt.flashA = s.fpt.flashA ∧ t.fpt.flashB = s.fpt.flashB ∧
       (∃ e ∈ t.ash.flying, e.type_ = 0x20 ∧ e.source = 0x400 ∧ e.at_ = s.ao.devtime ∧
         fld e.detail 0 8 = (tbl.generation + 1) % 2 ^ 64) ∧
       t.ao = s.ao ∧ t.sec = s.sec) ∧
  (∀ (s : State) (tbl : FptTable) (ok1 ok2 : Bool), s.fpt.table = some tbl → s.fpt.persistDue = true →
     (live s = true ∨ s.dev.state = .failed) →
     Gives (.fptPersist ok1 ok2) s fun t =>
       t.fpt.persistDue = false ∧
         (ok1 = true → flashOf t.fpt (persistTarget s.fpt) = some tbl ∧
           flashOf t.fpt (!persistTarget s.fpt) = flashOf s.fpt (!persistTarget s.fpt)) ∧
         (ok1 = false → ok2 = true → flashOf t.fpt (!persistTarget s.fpt) = some tbl) ∧
         (ok1 = true ∨ ok2 = true → t.fpt.persistPending = false ∧ t.fpt.persistFail = false ∧ t.ash = s.ash) ∧
         (ok1 = false → ok2 = false → t.fpt.persistFail = true ∧ t.fpt.persistPending = s.fpt.persistPending ∧
           (∀ b x, flashOf t.fpt b = some x → flashOf s.fpt b = some x) ∧
           ∃ e, t.ash.flying = s.ash.flying ++ [e] ∧ e.type_ = 0x21 ∧ e.source = 0x400) ∧
         t = { s with free := t.free, counters := t.counters, ash := t.ash, fpt := { s.fpt with
           flashA := t.fpt.flashA, flashB := t.fpt.flashB, persistPending := t.fpt.persistPending,
           persistFail := t.fpt.persistFail, persistDue := false } })

/-! ## Die links (16) -/

/-- R342, R343, R347: a DATA flit that passes its checks and carries the SEQ expected is accepted, buffered, handed to the router
as the mesh flit its payload holds, and to be acknowledged; one ahead by 1 to 1023 asks for a NAK; one behind by 1 to 1024 is dropped
as a duplicate; any other is dropped and counted as a protocol error. A flit that fails a check asks for a NAK (unless one went out
since the last acceptance and less than 200 ns ago). How a payload holds the fields of a mesh flit is open, log entry 11. -/
def Obligations.DataFlitsAreSequenced : Prop :=
  ∀ (s : State) (l g : Nat) (far : Bool) (flit : List Byte), groupOk l g = true → onGroup s l g = true →
    let e := linkEnd s l far
    let p := slice flit 0 128
    let d := (BitVec.ofNat 16 (fld flit 128 2) - e.expect).toNat
    let nakMay := e.nakAt = none ∨ ∃ x, e.nakAt = some x ∧ x + 200 ≤ s.ao.devtime
    Gives (.linkDataReceive l far g flit) s fun t =>
      (flitGood flit = true → flitType flit = 1 → d = 0 →
        (linkEnd t l far).expect = e.expect + 1 ∧ (linkEnd t l far).rxBuf = e.rxBuf ++ [flitOf flit] ∧
          (linkEnd t l far).unacked = e.unacked + 1 ∧ (linkEnd t l far).ctrlSince = some (e.ctrlSince.getD s.ao.devtime) ∧
          (∃ m, t.fabric.flits = s.fabric.flits ++ [m] ∧ m.inVc = fld flit 130 1 / 16 ∧ m.dest = headField p 0 8 ∧
            m.src = headField p 16 8 ∧ m.tenant = headField p 32 8 ∧ m.error = (headField p 40 1 == 1) ∧
            m.down = (headField p 41 1 == 1) ∧ m.msg = headField p 56 64 ∧ m.gen = (fld flit 130 1 / 4 % 2 == 1))) ∧
      (flitGood flit = true → flitType flit = 1 → 1 ≤ d → d ≤ 1023 → nakMay → (linkEnd t l far).nakDue = true) ∧
      (flitGood flit = false → nakMay → (linkEnd t l far).nakDue = true) ∧
      (flitGood flit = true → flitType flit = 1 → 1024 ≤ d → d < 64512 →
        linkEnd t l far = { e with protoErrors := e.protoErrors + 1 }) ∧
      (flitGood flit = true → flitType flit = 1 → 64512 ≤ d → linkEnd t l far = e) ∧
      (flitGood flit = false ∨ flitType flit ≠ 1 ∨ d ≠ 0 →
        (linkEnd t l far).expect = e.expect ∧ (linkEnd t l far).rxBuf = e.rxBuf ∧ t.fabric.flits = s.fabric.flits) ∧
      OtherEnds s t l far ∧ t = { s with fabric := t.fabric, counters := t.counters }

/-- R345, R348, R349, R351, R352: a CTRL releases the flits it acknowledges, returns credits, starts a replay round with its NAK bit
and asks for a retrain with its RETRAIN_REQ bit; 200 ns without an acknowledgement also start a replay round. -/
def Obligations.CtrlAcknowledgesAndReplays : Prop :=
  (∀ (s : State) (l g : Nat) (far : Bool) (flit : List Byte), groupOk l g = true → onGroup s l g = true → flitGood flit = true →
    flitType flit = 2 →
    let e := linkEnd s l far
    Gives (.linkCtrlReceive l far g flit) s fun t =>
      (∀ f rest, e.replay = f :: rest →
        let n := (BitVec.ofNat 16 (fld flit 0 2) - f.seq).toNat
        (linkEnd t l far).replay = if 1 ≤ n ∧ n ≤ e.replay.length then e.replay.drop n else e.replay) ∧
      (∀ v, v < 12 → lookD 0 (linkEnd t l far).returned v = fld flit (4 + 2 * v) 2) ∧
      (fld flit 2 1 % 2 = 1 → (linkEnd t l far).resend = (linkEnd t l far).replay) ∧
      (fld flit 2 1 / 2 % 2 = 1 → (link t l).due.isSome = true) ∧
      (linkEnd t l far).expect = e.expect ∧ (linkEnd t l far).rxBuf = e.rxBuf ∧ (linkEnd t l far).nextSeq = e.nextSeq ∧
      OtherEnds s t l far ∧ t = { s with fabric := t.fabric, counters := t.counters }) ∧
  (∀ (s : State) (l : Nat) (far : Bool), l < 3 → linkRuns s l = true → (linkEnd s l far).replay ≠ [] →
    (linkEnd s l far).ackAt + 200 ≤ s.ao.devtime →
    Gives (.replayTimeout l far) s fun t =>
      linkEnd t l far = { linkEnd s l far with
        resend := (linkEnd s l far).replay, retries := (s.ao.devtime :: (linkEnd s l far).retries).take 65, ackAt := s.ao.devtime } ∧
      OtherEnds s t l far ∧ t = { s with fabric := t.fabric, counters := t.counters })

/-- R323, R341, R344, R346-R348, R350: what a slot carries. A replayed flit goes first, as it was; then a new DATA flit that has a
credit, which takes the next SEQ and enters the replay buffer; then a CTRL that the bounds of R348 require, else an IDLE. Slot k goes to
the group at position k mod G of the groups in service, in block k / G, over its 64 lowest working lanes, from which the receiver
reads the same bytes. -/
def Obligations.SlotCarriesReplayThenDataThenCtrl : Prop :=
  (∀ (s : State) (l : Nat) (far : Bool), l < 3 → linkRuns s l = true → (l = 2 → (linkEnd s l far).detourBegun = false) →
    let e := linkEnd s l far
    let gs := groupsNow s l
    Gives (.linkFlitSend l far) s fun t =>
      (∃ x b, (linkEnd t l far).wire = e.wire ++ [x] ∧ x.bytes = b ∧ x.group = gs.getD (e.slot % gs.length) 0 ∧
        x.block = e.slot / gs.length ∧
        (let failed := lookD [] (link s l).failedLanes x.group
         64 ≤ ((List.range 66).filter fun n => !failed.contains n).length → unstripe failed x.lanes = b) ∧
        (∀ f rest, e.resend = f :: rest → b = dataFlit f ∧ (linkEnd t l far).resend = rest ∧ (linkEnd t l far).replay = e.replay ∧
          (linkEnd t l far).nextSeq = e.nextSeq ∧
          (f.seq ∉ e.uncharged → (linkEnd t l far).sent = e.sent) ∧
          (f.seq ∈ e.uncharged → f.seq ∉ (linkEnd t l far).uncharged ∧
            lookD 0 (linkEnd t l far).sent f.vc = (lookD 0 e.sent f.vc + 1) % 65536)) ∧
        (∀ f, e.resend = [] → nextData l e = some f → b = dataFlit { f with seq := e.nextSeq } ∧
          (linkEnd t l far).nextSeq = e.nextSeq + 1 ∧ (linkEnd t l far).replay = e.replay ++ [{ f with seq := e.nextSeq }] ∧
          (linkEnd t l far).txq = e.txq.erase f ∧ lookD 0 (linkEnd t l far).sent f.vc = (lookD 0 e.sent f.vc + 1) % 65536) ∧
        (e.resend = [] → nextData l e = none → ctrlDue s e = true →
          b = flitBytes (ctrlPayload e) 0 2 ∧ (linkEnd t l far).unacked = 0 ∧ (linkEnd t l far).ctrlSince = none) ∧
        (e.resend = [] → nextData l e = none → ctrlDue s e = false →
          b = flitBytes [] 0 0 ∧ (linkEnd t l far).replay = e.replay ∧ (linkEnd t l far).nextSeq = e.nextSeq)) ∧
      (linkEnd t l far).slot = e.slot + 1 ∧ (linkEnd t l far).expect = e.expect ∧ (linkEnd t l far).rxBuf = e.rxBuf ∧
      OtherEnds s t l far ∧ t = { s with fabric := t.fabric, counters := t.counters }) ∧
  (∀ (s : State) (l : Nat) (far : Bool), l < 3 → linkRuns s l = true →
    ((linkEnd s l far).nakDue = true ∨ 256 ≤ (linkEnd s l far).unacked ∨
      ∃ x, (linkEnd s l far).ctrlSince = some x ∧ x + 8 ≤ s.ao.devtime) →
    let e := linkEnd s l far
    let gs := groupsNow s l
    Gives (.ctrlSend l far) s fun t =>
      (∃ x, (linkEnd t l far).wire = e.wire ++ [x] ∧ x.bytes = flitBytes (ctrlPayload e) 0 2 ∧
        x.group = gs.getD (e.slot % gs.length) 0) ∧
        (linkEnd t l far).unacked = 0 ∧ (linkEnd t l far).ctrlSince = none ∧ (linkEnd t l far).nakDue = false ∧
        (linkEnd t l far).replay = e.replay ∧ (linkEnd t l far).expect = e.expect ∧
        OtherEnds s t l far ∧ t = { s with fabric := t.fabric, counters := t.counters })

/-- R330, R341, R351-R359: suspicion of a group and a storm of retries make a retrain due; the retrain maps around the lanes it found
failed and leaves the link UP with a replay round at each end and credits that are the capacity less the far end's occupancy, its
outcomes waiting for their publication, or, with fewer than 8 groups left, DOWN. A flue link that misses its bound retrains once more;
the bridge that misses it enters the detour, declared by one end or by both. That a retrain runs as one command is the model's
choice, log entry 3, and so is that either end may declare, log entry 13. -/
def Obligations.RetrainRestoresOrEndsTheLink : Prop :=
  (∀ (s : State) (l g : Nat) (far : Bool), groupOk l g = true → linkRuns s l = true →
    burst (lookD [] (linkEnd s l far).gchk g) 16 100000000 = true → (linkEnd s l far).suspect.getLsbD g = false →
    Gives (.groupSuspect l far g) s fun t =>
      (linkEnd t l far).suspect.getLsbD g = true ∧ (linkEnd t l far).retrainReq = true ∧ (link t l).due.isSome = true ∧
        (∀ h, h ≠ g → (linkEnd t l far).suspect.getLsbD h = (linkEnd s l far).suspect.getLsbD h) ∧
        OtherEnds s t l far ∧ t = { s with fabric := t.fabric }) ∧
  (∀ (s : State) (l : Nat) (far : Bool), l < 3 → linkRuns s l = true → burst (linkEnd s l far).retries 64 1000000 = true →
    (linkEnd s l far).retrainReq = false →
    Gives (.retryStorm l far) s fun t =>
      linkEnd t l far = { linkEnd s l far with retrainReq := true } ∧ (link t l).due.isSome = true ∧
        OtherEnds s t l far ∧ t = { s with fabric := t.fabric }) ∧
  (∀ (s : State) (l : Nat) (found : RetrainFindings), l < 3 → (∀ x ∈ found.failedLanes, x.2 < 66) → retrainDue s l = true →
    Gives (.retrainStart l found) s fun t =>
      (8 ≤ activeGroups t l → (link t l).state = .up ∧ (link t l).due = none ∧ t.fpt.table = s.fpt.table ∧
        ∀ far, (linkEnd t l far).suspect = 0 ∧ (linkEnd t l far).retrainReq = false ∧ (linkEnd t l far).slot = 0 ∧
          (linkEnd t l far).resend = (linkEnd t l far).replay ∧
          (linkEnd t l far).retries = (s.ao.devtime :: (linkEnd s l far).retries).take 65 ∧
          (∀ f ∈ (linkEnd t l far).replay, f.seq ∈ (linkEnd t l far).uncharged) ∧
          ∀ v, v < 12 → credits (linkEnd t l far) v =
            channelCapacity v - ((linkEnd t l (!far)).rxBuf.filter (·.vc == v)).length % 65536) ∧
      (activeGroups t l < 8 → (link t l).state = .down ∧ (link t l).due = none) ∧
      (∀ g ∈ groupsNow s l, lookD [] (link t l).failedLanes g = lookD [] (link s l).failedLanes g ++ newLanes s l found g) ∧
      (∀ u ∈ outcomes s l found, ({ unit := u, selfTest := false, at_ := s.ao.devtime } : FptChange) ∈ t.fpt.waiting)) ∧
  (∀ (s : State) (confirmed : List Nat), retrainDue s 2 = true → 8 ≤ activeGroups s 2 →
    Gives (.retrainBoundMiss 2 confirmed) s fun t =>
      (link t 2).state = .detour ∧ (link t 2).detourAt = s.ao.devtime ∧ (link t 2).detourTries = 0 ∧
        (∃ a b, (a = true ∨ b = true) ∧ Declared s t a b) ∧
        ∃ c, t.epoch.waiting = s.epoch.waiting ++ [c] ∧ ∃ a b x y, c.action = .detourEnter a b x y) ∧
  (∀ (s : State) (l : Nat) (confirmed : List Nat), l < 2 → retrainDue s l = true → (link s l).secondTry = false →
    Gives (.retrainBoundMiss l confirmed) s fun t =>
      (link t l).state = .retraining ∧ (link t l).secondTry = true ∧ t.fpt = s.fpt ∧ t.hearths = s.hearths)

/-- R360-R363: DETOUR_BEGIN, while both flue links run, makes the other end put its own unacknowledged flits into the relay and send its
own DETOUR_BEGIN, unless it has declared itself; a relayed flit, after DETOUR_BEGIN, is taken by the table of R347 against the bridge's
E; a retry of the bridge at every 10 s from t0 that locks restarts SEQ, E and slots at 0 with credits at capacity and asks for the
Epoch change that leaves the detour. -/
def Obligations.DetourRelaysAndRetries : Prop :=
  (∀ (s : State) (far : Bool) (q n : Nat), inDetour s = true → relayRuns s = true → q < 65536 →
    (linkEnd s 2 far).beginIn = some (BitVec.ofNat 16 q, n) →
    Gives (.detourBeginReceive far q n) s fun t =>
      (linkEnd t 2 far).beginIn = none ∧ (linkEnd t 2 far).detourBegun = true ∧
        (linkEnd t 2 far).replay = (linkEnd s 2 far).replay ∧
        ((linkEnd s 2 far).detourBegun = false → Declared s t (!far) far) ∧
        ((linkEnd s 2 far).detourBegun = true → linkEnd t 2 (!far) = linkEnd s 2 (!far)) ∧
        t = { s with fabric := { s.fabric with link2 := t.fabric.link2 } }) ∧
  (∀ (s : State) (far : Bool) (f : LinkFlit) (rest : List LinkFlit), inDetour s = true → relayRuns s = true →
    (linkEnd s 2 far).beginIn = none → (linkEnd s 2 far).relayIn = f :: rest →
    Gives (.relayedFlitReceive far) s fun t =>
      (linkEnd t 2 far).relayIn = rest ∧
        (f.seq = (linkEnd s 2 far).expect → (linkEnd t 2 far).expect = (linkEnd s 2 far).expect + 1 ∧
          (linkEnd t 2 far).rxBuf = (linkEnd s 2 far).rxBuf ++ [f]) ∧
        (f.seq ≠ (linkEnd s 2 far).expect → (linkEnd t 2 far).expect = (linkEnd s 2 far).expect ∧
          (linkEnd t 2 far).rxBuf = (linkEnd s 2 far).rxBuf) ∧
        t = { s with fabric := t.fabric, counters := t.counters }) ∧
  (∀ (s : State) (found : RetrainFindings), (∀ x ∈ found.failedLanes, x.2 < 66) → (link s 2).state = .detour →
    (link s 2).detourAt + 10000000000 * ((link s 2).detourTries + 1) ≤ s.ao.devtime →
    detourPending s = false → (link s 0).state ≠ .down → (link s 1).state ≠ .down →
    let n := (s.ao.devtime - (link s 2).detourAt) / 10000000000
    (Gives (.detourRetry false found) s fun t =>
      (link t 2).state = .detour ∧ (link t 2).detourAt = (link s 2).detourAt ∧ (link t 2).detourTries = n ∧ t.epoch = s.epoch) ∧
    (Gives (.detourRetry true found) s fun t =>
      (link t 2).detourAt = (link s 2).detourAt ∧ (link t 2).detourTries = n ∧
        (8 ≤ activeGroups t 2 → (∀ far, (linkEnd t 2 far).nextSeq = 0 ∧ (linkEnd t 2 far).expect = 0 ∧
            (linkEnd t 2 far).replay = [] ∧ (linkEnd t 2 far).slot = 0 ∧
            ∀ v, credits (linkEnd t 2 far) v = channelCapacity v) ∧
          ∃ c, t.epoch.waiting = s.epoch.waiting ++ [c] ∧ ∃ b a, c.action = .detourLeave b a) ∧
        (activeGroups t 2 < 8 → (link t 2).state = .down ∧ t.epoch = s.epoch)))

/-! ## Routing, Epoch changes and the mesh (14, 21) -/

/-- R319, R458, R461, R462, R464: a changed graph asks for an Epoch change; the change at the front, once no message of an older
generation is left, advances the generation by one, flips the banks, and installs the assignment, region, binding or tables it is for;
it ends when no message of the older generation is left, at once if there is none, and until then MIXED is 1 and no other change
starts. That its steps 1 to 4 run as one command is the model's choice, log entry 3. -/
def Obligations.EpochChangesInstall : Prop :=
  (∀ (s : State) (tbl : FptTable), s.fpt.table = some tbl → live s = true → graphOf s tbl ≠ graphIn s → routingPending s = false →
    Gives .routingGeneration s fun t =>
      t = { s with epoch := { s.epoch with waiting := s.epoch.waiting ++ [{ action := .routing, reply := none }] } }) ∧
  (∀ (s : State) (c : EpochChange) (rest : List EpochChange), s.epoch.running = none → s.epoch.waiting = c :: rest →
    drained s = true → orphanChange s c.action = false →
    Gives .epochChange s fun t =>
      t.epoch.generation = (s.epoch.generation + 1) % 2 ^ 64 ∧ t.epoch.waiting = rest ∧
        t.fabric.bank1 = !s.fabric.bank1 ∧
        (heldGen s s.fabric.bank1 = false → t.epoch.mixed = false ∧ t.epoch.running = none) ∧
        (heldGen s s.fabric.bank1 = true → t.epoch.mixed = true ∧ t.epoch.running = some c ∧
          graphOld t = graphIn s) ∧
        (∀ n sites, c.action = .assign n sites → (∀ x ∈ sites, ownerOf t x = some n) ∧
          ∀ x, x ∉ sites → ownerOf t x = ownerOf s x) ∧
        (∀ n k r, c.action = .define n k r → region? t n k = some { r with generation := t.epoch.generation } ∧
          ∀ n' k', n' ≠ n ∨ k' ≠ k → region? t n' k' = region? s n' k') ∧
        (∀ n k, c.action = .delete n k → region? t n k = none ∧
          ∀ n' k', n' ≠ n ∨ k' ≠ k → region? t n' k' = region? s n' k') ∧
        (∀ d n p, c.action = .bind d n p → look t.chain.domains d = some { tenant := n, port := p, exports := [] }) ∧
        (∀ tbl, c.action = .routing → s.fpt.table = some tbl → graphIn t = graphOf s tbl) ∧ t.ao = s.ao ∧ t.fpt = s.fpt) ∧
  (∀ (s : State) (c : EpochChange), s.epoch.running = some c →
    (drained s = true → Gives .epochChange s fun t =>
      t.epoch = { s.epoch with mixed := false, running := none, frozen := [] } ∧ t.work = s.work ∧ t.ao = s.ao ∧ t.fpt = s.fpt) ∧
    (drained s = false → Idles .epochChange s)) ∧
  (∀ (s : State) (c : EpochChange) (rest : List EpochChange), s.epoch.running = none → s.epoch.waiting = c :: rest →
    (drained s = true → orphanChange s c.action = true →
      Gives .epochChange s fun t => t.epoch = { s.epoch with waiting := rest } ∧ t.fabric = s.fabric ∧ t.work = s.work) ∧
    (drained s = false → Idles .epochChange s))

/-- R308, R312, R313, R318, R320, R323, R325, R327: 64 MR cycles without a credit move a flit, with the flits of its message, to its
channel's escape channel; 1,024 cycles at one router make it aged; a request addressed to a hearth that has left service turns into an
error response to its sender; a sync lets no copy of devtime run backwards. In one MR cycle an output port grants one of the flits that
may leave by it, the one of highest priority, unless aged flits were passed over for 32 cycles: then the aged one that has waited
longest. With none that may leave, none does. What a flit carries stays with it over every port. In its cycle the local port also takes
what its endpoints inject, under the generation in force, C0 flits only as the shaper allows. The ports and their order and the layout
of a flit are the model's choice, log entry 11. -/
def Obligations.FlitsMoveThroughRouters : Prop :=
  ((∀ (s : State) (id y p : Nat) (f : MeshFlit), flit? s id = some f → nextNode s f = some y → outPort s f = some p →
     f.escape = false → 64 ≤ f.starved → f.dest ≠ f.node → hasCredit s f.node p f.vc y = false → partSent s f = false →
     Gives (.escapeMove id) s fun t =>
       flit? t id = some { f with vc := f.vc + 1, down := false, starved := 0 } ∧
         (∀ j, flit? t j = (flit? s j).map fun g => if g.node = f.node ∧ g.msg = f.msg ∧ g.vc = f.vc then
           { g with vc := g.vc + 1, down := false, starved := 0 } else g) ∧
         t = { s with fabric := { s.fabric with flits := t.fabric.flits }, counters := t.counters }) ∧
   (∀ (s : State) (id : Nat) (f : MeshFlit), flit? s id = some f → 1024 ≤ f.waited → f.aged = false →
     Gives (.flitAged id) s fun t =>
       flit? t id = some { f with aged := true } ∧ (∀ j, j ≠ id → flit? t j = flit? s j) ∧
         t = { s with fabric := { s.fabric with flits := t.fabric.flits }, counters := t.counters }) ∧
   (∀ (s : State) (id : Nat) (f : MeshFlit), flit? s id = some f → f.vc / 2 % 2 = 0 → f.dest < 200 → siteRetired s f.dest = true →
     Gives (.retiredHearthRequest id) s fun t =>
       flit? t id = some { f with vc := f.vc + 2, dest := f.src, agent := f.srcAgent, src := f.dest, srcAgent := f.agent, error := true,
                                   waited := 0, starved := 0, aged := false } ∧
         (∀ j, j ≠ id → flit? t j = flit? s j) ∧ t = { s with fabric := { s.fabric with flits := t.fabric.flits } }) ∧
   (∀ s : State, s.ao.vauxOk = true → s.fabric.syncAt + 1024 ≤ s.ao.devtime →
     Gives .devtimeSync s fun t =>
       t = { s with fabric := { s.fabric with syncs := s.fabric.syncs + 1, syncAt := s.ao.devtime } } ∧
         (s.fabric.link2.trained = true → ∀ i, islandTime t i = islandTime s i ∧
           s.ao.devtime ≤ islandTime t i + 8 ∧ islandTime t i ≤ s.ao.devtime + 8))) ∧
  (∀ (s : State) (node port : Nat), nodePortOk node port = true →
     Gives (.outputPortGrant node port) s fun t =>
       (readyAt s node port = [] → t.fabric.delivered = s.fabric.delivered ∧ (∀ l far, l < 3 → linkEnd t l far = linkEnd s l far) ∧
         (port ≠ 4 → t.fabric.flits.map (·.id) = s.fabric.flits.map (·.id)) ∧
         (port = 4 → ∃ new, t.fabric.flits.map (·.id) = s.fabric.flits.map (·.id) ++ new)) ∧
       (readyAt s node port ≠ [] → ∃ w ∈ readyAt s node port,
         (agedForced s node port = true → w.aged = true ∧ ∀ f ∈ readyAt s node port, f.aged = true → f.waited ≤ w.waited) ∧
         (agedForced s node port = false → ∀ f ∈ readyAt s node port, grantRank w ≤ grantRank f) ∧
         look t.fabric.lastIn (8 * node + port) = some w.inPort ∧
         (port = 4 → t.fabric.delivered = s.fabric.delivered ++ [w] ∧ ∀ g ∈ t.fabric.flits, g.id ≠ w.id) ∧
         (port < 4 → node < 200 → t.fabric.delivered = s.fabric.delivered ∧
           ∃ g ∈ t.fabric.flits, g.id = w.id ∧ nextNode s w = some g.node ∧ Carries g w ∧ g.waited = 0) ∧
         (port = 5 ∨ port = 6 ∨ (node = 200 ∧ port < 2) →
           ∃ x y, (linkEnd t (diePort node port).1 (diePort node port).2).txq =
               (linkEnd s (diePort node port).1 (diePort node port).2).txq ++ [x] ∧ nextNode s w = some y ∧
             x.payload = ({ w with down := downAfter s w y }).payload y ∧ x.vc = w.vc ∧ x.gen = w.gen)) ∧
       (port = 4 → ∀ g ∈ t.fabric.flits, (∀ f ∈ s.fabric.flits, f.id ≠ g.id) →
         g.node = node ∧ g.inPort = 4 ∧ g.gen = s.fabric.bank1 ∧ g.last = true ∧
           (g.vc / 4 = 0 → (lookD [] t.fabric.c0Times (endpoint g.src g.srcAgent)).length ≤ 62 ∧
             (g.vc / 2 = 0 → lookD 0 t.fabric.c0Open (endpoint g.src g.srcAgent) ≤ 32))) ∧
       (port ≠ 4 → t = { s with fabric := t.fabric, counters := t.counters }) ∧
       t = { s with fabric := t.fabric, counters := t.counters, hearths := t.hearths, ash := { s.ash with flying := t.ash.flying } } ∧
       ∀ x, hearth t x = { hearth s x with tags := (hearth t x).tags })

/-! ## Registers and mailbox rings (00, 05, 06) -/

/-- R6, R7, R53, R126: an access of another width or alignment changes nothing; a request slot takes the bytes written and every other
byte of the function's slots stays; CHANGED is write-one-to-clear; the read of the low half of a 64-bit read-only register returns
it and latches the high half, which the next read of the high half returns; a read of another width or alignment has no side
effect. Access widths of slots and 64-bit registers are the model's reading, log entry 19. -/
def Obligations.RegisterAccesses : Prop :=
  (∀ (s : State) (fn off w : Nat) (v : Word), fn ≤ 16 → aligned off w = false → Idles (.registerWrite fn off w v) s) ∧
  (∀ (s : State) (fn off w : Nat) (v : Word), fn ≤ 16 → mbxOpen s fn = true → aligned off w = true → 0x14000 ≤ off → off < 0x18000 →
    Gives (.registerWrite fn off w v) s fun t =>
      (∀ free a, (mbx t fn).req.byte free a =
        if off - 0x14000 ≤ a ∧ a < off - 0x14000 + w then (leBytes w v.toNat).getD (a - (off - 0x14000)) 0
        else (mbx s fn).req.byte free a) ∧
      mbx t fn = { mbx s fn with req := (mbx t fn).req } ∧ (∀ g, g ≠ fn → mbx t g = mbx s g) ∧ t = { s with mbx := t.mbx }) ∧
  (∀ (s : State) (v : Word), fnReachable s 0 = true → s.dev.state ≠ .boot →
    Gives (.registerWrite 0 0x43008 4 v) s fun t =>
      t = { s with fpt := { s.fpt with changed := s.fpt.changed && !v.getLsbD 3 } }) ∧
  (∀ (s : State) (fn off : Nat), fn ≤ 16 → fnReachable s fn = true → isRo64 fn off = true →
    Gives (.lowHalfRead fn ⟨off, 4⟩) s fun t =>
      t.pcie.readData.toNat = regValue s fn off % 2 ^ 32 ∧
        (∃ hi, look t.pcie.latched (latchKey fn off) = some hi ∧ hi.toNat = regValue s fn off / 2 ^ 32 % 2 ^ 32) ∧
        t = { s with pcie := { s.pcie with readData := t.pcie.readData, latched := t.pcie.latched },
                     counters := { s.counters with windows := t.counters.windows } }) ∧
  (∀ (s : State) (fn off : Nat) (hi : BitVec 32), fn ≤ 16 → fnReachable s fn = true → isRo64 fn off = true → off % 8 = 0 →
    look s.pcie.latched (latchKey fn off) = some hi →
    Gives (.lowHalfRead fn ⟨off + 4, 4⟩) s fun t =>
      t.pcie.readData.toNat = hi.toNat ∧ look t.pcie.latched (latchKey fn off) = none ∧
        t = { s with pcie := { s.pcie with readData := t.pcie.readData, latched := t.pcie.latched } }) ∧
  (∀ (s : State) (fn off w : Nat), fn ≤ 16 → fnReachable s fn = true → aligned off w = false →
    Gives (.lowHalfRead fn ⟨off, w⟩) s fun t =>
      t = { s with free := t.free, pcie := { s.pcie with readData := t.pcie.readData } })

/-- R126, R127, R129, R133, R140: MBX_REQ_PI moves forward by at most what keeps 64 requests in the ring, MBX_RSP_CI not past RSP_PI; any
other value is ignored and sets PI_ERROR; an urgent response that waits goes to the slot that a write of MBX_RSP_CI frees. A write
while RESETTING changes nothing. -/
def Obligations.MailboxIndicesMoveForward : Prop :=
  (∀ (s : State) (fn : Nat) (v : BitVec 32), fn ≤ 16 → mbxOpen s fn = true → (mbx s fn).resetting = false →
    let m := mbx s fn
    let new := (v.toNat % 128 + 128 - m.reqCi) % 128
    let old := (m.reqPi + 128 - m.reqCi) % 128
    Gives (.mbxReqPiWrite fn v) s fun t =>
      (new ≤ 64 → old ≤ new → mbx t fn = { m with reqPi := v.toNat % 128 }) ∧
        (64 < new ∨ new < old → mbx t fn = { m with piError := true }) ∧
        (∀ g, g ≠ fn → mbx t g = mbx s g) ∧ t = { s with mbx := t.mbx, counters := t.counters }) ∧
  (∀ (s : State) (fn : Nat) (v : BitVec 32), fn ≤ 16 → mbxOpen s fn = true → (mbx s fn).resetting = false →
    let m := mbx s fn
    let left := (m.rspPi + 128 - v.toNat % 128) % 128
    let old := (m.rspPi + 128 - m.rspCi) % 128
    Gives (.mbxRspCiWrite fn v) s fun t =>
      (left ≤ old → m.urgWaiting = none → mbx t fn = { m with rspCi := v.toNat % 128 }) ∧
        (slotsUsed { m with rspCi := v.toNat % 128 } < 64 → left ≤ old → m.urgWaiting.isSome = true → (mbx t fn).urgWaiting = none ∧ (mbx t fn).urgBusy = false ∧
          (mbx t fn).rspPi = (m.rspPi + 1) % 128 ∧ (mbx t fn).rspCi = v.toNat % 128) ∧
        (old < left → mbx t fn = { m with piError := true }) ∧
        (∀ g, g ≠ fn → mbx t g = mbx s g) ∧ t = { s with mbx := t.mbx, pcie := t.pcie, counters := t.counters }) ∧
  (∀ (s : State) (fn : Nat) (v : BitVec 32), fn ≤ 16 → (mbx s fn).resetting = true →
    Idles (.mbxReqPiWrite fn v) s ∧ Idles (.mbxRspCiWrite fn v) s)

/-- R128, R131, R133, R139, R140: the Stoker takes the request at REQ_CI of the function whose turn it is, copies its 256 bytes, and
answers an unknown opcode E_VERSION; a mailbox reset zeroes the indices and LEVEL and discards the responses still due, and
RESETTING clears when none is due; MBX_URG_GO posts the urgent slot, or sets URG_OVERRUN while it is busy. R131, R135, R136: a
mailbox command that must wait changes nothing; one that fails a check of R136 is answered with the code of the first check that
fails, and nothing but the mailbox changes. -/
def Obligations.MailboxTakesAndChecksRequests : Prop :=
  ((∀ (s : State) (fn : Nat), fn ≤ 16 → turn 17 s.work.lastMbx (mayTake s) = some fn →
     undescribed (mbx s fn).level (nextRequest s fn) = false →
     Gives (.mbxTakeRequest fn) s fun t =>
       (mbx t fn).reqCi = ((mbx s fn).reqCi + 1) % 128 ∧ t.work.lastMbx = fn ∧ t.work.nextTake = s.work.nextTake + 1 ∧
         (opcodes.contains (fld (nextRequest s fn) 0 2) = true →
           ∃ e, (mbx t fn).taken = (mbx s fn).taken ++ [e] ∧ e.msg = nextRequest s fn ∧ e.slot = (mbx s fn).reqCi % 64 ∧
             e.seq = s.work.nextTake ∧ e.started = false ∧ e.discard = false ∧ (mbx t fn).rspPi = (mbx s fn).rspPi) ∧
         (opcodes.contains (fld (nextRequest s fn) 0 2) = false → (mbx t fn).rspPi = ((mbx s fn).rspPi + 1) % 128 ∧
           fld ((mbx t fn).rsp.read 0 (256 * ((mbx s fn).rspPi % 64)) 256) 5 1 = 7) ∧
         (∀ g, g ≠ fn → mbx t g = mbx s g)) ∧
   (∀ (s : State) (fn : Nat), fn ≤ 16 → turn 17 s.work.lastMbx (mayTake s) = some fn →
     undescribed (mbx s fn).level (nextRequest s fn) = true → exec (.mbxTakeRequest fn) s = .refused .undescribedLevel) ∧
   (∀ (s : State) (fn : Nat), fn ≤ 16 → mbxOpen s fn = true →
     Gives (.mailboxReset fn) s fun t =>
       (mbx t fn).reqPi = 0 ∧ (mbx t fn).reqCi = 0 ∧ (mbx t fn).rspPi = 0 ∧ (mbx t fn).rspCi = 0 ∧ (mbx t fn).level = 0 ∧
         (mbx t fn).resetting = true ∧ (∀ e ∈ (mbx t fn).taken, e.discard = true) ∧
         (mbx t fn).taken.length = (mbx s fn).taken.length ∧ (mbx t fn).irqEn = (mbx s fn).irqEn ∧
         (mbx t fn).req = (mbx s fn).req ∧ (mbx t fn).rsp = (mbx s fn).rsp ∧
         (∀ g, g ≠ fn → mbx t g = mbx s g) ∧ t = { s with mbx := t.mbx }) ∧
   (∀ (s : State) (fn : Nat), fn ≤ 16 → (mbx s fn).resetting = true → (∀ e ∈ (mbx s fn).taken, e.discard = false) →
     Gives (.mailboxResetDone fn) s fun t =>
       mbx t fn = { mbx s fn with resetting := false } ∧ (∀ g, g ≠ fn → mbx t g = mbx s g) ∧ t = { s with mbx := t.mbx }) ∧
   (∀ (s : State) (fn : Nat), fn ≤ 16 → mbxOpen s fn = true → (mbx s fn).resetting = false → (mbx s fn).urgBusy = true →
     Gives (.urgentGo fn) s fun t =>
       mbx t fn = { mbx s fn with urgOverrun := true } ∧ t = { s with mbx := t.mbx }) ∧
   (∀ (s : State) (fn : Nat), fn ≤ 16 → mbxOpen s fn = true → (mbx s fn).resetting = false → (mbx s fn).urgBusy = false →
     wrongVersion (mbx s fn).level ((mbx s fn).urg.read 0 0 256) = false →
     (fld ((mbx s fn).urg.read 0 0 256) 0 2 = 0x105 ∨ fld ((mbx s fn).urg.read 0 0 256) 0 2 = 0x603) →
     Gives (.urgentGo fn) s fun t =>
       (mbx t fn).urgBusy = true ∧ (mbx t fn).reqCi = (mbx s fn).reqCi ∧
         ∃ e, (mbx t fn).taken = (mbx s fn).taken ++ [e] ∧ e.slot = 255 ∧ e.msg = (mbx s fn).urg.read 0 0 256)) ∧
  (∀ (s : State) (fn slot : Nat) (p : Nat × (Nat → Nat → Instr)) (tk : Taken), p ∈ mailCommands → fn ≤ 16 →
     draining? s fn slot = none → request? s fn slot p.1 = some tk →
     (mayStart s fn tk = false → Idles (p.2 fn slot) s) ∧
     (∀ rc d, mayStart s fn tk = true → tk.discard = false → preCheck s fn tk = some (rc, d) →
       Gives (p.2 fn slot) s fun t => Answered s t fn tk rc [] ∧ AnswerFrame s t ∧ ∀ g, g ≠ fn → mbx t g = mbx s g))

/-! ## Mailbox commands (06) -/

/-- R139, R142, R143: sys.hello chooses the level, sys.status reports, fw.update writes 16 to 224 bytes to the slot that is not
running (erasing only the sectors it enters), refuses bytes already written since the last WRITE at offset 0, commits or gives the image up, and training.policy decides how the next start trains. -/
def Obligations.SystemCommands : Prop :=
  (∀ (s : State) (fn slot l : Nat) (tk : Taken), Begins s fn slot 0x1 tk → (∀ e ∈ (mbx s fn).taken, tk.seq ≤ e.seq) →
    chooseLevel s tk.msg = some l →
    Gives (.sysHello fn slot) s fun t => (mbx t fn).level = l ∧ Answered s t fn tk .ok (helloPayload s l) ∧ AnswerFrame s t) ∧
  (∀ (s : State) (fn slot : Nat) (tk : Taken), Begins s fn slot 0x2 tk →
    Gives (.sysStatus fn slot) s fun t => Answered s t fn tk .ok (statusPayload s fn) ∧ AnswerFrame s t) ∧
  (∀ (s : State) (fn slot : Nat) (tk : Taken), Begins s fn slot 0x3 tk → fld tk.msg 0x16 1 = 2 →
    Gives (.fwUpdate fn slot) s fun t =>
      t.dev = { s.dev with fwOpen := false } ∧ Answered s t fn tk .ok (slotPayload s)) ∧
  (∀ (s : State) (fn slot : Nat) (tk : Taken), Begins s fn slot 0x3 tk → fld tk.msg 0x16 1 = 0 →
    fld tk.msg 0x10 4 % 16 = 0 → fld tk.msg 0x10 4 + fld tk.msg 0x14 2 ≤ 7680 * 1024 →
    let base := slotBase (targetSlot s) + fld tk.msg 0x10 4
    (fld tk.msg 0x10 4 ≠ 0 → s.dev.fwWritten.any (overlap (base, fld tk.msg 0x14 2)) = false) →
    Gives (.fwUpdate fn slot) s fun t =>
      (∀ i, i < fld tk.msg 0x14 2 → fwByte t.dev (base + i) = (slice tk.msg 0x20 (fld tk.msg 0x14 2)).getD i 0) ∧
        (∀ a, a / 4096 ∉ sectorsOf base (fld tk.msg 0x14 2) → fwByte t.dev a = fwByte s.dev a) ∧
        Answered s t fn tk .ok (slotPayload s)) ∧
  (∀ (s : State) (fn slot : Nat) (tk : Taken), Begins s fn slot 0x3 tk → fld tk.msg 0x16 1 = 0 →
    fld tk.msg 0x10 4 % 16 = 0 → fld tk.msg 0x10 4 + fld tk.msg 0x14 2 ≤ 7680 * 1024 → fld tk.msg 0x10 4 ≠ 0 →
    s.dev.fwWritten.any (overlap (slotBase (targetSlot s) + fld tk.msg 0x10 4, fld tk.msg 0x14 2)) = true →
    Gives (.fwUpdate fn slot) s fun t => t.dev = s.dev ∧ Answered s t fn tk .eArg []) ∧
  (∀ (s : State) (fn slot : Nat) (tk : Taken), Begins s fn slot 0x3 tk → fld tk.msg 0x16 1 = 1 → s.sec.svcFail &&& 0x6#5 = 0 →
    Gives (.fwUpdate fn slot) s fun t =>
      (s.dev.fwOpen = false → t.dev = s.dev ∧ Answered s t fn tk .eState []) ∧
        (s.dev.fwOpen = true → verifyImage s (targetSlot s) = none → t.dev = s.dev ∧ Answered s t fn tk .eArg []) ∧
        (s.dev.fwOpen = true → (verifyImage s (targetSlot s)).isSome = true →
          t.dev = { s.dev with fwOpen := false, preferB := targetSlot s } ∧ Answered s t fn tk .ok (slotPayload s))) ∧
  (∀ (s : State) (fn slot : Nat) (tk : Taken), Begins s fn slot 0x4 tk → fld tk.msg 0x10 1 ≤ 2 →
    Gives (.trainingPolicy fn slot) s fun t =>
      Answered s t fn tk .ok [] ∧
        (fld tk.msg 0x10 1 = 2 → t.fpt = { s.fpt with trainA := none, trainB := none } ∧ t.ao = s.ao) ∧
        (fld tk.msg 0x10 1 < 2 → t.ao = { s.ao with fullNext := fld tk.msg 0x10 1 == 1 } ∧ t.fpt = s.fpt))

/-- R142, R149, R173, R174, R331: the tenant commands; a reset leaves the mesh request tags of what its engines had out in use. The status where the manual names none is the model's reading, log entries 18 and 21. -/
def Obligations.TenantCommands : Prop :=
  (∀ (s : State) (fn slot : Nat) (tk : Taken), Begins s fn slot 0x100 tk →
    namedTenant fn tk.msg ≤ s.pcie.numVfs → (tenant s (namedTenant fn tk.msg)).alive = false →
    Gives (.tenantCreate fn slot) s fun t =>
      tenant t (namedTenant fn tk.msg) = { Tenant.reset with alive := true, poisonNotify := fld tk.msg 0x11 1 % 2 == 1 } ∧
        (∀ n, n ≠ namedTenant fn tk.msg → tenant t n = tenant s n) ∧ Answered s t fn tk .ok []) ∧
  (∀ (s : State) (fn slot : Nat) (tk : Taken), Begins s fn slot 0x101 tk → s.epoch.running = none →
    Gives (.tenantDestroy fn slot) s fun t =>
      tenant t (namedTenant fn tk.msg) = .reset ∧ (∀ x, ownerOf t x ≠ some (namedTenant fn tk.msg)) ∧
        Answered s t fn tk .ok []) ∧
  (∀ (s : State) (fn slot : Nat) (tk : Taken), Begins s fn slot 0x102 tk →
    (∀ x ∈ siteList tk.msg, x < 200 ∧ siteLive s x = true ∧ siteTaken s x = false) →
    Gives (.tenantAssign fn slot) s fun t =>
      Awaits s t fn tk (.assign (namedTenant fn tk.msg) (siteList tk.msg)) (countPayload tk.msg) ∧
        t = { s with mbx := t.mbx, epoch := t.epoch }) ∧
  (∀ (s : State) (fn slot : Nat) (tk : Taken), Begins s fn slot 0x103 tk → s.epoch.running = none →
    (∀ x ∈ siteList tk.msg, ownerOf s x = some (namedTenant fn tk.msg)) →
    Gives (.tenantRelease fn slot) s fun t =>
      (∀ x ∈ siteList tk.msg, ownerOf t x = none) ∧ (∀ x, x ∉ siteList tk.msg → ownerOf t x = ownerOf s x) ∧
        Answered s t fn tk .ok (countPayload tk.msg)) ∧
  (∀ (s : State) (fn slot : Nat) (tk : Taken), Begins s fn slot 0x104 tk →
    Gives (.tenantReset fn slot) s fun t =>
      (tenant t (namedTenant fn tk.msg)).signals = [] ∧ (tenant t (namedTenant fn tk.msg)).phase = 0 ∧
        (∀ d ∈ t.work.disps, d.tenant ≠ namedTenant fn tk.msg) ∧ t.work.owner = s.work.owner ∧
        ((tenant s (namedTenant fn tk.msg)).alive = true → ∀ x, ownerOf s x = some (namedTenant fn tk.msg) →
          (hearth t x).tags = (hearth s x).tags.map fun u => { u with abandoned := true }) ∧ Answered s t fn tk .ok []) ∧
  (∀ (s : State) (fn slot : Nat) (tk : Taken), Begins s fn slot 0x105 tk →
    Gives (.tenantHalt fn slot) s fun t =>
      tenant t (namedTenant fn tk.msg) = { tenant s (namedTenant fn tk.msg) with halted := true } ∧
        (∀ n, n ≠ namedTenant fn tk.msg → tenant t n = tenant s n) ∧ Answered s t fn tk .ok []) ∧
  (∀ (s : State) (fn slot : Nat) (tk : Taken), Begins s fn slot 0x106 tk → (tenant s (namedTenant fn tk.msg)).halted = true →
    Gives (.tenantResume fn slot) s fun t =>
      tenant t (namedTenant fn tk.msg) = { tenant s (namedTenant fn tk.msg) with halted := false } ∧
        (∀ n, n ≠ namedTenant fn tk.msg → tenant t n = tenant s n) ∧ Answered s t fn tk .ok []) ∧
  (∀ (s : State) (fn slot : Nat) (tk : Taken), Begins s fn slot 0x107 tk →
    Gives (.tenantNotify fn slot) s fun t =>
      tenant t (namedTenant fn tk.msg) = { tenant s (namedTenant fn tk.msg) with poisonNotify := fld tk.msg 0x11 1 % 2 == 1 } ∧
        (∀ n, n ≠ namedTenant fn tk.msg → tenant t n = tenant s n) ∧ Answered s t fn tk .ok [])

/-- R142, R144, R145, R151: queue.create makes an ACTIVE queue with its indices at 0; queue.destroy deletes a queue that has nothing
in flight, and drains one that has. R74, R142, R217-R221, R237: the region and aperture commands. -/
def Obligations.QueueAndRegionCommands : Prop :=
  ((∀ (s : State) (fn slot : Nat) (tk : Taken), Begins s fn slot 0x200 tk →
     let m := tk.msg
     let n := namedTenant fn m
     fld m 0x11 1 ≤ 63 → powerIn 16 4096 (fld m 0x12 2) = true → powerIn 16 4096 (fld m 0x14 2) = true →
     badBase s n (fld m 0x16 1 % 2 == 1) (fld m 0x18 8) = false → badBase s n (fld m 0x16 1 / 2 % 2 == 1) (fld m 0x20 8) = false →
     (queue s n (fld m 0x11 1)).state = .absent →
     ringOutside s n (fld m 0x16 1 % 2 == 1) (fld m 0x18 8) (64 * fld m 0x12 2) = false →
     ringOutside s n (fld m 0x16 1 / 2 % 2 == 1) (fld m 0x20 8) (32 * fld m 0x14 2) = false →
     Gives (.queueCreate fn slot) s fun t =>
       (queue t n (fld m 0x11 1)).state = .active ∧ (queue t n (fld m 0x11 1)).sqEntries = fld m 0x12 2 ∧
         (queue t n (fld m 0x11 1)).cqEntries = fld m 0x14 2 ∧ (queue t n (fld m 0x11 1)).sqBase.toNat = fld m 0x18 8 ∧
         (queue t n (fld m 0x11 1)).cqBase.toNat = fld m 0x20 8 ∧ (queue t n (fld m 0x11 1)).sqTail = 0 ∧
         (queue t n (fld m 0x11 1)).sqHead = 0 ∧ (queue t n (fld m 0x11 1)).cqHead = 0 ∧ (queue t n (fld m 0x11 1)).cqTail = 0 ∧
         (queue t n (fld m 0x11 1)).inflight = (queue s n (fld m 0x11 1)).inflight ∧ (∀ k, k ≠ fld m 0x11 1 → queue t n k = queue s n k) ∧
         Answered s t fn tk .ok []) ∧
   (∀ (s : State) (fn slot : Nat) (tk : Taken), Begins s fn slot 0x201 tk → draining? s fn slot = none →
     fld tk.msg 0x11 1 ≤ 63 → (queue s (namedTenant fn tk.msg) (fld tk.msg 0x11 1)).state ≠ .absent →
     (tenant s (namedTenant fn tk.msg)).alive = true →
     Gives (.queueDestroy fn slot) s fun t =>
       (reserved s (namedTenant fn tk.msg) (fld tk.msg 0x11 1) = 0 →
         queue t (namedTenant fn tk.msg) (fld tk.msg 0x11 1) =
             { Queue.reset with inflight := (queue s (namedTenant fn tk.msg) (fld tk.msg 0x11 1)).inflight } ∧
           Answered s t fn tk .ok []) ∧
       (reserved s (namedTenant fn tk.msg) (fld tk.msg 0x11 1) ≠ 0 →
         (queue t (namedTenant fn tk.msg) (fld tk.msg 0x11 1)).state = .draining ∧
           (queue t (namedTenant fn tk.msg) (fld tk.msg 0x11 1)).sqHead =
             (queue s (namedTenant fn tk.msg) (fld tk.msg 0x11 1)).sqTail ∧ (mbx t fn).rspPi = (mbx s fn).rspPi))) ∧
  ((∀ (s : State) (fn slot num share : Nat) (es : List Extent) (tk : Taken), Begins s fn slot 0x300 tk →
     let m := tk.msg
     let n := namedTenant fn m
     let units := bits (maskAt m 0x20)
     fld m 0x11 1 = 0 → fld m 0x12 1 ≤ 1 → fld m 0x13 1 ≤ 1 → fld m 0x18 8 ≠ 0 → units ≠ [] →
     (∀ u ∈ units, unusable s n false u = false) → share = shareOf (fld m 0x18 8) units.length → freeNumber s n = some num →
     placeAll (fun u => sliceExtent s u share) units = some es → (allRegions s).length < 4096 →
     Gives (.regionDefine fn slot) s fun t =>
       (∃ r : Region, Awaits s t fn tk (.define n num r) (definePayload num (units.length * share)) ∧ r.extents = es ∧
         r.hbm = false ∧ r.die = (fld m 0x12 1 == 1) ∧ r.bankLocal = (fld m 0x13 1 == 1) ∧ r.mask = maskAt m 0x20 ∧
         r.share = share ∧ r.size = units.length * share ∧ r.init = []) ∧
       t = { s with mbx := t.mbx, epoch := t.epoch }) ∧
   (∀ (s : State) (fn slot : Nat) (tk : Taken), Begins s fn slot 0x301 tk →
     regionUsed s (namedTenant fn tk.msg) (fld tk.msg 0x12 2) = false →
     Gives (.regionDelete fn slot) s fun t =>
       Awaits s t fn tk (.delete (namedTenant fn tk.msg) (fld tk.msg 0x12 2)) [] ∧ t = { s with mbx := t.mbx, epoch := t.epoch }) ∧
   (∀ (s : State) (fn slot : Nat) (r : Region) (tk : Taken), Begins s fn slot 0x302 tk →
     region? s (namedTenant fn tk.msg) (fld tk.msg 0x12 2) = some r → fld tk.msg 0x18 8 % 32 = 0 → fld tk.msg 0x20 8 % 32 = 0 →
     fld tk.msg 0x18 8 + fld tk.msg 0x20 8 ≤ r.size →
     Gives (.regionFill fn slot) s fun t =>
       Answered s t fn tk
         (if (fillSpan s (namedTenant fn tk.msg) (fld tk.msg 0x12 2) (fld tk.msg 0x18 8) (fld tk.msg 0x20 8)
           (bytesLine (slice tk.msg 0x28 32))).1 then .ok else .eFault) [] ∧
       t.mem = (fillSpan s (namedTenant fn tk.msg) (fld tk.msg 0x12 2) (fld tk.msg 0x18 8) (fld tk.msg 0x20 8)
           (bytesLine (slice tk.msg 0x28 32))).2.mem ∧
       (∃ x, region? t (namedTenant fn tk.msg) (fld tk.msg 0x12 2) = some x ∧ x = { r with init := x.init } ∧
         (∀ c ∈ r.init, c ∈ x.init) ∧
         (∀ c, fld tk.msg 0x18 8 ≤ 65536 * c → 65536 * c + 65536 ≤ fld tk.msg 0x18 8 + fld tk.msg 0x20 8 → chunkLive s r c = true →
           c ∈ x.init))) ∧
   (∀ (s : State) (fn slot : Nat) (r : Region) (tk : Taken), Begins s fn slot 0x303 tk →
     region? s (namedTenant fn tk.msg) (fld tk.msg 0x12 2) = some r →
     Gives (.regionQuery fn slot) s fun t => Answered s t fn tk .ok (queryPayload r) ∧ AnswerFrame s t) ∧
   (∀ (s : State) (fn slot : Nat) (r : Region) (tk : Taken), Begins s fn slot 0x304 tk →
     let m := tk.msg
     let n := namedTenant fn m
     region? s n (fld m 0x12 2) = some r → r.hbm = true → fld m 0x18 8 % 2 ^ 21 = 0 → fld m 0x20 8 % 2 ^ 21 = 0 →
     fld m 0x28 8 % 2 ^ 21 = 0 → fld m 0x18 8 + fld m 0x28 8 ≤ (pcieFn s n).bar2Size → fld m 0x20 8 + fld m 0x28 8 ≤ r.size →
     (∀ x ∈ (tenant s n).apertures, meets (fld m 0x18 8) (fld m 0x28 8) x.offset x.length = false) →
     Gives (.apertureMap fn slot) s fun t =>
       tenant t n = { tenant s n with apertures := (tenant s n).apertures ++
         [{ offset := fld m 0x18 8, region := fld m 0x12 2, regionOffset := fld m 0x20 8, length := fld m 0x28 8 }] } ∧
       (∀ k, k ≠ n → tenant t k = tenant s k) ∧ Answered s t fn tk .ok []) ∧
   (∀ (s : State) (fn slot : Nat) (x : Aperture) (tk : Taken), Begins s fn slot 0x305 tk →
     x ∈ (tenant s (namedTenant fn tk.msg)).apertures → x.offset = fld tk.msg 0x18 8 →
     Gives (.apertureUnmap fn slot) s fun t =>
       (tenant t (namedTenant fn tk.msg)).apertures =
           (tenant s (namedTenant fn tk.msg)).apertures.filter (fun y => y.offset != fld tk.msg 0x18 8) ∧
         Answered s t fn tk .ok []))

/-- R142, R252, R260, R372, R385, R387, R428, R146: models, activation tables, counter windows, rings, buckets, Sweep and the
floor plan. -/
def Obligations.EngineAndRecordCommands : Prop :=
  (∀ (s s' : State) (fn slot k : Nat) (b : List Byte) (tk : Taken), Begins s fn slot 0x400 tk →
    blobInside s (namedTenant fn tk.msg) tk.msg = true → fld tk.msg 0x14 4 ≤ 9504 →
    readBlob s (namedTenant fn tk.msg) tk.msg = (.bytes b, s') → sizeOk b = true → Img.check b = none →
    firstFree (tenant s (namedTenant fn tk.msg)).models 64 = some k →
    Gives (.andironModelLoad fn slot) s fun t =>
      look (tenant t (namedTenant fn tk.msg)).models k = some b ∧ Answered s t fn tk .ok (leBytes 2 k)) ∧
  (∀ (s : State) (fn slot : Nat) (tk : Taken), Begins s fn slot 0x401 tk →
    modelUsed s (namedTenant fn tk.msg) (fld tk.msg 0x12 2) = false →
    Gives (.andironModelUnload fn slot) s fun t =>
      look (tenant t (namedTenant fn tk.msg)).models (fld tk.msg 0x12 2) = none ∧
        (∀ j, j ≠ fld tk.msg 0x12 2 →
          look (tenant t (namedTenant fn tk.msg)).models j = look (tenant s (namedTenant fn tk.msg)).models j) ∧
        Answered s t fn tk .ok []) ∧
  (∀ (s s' : State) (fn slot : Nat) (b : List Byte) (tk : Taken), Begins s fn slot 0x402 tk → fld tk.msg 0x11 1 ≤ 7 →
    fld tk.msg 0x14 4 = 544 → blobInside s (namedTenant fn tk.msg) tk.msg = true →
    readBlob s (namedTenant fn tk.msg) tk.msg = (.bytes b, s') → tableOk b = true →
    Gives (.emberActLoad fn slot) s fun t =>
      (∀ x ∈ tk.owned, ownerOf s x = some (namedTenant fn tk.msg) → siteRetired s x = false →
        look (hearth t x).actTables (fld tk.msg 0x11 1) = some b) ∧
      (∀ x, x ∉ tk.owned → hearth t x = hearth s x) ∧ Answered s t fn tk .ok []) ∧
  (∀ (s : State) (fn slot : Nat) (tk : Taken), Begins s fn slot 0x500 tk →
    let m := tk.msg
    let e := fld m 0x12 2
    fld m 0x11 1 ≤ (if fn = 0 then 63 else 15) → (eventAttr e).isSome = true → (fn ≠ 0 → eventAttr e ≠ some .none_) →
    (hearthEvent e = true → fld m 0x14 2 = 0xFFFF ∨ (fld m 0x14 2 < 200 ∧ (siteRec s (fld m 0x14 2)).works = true)) →
    (hearthEvent e = false → fld m 0x14 2 = 0xFFFF) →
    Gives (.counterWindowSet fn slot) s fun t =>
      window t fn (fld m 0x11 1) = newWindow s (if fn = 0 then fld m 0x10 1 else fn) (fld m 0x14 2) e ∧
        t.counters.windows = put s.counters.windows (64 * fn + fld m 0x11 1) (window t fn (fld m 0x11 1)) ∧
        Answered s t fn tk .ok (leBytes 8 (baselineSum (window t fn (fld m 0x11 1))))) ∧
  (∀ (s : State) (fn slot : Nat) (tk : Taken), Begins s fn slot 0x501 tk →
    let m := tk.msg
    let n := namedTenant fn m
    (n = 0 → fld m 0x11 1 % 2 = 0) → powerIn 64 65536 (fld m 0x14 4) = true →
    badBase s n (fld m 0x11 1 % 2 == 1) (fld m 0x18 8) = false →
    ringOutside s n (fld m 0x11 1 % 2 == 1) (fld m 0x18 8) (64 * fld m 0x14 4) = false →
    Gives (.ashRingConfig fn slot) s fun t =>
      ashRing t n = { ashRing s n with placed := true, hbm := fld m 0x11 1 % 2 == 1, entries := fld m 0x14 4,
                                       base := BitVec.ofNat 64 (fld m 0x18 8), pi := 0, ci := 0 } ∧
        (∀ k, k ≠ n → ashRing t k = ashRing s k) ∧ Answered s t fn tk .ok []) ∧
  (∀ (s : State) (fn slot : Nat) (tk : Taken), Begins s fn slot 0x502 tk → 1 ≤ fld tk.msg 0x10 2 → fld tk.msg 0x10 2 ≤ 3600 →
    Gives (.ashBucketConfig fn slot) s fun t =>
      t.ash = { s.ash with leakS := fld tk.msg 0x10 2, leakAt := [], leakBase := s.ao.devtime } ∧ Answered s t fn tk .ok []) ∧
  (∀ (s : State) (fn slot : Nat) (tk : Taken), Begins s fn slot 0x503 tk → 15 ≤ fld tk.msg 0x10 4 → fld tk.msg 0x10 4 ≤ 10080 →
    Gives (.sweepConfig fn slot) s fun t =>
      t.mem = { s.mem with passMin := fld tk.msg 0x10 4 } ∧ Answered s t fn tk .ok []) ∧
  (∀ (s : State) (fn slot : Nat) (tbl : FptTable) (tk : Taken), Begins s fn slot 0x504 tk → s.fpt.table = some tbl →
    Gives (.floorplanRead fn slot) s fun t =>
      Answered s t fn tk .ok (planPayload tbl (readableSites s fn (fld tk.msg 0x10 2))) ∧ AnswerFrame s t)

/-- R101, R142, R147, R148, R402, R410, R418, R449, R452, R465: the draught, chain and security commands. -/
def Obligations.DraughtChainAndSecurityCommands : Prop :=
  (∀ (s : State) (fn slot : Nat) (tk : Taken), Begins s fn slot 0x600 tk → 900 ≤ fld tk.msg 0x10 2 → fld tk.msg 0x10 2 ≤ 2200 →
    fld tk.msg 0x12 2 ≤ 2560 →
    Gives (.draughtCapSet fn slot) s fun t =>
      t.draught.mailboxCap = fld tk.msg 0x10 2 ∧ t.draught.margin = fld tk.msg 0x12 2 ∧
        t.draught.cap = min (min s.ao.boardCap (fld tk.msg 0x10 2)) s.draught.lTh ∧ t.draught.lTh = s.draught.lTh ∧
        Answered s t fn tk .ok []) ∧
  (∀ (s : State) (fn slot : Nat) (tk : Taken), Begins s fn slot 0x601 tk → 150 ≤ fld tk.msg 0x10 2 → fld tk.msg 0x10 2 ≤ 2000 →
    fld tk.msg 0x12 1 ≤ 1 →
    Gives (.draughtRampSet fn slot) s fun t =>
      t.draught = { s.draught with ramp := fld tk.msg 0x10 2, banking := fld tk.msg 0x12 1 == 1 } ∧ Answered s t fn tk .ok []) ∧
  (∀ (s : State) (fn slot : Nat) (tk : Taken), Begins s fn slot 0x602 tk →
    Gives (.draughtStatus fn slot) s fun t => Answered s t fn tk .ok (draughtPayload s) ∧ AnswerFrame s t) ∧
  (∀ (s : State) (fn slot : Nat) (tk : Taken), Begins s fn slot 0x603 tk → fld tk.msg 0x11 1 ≤ 2 → tripCauses s = 0 →
    (fld tk.msg 0x10 1 = 0 →
      Gives (.draughtTripTest fn slot) s fun t => Answered s t fn tk .ok (tripPayload s) ∧ AnswerFrame s t) ∧
    (fld tk.msg 0x10 1 = 1 →
      Gives (.draughtTripTest fn slot) s fun t =>
        Cold s t ∧ t.ao.tripLatched = true ∧ t.ao.tripCause.toNat = 2 ^ fld tk.msg 0x11 1 ∧ t.ao.pwrEn = false)) ∧
  (∀ (s : State) (fn slot : Nat) (tk : Taken), Begins s fn slot 0x700 tk → fld tk.msg 0x10 1 ≤ 3 → fld tk.msg 0x11 1 ≤ 1 →
    (chainPort s (fld tk.msg 0x10 1)).window = [] → (chainPort s (fld tk.msg 0x10 1)).reads = [] →
    Gives (.chainPortConfig fn slot) s fun t =>
      (chainPort t (fld tk.msg 0x10 1)).state = (if fld tk.msg 0x11 1 = 0 then .disabled
        else if (chainPort s (fld tk.msg 0x10 1)).locked then .probing else .noLock) ∧
      (chainPort t (fld tk.msg 0x10 1)).etherType.toNat = fld tk.msg 0x12 2 ∧
      (chainPort t (fld tk.msg 0x10 1)).dst.toNat = fld tk.msg 0x14 6 ∧
      (chainPort t (fld tk.msg 0x10 1)).src.toNat = fld tk.msg 0x1A 6 ∧
      (chainPort t (fld tk.msg 0x10 1)).nextSeq = 0 ∧ (chainPort t (fld tk.msg 0x10 1)).expect = 0 ∧
      (∀ p, p ≠ fld tk.msg 0x10 1 → chainPort t p = chainPort s p) ∧ Answered s t fn tk .ok []) ∧
  (∀ (s : State) (fn slot : Nat) (tk : Taken), Begins s fn slot 0x701 tk → fld tk.msg 0x13 1 ≤ 3 →
    look s.chain.domains (fld tk.msg 0x10 2) = none → boundCount s < 256 →
    Gives (.chainDomainBind fn slot) s fun t =>
      Awaits s t fn tk (.bind (fld tk.msg 0x10 2) (fld tk.msg 0x12 1) (fld tk.msg 0x13 1)) [] ∧
        t = { s with mbx := t.mbx, epoch := t.epoch }) ∧
  (∀ (s : State) (fn slot : Nat) (d : Domain) (tk : Taken), Begins s fn slot 0x702 tk →
    look s.chain.domains (fld tk.msg 0x10 2) = some d → fld tk.msg 0x12 1 ≤ 63 →
    (fld tk.msg 0x13 1 = 0 ∨ (region? s d.tenant (fld tk.msg 0x14 2)).isSome = true) →
    Gives (.chainDomainExport fn slot) s fun t =>
      (∃ x, look t.chain.domains (fld tk.msg 0x10 2) = some { d with exports := x } ∧
        look x (fld tk.msg 0x12 1) = (if fld tk.msg 0x13 1 = 0 then none
          else some (fld tk.msg 0x14 2, fld tk.msg 0x13 1 % 2 == 1, fld tk.msg 0x13 1 / 2 == 1)) ∧
        ∀ i, i ≠ fld tk.msg 0x12 1 → look x i = look d.exports i) ∧
      t.chain.ports = s.chain.ports ∧ Answered s t fn tk .ok []) ∧
  (∀ (s : State) (fn slot : Nat) (tk : Taken), Begins s fn slot 0x703 tk →
    (look s.chain.domains (fld tk.msg 0x10 2)).isSome = true →
    Gives (.chainDomainUnbind fn slot) s fun t =>
      look t.chain.domains (fld tk.msg 0x10 2) = none ∧
        (∀ k, k ≠ fld tk.msg 0x10 2 → look t.chain.domains k = look s.chain.domains k) ∧ Answered s t fn tk .ok []) ∧
  (∀ (s : State) (fn slot : Nat) (i : Image) (tk : Taken), Begins s fn slot 0x800 tk → s.dev.image = some i →
    fld tk.msg 0x30 1 = 0 → s.sec.zeroised = false → s.sec.svcFail &&& 0x1E#5 = 0 → s.sec.entropyRerun = false →
    Gives (.attestReport fn slot) s fun t =>
      Answered s t fn tk .ok (attestPayload s fn i (slice tk.msg 0x10 32)) ∧
        t.sec = { s.sec with drbgRequests := s.sec.drbgRequests + 1 }) ∧
  (∀ (s : State) (fn slot : Nat) (tk : Taken), Begins s fn slot 0x801 tk → fld tk.msg 0x10 4 = 0x5A45524F →
    Gives (.securityZeroise fn slot) s fun t =>
      t.sec = { s.sec with keys := [], keysCleared := true, drbgSeeded := false, lotKeyBlown := true, zeroised := true } ∧
        (∀ n, (tenant s n).alive = true → (tenant t n).halted = true) ∧ Answered s t fn tk .ok [])

/-! ## SMBus (03) -/

/-- R77, R78: what each read of the endpoint returns. Reading STATUS clears bit 6 and releases SMB_ALERT_N; no other read changes
anything. A transaction with a wrong packet error code is not answered and has no effect. R65, R78, R79: a write of BOARD_CAP from
900 to 2,200 W takes effect at once, any other is rejected with STATUS bit 6; RESET_REQ 0xA5 resets everything but the AO domain
and the part starts again, any other value is rejected. The bytes of a block read and the alert response are the model's reading,
log entry 29. -/
def Obligations.SmbusEndpoint : Prop :=
  ((∀ s : State, s.ao.vauxOk = true →
     (Gives (.smbStatus true) s fun t => t = { s with ao := { s.ao with
       smbReply := some (leBytes 1 (statusByte s)), writeRejected := false, smbAlert := false } }) ∧
     (Gives (.smbPkgPower true) s fun t => t = { s with ao := { s.ao with
       smbReply := some (leBytes 2 (if s.ao.pwrEn = true ∧ s.ao.pwrGood = true then s.draught.measured / 1000 else 0)) } }) ∧
     (Gives (.smbTemps true) s fun t => t = { s with ao := { s.ao with
       smbReply := some ([hotDram s 0, hotDram s 1, hotLogic s 0, hotLogic s 1, hotFlue s].flatMap
         fun v => leBytes 2 (BitVec.ofInt 16 v).toNat) } }) ∧
     (Gives (.smbTray true) s fun t => t = { s with ao := { s.ao with
       smbReply := some (leBytes 2 s.ao.inlet.toNat ++ leBytes 2 s.ao.outlet.toNat ++ leBytes 2 s.ao.flow.toNat) } }) ∧
     (Gives (.smbBoardCap none true) s fun t => t = { s with ao := { s.ao with smbReply := some (leBytes 2 s.ao.boardCap) } }) ∧
     (Gives (.smbThermalCycles true) s fun t => t = { s with ao := { s.ao with
       smbReply := some (leBytes 4 s.draught.half10k ++ leBytes 4 s.draught.half30k) } }) ∧
     (∀ i, s.dev.image = some i → s.dev.state ≠ .boot → Gives (.smbFwLevel true) s fun t => t = { s with ao := { s.ao with
       smbReply := some (leBytes 1 i.level ++ leBytes 1 i.major ++ leBytes 1 i.minor ++ leBytes 1 i.patch) } }) ∧
     ((s.dev.image = none ∨ s.dev.state = .boot) → Gives (.smbFwLevel true) s fun t => t = { s with ao := { s.ao with
       smbReply := some (leBytes 4 0) } }) ∧
     (Gives (.smbTripCause true) s fun t => t = { s with ao := { s.ao with
       smbReply := some (leBytes 1 s.ao.tripCause.toNat) } }) ∧
     (Gives .alertResponseAddress s fun t => t = { s with ao := { s.ao with
       smbReply := if s.ao.smbAlert then some [BitVec.ofNat 8 (2 * (0x60 + s.ao.addrStrap.toNat))] else none } })) ∧
   (∀ (s : State) (w : Option (BitVec 16)) (v : Byte) (k : Bool) (c : Instr), s.ao.vauxOk = true →
     c ∈ [.smbStatus false, .smbPkgPower false, .smbTemps false, .smbTray false, .smbBoardCap w false, .smbThermalCycles false,
       .smbFwLevel false, .smbTripCause false, .smbResetReq v false k] →
     Gives c s fun t => t = { s with ao := { s.ao with smbReply := none } })) ∧
  ((∀ (s : State) (v : BitVec 16), s.ao.vauxOk = true →
     Gives (.smbBoardCap (some v) true) s fun t =>
       (900 ≤ v.toNat → v.toNat ≤ 2200 → t.ao = { s.ao with boardCap := v.toNat, smbReply := some [] } ∧
         (live s = true → t.draught.cap = min (min v.toNat s.draught.mailboxCap) s.draught.lTh)) ∧
       (v.toNat < 900 ∨ 2200 < v.toNat → t.ao.boardCap = s.ao.boardCap ∧ t.ao.writeRejected = true ∧ t.draught = s.draught) ∧
       t = { s with ao := t.ao, draught := t.draught, ash := t.ash, pcie := t.pcie, counters := t.counters }) ∧
   (∀ (s : State) (k : Bool), s.ao.vauxOk = true →
     Gives (.smbResetReq 0xA5 true k) s fun t =>
       t.mbx = [] ∧ t.work = .reset ∧ t.hearths = [] ∧ t.chain = .reset ∧ t.draught = .reset ∧ t.mem.slice = [] ∧ t.mem.hbm = [] ∧
         t.mem.host = s.mem.host ∧ t.ao.pwrEn = s.ao.pwrEn ∧ t.ao.devtime = s.ao.devtime ∧
         t.sec.revoked = s.sec.revoked ∧ t.sec.lotKeyBlown = s.sec.lotKeyBlown ∧
         (s.ao.pwrGood = true → s.ao.pkgResetN = true → s.ao.pwrEn = true → s.ao.tripLatched = false →
           (t.dev.image.isSome = true → t.dev.state = .boot) ∧ (t.dev.image = none → t.dev.state = .failed ∧ t.dev.cause = 1)) ∧
         (s.ao.pwrGood = false → t.dev.state = .off)) ∧
   (∀ (s : State) (v : Byte) (k : Bool), s.ao.vauxOk = true → v ≠ 0xA5 →
     Gives (.smbResetReq v true k) s fun t => t.ao.writeRejected = true ∧ t = { s with ao := t.ao }))

/-! ## Doorbells and apertures (03, 07) -/

/-- R151, R152, R170: DBL_SQ_TAIL moves forward by at most what keeps the ring's size untaken descriptors, DBL_CQ_HEAD not past
CQ_TAIL; any other value is ignored and sets INDEX_ERROR. DBL_SIGNAL stores the value and ends the WAITs it meets. -/
def Obligations.DoorbellsMoveForward : Prop :=
  (∀ (s : State) (fn q : Nat) (v : BitVec 32), queueOk fn q = true → fnReachable s fn = true → live s = true →
    (queue s fn q).state ≠ .absent →
    let u := queue s fn q
    let x := v.toNat % 8192
    let new := (x + 2 * u.sqEntries - u.sqHead) % (2 * u.sqEntries)
    Gives (.dblSqTailWrite fn q v) s fun t =>
      (u.state = .active → x < 2 * u.sqEntries → new ≤ u.sqEntries → u.posted ≤ new → queue t fn q = { u with sqTail := x }) ∧
        (u.state = .draining ∨ 2 * u.sqEntries ≤ x ∨ u.sqEntries < new ∨ new < u.posted →
          queue t fn q = { u with indexError := true }) ∧
        (∀ k, k ≠ q → queue t fn k = queue s fn k) ∧
        t = { s with work := { s.work with tenants := t.work.tenants }, counters := t.counters }) ∧
  (∀ (s : State) (fn q : Nat) (v : BitVec 32), queueOk fn q = true → fnReachable s fn = true → live s = true →
    (queue s fn q).state ≠ .absent →
    let u := queue s fn q
    let x := v.toNat % 8192
    let left := (u.cqTail + 2 * u.cqEntries - x) % (2 * u.cqEntries)
    Gives (.dblCqHeadWrite fn q v) s fun t =>
      (x < 2 * u.cqEntries → left ≤ u.unread → queue t fn q = { u with cqHead := x }) ∧
        (2 * u.cqEntries ≤ x ∨ u.unread < left → queue t fn q = { u with indexError := true }) ∧
        (∀ k, k ≠ q → queue t fn k = queue s fn k) ∧
        t = { s with work := { s.work with tenants := t.work.tenants }, counters := t.counters }) ∧
  (∀ (s : State) (fn n : Nat) (v : Word), queueOk fn 0 = true → n < 256 → fnReachable s fn = true → live s = true →
    (tenant s fn).alive = true →
    Gives (.dblSignalWrite fn n v) s fun t =>
      signalOf t fn n = v ∧ (∀ k, k ≠ n → signalOf t fn k = signalOf s fn k) ∧
        (∀ id d, disp? s id = some d → d.op = 8 → waitMet t d = true → ∃ e, disp? t id = some e ∧ e.ended = true) ∧
        (∀ id, (∀ e ∈ s.work.disps, e.id = id → e.op ≠ 8) → disp? t id = disp? s id) ∧
        t = { s with work := { s.work with tenants := t.work.tenants, disps := t.work.disps } })

/-- R74, R382, R391: an aperture read that a mapping backs returns the region's bytes; one that none backs, or that comes while the
part is not live, returns all ones, and is recorded as PROT in the first case; an uncorrectable word poisons the completion. R74,
R223, R234: an aperture write stores into the words of its span and into no other word; a whole word that is in service reads back
as written; a write that no mapping backs stores nothing and is recorded as PROT. That an access lies in one mapping is the
model's reading, log entry 30. -/
def Obligations.AperturesMoveData : Prop :=
  (∀ (s : State) (fn off n : Nat), fn ≤ 16 → inBar2 s fn off n = true →
     Gives (.apertureRead fn off n) s fun t =>
       (live s = false → t.pcie.bar2Data = List.replicate n 0xFF#8 ∧ t.pcie.bar2Poisoned = false ∧ t.ash = s.ash) ∧
       (live s = true → backing s fn off n = none → t.pcie.bar2Data = List.replicate n 0xFF#8 ∧ t.pcie.bar2Poisoned = false ∧
         ∃ e, t.ash.flying = s.ash.flying ++ [e] ∧ e.type_ = 0x40 ∧ e.tenant = fn ∧ e.dests = [fn] ∧ fld e.detail 8 1 = 0) ∧
       (∀ a b s', live s = true → backing s fn off n = some a → readSpan (countT s 0xC02 fn 1) fn a n 8 = (.bytes b, s') →
         t.pcie.bar2Data = b ∧ t.pcie.bar2Poisoned = false) ∧
       (∀ a k s', live s = true → backing s fn off n = some a → readSpan (countT s 0xC02 fn 1) fn a n 8 = (.bad k, s') →
         t.pcie.bar2Data = List.replicate n 0xFF#8 ∧ t.pcie.bar2Poisoned = true) ∧
       t.mem.slice = s.mem.slice ∧ t.mem.hbm = s.mem.hbm ∧ t.mem.host = s.mem.host ∧ t.hearths = s.hearths ∧ t.work = s.work) ∧
  ((∀ (s : State) (fn off a : Nat) (bs : List Byte) (r : Region), fn ≤ 16 → inBar2 s fn off bs.length = true → live s = true →
     backing s fn off bs.length = some a → region? s fn (regionOf a) = some r → offsetOf a + bs.length ≤ r.size →
     Gives (.apertureWrite fn off bs) s fun t =>
       (∀ p : Place, (∀ o q, offsetOf a ≤ o → o < offsetOf a + bs.length → regionPlace r o = some q →
           ¬ (q.hbm = p.hbm ∧ q.index = p.index)) → stored? t p = stored? s p) ∧
         (∀ p : Place, bs.length = 32 → offsetOf a % 32 = 0 → regionPlace r (offsetOf a) = some p → placeOut s p = false → touched s p = false →
           peek t p = .data (bytesLine bs)) ∧
         t.mem.host = s.mem.host ∧ t.hearths = s.hearths ∧ t.work = s.work) ∧
   (∀ (s : State) (fn off : Nat) (bs : List Byte), fn ≤ 16 → inBar2 s fn off bs.length = true → live s = true →
     backing s fn off bs.length = none →
     Gives (.apertureWrite fn off bs) s fun t =>
       t.mem = s.mem ∧ ∃ e, t.ash.flying = s.ash.flying ++ [e] ∧ e.type_ = 0x40 ∧ e.tenant = fn ∧ e.dests = [fn] ∧
         fld e.detail 8 1 = 1))

/-! ## The dispatcher (07) -/

/-- R153, R154, R156, R163: a descriptor whose fetch fails is taken and ends POISONED when its ring lies in HBM, ABORTED with DETAIL
0x0A when it lies in host memory; an undefined opcode ends ABORTED with DETAIL 2; one that fails a check ends with the first
check's status, DETAIL and site. -/
def Obligations.DescriptorsAreCheckedInOrder : Prop :=
  (∀ (s s' : State) (tn q k : Nat) (c : Instr), queueOk tn q = true → nextTake s = some (tn, q) →
    fetchDesc s tn q = (.bad k, s') → TakesFrom c tn q →
    Gives c s fun t => Took s t tn q [] fun d =>
      EndedWith d (if (queue s tn q).sqHbm then .poisoned else .aborted) (if (queue s tn q).sqHbm then 0 else 0x0A) 0xFFFF) ∧
  (∀ (s a : State) (tn q : Nat) (b : List Byte), Fetches s tn q b a → (fld b 0 1 = 0 ∨ 9 < fld b 0 1) →
    Gives (.undefinedDescriptorOpcode tn q) s fun t => Took s t tn q b fun d => EndedWith d .aborted 2 0xFFFF) ∧
  (∀ (s a : State) (tn q : Nat) (b : List Byte) (c : Instr) (f : Status × Nat × Nat), Fetches s tn q b a →
    1 ≤ fld b 0 1 → fld b 0 1 ≤ 9 → (takeRows tn q)[fld b 0 1 - 1]? = some c → firstFail (takeChecks a tn b) = some f →
    Gives c s fun t => Took s t tn q b (fun d => EndedWith d f.1 f.2.1 f.2.2) ∧ t.mem = a.mem ∧ t.hearths = a.hearths) ∧
  (∀ (s : State) (tn q : Nat) (c : Instr), queueOk tn q = true → nextTake s ≠ some (tn, q) → TakesFrom c tn q → Idles c s)

/-- R158-R162, R170, R243, R278: what a checked RUN_RECIPE, ANDIRON_BATCH, EMBER_RUN, COPY and FILL comes to when it is taken: a
recipe and an ember run wait for their claim; the others start at once, or wait too while an earlier descriptor of their queue has not
started. -/
def Obligations.WorkDescriptorsStart : Prop :=
  (∀ (s a : State) (tn q : Nat) (b : List Byte), Fetches s tn q b a → fld b 0 1 = 1 → firstFail (recipeChecks a tn b) = none →
    Gives (.runRecipe tn q) s fun t =>
      Took s t tn q b (fun d => d.unclaimed = true ∧ d.ended = false) ∧ t.hearths = a.hearths ∧ t.mem = a.mem) ∧
  (∀ (s a a' : State) (tn q : Nat) (b bd : List Byte), Fetches s tn q b a → fld b 0 1 = 2 → StartsNow s tn q →
    firstFail (batchChecks a tn b) = none → readSpan a tn (fld b 0x10 8) 96 6 = (.bytes bd, a') →
    batchCheck a' tn (fld b 0x10 8) (lookD [] (tenant a' tn).models (fld b 0xC 2)) bd (usedRect a' b) = none →
    Gives (.andironBatch tn q) s fun t =>
      Took s t tn q b (fun d => d.working = usedRect a' b ∧ d.ended = false) ∧
        (∀ x ∈ usedRect a' b, ∃ l, l ∈ (hearth t x).launches ∧ l.disp = some s.work.nextId ∧ l.desc = bd ∧
          l.takenAt = s.ao.devtime ∧ l.started = false ∧ l.slots = slotCount a' (usedRect a' b)) ∧
        (∀ x, x ∉ usedRect a' b → hearth t x = hearth s x)) ∧
  (∀ (s a : State) (tn q : Nat) (b : List Byte), Fetches s tn q b a → fld b 0 1 = 3 → firstFail (emberChecks a tn b) = none →
    Gives (.emberRun tn q) s fun t =>
      Took s t tn q b (fun d => d.unclaimed = true ∧ d.ended = false) ∧ t.hearths = a.hearths ∧ t.mem = a.mem) ∧
  (∀ (s a : State) (tn q : Nat) (b : List Byte), Fetches s tn q b a → fld b 0 1 = 4 → StartsNow s tn q →
    firstFail (copyChecks a tn b) = none →
    fld b 0x20 1 ≠ 2 → fld b 0x21 1 ≠ 2 →
    let r := copyWords tn (fld b 0x20 1) (fld b 8 8) (fld b 0x21 1) (fld b 0x10 8) (fld b 0x18 8 / 32) a
    Gives (.copy tn q) s fun t =>
      Took s t tn q b (fun d => EndedWith d (r.1.getD .done) (if r.1 = some .prot then 3 else 0) 0xFFFF) ∧ t.mem = r.2.mem) ∧
  (∀ (s a : State) (tn q : Nat) (b : List Byte) (dm : Domain), Fetches s tn q b a → fld b 0 1 = 4 →
    StartsNow s tn q → firstFail (copyChecks a tn b) = none → fld b 0x20 1 = 2 → look a.chain.domains (fld b 0x24 2) = some dm →
    (chainPort a dm.port).state = .up →
    Gives (.copy tn q) s fun t =>
      Took s t tn q b (fun d => d.ended = false ∧ d.frames = 2 * ((fld b 0x18 8 + 4095) / 4096)) ∧
        ∃ fs, (chainPort t dm.port).waiting = (chainPort a dm.port).waiting ++ fs ∧
          fs.length = (fld b 0x18 8 + 4095) / 4096 ∧ ∀ f ∈ fs, f.type_ = 2 ∧ f.length ≤ 4096 ∧ f.cls = fld b 0x22 1) ∧
  (∀ (s a : State) (tn q : Nat) (b : List Byte), Fetches s tn q b a → fld b 0 1 = 5 → StartsNow s tn q →
    firstFail (fillChecks a tn b) = none →
    let r := fillSpan a tn (regionOf (fld b 8 8)) (offsetOf (fld b 8 8)) (fld b 0x10 8) (bytesLine (slice b 0x18 32))
    Gives (.fill tn q) s fun t =>
      Took s t tn q b (fun d => EndedWith d (if r.1 then .done else .busError) 0 0xFFFF) ∧ t.mem = r.2.mem) ∧
  (∀ (s a : State) (tn q : Nat) (b : List Byte) (c : Instr), Fetches s tn q b a →
    (fld b 0 1 = 2 ∨ fld b 0 1 = 4 ∨ fld b 0 1 = 5) → (takeRows tn q)[fld b 0 1 - 1]? = some c → firstFail (takeChecks a tn b) = none →
    FreshIds s → (∃ e ∈ s.work.disps, e.unclaimed = true ∧ e.tenant = tn ∧ e.queue = q ∧ e.orphan = false) →
    Gives c s fun t =>
      Took s t tn q b (fun d => d.unclaimed = true ∧ d.ended = false) ∧ t.hearths = a.hearths ∧ t.mem = a.mem ∧ t.chain = a.chain)

/-- R170, R171: a FENCE ends once what it waits for has; a SIGNAL with nothing before it stores or adds its value and ends; a WAIT
whose condition holds ends, one whose condition does not hold stays, as does a TURNOVER. -/
def Obligations.SynchronisingDescriptors : Prop :=
  (∀ (s a : State) (tn q : Nat) (b : List Byte), Fetches s tn q b a → fld b 0 1 = 6 → firstFail (takeChecks a tn b) = none →
    s.work.disps = [] →
    Gives (.fence tn q) s fun t => Took s t tn q b (fun d => EndedWith d .done 0 0xFFFF) ∧ t.mem = a.mem ∧ t.hearths = a.hearths) ∧
  (∀ (s a : State) (tn q : Nat) (b : List Byte), Fetches s tn q b a → fld b 0 1 = 6 → firstFail (takeChecks a tn b) = none →
    FreshIds s → (∃ e ∈ s.work.disps, e.tenant = tn ∧ e.queue = q ∧ e.orphan = false) →
    Gives (.fence tn q) s fun t => Took s t tn q b (fun d => d.ended = false)) ∧
  (∀ (s a : State) (tn q : Nat) (b : List Byte), Fetches s tn q b a → fld b 0 1 = 7 → firstFail (takeChecks a tn b) = none →
    s.work.disps = [] →
    Gives (.signal tn q) s fun t =>
      Took s t tn q b (fun d => EndedWith d .done 0 0xFFFF) ∧
        signalOf t tn (fld b 8 1) = (if fld b 9 1 = 0 then BitVec.ofNat 64 (fld b 0x10 8)
          else signalOf s tn (fld b 8 1) + BitVec.ofNat 64 (fld b 0x10 8)) ∧
        ∀ k, k ≠ fld b 8 1 → signalOf t tn k = signalOf s tn k) ∧
  (∀ (s a : State) (tn q : Nat) (b : List Byte), Fetches s tn q b a → fld b 0 1 = 8 → firstFail (takeChecks a tn b) = none →
    FreshIds s →
    let v := signalOf s tn (fld b 8 1)
    let x := BitVec.ofNat 64 (fld b 0x10 8)
    Gives (.wait tn q) s fun t =>
      ((fld b 9 1 = 0 ∧ x ≤ v) ∨ (fld b 9 1 = 1 ∧ v = x) → Took s t tn q b fun d => EndedWith d .done 0 0xFFFF) ∧
      ((fld b 9 1 = 0 ∧ v < x) ∨ (fld b 9 1 = 1 ∧ v ≠ x) → Took s t tn q b fun d => d.ended = false)) ∧
  (∀ (s a : State) (tn q : Nat) (b : List Byte), Fetches s tn q b a → fld b 0 1 = 9 → firstFail (takeChecks a tn b) = none →
    Gives (.turnover tn q) s fun t => Took s t tn q b (fun d => d.ended = false) ∧ ∀ k, takeable t tn k = false)

/-- R164, R165, R169, R171, R183: a WAIT ends ABORTED, DETAIL 4, at its TIMEOUT_NS; a TURNOVER that has drained invalidates the
tenant's weight pages, sets PHASE and leaves; an ended dispatch leaves with one record of 32 bytes at CQ_TAIL, whose phase bit is
1 in the ring's first pass. -/
def Obligations.CompletionsWriteRecords : Prop :=
  (∀ (s : State) (id : Nat) (d : Disp), disp? s id = some d → d.op = 8 → d.ended = false → fld d.desc 0x18 8 ≠ 0 →
    d.started + fld d.desc 0x18 8 ≤ s.ao.devtime →
    Gives (.waitTimeout id) s fun t =>
      (∃ e, disp? t id = some e ∧ e.ended = true ∧ e.reports = d.reports ++ [{ site := 0xFFFF, status := .aborted, detail := 4 }]) ∧
        (∀ k, k ≠ id → disp? t k = disp? s k) ∧ t = { s with work := { s.work with disps := t.work.disps }, counters := t.counters }) ∧
  (∀ (s : State) (id : Nat) (d : Disp), disp? s id = some d → d.op = 9 → d.ended = false →
    (∀ e ∈ s.work.disps, e.tenant = d.tenant → e.id = id) →
    Gives (.turnoverDrained id) s fun t =>
      (tenant t d.tenant).phase = fld d.desc 8 1 ∧ (∀ e ∈ t.work.disps, e.id ≠ id) ∧
        (∀ x k w, ownerOf s x = some d.tenant → look (hearth t x).weightPages k = some w → w.valid = false) ∧
        (∀ x, x ∉ ownedBy s d.tenant → hearth t x = hearth s x)) ∧
  (∀ (s : State) (id : Nat) (d : Disp), disp? s id = some d → d.ended = true → d.orphan = false →
    (queue s d.tenant d.queue).cqEntries ≠ 0 →
    let u := queue s d.tenant d.queue
    Gives (.dispatchComplete id) s fun t =>
      (∀ e ∈ t.work.disps, e.id ≠ id) ∧ (queue t d.tenant d.queue).cqTail = (u.cqTail + 1) % (2 * u.cqEntries) ∧
        (queue t d.tenant d.queue).inflight = u.inflight - 1 ∧
        (u.cqHbm = false → hostReachable s d.tenant = true →
          ∀ i, i < 32 → t.mem.host.byte t.free (u.cqBase.toNat + 32 * (u.cqTail % u.cqEntries) + i) =
            (recordBytes d (decide (u.cqTail < u.cqEntries))).getD i 0) ∧
        (u.cqHbm = false → hostReachable s d.tenant = false → t.mem.host = s.mem.host))

/-- R160, R170, R177, R195-R197, R207-R209: a claim, its turn come, starts every site of the rectangle with its registers as the
descriptor gives them; one with an earlier descriptor of its queue that has not started waits;
a site that executed END and whose items are done reports and lets go; a miss of the instruction buffer fills the line of pc. -/
def Obligations.RecipesStartAndEnd : Prop :=
  (∀ (s : State) (id : Nat) (d : Disp), disp? s id = some d → d.op = 1 → d.unclaimed = true → rectOk s d.desc = true →
    (∀ x ∈ usedRect s d.desc, (hearth s x).disp = none) → WaitsAlone s d →
    Gives (.recipeClaim id) s fun t =>
      (∃ e, disp? t id = some e ∧ e.unclaimed = false ∧ e.working = usedRect s d.desc) ∧
        (∀ i x, (allRect d.desc)[i]? = some x → x ∈ usedRect s d.desc →
          (hearth t x).seq = .running ∧ (hearth t x).disp = some id ∧ (hearth t x).tenant = d.tenant ∧
            (hearth t x).pc.toNat = fld d.desc 0x10 8 ∧
            lookD 0 (hearth t x).regs 1 = BitVec.ofNat 64 (i / fld d.desc 0xB 1) ∧
            lookD 0 (hearth t x).regs 2 = BitVec.ofNat 64 (i % fld d.desc 0xB 1) ∧
            (lookD 0 (hearth t x).regs 5).toNat = fld d.desc 0x18 8 ∧ lookD 0 (hearth t x).regs 8 = 0 ∧
            lookD 0 (hearth t x).regs 31 = 0 ∧
            (hearth t x).preds = 0 ∧ (hearth t x).tvec = 0 ∧ (hearth t x).inTrap = false ∧ (hearth t x).sticky = 0 ∧
            (hearth t x).completed = [] ∧ (hearth t x).issued = [] ∧ (hearth t x).arrival = [] ∧ (hearth t x).ibuf = [] ∧
            (hearth t x).staging = (hearth s x).staging) ∧
        (∀ x, x ∉ usedRect s d.desc → hearth t x = hearth s x) ∧
        t = { s with work := { s.work with disps := t.work.disps }, hearths := t.hearths }) ∧
  (∀ (s : State) (id : Nat) (d e : Disp), disp? s id = some d → e ∈ s.work.disps → e.unclaimed = true → e.id < d.id →
    e.tenant = d.tenant → e.queue = d.queue → e.orphan = d.orphan → Idles (.recipeClaim id) s) ∧
  (∀ (s : State) (site id : Nat) (d : Disp), site < 200 → (hearth s site).seq = .ending → itemsDone (hearth s site) = true →
    (hearth s site).disp = some id → (hearth s site).fails = [] → disp? s id = some d →
    Gives (.recipeSiteEnd site) s fun t =>
      (hearth t site).seq = .idle ∧ (hearth t site).disp = none ∧
        (∃ e, disp? t id = some e ∧ e.reports = d.reports ++ [{ site := site, status := .done, detail := 0 }] ∧
          e.working = d.working.filter (fun x => x != site) ∧ (e.ended = true ↔ d.ended = true ∨ e.working = [])) ∧
        (∀ x, x ≠ site → hearth t x = hearth s x) ∧
        t.mem = { s.mem with races := s.mem.races.filter fun x => x.site != site || x.queue == 17 }) ∧
  (∀ (s s' : State) (site : Nat) (r : Region) (b : List Byte), site < 200 → executing s site = true →
    lineAt (hearth s site) = none → region? s (hearth s site).tenant (hearth s site).codeRegion = some r →
    (hearth s site).pc.toNat < r.share →
    readShare (countAt s 0x004 site 1) (hearth s site).tenant site
      (2 ^ 48 * (hearth s site).codeRegion + (hearth s site).pc.toNat / 256 * 256)
      (min 256 (r.share - (hearth s site).pc.toNat / 256 * 256)) 1 = (.bytes b, s') →
    Gives (.ibufFill site) s fun t =>
      lineAt (hearth t site) = some b ∧ hearth t site = { hearth s site with ibuf := (hearth t site).ibuf } ∧
        (∀ x, x ≠ site → hearth t x = hearth s x))

/-! ## Sequencer instructions (09) -/

/-- R195, R198-R200: ALU and the immediate rows write rd with the value the table gives, modulo 2^64, and retire; a result for g0 is
discarded. CMP and CMPI write one predicate by their cond field, whose values 6 and 7 take ILLEGAL. -/
def Obligations.ArithmeticAndConditions : Prop :=
  (∀ (s : State) (site w : Nat), Runs s site w 1 → bf w 0 6 ≤ 0xD → Gives (.alu site) s fun t =>
    ∃ v, AluResult (bf w 0 6) (getG (hearth s site) (raOf w)) (getG (hearth s site) (rbOf w)) v ∧ SetsRd s t site (rdOf w) v) ∧
  (∀ (s : State) (site w : Nat), Runs s site w 2 → Gives (.addi site) s fun t =>
    ∃ v, (v.toNat : Int) = ((getG (hearth s site) (raOf w)).toNat + signed 11 (bf w 0 11)) % 2 ^ 64 ∧ SetsRd s t site (rdOf w) v) ∧
  (∀ (s : State) (site w : Nat),
    let a := getG (hearth s site) (raOf w)
    let i := BitVec.ofInt 64 (signed 11 (bf w 0 11))
    (Runs s site w 3 → Gives (.andi site) s fun t => SetsRd s t site (rdOf w) (a &&& i)) ∧
    (Runs s site w 4 → Gives (.ori site) s fun t => SetsRd s t site (rdOf w) (a ||| i)) ∧
    (Runs s site w 5 → Gives (.xori site) s fun t => SetsRd s t site (rdOf w) (a ^^^ i))) ∧
  (∀ (s : State) (site w : Nat), bf w 6 5 = 0 →
    let a := getG (hearth s site) (raOf w)
    (Runs s site w 6 → Gives (.slli site) s fun t => ∃ v, v.toNat = a.toNat * 2 ^ bf w 0 6 % 2 ^ 64 ∧ SetsRd s t site (rdOf w) v) ∧
    (Runs s site w 7 → Gives (.srli site) s fun t => ∃ v, v.toNat = a.toNat / 2 ^ bf w 0 6 ∧ SetsRd s t site (rdOf w) v) ∧
    (Runs s site w 8 → Gives (.srai site) s fun t => ∃ v, v.toInt = a.toInt / 2 ^ bf w 0 6 ∧ SetsRd s t site (rdOf w) v)) ∧
  (∀ (s : State) (site w : Nat), Runs s site w 9 → Gives (.movi site) s fun t =>
    ∃ v, v.toInt = signed 16 (bf w 0 16) ∧ SetsRd s t site (rdOf w) v) ∧
  (∀ (s : State) (site w k : Nat) (c : Nat → Instr),
    (k, c) ∈ [(0, Instr.movk0), (1, Instr.movk1), (2, Instr.movk2), (3, Instr.movk3)] → Runs s site w (0xA + k) →
    Gives (c site) s fun t => ∃ v, SetsRd s t site (rdOf w) v ∧
      ∀ i, i < 64 → v.getLsbD i = if i / 16 = k then (bf w 0 16).testBit (i % 16) else (getG (hearth s site) (rdOf w)).getLsbD i) ∧
  (∀ (s : State) (site w : Nat), Runs s site w 0x10 → bf w 0 5 = 0 → bf w 5 3 ≤ 5 → Gives (.cmp site) s fun t =>
    ∃ v, (v = true ↔ CondHolds (bf w 5 3) (getG (hearth s site) (bf w 13 5)) (getG (hearth s site) (bf w 8 5))) ∧
      SetsP s t site (bf w 18 3) v) ∧
  (∀ (s : State) (site w : Nat), Runs s site w 0x11 → bf w 10 3 ≤ 5 → Gives (.cmpi site) s fun t =>
    ∃ v, (v = true ↔ CondHolds (bf w 10 3) (getG (hearth s site) (bf w 13 5)) (BitVec.ofInt 64 (signed 10 (bf w 0 10)))) ∧
      SetsP s t site (bf w 18 3) v) ∧
  (∀ (s : State) (site w : Nat),
    (Runs s site w 0x10 → 6 ≤ bf w 5 3 → Gives (.cmp site) s fun t => Traps s t site 1) ∧
    (Runs s site w 0x11 → 6 ≤ bf w 10 3 → Gives (.cmpi site) s fun t => Traps s t site 1))

/-- R195, R198-R200: PLOG writes one predicate. A guarded instruction whose predicate is off only advances pc; one with a field that
must be zero takes ILLEGAL; a row whose instruction is not the one at pc changes nothing. That a command whose event does not hold
changes nothing is the model's choice, log entry 8. -/
def Obligations.GuardsAndPredicateLogic : Prop :=
  (∀ (s : State) (site w : Nat), Runs s site w 0x12 → bf w 4 8 = 0 → bf w 0 4 ≤ 5 →
    let a := (hearth s site).preds.getLsbD (bf w 15 3)
    let b := (hearth s site).preds.getLsbD (bf w 12 3)
    Gives (.plog site) s fun t => SetsP s t site (bf w 18 3) ([a && b, a || b, a != b, a && !b, true, false].getD (bf w 0 4) false)) ∧
  (∀ (s : State) (site w op : Nat) (c : Nat → Instr), (op, c) ∈ seqRows → site < 200 → executing s site = true →
    cachedWord (hearth s site) = some w → staleCode s site w = false →
    (opcodeOf w = op → bf w 25 1 = 1 → ((hearth s site).preds.getLsbD (bf w 21 3) = true ↔ bf w 24 1 = 1) →
      Gives (c site) s fun t => OnlyPc s t site ((hearth s site).pc + 4)) ∧
    (opcodeOf w = op → bf w 25 1 = 0 → bf w 21 4 ≠ 0 →
      Gives (c site) s fun t => Traps s t site 1) ∧
    (opcodeOf w ≠ op → Idles (c site) s)) ∧
  (∀ (s : State) (site op : Nat) (c : Nat → Instr), (op, c) ∈ seqRows → site < 200 →
    executing s site = false ∨ cachedWord (hearth s site) = none → Idles (c site) s)

/-- R200, R201: LDS, LWS, STS and SWS access staging little-endian at g[ra] plus the scaled offset; off its alignment or outside
staging the access takes MISALIGN; LWS zero-extends; a store leaves every other byte of staging. A load of a word that an item has
written sees the whole old word or the whole new one; that a sequencer's load is bound as an item's read is (R178) is the model's
reading, log entry 9. -/
def Obligations.StagingAccesses : Prop :=
  (∀ (s : State) (site w op n : Nat) (c : Nat → Instr), (op, n, c) ∈ stagingLoads → Runs s site w op →
    let h := hearth s site
    let a := (getG h (raOf w) + BitVec.ofNat 64 n * BitVec.ofInt 64 (signed 11 (bf w 0 11))).toNat
    a % n = 0 → a < 0x800000 → stagingUe h a n = false → overtaken s site 16 0 = [] →
    Gives (c site) s fun t => ∃ (v : Word) (b : List Byte), v.toNat = leNat b ∧ OldOrNew s site a n b ∧
      (h.races = [] → b = h.staging.read s.free a n) ∧
      ∃ f, t.free = f ∧ SetsRd { s with free := f } t site (rdOf w) v) ∧
  (∀ (s : State) (site w op n : Nat) (c : Nat → Instr), (op, n, c) ∈ stagingStores → Runs s site w op →
    let h := hearth s site
    let a := (getG h (raOf w) + BitVec.ofNat 64 n * BitVec.ofInt 64 (signed 11 (bf w 0 11))).toNat
    a % n = 0 → a < 0x800000 →
    Gives (c site) s fun t =>
      (∀ free x, (hearth t site).staging.byte free x =
        if a ≤ x ∧ x < a + n then BitVec.ofNat 8 ((getG h (rdOf w)).toNat / 256 ^ (x - a)) else h.staging.byte free x) ∧
      hearth t site = { h with staging := (hearth t site).staging, stagingBad := (hearth t site).stagingBad,
                               stagingSoft := (hearth t site).stagingSoft,
                               weightPages := (hearth t site).weightPages, pc := h.pc + 4 } ∧
      (∀ p ∈ (hearth t site).weightPages, p ∈ h.weightPages ∧ p.1 ≠ a / 4096) ∧
      Retires s t site (h.pc + 4) ∧ SiteOnly s t site) ∧
  (∀ (s : State) (site w op n : Nat) (c : Nat → Instr), (op, n, c) ∈ stagingLoads ++ stagingStores → Runs s site w op →
    let h := hearth s site
    let a := getG h (raOf w) + BitVec.ofNat 64 n * BitVec.ofInt 64 (signed 11 (bf w 0 11))
    (a.toNat % n ≠ 0 ∨ 0x800000 ≤ a.toNat) →
    Gives (c site) s fun t => TrapsWith s t site 2 a)

/-- R179, R200, R201, R219, R234, R254: LDR and LWR load from the word of the region address, STR and SWR merge their bytes into it and
leave every other word as stored; an access that leaves the hearth waits while no mesh request tag is free; a store into a word that a
running ember program touches leaves it contested; off its alignment the access takes MISALIGN, in no region of the tenant it ends the
site with PROT. -/
def Obligations.RegionAccesses : Prop :=
  (∀ (s : State) (site w op n : Nat) (c : Nat → Instr) (r : Region) (p : Place) (d : Line), (op, n, c) ∈ regionLoads → Runs s site w op →
    let h := hearth s site
    let a := (getG h (raOf w) + BitVec.ofNat 64 n * BitVec.ofInt 64 (signed 11 (bf w 0 11))).toNat
    a % n = 0 → region? s h.tenant (regionOf a) = some r → offsetOf a + n ≤ r.size →
    regionPlace r (offsetOf a / 32 * 32) = some p → peek s p = .data d → HasTag s site p → Calm s site 16 0 →
    Gives (c site) s fun t => ∃ v : Word, v.toNat = fld (lineBytes d) (offsetOf a % 32) n ∧
      (∀ k, getG (hearth t site) k = if k = rdOf w ∧ k ≠ 0 then v else getG h k) ∧
      hearth t site = { h with regs := (hearth t site).regs, pc := h.pc + 4 } ∧ (∀ x, x ≠ site → hearth t x = hearth s x) ∧
      t = { s with hearths := t.hearths, counters := t.counters, ash := t.ash, free := t.free }) ∧
  (∀ (s : State) (site w op n : Nat) (c : Nat → Instr) (r : Region) (p : Place) (d : Line), (op, n, c) ∈ regionStores → Runs s site w op →
    let h := hearth s site
    let a := (getG h (raOf w) + BitVec.ofNat 64 n * BitVec.ofInt 64 (signed 11 (bf w 0 11))).toNat
    a % n = 0 → region? s h.tenant (regionOf a) = some r → offsetOf a + n ≤ r.size →
    regionPlace r (offsetOf a / 32 * 32) = some p → peek s p = .data d → HasTag s site p →
    Gives (c site) s fun t =>
      (touched s p = false →
        peek t p = .data (bytesLine (splice (lineBytes d) (offsetOf a % 32) (leBytes n (getG h (rdOf w)).toNat))) ∧
          t.mem.contested = s.mem.contested) ∧
      (touched s p = true → p.index ∈ t.mem.contested) ∧
      (∀ q : Place, q.hbm ≠ p.hbm ∨ q.index ≠ p.index → stored? t q = stored? s q) ∧
      hearth t site = { h with pc := h.pc + 4 } ∧ (∀ x, x ≠ site → hearth t x = hearth s x) ∧
      t = { s with hearths := t.hearths, counters := t.counters, ash := t.ash, free := t.free,
                   mem := { s.mem with slice := t.mem.slice, hbm := t.mem.hbm, contested := t.mem.contested } }) ∧
  (∀ (s : State) (site w op n : Nat) (c : Nat → Instr) (r : Region) (p : Place), (op, n, c) ∈ regionLoads ++ regionStores →
    Runs s site w op →
    let h := hearth s site
    let a := (getG h (raOf w) + BitVec.ofNat 64 n * BitVec.ofInt 64 (signed 11 (bf w 0 11))).toNat
    a % n = 0 → region? s h.tenant (regionOf a) = some r → regionPlace r (offsetOf a / 32 * 32) = some p →
    (p.hbm = true ∨ p.unit ≠ site) → tagsFree h = 0 → Idles (c site) s) ∧
  (∀ (s : State) (site w op n : Nat) (c : Nat → Instr), (op, n, c) ∈ regionLoads ++ regionStores → Runs s site w op →
    let h := hearth s site
    let a := getG h (raOf w) + BitVec.ofNat 64 n * BitVec.ofInt 64 (signed 11 (bf w 0 11))
    a.toNat % n ≠ 0 →
    Gives (c site) s fun t => TrapsWith s t site 2 a) ∧
  (∀ (s : State) (site w op n : Nat) (c : Nat → Instr), (op, n, c) ∈ regionLoads ++ regionStores → Runs s site w op →
    let h := hearth s site
    let a := (getG h (raOf w) + BitVec.ofNat 64 n * BitVec.ofInt 64 (signed 11 (bf w 0 11))).toNat
    a % n = 0 → region? s h.tenant (regionOf a) = none → overtaken s site 16 0 = [] →
    Gives (c site) s fun t => t = endSite s site .prot 3)

/-- R197, R200, R207, R209, R210: where pc goes, what CALL, RTE, IFLUSH and END change, what MFS and MTS move; TRAP and an undefined
opcode enter the handler, which RTE leaves. -/
def Obligations.ControlTrapsAndSpecials : Prop :=
  (∀ (s : State) (site w : Nat),
    let h := hearth s site
    let dest := h.pc + 4#64 * BitVec.ofInt 64 (signed 21 (bf w 0 21))
    (Runs s site w 0x20 → Gives (.br site) s fun t => OnlyPc s t site dest) ∧
    (Runs s site w 0x21 → Gives (.call site) s fun t =>
      (∀ n, getG (hearth t site) n = if n = 31 then h.pc + 4 else getG h n) ∧
        hearth t site = { h with regs := (hearth t site).regs, pc := dest } ∧ Retires s t site dest ∧ SiteOnly s t site) ∧
    (Runs s site w 0x22 → bf w 0 11 = 0 → rdOf w = 0 → (getG h (raOf w)).toNat % 4 = 0 →
      Gives (.jr site) s fun t => OnlyPc s t site (getG h (raOf w))) ∧
    (Runs s site w 0x22 → bf w 0 11 = 0 → rdOf w = 0 → (getG h (raOf w)).toNat % 4 ≠ 0 →
      Gives (.jr site) s fun t => TrapsWith s t site 2 (getG h (raOf w)))) ∧
  (∀ (s : State) (site w : Nat), bf w 0 21 = 0 →
    let h := hearth s site
    (Runs s site w 0x38 → Gives (.iflush site) s fun t =>
      hearth t site = { h with ibuf := [], pc := h.pc + 4 } ∧ Retires s t site (h.pc + 4) ∧ SiteOnly s t site) ∧
    (Runs s site w 0x3D → Gives (.rte site) s fun t =>
      hearth t site = { h with inTrap := false, pc := h.tpc } ∧ Retires s t site h.tpc ∧ SiteOnly s t site) ∧
    (Runs s site w 0x3E → Gives (.nop site) s fun t => OnlyPc s t site (h.pc + 4)) ∧
    (Runs s site w 0x3F → Gives (.endRecipe site) s fun t =>
      hearth t site = { h with seq := .ending } ∧ Retires s t site h.pc ∧ SiteOnly s t site)) ∧
  (∀ (s : State) (site w : Nat), bf w 0 8 = 0 →
    let h := hearth s site
    let v := getG h (rdOf w)
    (Runs s site w 0x30 → bf w 8 8 ≤ 10 → bf w 8 8 ≠ 6 → Gives (.mfs site) s fun t =>
      SetsRd s t site (rdOf w) ([h.tvec, h.tpc, BitVec.ofNat 64 h.tcause, h.tval, if h.inTrap then 1 else 0, h.sticky.setWidth 64, 0,
        BitVec.ofNat 64 site, (siteRec s site).quad.setWidth 64, (siteRec s site).lane.setWidth 64,
        BitVec.ofNat 64 (tenant s h.tenant).phase].getD (bf w 8 8) 0)) ∧
    (Runs s site w 0x30 → bf w 8 8 = 6 → 8 ≤ s.ao.devtime → s.ao.devtime + 8 < 2 ^ 64 → Gives (.mfs site) s fun t => ∃ v : Word,
      s.ao.devtime ≤ v.toNat + 8 ∧ v.toNat ≤ s.ao.devtime + 8 ∧ SetsRd s t site (rdOf w) v) ∧
    (Runs s site w 0x31 → (bf w 8 8 = 0 ∨ bf w 8 8 = 1 ∨ bf w 8 8 = 5) → Gives (.mts site) s fun t =>
      hearth t site = { h with tvec := if bf w 8 8 = 0 then v else h.tvec, tpc := if bf w 8 8 = 1 then v else h.tpc,
                               sticky := if bf w 8 8 = 5 then h.sticky &&& v.setWidth 3 else h.sticky, pc := h.pc + 4 } ∧
        Retires s t site (h.pc + 4) ∧ SiteOnly s t site)) ∧
  (∀ (s : State) (site w : Nat),
    (Runs s site w 0x3C → bf w 7 14 = 0 → Gives (.trap site) s fun t => Traps s t site (0x80 + bf w 0 7)) ∧
    (Runs s site w (opcodeOf w) → opcodeOf w ∉ seqRows.map (·.1) → Gives (.illegal site) s fun t => Traps s t site 1))

/-- R175-R177, R200, R202, R204, R208: ISSUE of a block that passes its checks takes the next item number into rd and puts the
block's copy into the queue; with no credit it waits; a bad block takes BAD_ITEM. WAITQ and WAITF go on when their counter has
reached the target and otherwise wait, WAITQ for an item never issued takes BAD_WAIT; RDQ and RDF read the counters. -/
def Obligations.IssueAndWaits : Prop :=
  (∀ (s : State) (site w : Nat) (b : List Byte), Runs s site w 0x28 → bf w 0 7 = 0 → queueNumber (qOf w) = true →
    let h := hearth s site
    let q := qOf w
    let a := (getG h (raOf w)).toNat
    let num := (lookD 0 h.issued q + 1) % 2 ^ 32
    (8 ≤ q → q - 8 ∉ h.dmaHalted) → a % 32 = 0 → a < 0x800000 → Calm s site 16 0 → h.staging.unlisted.isSome = true → stagingUe h a 32 = false →
    h.staging.read s.free a 32 = b →
    (badItem s site q b = none → itemAbsent s site q b = none → itemProt s site q b = none → creditFree h q = true → q ≠ 3 → q ≠ 4 →
      Gives (.issue site) s fun t =>
        lookD 0 (hearth t site).issued q = num ∧
        lookD [] (hearth t site).queues q = lookD [] h.queues q ++ [{ num := num, block := b, started := false, done := false, quad := 0,
                                                                                 waited := h.waited, before := h.issued }] ∧
        (∀ k, k ≠ q → lookD [] (hearth t site).queues k = lookD [] h.queues k ∧ lookD 0 (hearth t site).issued k = lookD 0 h.issued k) ∧
        (∀ n, getG (hearth t site) n = if n = rdOf w ∧ n ≠ 0 then BitVec.ofNat 64 num else getG h n) ∧
        hearth t site = { h with regs := (hearth t site).regs, pc := h.pc + 4, issued := (hearth t site).issued,
                                 queues := (hearth t site).queues } ∧ SiteOnly s t site) ∧
    (badItem s site q b = none → itemAbsent s site q b = none → itemProt s site q b = none → creditFree h q = false →
      Idles (.issue site) s) ∧
    (∀ off, badItem s site q b = some off → Gives (.issue site) s fun t =>
      TrapsWith s t site 5 (BitVec.ofNat 64 off))) ∧
  (∀ (s : State) (site w : Nat), Runs s site w 0x29 → bf w 0 7 = 0 → rdOf w = 0 → queueNumber (qOf w) = true →
    let h := hearth s site
    let q := qOf w
    let ahead (n : Nat) : Int := ((BitVec.ofNat 32 n) - (getG h (raOf w)).setWidth 32).toInt
    (8 ≤ q → q - 8 ∉ h.dmaHalted) →
    (0 ≤ ahead (lookD 0 h.issued q) → 0 ≤ ahead (lookD 0 h.completed q) →
      Gives (.waitq site) s fun t =>
        hearth t site = { h with pc := h.pc + 4, waited := (hearth t site).waited } ∧
          reached (lookD 0 (hearth t site).waited q) ((getG h (raOf w)).toNat % 2 ^ 32) = true ∧
          (∀ k, k ≠ q → lookD 0 (hearth t site).waited k = lookD 0 h.waited k) ∧ Retires s t site (h.pc + 4) ∧ SiteOnly s t site) ∧
    (0 ≤ ahead (lookD 0 h.issued q) → ahead (lookD 0 h.completed q) < 0 → Idles (.waitq site) s) ∧
    (ahead (lookD 0 h.issued q) < 0 → Gives (.waitq site) s fun t => Traps s t site 6)) ∧
  (∀ (s : State) (site w : Nat), Runs s site w 0x2B → bf w 0 7 = 0 → rdOf w = 0 →
    let h := hearth s site
    let ahead : Int := ((BitVec.ofNat 32 (lookD 0 h.arrival (qOf w))) - (getG h (raOf w)).setWidth 32).toInt
    (0 ≤ ahead → Gives (.waitf site) s fun t => OnlyPc s t site (h.pc + 4)) ∧ (ahead < 0 → Idles (.waitf site) s)) ∧
  (∀ (s : State) (site w : Nat), bf w 0 7 = 0 → raOf w = 0 →
    let h := hearth s site
    (Runs s site w 0x2A → queueNumber (qOf w) = true → Gives (.rdq site) s fun t =>
      (∀ n, getG (hearth t site) n =
        if n = rdOf w ∧ n ≠ 0 then BitVec.ofNat 64 (lookD 0 h.completed (qOf w)) else getG h n) ∧
      hearth t site = { h with regs := (hearth t site).regs, waited := (hearth t site).waited, pc := h.pc + 4 } ∧
      (∀ k, k ≠ qOf w → lookD 0 (hearth t site).waited k = lookD 0 h.waited k) ∧ Retires s t site (h.pc + 4) ∧ SiteOnly s t site) ∧
    (Runs s site w 0x2C → Gives (.rdf site) s fun t =>
      SetsRd s t site (rdOf w) (BitVec.ofNat 64 (lookD 0 h.arrival (qOf w)))))

/-! ## Engines of a hearth (08, 09, 11, 13) -/

/-- R175-R178, R188, R192, R193, R203: a queued tile starts in issue order on its idle quadrant, an ANY tile on the first idle one of
the rotating order; a completed tile has written the rows of C and returned its credit; integer sums within 32 bits are exact; at a multiple of 2,000,000 ns, and only there, the order rotates, once.
When an item's reads happen is the model's choice, log entry 9. -/
def Obligations.TilesRunOnQuadrants : Prop :=
  (∀ (s : State) (site n x : Nat) (it : Item), site < 200 → item? s site 0 n = some it → it.started = false → it.done = false →
    engineFree s site = true → earlierStarted s site 0 n = true → ((tileOf it.block).serial = true → earlierDoneItems s site 0 n = true) →
    ((tileOf it.block).quad < 4 ∧ x = (tileOf it.block).quad ∧ quadLive s site x = true ∧ quadBusy s site x = false) ∨
      (4 ≤ (tileOf it.block).quad ∧ (quadOrder s site).find? (fun y => !quadBusy s site y) = some x) →
    Gives (.tileStart site n) s fun t => StartsItem s t site 0 n x) ∧
  (∀ (s s' : State) (site n : Nat) (it : Item), site < 200 → siteLive s site = true → item? s site 0 n = some it → it.started = true →
    it.done = false → runTile s site it = (none, s') →
    Gives (.tileComplete site n) s fun t => Completes s' t site 0 n ∧ t.mem = s'.mem ∧
      hearth t site = { hearth s' site with queues := (hearth t site).queues, completed := (hearth t site).completed } ∧
      ∀ x, x ≠ site → hearth t x = hearth s' x) ∧
  (∀ (s : State) (site n : Nat) (it : Item) (w : List Byte), site < 200 → siteLive s site = true → item? s site 0 n = some it →
    it.started = true → it.done = false → Calm s site 0 n →
    let x := tileOf it.block
    x.fromPages = true → (∀ k wp, look (hearth s site).weightPages k = some wp → wp.valid = true) → x.keep = false → x.status = false → x.zeroC0 = true → 4 * x.n ≤ x.pitch →
    Readable (hearth s site) x.page x.wBytes → Readable (hearth s site) x.a (x.m * x.rowBytes) →
    (hearth s site).staging.read s.free x.page x.wBytes = w →
    Gives (.tileComplete site n) s fun t =>
      (∀ i j, i < x.m → j < x.n →
        word32 ((hearth t site).staging.read 0 (x.c + i * x.pitch) (4 * x.n)) j =
          (tileElem x (slice ((hearth s site).staging.read s.free x.a (x.m * x.rowBytes)) (i * x.rowBytes) x.rowBytes)
            (slice w (j * x.rowBytes) x.rowBytes) 0).1) ∧
      (∀ a, (∀ i, i < x.m → a < x.c + i * x.pitch ∨ x.c + i * x.pitch + 4 * x.n ≤ a) →
        (hearth t site).staging.byte 0 a = (hearth s site).staging.byte 0 a) ∧
      Completes s t site 0 n ∧ t.mem = s.mem ∧ ∀ y, y ≠ site → hearth t y = hearth s y) ∧
  (∀ (x : Tile) (row col : List Byte) (c0 : BitVec 32), x.format = 1 →
    let e (l : List Byte) (k : Nat) : Int := signed 8 (l.getD k 0).toNat
    (∀ g, g ≤ x.kg →
      let z := (List.range (16 * g)).foldl (fun z k => z + e row k * e col k) c0.toInt
      z < 2 ^ 31 ∧ -(2 ^ 31) ≤ z) →
    (tileElem x row col c0).1.toInt = (List.range (16 * x.kg)).foldl (fun z k => z + e row k * e col k) c0.toInt ∧
      (tileElem x row col c0).2 = false) ∧
  (∀ s : State,
    (s.dev.state ≠ .off → s.ao.devtime % 2000000 = 0 → s.fabric.rotatedAt ≠ some s.ao.devtime → Gives .quadrantRotation s fun t =>
      t = { s with fabric := { s.fabric with rotation := s.fabric.rotation + 1, rotatedAt := some s.ao.devtime } }) ∧
    (s.ao.devtime % 2000000 ≠ 0 ∨ s.fabric.rotatedAt = some s.ao.devtime → Idles .quadrantRotation s))

/-- R175-R177, R203, R205: the next vector item, when it names the row's OP and its operands read, writes D element by element and
starts; its completion returns the credit. That RSUM is rounded once is the model's reading, log entry 24. -/
def Obligations.VectorOpsWriteD : Prop :=
  (∀ (s : State) (site op : Nat) (c : Nat → Instr) (it : Item), (op, c) ∈ vectorRows → site < 200 → nextVector s site op = some it →
    let h := hearth s site
    let rows := it.f 4 2
    let cols := it.f 6 2
    let n := rows * cols
    let nb := if op = 9 then 544 else 4 * vecB op rows cols
    let nc := if op = 5 then 4 * n else 0
    let a := h.staging.read s.free (it.f 8 4) (4 * n)
    let b := h.staging.read s.free (it.f 0xC 4) nb
    let c' := h.staging.read s.free (it.f 0x10 4) nc
    Calm s site 1 it.num → Readable h (it.f 8 4) (4 * n) → stagingUe h (it.f 0xC 4) nb = false → stagingUe h (it.f 0x10 4) nc = false →
    Gives (c site) s fun t =>
      (op ≠ 0xB → op ≠ 0xC → op ≠ 0xD → ∀ i, i < n →
        VecElem op cols a b c' b (BitVec.ofNat 32 (it.f 0x18 4)) (BitVec.ofNat 32 (it.f 0x1C 4)) i
          (word32 ((hearth t site).staging.read 0 (it.f 0x14 4) (4 * n)) i)) ∧
      (op = 0xB → ∀ i, i < rows → word32 ((hearth t site).staging.read 0 (it.f 0x14 4) (4 * rows)) i =
        round32 (exactSum ((List.range cols).map fun j => dec32 (word32 a (cols * i + j))))) ∧
      (op = 0xC → 0 < cols → ∀ i, i < rows → word32 ((hearth t site).staging.read 0 (it.f 0x14 4) (4 * rows)) i =
        (List.range cols).foldl (fun m j => max32 m (word32 a (cols * i + j))) (max32 (word32 a (cols * i)) (word32 a (cols * i)))) ∧
      (op = 0xD → it.f 1 1 = 1 → ∀ i, i < n → fld ((hearth t site).staging.read 0 (it.f 0x14 4) (2 * n)) (2 * i) 2 =
        Fmt.bf16.narrow (dec32 (word32 a i)) % 65536) ∧
      (op = 0xD → (∃ i, i < n ∧ dec32 (word32 a i) = .nan) → (hearth t site).sticky.getLsbD 1 = true) ∧
      (∀ x, x < it.f 0x14 4 ∨ it.f 0x14 4 + (if op = 0xB ∨ op = 0xC then 4 * rows else vecOut op (it.f 1 1) rows cols) ≤ x →
        (hearth t site).staging.byte 0 x = h.staging.byte 0 x) ∧
      (∀ i ∈ lookD [] (hearth t site).queues 1, i.num = it.num → i.started = true) ∧ (hearth t site).completed = h.completed ∧
      (∀ x, x ≠ site → hearth t x = hearth s x) ∧ t = { s with hearths := t.hearths, counters := t.counters }) ∧
  (∀ (s : State) (site : Nat) (it : Item), site < 200 → siteLive s site = true → headItem s site 1 = some it → it.started = true →
    Gives (.vectorOpComplete site) s fun t => Completes s t site 1 it.num ∧
      hearth t site = { hearth s site with queues := (hearth t site).queues, completed := (hearth t site).completed } ∧
      SiteOnly s t site)

/-- R175-R179, R203, R206, R208, R331, R382: transfers of a channel run one at a time in order; a transfer or a stream item holds mesh
request tags for what leaves the hearth, and waits while none is free; responses to engines that a reset stopped are discarded; one that meets no error completes with its
bytes moved, another halts its channel, which records CHANNEL_HALT and drops what it holds; a push or pull copies staging between
two sites, and a push advances the arrival counter of its flag. That a halted channel drops what it holds is the model's choice,
log entry 26. -/
def Obligations.DmaAndStreamsMoveBytes : Prop :=
  (∀ (s : State) (site ch : Nat) (it : Item), site < 200 → ch < 8 → headItem s site (8 + ch) = some it → it.started = false →
    engineFree s site = true → ch ∉ (hearth s site).dmaHalted →
    (dmaNeed s site it = 0 ∨ 0 < tagsFree (hearth s site) →
      Gives (.dmaTransferStart site ch) s fun t => StartsWithTags s t site (8 + ch) it.num (dmaNeed s site it)) ∧
    (dmaNeed s site it ≠ 0 → tagsFree (hearth s site) = 0 → Idles (.dmaTransferStart site ch) s)) ∧
  (∀ (s : State) (site ch num : Nat), site < 200 → ch < 8 →
    (awaited (hearth s site) (8 + ch) = true → Gives (.dmaTransferComplete site ch) s fun t => Discards s t site (8 + ch)) ∧
    (awaited (hearth s site) 2 = true → Gives (.pushComplete site num) s (fun t => Discards s t site 2) ∧
      Gives (.pullComplete site num) s fun t => Discards s t site 2)) ∧
  (∀ (s : State) (site ch : Nat) (it : Item), site < 200 → ch < 8 → headItem s site (8 + ch) = some it → it.started = true →
    siteLive s site = true → awaited (hearth s site) (8 + ch) = false → Calm s site (8 + ch) it.num →
    it.f 0x18 1 = 0 → it.f 0x19 1 = 0 →
    let n := it.f 0x10 8 / 32 * 32
    let src := it.f 0 8
    let dst := it.f 8 8
    Readable (hearth s site) src n → src + n ≤ dst ∨ dst + n ≤ src →
    Gives (.dmaTransferComplete site ch) s fun t =>
      (∀ i, i < n → (hearth t site).staging.byte 0 (dst + i) = (hearth s site).staging.byte 0 (src + i)) ∧
      (∀ x, x < dst ∨ dst + n ≤ x → (hearth t site).staging.byte 0 x = (hearth s site).staging.byte 0 x) ∧
      Completes s t site (8 + ch) it.num ∧ SiteOnly s t site) ∧
  (∀ (s s' : State) (site ch : Nat) (it : Item), site < 200 → ch < 8 → headItem s site (8 + ch) = some it → it.started = true →
    siteLive s site = true → awaited (hearth s site) (8 + ch) = false →
    (runDma s site ch it = (true, s') → Gives (.dmaTransferComplete site ch) s fun t =>
      Completes s' t site (8 + ch) it.num ∧ (hearth t site).staging = (hearth s' site).staging ∧ t.mem = s'.mem) ∧
    (runDma s site ch it = (false, s') → Gives (.dmaTransferComplete site ch) s fun t =>
      ch ∈ (hearth t site).dmaHalted ∧ lookD [] (hearth t site).queues (8 + ch) = [] ∧ (hearth t site).sticky.getLsbD 2 = true ∧
        (hearth t site).fails = (hearth s' site).fails ++ [{ status := .channelHalt, detail := ch }] ∧ t.mem = s'.mem)) ∧
  (∀ (s : State) (site num dir : Nat) (it : Item), site < 200 → item? s site 2 num = some it → it.f 0 1 = dir → it.started = false →
    it.done = false → engineFree s site = true → earlierStarted s site 2 num = true →
    let need := streamNeed s site it
    (need = 0 ∨ 0 < tagsFree (hearth s site) →
      (dir = 0 → Gives (.push site num) s fun t => StartsWithTags s t site 2 num need) ∧
      (dir = 1 → Gives (.pull site num) s fun t => StartsWithTags s t site 2 num need)) ∧
    (need ≠ 0 → tagsFree (hearth s site) = 0 →
      (dir = 0 → Idles (.push site num) s) ∧ (dir = 1 → Idles (.pull site num) s))) ∧
  (∀ (s : State) (site num other : Nat) (it : Item), site < 200 → item? s site 2 num = some it → it.started = true → it.done = false →
    siteLive s site = true → streamSite (hearth s site) (it.f 1 1) (it.f 2 1) = some other → siteLive s other = true →
    awaited (hearth s site) 2 = false → Calm s site 2 num → it.num = num →
    let n := it.f 0xC 4
    (it.f 0 1 = 0 → Readable (hearth s site) (it.f 4 4) n → Gives (.pushComplete site num) s fun t =>
      (∀ i, i < n → (hearth t other).staging.byte 0 (it.f 8 4 + i) = (hearth s site).staging.byte 0 (it.f 4 4 + i)) ∧
      (∀ x, x < it.f 8 4 ∨ it.f 8 4 + n ≤ x → (hearth t other).staging.byte 0 x = (hearth s other).staging.byte 0 x) ∧
      (∀ f, lookD 0 (hearth t other).arrival f =
        if f = it.f 3 1 then (lookD 0 (hearth s other).arrival f + 1) % 2 ^ 32 else lookD 0 (hearth s other).arrival f) ∧
      Completes s t site 2 num ∧ (∀ x, x ≠ site → x ≠ other → hearth t x = hearth s x) ∧
      t = { s with hearths := t.hearths, counters := t.counters }) ∧
    (it.f 0 1 = 1 → Readable (hearth s other) (it.f 8 4) n → Gives (.pullComplete site num) s fun t =>
      (∀ i, i < n → (hearth t site).staging.byte 0 (it.f 4 4 + i) = (hearth s other).staging.byte 0 (it.f 8 4 + i)) ∧
      (∀ x, x < it.f 4 4 ∨ it.f 4 4 + n ≤ x → (hearth t site).staging.byte 0 x = (hearth s site).staging.byte 0 x) ∧
      Completes s t site 2 num ∧ (∀ x, x ≠ site → hearth t x = hearth s x) ∧
      t = { s with hearths := t.hearths, counters := t.counters }))

/-- R242-R249, R252, R255, R257: a claimed run enters the queue of every hearth it uses; the next entry starts on its first bank;
each micro-operation writes its lanes, its plane word or the place in the program; LOOP and END wait while the layer is paused; an
entry whose programs have all ended returns its token and ends its item or its dispatch's unit. -/
def Obligations.EmberProgramsRun : Prop :=
  (∀ (s : State) (id : Nat) (d : Disp) (r : Region) (p : List Byte), disp? s id = some d → d.unclaimed = true → fld d.desc 0 1 = 3 →
    WaitsAlone s d → (∀ sp ∈ runSpans s d.tenant d.desc, tokenFree s sp.1 = true ∧ siteRetired s sp.1 = false) →
    embersUsable s d.tenant d.desc = true → runSpans s d.tenant d.desc ≠ [] →
    (readProg (fun s a n => readSpan s d.tenant a n 4) s (fld d.desc 0x10 8)).1 = .bytes p →
    region? s d.tenant (fld d.desc 8 2) = some r →
    emberProgCheck s d.tenant (fld d.desc 8 2) p (runSpans s d.tenant d.desc) (fld d.desc 0x18 8) (fld d.desc 0x20 8) = none →
    Gives (.emberTokenClaim id) s fun t =>
      (∃ d', disp? t id = some d' ∧ d'.unclaimed = false ∧ d'.working = (runSpans s d.tenant d.desc).map (·.1)) ∧
      (∀ sp ∈ runSpans s d.tenant d.desc, ∃ en ∈ (hearth t sp.1).emberQ, en.disp = some id ∧ en.offset = sp.2.1 ∧
        en.length = sp.2.2 ∧ en.prog = progOps p ∧ en.toStart = spanEmbers r sp.1 sp.2.1 sp.2.2) ∧
      (∀ x, (∀ sp ∈ runSpans s d.tenant d.desc, sp.1 ≠ x) → hearth t x = hearth s x) ∧ t.mem = s.mem) ∧
  (∀ (s : State) (site ember b first n : Nat) (rest : List (Nat × Nat × Nat)) (en : EmberEntry), site < 200 → ember < 32 →
    (hearth s site).emberQ.find? (fun e => e.toEnd.contains ember) = some en → siteLive s site = true → emberLive s site ember = true →
    look (hearth s site).emberRuns ember = none → ember ∈ en.toStart → emPaused s site ember = false →
    (tenant s en.tenant).halted = false → emberBanks s site ember en = (b, first, n) :: rest →
    Gives (.emberProgramStart site ember) s fun t =>
      look (hearth t site).emberRuns ember = some { entry := en.id, banks := rest.map (·.1), bank := b, s := first, n := n, i := 0, j := 0,
                                                    regs := [], merge := [], touch := emberTouch s site ember en } ∧
      (∀ e ∈ (hearth t site).emberQ, e.id = en.id → ember ∉ e.toStart) ∧
      (∀ x e, e ≠ ember ∨ x ≠ site → look (hearth t x).emberRuns e = look (hearth s x).emberRuns e) ∧
      t = { s with hearths := t.hearths }) ∧
  (∀ (s : State) (site ember : Nat) (en : EmberEntry) (r : EmberRun) (u : MicroOp),
    let a (i : Nat) := lane (ereg r u.ra) i
    let b (i : Nat) := lane (ereg r u.rb) i
    let pk := en.params.getD u.param 0
    (RunsMicro s site ember 3 en r u → Gives (.emberAdd site ember) s fun t => GivesLanes s t site ember r u.rd fun i => add32 (a i) (b i)) ∧
    (RunsMicro s site ember 4 en r u → Gives (.emberSub site ember) s fun t => GivesLanes s t site ember r u.rd fun i => sub32 (a i) (b i)) ∧
    (RunsMicro s site ember 5 en r u → Gives (.emberMul site ember) s fun t => GivesLanes s t site ember r u.rd fun i => mul32 (a i) (b i)) ∧
    (RunsMicro s site ember 6 en r u → Gives (.emberScale site ember) s fun t =>
      GivesLanes s t site ember r u.rd fun i => mul32 (a i) (if u.one then sub32 0x3F800000 pk else pk)) ∧
    (RunsMicro s site ember 7 en r u → Gives (.emberAct site ember) s fun t =>
      GivesLanes s t site ember r u.rd fun i => act32 (en.table.getD (List.replicate 544 0)) (a i)) ∧
    (RunsMicro s site ember 8 en r u → Gives (.emberCvt site ember) s fun t =>
      GivesLanes s t site ember r u.rd fun i => emberWiden u.fmt ((emberFmt u.fmt).narrow (dec32 (a i)))) ∧
    (RunsMicro s site ember 9 en r u → Gives (.emberMov site ember) s fun t =>
      GivesLanes s t site ember r u.rd fun i => if u.one then pk else a i)) ∧
  (∀ (s : State) (site ember : Nat) (en : EmberEntry) (r : EmberRun) (u : MicroOp) (p : Place) (d : Line),
    microPlace s site en r u = some p → peek s p = .data d → s.mem.races = [] → p.index ∉ s.mem.contested →
    (RunsMicro s site ember 1 en r u → Gives (.emberLoad site ember) s fun t =>
      GivesLanes s t site ember r u.rd fun i =>
        emberWiden u.fmt (fld (lineBytes d) (8 * emberSize u.fmt * planePart r u.fmt + emberSize u.fmt * i) (emberSize u.fmt))) ∧
    (RunsMicro s site ember 2 en r u → u.fmt = 0 → Gives (.emberStore site ember) s fun t =>
      peek t p = .data (bytesLine ((List.range 8).flatMap fun i => leBytes 4 (Fmt.fp32.narrow (dec32 (lane (ereg r u.ra) i))))) ∧
        (∀ q : Place, q.hbm ≠ p.hbm ∨ q.index ≠ p.index → stored? t q = stored? s q) ∧ RunIs s t site ember { r with j := r.j + 1 }) ∧
    (RunsMicro s site ember 2 en r u → u.fmt ≠ 0 → planePart r u.fmt + 1 < 2 ^ emberSh u.fmt → Gives (.emberStore site ember) s fun t =>
      (∃ m, RunIs s t site ember { r with j := r.j + 1, merge := r.merge ++ [m] } ∧ m.1 = u.plane ∧ m.2.1 = planeIndex r u.fmt) ∧
        t.mem = s.mem) ∧
    (RunsMicro s site ember 2 en r u → u.fmt ≠ 0 → planePart r u.fmt + 1 = 2 ^ emberSh u.fmt →
      (∀ m ∈ r.merge, m.2.2.1 % 32 + m.2.2.1 / 32 ≤ 32) → Gives (.emberStore site ember) s fun t =>
      (∃ x, peek t p = .data x ∧ slice (lineBytes x) (8 * emberSize u.fmt * planePart r u.fmt) (8 * emberSize u.fmt) =
        storePart u.fmt (ereg r u.ra)) ∧
        (∀ q : Place, q.hbm ≠ p.hbm ∨ q.index ≠ p.index → stored? t q = stored? s q) ∧
        RunIs s t site ember { r with j := r.j + 1, merge := r.merge.filter fun m => !(m.1 == u.plane && m.2.1 == planeIndex r u.fmt) })) ∧
  (∀ (s : State) (site ember : Nat) (en : EmberEntry) (r : EmberRun) (u : MicroOp), RunsMicro s site ember 0xA en r u →
    (emPaused s site ember = false → Gives (.emberLoop site ember) s fun t =>
      RunIs s t site ember { r with i := r.i + 1, j := if r.i + 1 < r.n then u.target else r.j + 1 } ∧
        t = { s with hearths := t.hearths, counters := t.counters }) ∧
    (emPaused s site ember = true → Idles (.emberLoop site ember) s)) ∧
  (∀ (s : State) (site ember b first n : Nat) (rest : List Nat) (en : EmberEntry) (r : EmberRun) (u : MicroOp),
    RunsMicro s site ember 0 en r u → r.merge = [] → s.mem.contested = [] →
    (r.banks = b :: rest → (b, first, n) ∈ (emberBanks s site ember en).find? (fun x => x.1 == b) → emPaused s site ember = false →
      Gives (.emberEnd site ember) s fun t =>
        RunIs s t site ember { entry := r.entry, banks := rest, bank := b, s := first, n := n, i := 0, j := 0, regs := [], merge := [],
                                touch := r.touch }) ∧
    (r.banks = [] → Gives (.emberEnd site ember) s fun t => look (hearth t site).emberRuns ember = none ∧
      (∀ e ∈ (hearth t site).emberQ, e.id = r.entry → ember ∉ e.toEnd ∧ ({ site := site, status := .done, detail := 0 } : Report) ∈ e.reports) ∧
      (∀ e, e ≠ ember → look (hearth t site).emberRuns e = look (hearth s site).emberRuns e) ∧ t.mem = s.mem ∧ SiteOnly s t site)) ∧
  (∀ (s : State) (site entry : Nat) (en : EmberEntry), site < 200 → emberEntry? (hearth s site) entry = some en → en.toStart = [] →
    en.toEnd = [] → Gives (.emberProgramEnd site entry) s fun t =>
      (hearth t site).emberQ = (hearth s site).emberQ.filter (·.id != entry) ∧ (∀ x, x ≠ site → hearth t x = hearth s x) ∧
        (en.disp = none → Completes s t site 3 en.item ∧ ((worstReport en.reports).status = .done → (hearth t site).fails = (hearth s site).fails) ∧
          ((worstReport en.reports).status ≠ .done → (hearth t site).sticky.getLsbD 2 = true ∧ (hearth t site).fails =
            (hearth s site).fails ++ [{ status := (worstReport en.reports).status, detail := (worstReport en.reports).detail }])) ∧
        (∀ id d, en.disp = some id → disp? s id = some d →
          ∃ d', disp? t id = some d' ∧ d'.reports = d.reports ++ [{ worstReport en.reports with site := site }] ∧ site ∉ d'.working))

/-- R239, R240, R257: a layer takes the slower step or the shorter interval of its hottest reading at once, and the faster or the
longer one after 1 s at least 2 K below the threshold; a row's refresh changes nothing stored. -/
def Obligations.LayersFollowTheirReadings : Prop :=
  (∀ (s : State) (site layer : Nat), site < 200 → layer < 8 → sensed s site = true →
    let i := 8 * site + layer
    let x := layerTemp s site layer
    let step := if x ≤ 128 * 95 then 0 else if x ≤ 128 * 103 then 1 else 2
    let ms := if x ≤ 128 * 85 then 32 else if x ≤ 128 * 95 then 16 else 8
    Gives (.layerThrottle site layer) s (fun t =>
      lookD 0 t.mem.emStep i = max (lookD 0 s.mem.emStep i) step ∧ (∀ k, k ≠ i → lookD 0 t.mem.emStep k = lookD 0 s.mem.emStep k) ∧
        t = { s with mem := { s.mem with emStep := t.mem.emStep } }) ∧
    Gives (.refreshIntervalShorten site layer) s (fun t =>
      lookD 32 t.mem.refresh i = min (lookD 32 s.mem.refresh i) ms ∧ (∀ k, k ≠ i → lookD 32 t.mem.refresh k = lookD 32 s.mem.refresh k) ∧
        (ms < lookD 32 s.mem.refresh i → look t.mem.refreshPass i = none) ∧
        t = { s with mem := { s.mem with refresh := t.mem.refresh, refreshPass := t.mem.refreshPass } }) ∧
    Gives (.layerUnthrottle site layer) s (fun t =>
      (coolFor s i 1 = true → lookD 0 t.mem.emStep i = 0) ∧
        (coolFor s i 1 = false → coolFor s i 2 = true → lookD 0 t.mem.emStep i = min 1 (lookD 0 s.mem.emStep i)) ∧
        (∀ k, k ≠ i → lookD 0 t.mem.emStep k = lookD 0 s.mem.emStep k) ∧
        t = { s with mem := { s.mem with emStep := t.mem.emStep } }) ∧
    Gives (.refreshIntervalLengthen site layer) s (fun t =>
      (coolFor s i 0 = true → lookD 32 t.mem.refresh i = max 32 (lookD 32 s.mem.refresh i)) ∧
        (coolFor s i 0 = false → coolFor s i 1 = true → lookD 32 t.mem.refresh i = max 16 (lookD 32 s.mem.refresh i)) ∧
        (coolFor s i 0 = false → coolFor s i 1 = false → lookD 32 t.mem.refresh i = max 8 (lookD 32 s.mem.refresh i)) ∧
        (∀ k, k ≠ i → lookD 32 t.mem.refresh k = lookD 32 s.mem.refresh k) ∧
        t = { s with mem := { s.mem with refresh := t.mem.refresh } })) ∧
  (∀ (s : State) (site bank row : Nat), site < 200 → bank < 128 → row < 6240 → sensed s site = true →
    Gives (.rowRefresh site bank row) s fun t =>
      lookD 0 t.mem.refreshPass (8 * site + bank / 16) = (lookD 0 s.mem.refreshPass (8 * site + bank / 16) + 1) % 99840 ∧
        t = { s with mem := { s.mem with refreshPass := t.mem.refreshPass }, counters := t.counters })

/-- R260, R278-R281, R285, R286, R291, R295, R299-R301: a launch starts with its model fetched and its lane order fixed, and a
fetch that meets an uncorrectable error is recorded and ends its environments MEMORY_ERROR; an environment whose input fails a guard or cannot be read stops at once; an iteration keeps the best iterate and stops by its tests;
a stopped lane writes its record and is free; a launch without environments left ends its item. Lanes that leave service follow
the model's choice, log entry 28. -/
def Obligations.AndironRunsEnvironments : Prop :=
  (∀ (s : State) (site : Nat) (l : Launch) (rest : List Launch), site < 200 → siteLive s site = true → (hearth s site).launches = l :: rest →
    l.started = false → (tenant s l.tenant).halted = false → workingLanes s site ≠ [] → 0 < tagsFree (hearth s site) →
    Gives (.andironLaunchStart site) s fun t => ∃ l', (hearth t site).launches = l' :: rest ∧ l'.started = true ∧
      l'.image = lookD [] (tenant s l.tenant).models l.model ∧
      (l'.fetchBad = true ↔ l.model ∈ (tenant s l.tenant).modelBad) ∧
      l'.lanes = l.lanes.drop ((hearth s site).launchCount % l.lanes.length) ++ l.lanes.take ((hearth s site).launchCount % l.lanes.length) ∧
      l'.waiting.map (·.1) = l.waiting.map (·.1) ∧ (hearth t site).launchCount = (hearth s site).launchCount + 1 ∧
      (l.model ∈ (tenant s l.tenant).modelBad → ∃ e, e ∈ t.ash.flying ∧ e.type_ = 2 ∧ e.reason = 5 ∧ e.dests = [0, l.tenant]) ∧
      (l.model ∉ (tenant s l.tenant).modelBad → SiteOnly s t site)) ∧
  (∀ (s : State) (site lane i : Nat) (rerun : Bool) (l : Launch) (rest : List Launch), site < 200 → lane < 16 →
    (hearth s site).launches = l :: rest → l.started = true → (tenant s l.tenant).halted = false → laneLive s site lane = true →
    look (hearth s site).lanes lane = none → nextEnv s site lane l = some (i, rerun) →
    0 < tagsFree (hearth s site) → overtaken s site 4 l.item = [] →
    let r := fetchInput s site l i
    (l.fetchBad = true → r.1 = none) ∧
    Gives (.environmentStart site lane) s fun t => ∃ e, look (hearth t site).lanes lane = some e ∧ e.env = i ∧ e.rerun = rerun ∧
      (r.1 = none → e.stop = some 5) ∧
      (∀ w k j, r.1 = some w → guardFail l.image l.desc w = some (k, j) → e.stop = some 2 ∧ e.guard = k ∧ e.word = j) ∧
      (∀ w, r.1 = some w → guardFail l.image l.desc w = none → fld l.desc 4 1 ≤ 2 → e.stop = some 0 ∧ e.iter = 1) ∧
      (∀ w, r.1 = some w → guardFail l.image l.desc w = none → 3 ≤ fld l.desc 4 1 → e.iter = 0) ∧
      (∀ x, x ≠ lane → look (hearth t site).lanes x = look (hearth s site).lanes x) ∧ t.mem = s.mem ∧
      ∀ x, x ≠ site → hearth t x = hearth s x) ∧
  (∀ (s : State) (site lane : Nat) (l : Launch) (rest : List Launch) (e : EnvRun), site < 200 → lane < 16 → siteLive s site = true →
    (hearth s site).launches = l :: rest → look (hearth s site).lanes lane = some e → e.stop = none →
    Gives (.andironIteration site lane) s fun t => ∃ e', look (hearth t site).lanes lane = some e' ∧ e'.iter = e.iter + 1 ∧ e'.env = e.env ∧
      (e'.lastResidual ≤ fld l.desc 0x2C 4 → e'.stop = some 0) ∧
      (fld l.desc 0x2C 4 < e'.lastResidual → 8 ≤ e'.bad → e'.stop = some 4) ∧
      (fld l.desc 0x2C 4 < e'.lastResidual → e'.bad < 8 → fld l.desc 0xC 4 ≠ 0 → fld l.desc 0xC 4 ≤ e'.iter → e'.stop = some 1) ∧
      (fld l.desc 0x2C 4 < e'.lastResidual → e'.bad < 8 → (fld l.desc 0xC 4 = 0 ∨ e'.iter < fld l.desc 0xC 4) → fld l.desc 5 1 ≠ 1 →
        e'.stop = none) ∧
      (e'.lastResidual < e.bestResidual → e'.best = e'.cur ∧ e'.bestIter = e'.iter ∧ e'.bestResidual = e'.lastResidual) ∧
      (e.bestResidual ≤ e'.lastResidual → (fld l.desc 4 1 = 4 ∨ e.iter ≠ 0) →
        e'.best = e.best ∧ e'.bestIter = e.bestIter ∧ e'.bestResidual = e.bestResidual) ∧
      (∀ x, x ≠ lane → look (hearth t site).lanes x = look (hearth s site).lanes x) ∧ SiteOnly s t site) ∧
  (∀ (s : State) (site lane : Nat) (l : Launch) (rest : List Launch) (e : EnvRun), site < 200 → lane < 16 → siteLive s site = true →
    (hearth s site).launches = l :: rest → look (hearth s site).lanes lane = some e → e.stop.isSome = true →
    (Batch.outStaging l.desc = true ∨ 0 < tagsFree (hearth s site)) →
    Gives (.environmentEnd site lane) s fun t => look (hearth t site).lanes lane = none ∧
      (∃ l', (hearth t site).launches = l' :: rest ∧ l'.left = l.left - 1 ∧ ∃ rep, l'.reports = l.reports ++ [rep] ∧ rep.site = site ∧
        (e.stop = some 5 → rep.status = .busError) ∧ (e.stop = some 2 → rep.status = .range ∧ rep.detail = 1)) ∧
      (Batch.outStaging l.desc = true →
        let h := (hearth t site).staging.read 0 (Batch.outBase l.desc + stagingIndex l.slots l.lanes.length l.firstSlot e.env * Batch.outStride l.desc) 32
        (e.stop = some 5 ∨ e.stop = some 2 → ∃ k, e.stop = some k ∧ fld h 0 1 = k ∧ fld h 1 1 = k) ∧ fld h 4 4 = e.iter % 2 ^ 32 ∧
          fld h 8 4 = e.bestIter % 2 ^ 32 ∧ fld h 0x10 2 = site ∧ fld h 0x12 1 = lane ∧ fld h 0x13 1 = e.guard % 256 ∧
          fld h 0x14 2 = e.word % 65536 ∧ fld h 0x18 8 = s.ao.devtime % 2 ^ 64) ∧
      ∀ x, x ≠ site → hearth t x = hearth s x) ∧
  (∀ (s : State) (site : Nat) (l : Launch) (rest : List Launch), site < 200 → (hearth s site).launches = l :: rest → l.started = true →
    l.left = 0 → (hearth s site).lanes = [] →
    (l.disp = none → Gives (.launchComplete site) s fun t => (hearth t site).launches = rest ∧ Completes s t site 4 l.item ∧
      ((worstReport l.reports).status ≠ .done → (hearth t site).sticky.getLsbD 2 = true) ∧ SiteOnly s t site) ∧
    (∀ id d, l.disp = some id → disp? s id = some d → (worstReport l.reports).status.stops = false →
      Gives (.launchComplete site) s fun t => (hearth t site).launches = rest ∧
        ∃ d', disp? t id = some d' ∧ d'.reports = d.reports ++ [{ worstReport l.reports with site := site }] ∧ site ∉ d'.working))

/-! ## Chain ports (04) -/

/-- R94, R96-R98, R102-R104: a sequenced frame with the SEQ expected is accepted, and the 32nd acceptance not yet acknowledged draws an
ACK unless a refusal holds it; a WRITE then stores its payload, a READ_REQ is
answered with the data, a READ_RESP delivers its data, an ERROR_RESP marks its copy, and a refused request is answered with an
ERROR_RESP. A frame ahead asks for a NAK, one behind for an ACK; neither has an effect. The class of an ERROR_RESP and
the treatment of ERR values beyond 6 are the model's choice, log entry 22. -/
def Obligations.ChainFramesAreSequenced : Prop :=
  (∀ (s : State) (port ty : Nat) (f : List Byte) (c : Nat → List Byte → Instr),
    (ty, c) ∈ [(1, Instr.chainWrite), (2, Instr.chainReadReq), (3, Instr.chainReadResp), (4, Instr.chainErrorResp)] → Hears s port f ty →
    let p := chainPort s port
    let d := (frameSeq f - p.expect).toNat
    let nakMay := (p.nakAt = none ∨ ∃ x, p.nakAt = some x ∧ x + 2000 ≤ s.ao.devtime) ∧ ackHeld p = false
    Gives (c port f) s fun t =>
      (chainPort t port).rxAt = s.ao.devtime ∧
      (d = 0 → (chainPort t port).expect = p.expect + 1 ∧ (p.unacked < 31 → (chainPort t port).unacked = p.unacked + 1) ∧
        (31 ≤ p.unacked → ackHeld (chainPort t port) = false → (chainPort t port).unacked = 0 ∧
          ∃ b, (chainPort t port).wire = p.wire ++ [b] ∧ frameType b = 5 ∧ frameAck b = p.expect + 1)) ∧
      (d ≠ 0 → (chainPort t port).expect = p.expect ∧ t = { s with chain := t.chain, counters := t.counters }) ∧
      (1 ≤ d → d ≤ 255 → nakMay → ∃ b, (chainPort t port).wire = p.wire ++ [b] ∧ frameType b = 6 ∧ frameAck b = p.expect) ∧
      (65280 ≤ d → ackHeld p = false → ∃ b, (chainPort t port).wire = p.wire ++ [b] ∧ frameType b = 5 ∧ frameAck b = p.expect) ∧
      (∀ q, q ≠ port → chainPort t q = chainPort s q)) ∧
  (∀ (s : State) (port : Nat) (f : List Byte), Hears s port f 1 → frameSeq f = (chainPort s port).expect → frameAcks f = false →
    let c := checkFrame s port f true
    Gives (.chainWrite port f) s fun t =>
      (c.1 = 0 → ∃ s1, s1 = { s with chain := s1.chain, counters := s1.counters } ∧
        t.mem = (writeSpan s1 c.2.1 c.2.2 (framePayload f) 10).2.mem) ∧
      (c.1 ≠ 0 → t.mem = s.mem ∧ ∃ x, (chainPort t port).waiting = (chainPort s port).waiting ++ [x] ∧ x.type_ = 4 ∧ x.err = c.1 ∧
        x.refSeq = frameSeq f)) ∧
  (∀ (s : State) (port : Nat) (f : List Byte), Hears s port f 2 → frameSeq f = (chainPort s port).expect → frameAcks f = false →
    let c := checkFrame s port f false
    Gives (.chainReadReq port f) s fun t => t.mem = s.mem ∧
      ∃ x, (chainPort t port).waiting = (chainPort s port).waiting ++ [x] ∧ x.tag = hdr f 8 2 ∧ x.domain = hdr f 2 2 ∧
        (c.1 ≠ 0 → x.type_ = 4 ∧ x.err = c.1 ∧ x.refSeq = frameSeq f) ∧
        (c.1 = 0 → ∃ s1, s1 = { s with chain := s1.chain, counters := s1.counters } ∧
          ∀ b, (readSpan s1 c.2.1 c.2.2 (frameLen f) 10).1 = .bytes b → x.type_ = 3 ∧ x.payload = b)) ∧
  (∀ (s : State) (port : Nat) (f : List Byte) (r : ChainRead) (d : Disp), Hears s port f 3 → frameSeq f = (chainPort s port).expect →
    frameAcks f = false → look (chainPort s port).reads (hdr f 8 2) = some r → disp? s r.copy = some d → d.ended = false → r.dstKind = 0 →
    hostReachable s d.tenant = true →
    Gives (.chainReadResp port f) s fun t =>
      (∀ free a, t.mem.host.byte free a = if r.dst.toNat + r.got ≤ a ∧ a < r.dst.toNat + r.got + frameLen f then
        (framePayload f).getD (a - (r.dst.toNat + r.got)) 0 else s.mem.host.byte free a) ∧
      look (chainPort t port).reads (hdr f 8 2) =
        if r.length ≤ r.got + frameLen f then none else some { r with got := r.got + frameLen f }) ∧
  (∀ (s : State) (port id : Nat) (f : List Byte) (x : ChainFrame) (d : Disp), Hears s port f 4 → frameSeq f = (chainPort s port).expect →
    frameAcks f = false → (chainPort s port).window.find? (fun y => y.seq.toNat == hdr f 14 2) = some x → x.copy = some id →
    disp? s id = some d → d.ended = false →
    Gives (.chainErrorResp port f) s fun t => t.mem = s.mem ∧ ∃ d' r, disp? t id = some d' ∧ r ∈ d'.reports ∧
      (hdr f 24 1 ≤ 4 → r.status = .prot ∧ r.detail = 5) ∧ (4 < hdr f 24 1 → r.status = .poisoned))

/-- R88, R94, R96, R99, R105, R106: an ACK frees the frames it covers, a NAK also sends the rest again; a PROBE with INIT starts the time of a
probing port, one without INIT brings it up, and one with INIT fails a port that has been up; any other frame is dropped. That a bad FCS or too short a frame is a ground to drop it
is the model's choice, log entry 22. -/
def Obligations.ChainControlFrames : Prop :=
  (∀ (s : State) (port : Nat) (f : List Byte) (x : ChainFrame) (rest : List ChainFrame), frameAcks f = true →
    (chainPort s port).window = x :: rest →
    let n := (frameAck f - x.seq).toNat
    1 ≤ n → n ≤ rest.length + 1 →
    (Hears s port f 5 → Gives (.chainAck port f) s fun t =>
      (chainPort t port).window = (x :: rest).drop n ∧ (chainPort t port).idleRounds = 0 ∧ (chainPort t port).ackAt = s.ao.devtime ∧
        (∀ q, q ≠ port → chainPort t q = chainPort s q)) ∧
    (Hears s port f 6 → Gives (.chainNak port f) s fun t =>
      (chainPort t port).window = (x :: rest).drop n ∧ (n ≤ rest.length → (chainPort t port).resend = (x :: rest).drop n) ∧
        (∀ q, q ≠ port → chainPort t q = chainPort s q))) ∧
  (∀ (s : State) (port : Nat) (f : List Byte), port < 4 → hears s port = true → frameOk (chainPort s port) f = true → frameType f = 7 →
    let p := chainPort s port
    (p.state = .probing → frameInit f = true → Gives (.chainProbe port f) s fun t =>
      (p.initRx = none → chainPort t port = { p with rxAt := s.ao.devtime, initRx := some (s.ao.devtime, s.ao.devtime) }) ∧
        (∀ a b, p.initRx = some (a, b) → chainPort t port = { p with rxAt := s.ao.devtime, initRx := some (a, s.ao.devtime) })) ∧
    (p.state = .probing → frameInit f = false → p.initRx.isSome = true → Gives (.chainProbe port f) s fun t =>
      (chainPort t port).state = .up ∧ (chainPort t port).nextSeq = 0 ∧ (chainPort t port).expect = 0 ∧
        ∃ b, (chainPort t port).wire = p.wire ++ [b] ∧ frameType b = 7 ∧ frameInit b = false) ∧
    (p.state = .up → frameInit f = true → p.clearSeen = true → Gives (.chainProbe port f) s fun t =>
      (chainPort t port).state = .failed ∧ (chainPort t port).failedAt = s.ao.devtime ∧ Raised s t 0x13 (0x310 + port) (0x10 + port)
        ((Config.freeWord s.free).toNat % 256)) ∧
    (p.state = .up → frameInit f = false → frameAcks f = false → p.unacked < 32 → Gives (.chainProbe port f) s fun t =>
      chainPort t port = { p with rxAt := s.ao.devtime, clearSeen := true })) ∧
  (∀ (s : State) (port : Nat) (f : List Byte), port < 4 → hears s port = true → frameOk (chainPort s port) f = false →
    Gives (.frameDiscard port f) s fun t => t = { s with counters := t.counters })

/-- R96, R98-R100, R103-R106: a port sends a frame again before new ones, gives a new one the next SEQ while the window has room, and
sends its due ACK; 50 us without an advance start a retransmission. Lock, PROBEs and time (100 us of both receiving and sending
PROBEs with INIT, one every 10 us) take it from no lock to UP and, on
failure, to FAILED with its copies LINK_LOST, and back after 1 s. -/
def Obligations.ChainPortsSendAndFail : Prop :=
  (∀ (s : State) (port : Nat), port < 4 → (chainPort s port).state = .up → (chainPort s port).locked = true →
    let p := chainPort s port
    (∀ x rest, p.resend = x :: rest → Gives (.chainFrameSend port) s fun t =>
      (chainPort t port).resend = rest ∧ (chainPort t port).window = p.window ∧ (chainPort t port).nextSeq = p.nextSeq ∧
        ∃ b, (chainPort t port).wire = p.wire ++ [b] ∧ frameSeq b = x.seq) ∧
    (∀ x, p.resend = [] → p.window.length < 256 → nextFrame p = some x → Gives (.chainFrameSend port) s fun t =>
      ∃ y b, y = { x with seq := p.nextSeq, tag := y.tag } ∧ (chainPort t port).window = p.window ++ [y] ∧
        (chainPort t port).nextSeq = p.nextSeq + 1 ∧ (chainPort t port).waiting = p.waiting.erase x ∧
        (chainPort t port).wire = p.wire ++ [b] ∧ frameSeq b = p.nextSeq ∧ t = { s with chain := t.chain, counters := t.counters }) ∧
    (p.resend = [] → (256 ≤ p.window.length ∨ nextFrame p = none) → Idles (.chainFrameSend port) s)) ∧
  (∀ (s : State) (port : Nat), port < 4 → (chainPort s port).state = .up →
    let p := chainPort s port
    (0 < p.unacked → ackHeld p = false → Gives (.chainAckDue port) s fun t => (chainPort t port).unacked = 0 ∧
      ∃ b, (chainPort t port).wire = p.wire ++ [b] ∧ frameType b = 5 ∧ frameAck b = p.expect) ∧
    (p.window ≠ [] → p.ackAt + 50000 ≤ s.ao.devtime → Gives (.chainRetransmit port) s fun t =>
      chainPort t port = { p with resend := p.window, idleRounds := p.idleRounds + 1, ackAt := s.ao.devtime }) ∧
    (p.txAt + 100000 ≤ s.ao.devtime → Gives (.idleProbe port) s fun t =>
      ∃ b, chainPort t port = { p with wire := p.wire ++ [b], txAt := s.ao.devtime } ∧ frameType b = 7 ∧ frameInit b = false) ∧
    ((p.locked = false ∧ p.lockLostAt + 10000000 < s.ao.devtime) ∨ p.rxAt + 1000000 ≤ s.ao.devtime ∨ 16 ≤ p.idleRounds →
      Gives (.chainPortFail port) s fun t => (chainPort t port).state = .failed ∧ (chainPort t port).window = [] ∧
        (chainPort t port).failedAt = s.ao.devtime ∧
        ∀ id d, id ∈ portCopies p → disp? s id = some d → d.ended = false →
          ∃ d' r, disp? t id = some d' ∧ d'.ended = true ∧ r ∈ d'.reports ∧ r.status = .linkLost ∧ r.detail = port)) ∧
  (∀ (s : State) (port tag : Nat) (r : ChainRead) (d : Disp), port < 4 → look (chainPort s port).reads tag = some r →
    r.sentAt + 1000000 ≤ s.ao.devtime → disp? s r.copy = some d → d.ended = false →
    Gives (.chainReadTimeout port tag) s fun t => look (chainPort t port).reads tag = none ∧
      ∃ d' x, disp? t r.copy = some d' ∧ d'.ended = true ∧ x ∈ d'.reports ∧ x.status = .linkLost ∧ x.detail = port) ∧
  (∀ (s : State) (port : Nat), port < 4 →
    let p := chainPort s port
    (s.dev.state ≠ .off → p.state = .noLock → Gives (.pcsLock port) s fun t =>
      chainPort t port = { p with locked := true, state := .probing, initRx := none, initTx := none } ∧
        ∀ q, q ≠ port → chainPort t q = chainPort s q) ∧
    (p.locked = true → Gives (.pcsLockLoss port) s fun t =>
      chainPort t port = { p with locked := false, lockLostAt := s.ao.devtime, state := if p.state = .probing then .noLock else p.state } ∧
        t = { s with chain := t.chain }) ∧
    (p.state = .probing → (∀ x, p.initTx = some x → x.2 + 10000 ≤ s.ao.devtime) → Gives (.initProbe port) s fun t =>
      ∃ b x, chainPort t port = { p with wire := p.wire ++ [b], txAt := s.ao.devtime, initTx := some x } ∧ x.2 = s.ao.devtime ∧
        (∀ y, p.initTx = some y → x.1 = y.1) ∧ frameType b = 7 ∧ frameInit b = true) ∧
    (∀ r x, p.state = .probing → p.initRx = some r → p.initTx = some x → max r.1 x.1 + 100000 ≤ min r.2 x.2 →
      Gives (.chainPortUp port) s fun t =>
      (chainPort t port).state = .up ∧ (chainPort t port).nextSeq = 0 ∧ (chainPort t port).expect = 0 ∧ (chainPort t port).window = []) ∧
    (p.state = .failed → p.failedAt + 1000000000 ≤ s.ao.devtime → Gives (.chainPortRetry port) s fun t =>
      chainPort t port = { p with state := if p.locked then .probing else .noLock, initRx := none, initTx := none } ∧
        t = { s with chain := t.chain }))

/-! ## Sweep, ash, draught, counters (17, 18, 19, 20) -/

/-- R367-R370, R373, R376, R378, R379, R385: a visit of a row rewrites every eligible word that decodes to a correction, leaves the
clean ones and moves the cursor on; a line fault is marked once and its repair waits; the repair copies the column to a spare; a
bucket leaks one. That a visit runs as one command is the model's choice, log entry 3. -/
def Obligations.SweepRepairsWords : Prop :=
  (∀ (s : State) (site bank : Nat), site < 200 → bank < 128 → live s = true → bankLive s site bank = true →
    let k := 128 * site + bank
    let row := lookD 0 s.mem.cursor k
    let place (i : Nat) := homePlace (homeOf s false site (393216 * bank + 64 * row + i)) false site (393216 * bank + 64 * row + i)
    row < 6144 → Gives (.sweepVisit (.bank site bank)) s fun t =>
      (∀ i w flips, i < 64 → eligible s (homeOf s false site (393216 * bank + 64 * row + i)) false site = true →
        stored? s (place i) = some w → placeClass s (place i) w = .corrected flips → some flips ≠ (erasureOf s (place i)).map ([·]) →
        stored? t (place i) = some (encode (flipData w.data flips) (place i).cover)) ∧
      (∀ i w, i < 64 → stored? s (place i) = some w → placeClass s (place i) w = .clean → stored? t (place i) = some w) ∧
      (∀ i w flips, i < 64 → stored? s (place i) = some w → placeClass s (place i) w = .corrected flips →
        some flips = (erasureOf s (place i)).map ([·]) → stored? t (place i) = some w) ∧
      (∀ x, lookD 0 t.counters.raw (256 * 0x223 + x) = lookD 0 s.counters.raw (256 * 0x223 + x)) ∧
      (∀ x, x / 64 ≠ (67108864 * site + 393216 * bank + 64 * row) / 64 → look t.mem.slice x = look s.mem.slice x) ∧
      t.mem.hbm = s.mem.hbm ∧ t.mem.host = s.mem.host ∧
      (row + 1 < 6144 → lookD 0 t.mem.cursor k = row + 1 ∧ lookD 0 t.mem.passes k = lookD 0 s.mem.passes k) ∧
      (row + 1 = 6144 → lookD 0 t.mem.cursor k = 0 ∧ lookD 0 t.mem.passes k = (lookD 0 s.mem.passes k + 1) % 2 ^ 64 ∧
        lookD [] t.mem.trackers k = [])) ∧
  (∀ (s : State) (f : LineFault) (rest : List LineFault), s.mem.faultsDue = f :: rest → bankLive s f.site f.bank = true →
    let k := 12 * (128 * f.site + f.bank) + f.subarray
    Gives .erasureMark s fun t => t.mem.faultsDue = rest ∧ t.mem.repairs = s.mem.repairs ++ [f] ∧
      (look s.mem.erasures k = none → look t.mem.erasures k = some (f.d, f.u)) ∧
      (∀ x, look s.mem.erasures k = some x → look t.mem.erasures k = some x) ∧
      ∃ e, t.ash.flying = s.ash.flying ++ [e] ∧ e.type_ = 4 ∧ e.source = f.site) ∧
  (∀ (s : State) (site bank : Nat) (f : LineFault), site < 200 → bank < 128 → live s = true → bankLive s site bank = true →
    ownerOf s site = none → s.mem.repairs.find? (fun g => g.site == site && g.bank == bank) = some f →
    let k := 12 * (128 * site + bank) + f.subarray
    Gives (.spareColumnRepair site bank) s fun t => t.mem.repairs = s.mem.repairs.filter (fun g => g != f && (decide (lookD 0 s.mem.sparesUsed k < 4) || !(g.site == site && g.bank == bank))) ∧
      (lookD 0 s.mem.sparesUsed k < 4 → lookD 0 t.mem.sparesUsed k = lookD 0 s.mem.sparesUsed k + 1 ∧ look t.mem.erasures k ≠ some (f.d, f.u) ∧
        t.fpt = s.fpt) ∧
      (4 ≤ lookD 0 s.mem.sparesUsed k → bankLive t site bank = false ∧ t.mem.slice = s.mem.slice)) ∧
  (∀ (s : State) (b : Bucket), b.ok = true → s.dev.state ≠ .off →
    let k := match b with | .layer site l => 8 * site + l | .channel pc => 1600 + pc
    lookD s.ash.leakBase s.ash.leakAt k + s.ash.leakS * 1000000000 ≤ s.ao.devtime →
    Gives (.bucketLeak b) s fun t => lookD 0 t.ash.buckets k = lookD 0 s.ash.buckets k - 1 ∧
      (∀ x, x ≠ k → lookD 0 t.ash.buckets x = lookD 0 s.ash.buckets x) ∧ t = { s with ash := t.ash })

/-- R387, R389, R392-R394: an event enters the collector's FIFO of 64, folds into a waiting record of its source and type, or is lost and
counted; its record goes to its ring with the sequence number PI, after a LOST record when losses are unreported; CI moves forward
only. -/
def Obligations.AshRecordsReachTheirRing : Prop :=
  (∀ (s : State) (e : AshEvent) (rest : List AshEvent), s.ash.flying = e :: rest → Gives .ashEventArrive s fun t => t.ash.flying = rest ∧
    (∀ d, e.dests = [d] → lookD 0 t.counters.raw (256 * (0xD00 + ashCategory e.type_) + 255) =
      (lookD 0 s.counters.raw (256 * (0xD00 + ashCategory e.type_) + 255) + 1) % 2 ^ 48) ∧
    (s.ash.fifo.length < 64 → t.ash.fifo = s.ash.fifo ++ [e] ∧ t.ash.rings = s.ash.rings) ∧
    (64 ≤ s.ash.fifo.length → (∃ x ∈ s.ash.fifo, x.source = e.source ∧ x.type_ = e.type_ ∧ x.dests = e.dests) →
      t.ash.fifo.length = s.ash.fifo.length ∧ (∃ x ∈ s.ash.fifo, { x with repeats := x.repeats + 1, lastAt := e.at_ } ∈ t.ash.fifo) ∧
        t.ash.rings = s.ash.rings) ∧
    (64 ≤ s.ash.fifo.length → (¬ ∃ x ∈ s.ash.fifo, x.source = e.source ∧ x.type_ = e.type_ ∧ x.dests = e.dests) →
      t.ash.fifo = s.ash.fifo ∧ ∀ d, e.dests = [d] → (ashRing t d).loss = true ∧
        lookD 0 (ashRing t d).lost (ashCategory e.type_) = min (lookD 0 (ashRing s d).lost (ashCategory e.type_) + 1) (2 ^ 32 - 1))) ∧
  (∀ (s : State) (e : AshEvent) (rest : List AshEvent) (fn : Nat), s.ash.fifo = e :: rest → e.dests = [fn] → (ashRing s fn).placed = true →
    (ashRing s fn).unreported = [] → ((ashRing s fn).pi + 2 ^ 32 - (ashRing s fn).ci) % 2 ^ 32 ≠ (ashRing s fn).entries →
    (ashRing s fn).hbm = false → hostReachable s fn = true → e.detail.length = 32 →
    let r := ashRing s fn
    Gives .ashRecordWrite s fun t =>
      let b := t.mem.host.read 0 (r.base.toNat + 64 * (r.pi % r.entries)) 64
      t.ash.fifo = rest ∧ (ashRing t fn).pi = (r.pi + 1) % 2 ^ 32 ∧ fld b 0 4 = r.pi % 2 ^ 32 ∧ fld b 6 2 = e.type_ % 65536 ∧
        fld b 8 8 = e.at_ % 2 ^ 64 ∧ slice b 0x20 32 = e.detail ∧
        (∀ free a, a < r.base.toNat + 64 * (r.pi % r.entries) ∨ r.base.toNat + 64 * (r.pi % r.entries) + 64 ≤ a →
          t.mem.host.byte free a = s.mem.host.byte free a) ∧ t.mem.slice = s.mem.slice ∧ t.mem.hbm = s.mem.hbm) ∧
  (∀ (s : State) (e : AshEvent) (rest : List AshEvent) (fn : Nat), s.ash.fifo = e :: rest → e.dests = [fn] → (ashRing s fn).placed = false →
    Gives .ashRecordWrite s fun t => t.ash.fifo = rest ∧ (ashRing t fn).loss = true ∧ t.mem = s.mem ∧
      lookD 0 (ashRing t fn).lost (ashCategory e.type_) =
        min (lookD 0 (ashRing s fn).lost (ashCategory e.type_) + (1 + e.repeats)) (2 ^ 32 - 1)) ∧
  (∀ (s : State) (fn : Nat), fn ≤ 16 → s.ash.fifo.length < 64 → (ashRing s fn).placed = true → (ashRing s fn).unreported ≠ [] →
    ((ashRing s fn).pi + 2 ^ 32 - (ashRing s fn).ci) % 2 ^ 32 ≠ (ashRing s fn).entries → (ashRing s fn).hbm = false →
    hostReachable s fn = true →
    Gives (.lost fn) s fun t => (ashRing t fn).unreported = [] ∧ (ashRing t fn).pi = ((ashRing s fn).pi + 1) % 2 ^ 32 ∧
      (ashRing t fn).lost = (ashRing s fn).lost ∧
      fld (t.mem.host.read 0 ((ashRing s fn).base.toNat + 64 * ((ashRing s fn).pi % (ashRing s fn).entries)) 64) 6 2 = 0xF0) ∧
  (∀ (s : State) (fn : Nat) (v : BitVec 32), fn ≤ 16 → fnReachable s fn = true → live s = true → (ashRing s fn).placed = true →
    let r := ashRing s fn
    let left := (r.pi + 2 ^ 32 - v.toNat) % 2 ^ 32
    let old := (r.pi + 2 ^ 32 - r.ci) % 2 ^ 32
    Gives (.ashCiWrite fn v) s fun t =>
      (left ≤ old → (ashRing t fn).ci = v.toNat) ∧ (old < left → (ashRing t fn).ci = r.ci) ∧ (ashRing t fn).pi = r.pi ∧ t.mem = s.mem)

/-- R405-R412, R415, R417, R420, R334: what the draught controller's periods do. The token period keeps A_k to the cap and the ramp,
its floor to the banking rule, and grants no more than A_k beyond the standing grants; R_est, L_th and BALANCE move only in their
own periods; an island above 105 degrees goes one point down. What the manual leaves to an implementation here is the model's
choice, log entry 12. -/
def Obligations.DraughtLoops : Prop :=
  (∀ (s : State) (f : PowerFigures), live s = true → Gives (.powerTokenPeriod f) s fun t =>
    t.draught.ak = min (1000 * s.draught.cap) (f.power + (s.draught.ramp + s.draught.carry) / 10) ∧
      t.draught.carry = (s.draught.ramp + s.draught.carry) % 10 ∧ t.draught.measured = f.power ∧
      (s.draught.banking = true → t.draught.floor =
        min (1000 * s.draught.cap) (max f.load (s.draught.floor - (s.draught.ramp + s.draught.floorCarry) / 10)) ∧
          t.draught.bank = t.draught.floor - f.load) ∧
      (s.draught.banking = false → t.draught.floor = f.load ∧ t.draught.bank = 0) ∧
      t.draught.banked = s.draught.banked + t.draught.bank ∧
      t.draught.granted ≤ max t.draught.ak (f.standing + keptTokens s) ∧
      (∀ i, i < 2800 → keepsGrant s (i / 14) = true → island t i = island s i) ∧
      (∀ site, site < 200 → sensed s site = true → (∃ l, l < 8 ∧ layerBlind s site l = true) → lookD 1 t.draught.ceiling site = 1 / 2) ∧
      (∀ site, site < 200 → sensed s site = true → (∀ l, l < 8 → layerBlind s site l = false) →
        (∃ l, l < 8 ∧ 128 * 95 < layerTemp s site l) →
        lookD 1 t.draught.ceiling site = max (1 / 16) (lookD 1 s.draught.ceiling site * 15 / 16)) ∧
      t = { s with draught := t.draught, counters := t.counters, free := t.free }) ∧
  (∀ (s : State) (i estimate : Nat), i < 2842 → live s = true → islandPowered s i = true →
    Gives (.islandDvfsPeriod i estimate) s fun t =>
      (128 * 105 < islandTemp s i → (island t i).mhz ≤ pointBelow i (island s i).mhz ∧ (island t i).coolSince = none) ∧
      (islandTemp s i ≤ 128 * 105 → (island s i).heldSince = none →
        (island t i).mhz = emLimited s i (gridPoint i estimate (island s i).grant)) ∧
      (isFabric i = true → (island s i).heldSince = none ∨ nominalClock i ≤ 2 * (island s i).mhz → nominalClock i ≤ 2 * (island t i).mhz) ∧
      (island t i).grant = (island s i).grant ∧ (∀ j, j ≠ i → island t j = island s j) ∧
      t = { s with draught := { s.draught with islands := t.draught.islands } }) ∧
  (∀ (s : State) (i : Nat), i < 2842 → s.dev.state ≠ .off →
    (islandPowered s i = true → Gives (.droop i) s fun t => t = { s with counters := t.counters } ∧
      lookD 0 t.counters.raw (256 * 0xE0A + 255) = (lookD 0 s.counters.raw (256 * 0xE0A + 255) + 1) % 2 ^ 48) ∧
    (islandPowered s i = false → Idles (.droop i) s)) ∧
  (∀ (s : State) (p : Nat), live s = true → 300 ≤ p → s.draught.trayLost = false → Gives (.rEstUpdate p) s fun t =>
    t = { s with draught := { s.draught with rEst := t.draught.rEst } } ∧ t.draught.rEst = nextREst s p) ∧
  (∀ (s : State) (q : Int), live s = true → s.draught.trayLost = false →
    quotientBy (128 * 95 - s16 s.ao.inlet - (s.draught.margin : Int)) s.draught.rEst = some q →
    Gives .capLoopPeriod s fun t =>
      t.draught.lTh = min (min s.ao.boardCap s.draught.mailboxCap) (max 900 q.toNat) ∧ t.draught.cap = t.draught.lTh ∧
        (t.draught.thermalLimit = true ↔ t.draught.lTh < min s.ao.boardCap s.draught.mailboxCap) ∧
        (t.draught.thermalLimit ≠ s.draught.thermalLimit → Raised s t 0x30 0x402 8 (if t.draught.thermalLimit then 1 else 0)) ∧
        t.draught.ceiling = s.draught.ceiling ∧ t.draught.rEst = s.draught.rEst) ∧
  (∀ (s : State) (p : Nat), live s = true →
    let q := 200 * (s.ao.flow.toNat : Int) * (s16 s.ao.outlet - s16 s.ao.inlet)
    let alarm := 57600 * p + 19200000 < (q - 384000 * (p : Int)).natAbs
    Gives (.heatBalanceCheck p) s fun t => t.draught.powerAvg = p ∧
      (alarm → t.draught.balanceOn = min 10 (s.draught.balanceOn + 1) ∧ t.draught.balanceOff = 0) ∧
      (¬ alarm → t.draught.balanceOff = min 10 (s.draught.balanceOff + 1) ∧ t.draught.balanceOn = 0) ∧
      (alarm → 9 ≤ s.draught.balanceOn → t.draught.balance = true) ∧ (¬ alarm → 9 ≤ s.draught.balanceOff → t.draught.balance = false) ∧
      (alarm → s.draught.balanceOn < 9 → t.draught.balance = s.draught.balance) ∧
      (¬ alarm → s.draught.balanceOff < 9 → t.draught.balance = s.draught.balance))

/-- R240, R396, R408, R415, R417, R420, R421: the lasting conditions are recorded when they begin and when they end; a sample moves
the turning points of the thermal-cycle counter; the journal writes its next slot; the maps take the present readings. The
journal's first SEQUENCE and the site a LOGIC_OVER record names are the model's choice, log entry 12. -/
def Obligations.DraughtConditions : Prop :=
  (∀ (s : State) (site layer since : Nat), site < 200 → layer < 8 → live s = true → sensed s site = true →
    8 * site + layer ∉ s.draught.dramOver → look s.draught.layerHot (8 * site + layer) = some since → since + 1000000000 ≤ s.ao.devtime →
    Gives (.dramOver site layer) s fun t => t.draught.dramOver = s.draught.dramOver ++ [8 * site + layer] ∧ Raised s t 0x30 0x402 9 1 ∧ t.mem = s.mem) ∧
  (∀ (s : State) (site layer : Nat), site < 200 → layer < 8 → live s = true → 8 * site + layer ∈ s.draught.dramOver →
    look s.draught.layerHot (8 * site + layer) = none →
    Gives (.dramOver site layer) s fun t => 8 * site + layer ∉ t.draught.dramOver ∧ Raised s t 0x30 0x402 9 0 ∧ t.mem = s.mem) ∧
  (∀ (s : State) (site i since : Nat), site < 200 → i < 2842 → live s = true → (i < 2800 → i / 14 = site) → i ∉ s.draught.logicOver →
    (island s i).heldSince = some since → since + 1000000000 ≤ s.ao.devtime →
    Gives (.logicOver site i) s fun t => t.draught.logicOver = s.draught.logicOver ++ [i] ∧ Raised s t 0x30 0x402 10 1 ∧ t.mem = s.mem) ∧
  (∀ (s : State) (site i : Nat), site < 200 → i < 2842 → live s = true → (i < 2800 → i / 14 = site) → i ∈ s.draught.logicOver →
    (island s i).heldSince = none →
    Gives (.logicOver site i) s fun t => i ∉ t.draught.logicOver ∧ Raised s t 0x30 0x402 10 0 ∧ t.mem = s.mem) ∧
  (∀ (s : State) (stack : Nat) (temp : BitVec 16), stack < 8 → live s = true →
    (stack ∉ s.draught.hbmHot → 128 * 95 < temp.toInt → Gives (.hbmHot stack temp) s fun t =>
      t.draught.hbmHot = s.draught.hbmHot ++ [stack] ∧ Raised s t 0x30 0x402 11 1) ∧
    (stack ∈ s.draught.hbmHot → temp.toInt ≤ 128 * 95 → Gives (.hbmHot stack temp) s fun t =>
      stack ∉ t.draught.hbmHot ∧ Raised s t 0x30 0x402 11 0)) ∧
  (∀ s : State, live s = true → Gives .thermalCycleSample s fun t =>
    (s.draught.cycle0.up = true → s.draught.cycle0.ext < hotLogic s 0 → t.draught.cycle0 = { s.draught.cycle0 with ext := hotLogic s 0 }) ∧
      (s.draught.cycle0.up = true → 256 ≤ s.draught.cycle0.ext - hotLogic s 0 →
        t.draught.cycle0 = { ref := s.draught.cycle0.ext, ext := hotLogic s 0, up := false }) ∧
      (s.draught.cycle0.up = true → hotLogic s 0 ≤ s.draught.cycle0.ext → s.draught.cycle0.ext - hotLogic s 0 < 256 →
        t.draught.cycle0 = s.draught.cycle0) ∧
      (s.draught.cycle0.up = false → 256 ≤ hotLogic s 0 - s.draught.cycle0.ext →
        t.draught.cycle0 = { ref := s.draught.cycle0.ext, ext := hotLogic s 0, up := true }) ∧
      (s.draught.half10k < 2 ^ 32 → s.draught.half10k ≤ t.draught.half10k ∧ t.draught.half10k ≤ s.draught.half10k + 2) ∧
      t = { s with draught := t.draught, counters := t.counters }) ∧
  (∀ s : State, live s = true → (Gives (.journalAppend true) s fun t =>
      (∃ e, look t.fpt.journal s.fpt.journalNext = some e ∧ e.half10k = s.draught.half10k ∧ e.half30k = s.draught.half30k) ∧
        t.fpt.journalNext = (s.fpt.journalNext + 1) % 2048 ∧ t.fpt.table = s.fpt.table) ∧
    (Gives (.journalAppend false) s fun t => look t.fpt.journal s.fpt.journalNext = none ∧
      t.fpt.journalNext = (s.fpt.journalNext + 1) % 2048 ∧ Raised s t 0x30 0x402 12 1)) ∧
  (∀ s : State, live s = true → Gives .layerMapRefresh s fun t =>
    (∀ i, i < 1600 → lookD 0 t.draught.layerMap i = if sensed s (i / 8) then
      (if layerBlind s (i / 8) (i % 8) then 0x8000 else BitVec.ofInt 16 (layerTemp s (i / 8) (i % 8))) else 0) ∧
      t = { s with draught := { s.draught with layerMap := t.draught.layerMap, logicMap := t.draught.logicMap } })

/-- R429, R432, R436, R445: a snapshot gives a selected window its count since the selection; a failed health test starts a rerun, the
third failed rerun in a row sets the entropy service's SVC_FAIL bit, and a pass restores it; the DRBG is seeded again after 2^20
requests. -/
def Obligations.CountersAndEntropy : Prop :=
  (∀ (s : State) (k : Nat) (w : Window), live s = true → look s.counters.windows k = some w → w.selected = true →
    snapshotArrives s w = true → Gives .counterSnapshot s fun t =>
      (∃ w', look t.counters.windows k = some w' ∧ w'.fresh = true ∧ w'.snapAt = s.ao.devtime ∧
        (∀ x b, w.baselines = [(x, b)] → w.frozen = 0 →
          w'.value = (s.counters.shown w x + 2 ^ 48 - b) % 2 ^ 48)) ∧
      t.counters.raw = s.counters.raw ∧ t = { s with counters := t.counters }) ∧
  (∀ (s : State), s.sec.tested = true → s.sec.svcFail.getLsbD 4 = false → Gives .entropyHealthFail s fun t =>
    t = { s with sec := { s.sec with entropyRerun := true } }) ∧
  (∀ (s : State), s.sec.entropyRerun = true →
    (Gives (.entropyRerunDone true) s fun t => t = { s with sec := { s.sec with entropyRerun := false, entropyFails := 0 } }) ∧
    (s.sec.entropyFails < 2 → Gives (.entropyRerunDone false) s fun t =>
      t = { s with sec := { s.sec with entropyFails := s.sec.entropyFails + 1 } }) ∧
    (2 ≤ s.sec.entropyFails → Gives (.entropyRerunDone false) s fun t =>
      t.sec.svcFail.getLsbD 4 = true ∧ t.sec.entropyRerun = false ∧
        (∀ k, k ≠ 4 → t.sec.svcFail.getLsbD k = s.sec.svcFail.getLsbD k) ∧ t = { s with sec := t.sec })) ∧
  (∀ (s : State), s.sec.drbgSeeded = true → 2 ^ 20 ≤ s.sec.drbgRequests → s.sec.entropyRerun = false → s.sec.svcFail.getLsbD 4 = false →
    Gives .drbgReseed s fun t => t = { s with sec := { s.sec with drbgRequests := 0 } })

/-! ## Words of memory, reset, and what every step keeps (10, 17, 20) -/

/-- R229: any flip of one of a word's 272 bits is decoded as that correction, in either mode, when the subarray has no erasure. -/
def Obligations.WordCodeCorrectsOneBit : Prop :=
  ∀ (die : Bool) (cover i : Nat) (d : Line), i < 272 →
    let w := encode d cover
    let x : StoredWord := if i < 256 then { w with data := w.data ^^^ (1#256 <<< i) } else { w with check := w.check ^^^ (1#16 <<< (i - 256)) }
    classify die none (syndrome w cover) = .clean ∧ classify die none (syndrome x cover) = .corrected [i] ∧ flipData x.data [i] = d

/-- R228, R233, R234, R236: check bits are the exclusive-OR of the columns of the set data and covered address bits, a read's syndrome is
theirs with the stored ones; a whole word written to a unit in service reads back as written, whatever its erasure mark; a poisoned
word reads POISONED; no other word changes. R178, R254: a read gives the word as it stands or, whole, one that it held before a write
which the reader is not ordered after; until an EMBER_RUN's record is written, every other reader is open to both. -/
def Obligations.WordsReadAsWritten : Prop :=
  (∀ (d : Line) (a : Nat), enc d a =
    (((List.range 256).filter fun i => d.getLsbD i).foldl (fun c i => c ^^^ dataCols.getD i 0) 0) ^^^
      (((List.range 34).filter fun i => a.testBit i).foldl (fun c i => c ^^^ addrCols.getD i 0) 0)) ∧
  (∀ (w : StoredWord) (a : Nat), syndrome w a = w.check ^^^ enc w.data a) ∧
  (∀ (s : State) (p : Place) (d : Line), placeOut s p = false →
    stored? (writePlace s p d) p = some { data := p.seal d, check := enc (p.seal d) p.cover }) ∧
  (∀ (s : State) (p : Place) (d : Line), placeOut s p = false →
    peek (writePlace s p d) p = .data d ∧ (∀ q : Place, q.hbm ≠ p.hbm ∨ q.index ≠ p.index → stored? (writePlace s p d) q = stored? s q)) ∧
  (∀ (s : State) (p : Place) (h : Option Home) (w : StoredWord), placeOut s p = false → stored? s p = some w →
    peek (poisonPlace s p h) p = .bad 3 ∧ (∀ q : Place, q.hbm ≠ p.hbm ∨ q.index ≠ p.index → stored? (poisonPlace s p h) q = stored? s q)) ∧
  (∀ (s : State) (p : Place) (req tag a : Nat), ∃ t, t = { s with free := t.free } ∧
    ((readPlace s p req tag a).1 = peek t p ∨ ∃ w ∈ oldWords s p req, (readPlace s p req tag a).1 = peek (storeWord t p w) p)) ∧
  (∀ (s : State) (p : Place) (code : Nat) (x : MemRace), x ∈ s.mem.races → x.hbm = p.hbm → x.index = p.index → code < 16 →
    (x.queue = 17 → x.word ∈ oldWords s p code) ∧
      (oldWords s p code = [] → x.queue ≠ 17 ∧ (x.queue = 3 → reached (lookD 0 (hearth s x.site).completed 3) x.num = true)))

/-- What reset leaves: devtime 0 (R25), OFF (R108), the registers of R78, R126, R151 and R385 at their reset values, memory with
nothing listed; the invariants hold there. That memory lists nothing and the queue is empty are the model's choices, log entries 1
and 5. -/
def Obligations.ResetValues : Prop :=
  State.reset.ao.devtime = 0 ∧ State.reset.dev.state = .off ∧ State.reset.ao.boardCap = 2200 ∧ State.reset.ao.tripCause = 0 ∧
    State.reset.draught.mailboxCap = 1800 ∧ State.reset.draught.ramp = 600 ∧ State.reset.ash.leakS = 60 ∧
    (∀ fn, (mbx State.reset fn).reqPi = 0 ∧ (mbx State.reset fn).reqCi = 0 ∧ (mbx State.reset fn).rspPi = 0 ∧ (mbx State.reset fn).rspCi = 0) ∧
    (∀ t q, (queue State.reset t q).state = .absent ∧ (queue State.reset t q).sqTail = 0) ∧
    (∀ p, (chainPort State.reset p).nextSeq = 0 ∧ (chainPort State.reset p).etherType = 0x88B5) ∧
    State.reset.mem.slice = [] ∧ State.reset.mem.hbm = [] ∧ State.reset.mem.host.cells = [] ∧ State.reset.pending = [] ∧
    State.reset.mem.wf ∧ FreshIds State.reset

/-- Every step keeps the memories in their canonical form: addresses strictly rising, no cell that an unlisted address would read as.
The form is the model's own, log entry 33. -/
def Obligations.MemoryStaysCanonical : Prop :=
  ∀ s t : State, s.mem.wf → step s = .next t → t.mem.wf

/-- R440, R449: no command ever clears a revocation bit or the lot key's programmed bits. -/
def Obligations.OtpBitsNeverClear : Prop :=
  ∀ s t : State, step s = .next t → OtpKept s t

/-- R154: every dispatch in flight keeps a number of its own, below the next to be given. The number is the model's own. -/
def Obligations.DispatchNumbersStayFresh : Prop :=
  ∀ s t : State, FreshIds s → step s = .next t → FreshIds t

/-- R25, R109: devtime never runs backwards while VAUX stays in tolerance, and only the tick of an idle block advances it; no command
puts another command into the queue. Every command whose operands name units of the part completes in every state, but for the taking
of a request under level 3 (R1, R139), which is refused; a command with other operands faults and changes nothing. The tick and the
faults are the model's choice, log entries 2 and 8. -/
def Obligations.CommandsLeaveTimeAndQueue : Prop :=
  (∀ (c : Instr) (s : State), c.wellFormed = true → (∀ fn, c ≠ .mbxTakeRequest fn) → ∃ t, exec c s = .next t) ∧
  (∀ (s : State) (fn : Nat), fn ≤ 16 →
    (turn 17 s.work.lastMbx (mayTake s) ≠ some fn ∨ undescribed (mbx s fn).level (nextRequest s fn) = false →
      ∃ t, exec (.mbxTakeRequest fn) s = .next t) ∧
    (turn 17 s.work.lastMbx (mayTake s) = some fn → undescribed (mbx s fn).level (nextRequest s fn) = true →
      exec (.mbxTakeRequest fn) s = .refused .undescribedLevel)) ∧
  (∀ (c : Instr) (s : State), c.wellFormed = false → ∃ f, exec c s = .fault f) ∧
  (∀ (c : Instr) (s t : State), exec c s = .next t → t.pending = s.pending) ∧
  (∀ (c : Instr) (s t : State), exec c s = .next t → (∀ strap, c ≠ .vauxUp strap) → c ≠ .vauxLoss → t.ao.devtime = s.ao.devtime)
end

