-- ==== Sys2Proof/Laws/Bytes.lean ====
section
/-! SUPPORT. Laws of byte strings and the fields in them, of a word's 32 bytes, and of the flits built from them. -/

namespace Sys2Proof.Machine

@[simp] theorem length_leBytes (n v : Nat) : (leBytes n v).length = n := by
  induction n generalizing v with
  | zero => rfl
  | succ n ih => simp [leBytes, ih]

theorem leNat_append (a b : List Byte) : leNat (a ++ b) = leNat a + 256 ^ a.length * leNat b := by
  induction a with
  | nil => simp [leNat]
  | cons x t ih => simp only [List.cons_append, leNat, ih, List.length_cons, pow_succ]; ring

theorem leNat_lt (a : List Byte) : leNat a < 256 ^ a.length := by
  induction a with
  | nil => simp [leNat]
  | cons x t ih =>
    have := x.isLt
    simp only [leNat, List.length_cons, pow_succ]
    omega

/-- The little-endian bytes of a number give it back modulo their range. -/
theorem leNat_leBytes (n v : Nat) : leNat (leBytes n v) = v % 256 ^ n := by
  induction n generalizing v with
  | zero => simp [leBytes, leNat, Nat.mod_one]
  | succ n ih =>
    have h : v % (256 * 256 ^ n) = v % 256 + 256 * (v / 256 % 256 ^ n) := Nat.mod_mul
    rw [leBytes, leNat, ih, BitVec.toNat_ofNat, show (256:Nat) ^ (n + 1) = 256 * 256 ^ n from Nat.pow_succ', h]

theorem leBytes_leNat (l : List Byte) : leBytes l.length (leNat l) = l := by
  induction l with
  | nil => rfl
  | cons x t ih =>
    have := x.isLt
    simp only [List.length_cons, leBytes, leNat]
    rw [show (x.toNat + 256 * leNat t) / 256 = leNat t by omega, ih]
    congr 1
    apply BitVec.eq_of_toNat_eq
    simp only [BitVec.toNat_ofNat]
    omega

@[simp] theorem leNat_replicate_zero (n : Nat) : leNat (List.replicate n 0#8) = 0 := by
  induction n with
  | zero => rfl
  | succ n ih => simp [List.replicate_succ, leNat, ih]

/-! ## Slices and fields -/

@[simp] theorem length_slice (bs : List Byte) (off n : Nat) : (slice bs off n).length = n := by
  simp [slice]

theorem slice_append_left (a b : List Byte) : slice (a ++ b) 0 a.length = a := by simp [slice]

theorem slice_append_right (a b : List Byte) (k n : Nat) : slice (a ++ b) (a.length + k) n = slice b k n := by
  simp only [slice, List.drop_append, Nat.add_sub_cancel_left]
  rw [List.drop_eq_nil_of_le (by omega), List.nil_append]

theorem slice_all (a : List Byte) : slice a 0 a.length = a := by simp [slice]

theorem fld_append_right (a b : List Byte) (k n : Nat) : fld (a ++ b) (a.length + k) n = fld b k n := by
  simp [fld, slice_append_right]

/-- A field lies in the first of two strings. -/
theorem slice_append_of_le (a b : List Byte) (off n : Nat) (h : off + n ≤ a.length) : slice (a ++ b) off n = slice a off n := by
  simp only [slice, List.drop_append_of_le_length (show off ≤ a.length by omega)]
  rw [List.take_append_of_le_length (by simp; omega)]

theorem fld_append_of_le (a b : List Byte) (off n : Nat) (h : off + n ≤ a.length) : fld (a ++ b) off n = fld a off n := by
  simp [fld, slice_append_of_le a b off n h]

theorem fld_leBytes (n v : Nat) : fld (leBytes n v) 0 n = v % 256 ^ n := by
  have := slice_all (leBytes n v)
  rw [length_leBytes] at this
  rw [fld, this, leNat_leBytes]

/-! ## Words -/

@[simp] theorem length_lineBytes (l : Line) : (lineBytes l).length = 32 := by simp [lineBytes]

/-- A word's 32 bytes give the word back. -/
@[simp] theorem bytesLine_lineBytes (l : Line) : bytesLine (lineBytes l) = l := by
  simp only [bytesLine, lineBytes, leNat_leBytes]
  rw [show (256 : Nat) ^ 32 = 2 ^ 256 by norm_num, Nat.mod_eq_of_lt l.isLt]
  simp

theorem lineBytes_bytesLine (bs : List Byte) (h : bs.length = 32) : lineBytes (bytesLine bs) = bs := by
  have hlt := leNat_lt bs
  rw [h] at hlt
  simp only [lineBytes, bytesLine, BitVec.toNat_ofNat]
  rw [Nat.mod_eq_of_lt (by rw [show (2 : Nat) ^ 256 = 256 ^ 32 by norm_num]; exact hlt), ← h, leBytes_leNat]

/-! ## Flits (R342, R343) -/

/-- What stands before the CRC of a flit. -/
theorem flitBytes_eq (p : List Byte) (q v : Nat) : ∃ a, a = slice p 0 128 ++ leBytes 2 q ++ leBytes 1 v ∧ a.length = 131 ∧
    flitBytes p q v = (a ++ [crc8 a]) ++ leBytes 4 (crc32c (a ++ [crc8 a])).toNat := by
  refine ⟨_, rfl, by simp, rfl⟩

@[simp] theorem length_flitBytes (p : List Byte) (q v : Nat) : (flitBytes p q v).length = 136 := by
  obtain ⟨a, -, ha, h⟩ := flitBytes_eq p q v
  simp [h, ha]

/-- A flit's fields: payload, SEQ, TYPE and VC. -/
theorem flitBytes_fields (p : List Byte) (q v : Nat) : slice (flitBytes p q v) 0 128 = slice p 0 128 ∧
    fld (flitBytes p q v) 128 2 = q % 65536 ∧ fld (flitBytes p q v) 130 1 = v % 256 := by
  obtain ⟨a, ha, hl, h⟩ := flitBytes_eq p q v
  have hp : (slice p 0 128).length = 128 := length_slice p 0 128
  have hq : (slice p 0 128 ++ leBytes 2 q).length = 130 := by simp
  rw [h, slice_append_of_le _ _ _ _ (by simp [hl]), fld_append_of_le _ _ _ _ (by simp [hl]), fld_append_of_le _ _ _ _ (by simp [hl]),
    slice_append_of_le _ _ _ _ (by simp [hl]), fld_append_of_le _ _ _ _ (by simp [hl]), fld_append_of_le _ _ _ _ (by simp [hl]), ha]
  refine ⟨?_, ?_, ?_⟩
  · rw [List.append_assoc]
    have := slice_append_left (slice p 0 128) (leBytes 2 q ++ leBytes 1 v)
    rwa [hp] at this
  · rw [fld_append_of_le _ _ _ _ (by simp)]
    have := fld_append_right (slice p 0 128) (leBytes 2 q) 0 2
    rw [hp, fld_leBytes] at this
    simpa using this
  · have := fld_append_right (slice p 0 128 ++ leBytes 2 q) (leBytes 1 v) 0 1
    rw [hq, fld_leBytes] at this
    simpa using this

/-- A flit as the sender builds it passes both checks, whatever it carries. -/
theorem flitGood_flitBytes (p : List Byte) (q v : Nat) (hv : v % 4 ≠ 3) : flitGood (flitBytes p q v) = true := by
  have hf := (flitBytes_fields p q v).2.2
  obtain ⟨a, -, hl, h⟩ := flitBytes_eq p q v
  have hb : (a ++ [crc8 a]).length = 132 := by simp [hl]
  have ht : flitType (flitBytes p q v) ≠ 3 := by rw [flitType, hf]; omega
  have h1 : slice (flitBytes p q v) 0 131 = a := by
    rw [h, List.append_assoc]
    have := slice_append_left a ([crc8 a] ++ leBytes 4 (crc32c (a ++ [crc8 a])).toNat)
    rwa [hl] at this
  have h2 : (flitBytes p q v).getD 131 0 = crc8 a := by
    rw [h, List.append_assoc, List.getD_append_right _ _ _ _ (by omega), hl]
    rfl
  have h3 : slice (flitBytes p q v) 0 132 = a ++ [crc8 a] := by
    rw [h]
    have := slice_append_left (a ++ [crc8 a]) (leBytes 4 (crc32c (a ++ [crc8 a])).toNat)
    rwa [hb] at this
  have h4 : fld (flitBytes p q v) 132 4 = (crc32c (a ++ [crc8 a])).toNat := by
    rw [h]
    have := fld_append_right (a ++ [crc8 a]) (leBytes 4 (crc32c (a ++ [crc8 a])).toNat) 0 4
    rw [hb, fld_leBytes] at this
    rw [this]
    exact Nat.mod_eq_of_lt (by rw [show (256 : Nat) ^ 4 = 2 ^ 32 by norm_num]; exact (crc32c _).isLt)
  simp only [flitGood, gchkOk, crcOk, h1, h2, h3, h4]
  simp [ht]

/-! ## Flits on the lanes (R341, R346) -/

/-- A number built from bits, lowest first, has those bits. -/
theorem testBit_foldr {α : Type} (f : α → Bool) (l : List α) (k : Nat) :
    (l.foldr (fun u n => b2n (f u) + 2 * n) 0).testBit k = (l.map f).getD k false := by
  induction l generalizing k with
  | nil => simp
  | cons x t ih =>
    have hb : b2n (f x) = (f x).toNat := by cases f x <;> rfl
    cases k with
    | zero => simp [hb, Nat.testBit_zero]; cases f x <;> simp
    | succ k =>
      simp only [List.foldr_cons, List.map_cons, List.getD_cons_succ, ← ih, Nat.testBit_succ]
      congr 1
      rw [hb]; have := Bool.toNat_lt (f x); omega

/-- Different logical lanes lie on different physical lanes while 64 work. -/
theorem physicalLane_inj (failed : List Nat) (h : 64 ≤ ((List.range 66).filter fun n => !failed.contains n).length) {i j : Nat}
    (hi : i < 64) (hj : j < 64) (e : physicalLane failed i = physicalLane failed j) : i = j := by
  unfold physicalLane at e
  rw [List.getD_eq_getElem _ _ (by omega), List.getD_eq_getElem _ _ (by omega)] at e
  exact (List.Nodup.getElem_inj_iff (List.Nodup.filter _ List.nodup_range)).1 e

/-- A map listed under different keys is read back. -/
theorem look_map {β : Type} (p : Nat → Nat) (v : Nat → β) (l : List Nat) (i : Nat) (hi : i ∈ l)
    (inj : ∀ j ∈ l, p i = p j → i = j) : look (l.map fun j => (p j, v j)) (p i) = some (v i) := by
  induction l with
  | nil => cases hi
  | cons x t ih =>
    simp only [List.map_cons, look]
    split
    · rename_i e; rw [inj x (by simp) e]
    · rename_i e
      rcases List.mem_cons.1 hi with rfl | hi
      · exact absurd rfl e
      · exact ih hi fun j hj => inj j (List.mem_cons_of_mem _ hj)

/-- The receiver reads every bit of a flit off the lanes (R346). -/
theorem laneBit_stripe (failed : List Nat) (h : 64 ≤ ((List.range 66).filter fun n => !failed.contains n).length) (b : List Byte)
    {k : Nat} (hk : k < 1088) : laneBit failed (stripe failed b) k = bitOf b k := by
  rw [laneBit, stripe, look_map (physicalLane failed) (laneBits b) _ _ (by simp; omega)
    (fun j hj e => physicalLane_inj failed h (Nat.mod_lt _ (by omega)) (by simpa using hj) e)]
  simp only [Option.getD_some, laneBits, BitVec.getLsbD_ofNat, testBit_foldr]
  rw [List.getD_eq_getElem _ _ (by simp; omega)]
  simp only [List.getElem_map, List.getElem_range, show k / 64 < 17 by omega, decide_true, Bool.true_and]
  congr 1; omega

/-- The receiver reassembles the bytes of a slot (R346). -/
theorem unstripe_stripe (failed : List Nat) (h : 64 ≤ ((List.range 66).filter fun n => !failed.contains n).length) (b : List Byte)
    (hb : b.length = 136) : unstripe failed (stripe failed b) = b := by
  apply List.ext_getElem (by simp [unstripe, hb])
  intro j hj _
  have hj : j < 136 := by simpa [unstripe] using hj
  simp only [unstripe, List.getElem_map, List.getElem_range]
  apply BitVec.eq_of_getLsbD_eq
  intro k hk
  simp only [BitVec.getLsbD_ofNat, testBit_foldr, hk, decide_true, Bool.true_and]
  rw [List.getD_eq_getElem _ _ (by simpa using hk)]
  simp only [List.getElem_map, List.getElem_range]
  rw [laneBit_stripe failed h b (by omega), bitOf, show (8 * j + k) / 8 = j by omega, show (8 * j + k) % 8 = k by omega,
    List.getD_eq_getElem _ _ (by omega)]

/-! ## The fields of a mesh flit (R312, R313, R319) -/

theorem joinFields_lt (fs : List (Nat × Nat)) : joinFields fs < 2 ^ (fs.map (·.1)).sum := by
  induction fs with
  | nil => simp [joinFields]
  | cons x t ih =>
    have := Nat.mod_lt x.2 (Nat.two_pow_pos x.1)
    simp only [joinFields, List.map_cons, List.sum_cons, pow_add]
    calc _ < 2 ^ x.1 + 2 ^ x.1 * joinFields t := by omega
      _ = 2 ^ x.1 * (joinFields t + 1) := by ring
      _ ≤ _ := Nat.mul_le_mul_left _ ih

/-- A field among others is read back at its place. -/
theorem joinFields_field (a t : List (Nat × Nat)) (w v : Nat) :
    joinFields (a ++ (w, v) :: t) / 2 ^ (a.map (·.1)).sum % 2 ^ w = v % 2 ^ w := by
  induction a with
  | nil => simp [joinFields]
  | cons x a ih =>
    simp only [List.cons_append, joinFields, List.map_cons, List.sum_cons, pow_add, ← Nat.div_div_eq_div_mul]
    rw [Nat.add_mul_div_left _ _ (Nat.two_pow_pos _), Nat.div_eq_of_lt (Nat.mod_lt _ (Nat.two_pow_pos _)), Nat.zero_add, ih]

theorem pow_256 (n m : Nat) (h : m = 8 * n) : 256 ^ n = 2 ^ m := by rw [h, pow_mul]; norm_num

/-- The layout of a flit is one to one: what one router sends the next one reads (log entry 11). -/
theorem headOf_payload (f : MeshFlit) (via : Nat) : headOf (f.payload via) = joinFields (f.fields via) := by
  have h := joinFields_lt (f.fields via)
  rw [show ((f.fields via).map (·.1)).sum = 1024 by simp [MeshFlit.fields]] at h
  rw [headOf, MeshFlit.payload, fld_leBytes, pow_256 128 1024 (by norm_num),
    Nat.mod_eq_of_lt (BitVec.isLt _),
    BitVec.ofNat_toNat, BitVec.setWidth_eq, Equiv.symm_apply_apply]
  simp only [BitVec.toNat_ofNat, Nat.mod_eq_of_lt h]

/-- Every field of a flit crosses a die link (R312, R313). -/
theorem meshFlitOf_payload (f : MeshFlit) (via id n q v : Nat) (gen : Bool) :
    let g := meshFlitOf (f.payload via) id n q v gen
    g.dest = f.dest % 256 ∧ g.agent = f.agent % 256 ∧ g.src = f.src % 256 ∧ g.srcAgent = f.srcAgent % 256 ∧ g.tenant = f.tenant % 256 ∧
      g.error = f.error ∧ g.down = f.down ∧ g.last = f.last ∧ g.msg = f.msg % 2 ^ 64 ∧ g.data = f.data % 2 ^ 904 ∧
      viaOf (f.payload via) = via % 256 := by
  have hb (b : Bool) : (b2n b % 2 ^ 1 == 1) = b := by cases b <;> rfl
  have key (a t : List (Nat × Nat)) (w x : Nat) (e : f.fields via = a ++ (w, x) :: t) :
      headField (f.payload via) (a.map (·.1)).sum w = x % 2 ^ w := by
    rw [headField, headOf_payload, e, joinFields_field]
  simp only [meshFlitOf, viaOf]
  refine ⟨?_, ?_, ?_, ?_, ?_, ?_, ?_, ?_, ?_, ?_, ?_⟩
  · exact key [] _ _ _ rfl
  · exact key [(8, f.dest)] _ _ _ rfl
  · exact key [(8, f.dest), (8, f.agent)] _ _ _ rfl
  · exact key [(8, f.dest), (8, f.agent), (8, f.src)] _ _ _ rfl
  · exact key [(8, f.dest), (8, f.agent), (8, f.src), (8, f.srcAgent)] _ _ _ rfl
  · rw [← hb f.error]; congr 1
    exact key [(8, f.dest), (8, f.agent), (8, f.src), (8, f.srcAgent), (8, f.tenant)] _ _ _ rfl
  · rw [← hb f.down]; congr 1
    exact key [(8, f.dest), (8, f.agent), (8, f.src), (8, f.srcAgent), (8, f.tenant), (1, b2n f.error)] _ _ _ rfl
  · rw [← hb f.last]; congr 1
    exact key [(8, f.dest), (8, f.agent), (8, f.src), (8, f.srcAgent), (8, f.tenant), (1, b2n f.error), (1, b2n f.down)] _ _ _ rfl
  · exact key [(8, f.dest), (8, f.agent), (8, f.src), (8, f.srcAgent), (8, f.tenant), (1, b2n f.error), (1, b2n f.down), (1, b2n f.last),
      (5, 0), (8, via)] _ _ _ rfl
  · exact key [(8, f.dest), (8, f.agent), (8, f.src), (8, f.srcAgent), (8, f.tenant), (1, b2n f.error), (1, b2n f.down), (1, b2n f.last),
      (5, 0), (8, via), (64, f.msg)] _ _ _ rfl
  · exact key [(8, f.dest), (8, f.agent), (8, f.src), (8, f.srcAgent), (8, f.tenant), (1, b2n f.error), (1, b2n f.down), (1, b2n f.last),
      (5, 0)] _ _ _ rfl

end Sys2Proof.Machine
end

