-- ==== Sys2Proof/Laws/Store.lean ====
section
/-! SUPPORT. Laws of the sparse tables and the byte memories: read after write, and what keeps the canonical form. -/

namespace Sys2Proof.Machine

variable {α : Type}

/-! ## look, put, del -/

@[simp] theorem look_nil (k : Nat) : look ([] : SMap α) k = none := rfl

theorem look_put_self (m : SMap α) (k : Nat) (v : α) : look (put m k v) k = some v := by
  induction m with
  | nil => simp [put, look]
  | cons c t ih =>
    obtain ⟨k', v'⟩ := c
    simp only [put]
    split
    · simp [look]
    · split
      · simp [look]
      · rename_i h
        simp [look, h, ih]

theorem look_put_other (m : SMap α) {k k' : Nat} (v : α) (h : k' ≠ k) : look (put m k v) k' = look m k' := by
  induction m with
  | nil => simp [put, look, h]
  | cons c t ih =>
    obtain ⟨a, b⟩ := c
    simp only [put]
    split
    · simp [look, h]
    · split
      · rename_i e
        subst e
        simp [look, h]
      · simp [look, ih]

theorem look_put (m : SMap α) (k k' : Nat) (v : α) : look (put m k v) k' = if k' = k then some v else look m k' := by
  split
  · rename_i h
    rw [h, look_put_self]
  · rename_i h
    exact look_put_other m v h

theorem look_filter (m : SMap α) (p : Nat → Bool) (k : Nat) :
    look (m.filter fun c => p c.1) k = if p k then look m k else none := by
  induction m with
  | nil => simp
  | cons c t ih =>
    obtain ⟨a, b⟩ := c
    by_cases e : k = a
    · subst e
      by_cases h : p k <;> simp_all [look]
    · by_cases h : p a <;> simp_all [look]

theorem look_del (m : SMap α) (k k' : Nat) : look (del m k) k' = if k' = k then none else look m k' := by
  have h := look_filter m (fun a => a != k) k'
  simp only [del]
  rw [h]
  by_cases e : k' = k <;> simp [e]

/-! ## With a default -/

theorem lookD_putD [DecidableEq α] (d : α) (m : SMap α) (k k' : Nat) (v : α) :
    lookD d (putD d m k v) k' = if k' = k then v else lookD d m k' := by
  unfold lookD putD
  split
  · rename_i h
    rw [look_del]
    split <;> simp [h]
  · rw [look_put]
    split <;> simp

@[simp] theorem lookD_putD_self [DecidableEq α] (d : α) (m : SMap α) (k : Nat) (v : α) : lookD d (putD d m k v) k = v := by
  simp [lookD_putD]

theorem lookD_putD_other [DecidableEq α] (d : α) (m : SMap α) {k k' : Nat} (v : α) (h : k' ≠ k) :
    lookD d (putD d m k v) k' = lookD d m k' := by
  simp [lookD_putD, h]

/-! ## Canonical form -/

theorem mem_put (m : SMap α) (k : Nat) (v : α) {c : Nat × α} (h : c ∈ put m k v) : c = (k, v) ∨ c ∈ m := by
  induction m with
  | nil => simpa [put] using h
  | cons x t ih =>
    obtain ⟨a, b⟩ := x
    simp only [put] at h
    split at h
    · simpa using h
    · split at h
      · simp only [List.mem_cons] at h ⊢
        tauto
      · simp only [List.mem_cons] at h ⊢
        rcases h with h | h
        · tauto
        · rcases ih h with h | h <;> tauto

theorem sorted_put {m : SMap α} (k : Nat) (v : α) (h : sorted m) : sorted (put m k v) := by
  induction m with
  | nil => simp [put, sorted]
  | cons x t ih =>
    obtain ⟨a, b⟩ := x
    have ht : sorted t := (List.pairwise_cons.mp h).2
    have ha : ∀ c ∈ t, a < c.1 := fun c hc => (List.pairwise_cons.mp h).1 c hc
    simp only [put]
    split
    · rename_i lt
      refine List.pairwise_cons.mpr ⟨fun c hc => ?_, h⟩
      rcases List.mem_cons.mp hc with e | hc
      · rw [e]; exact lt
      · exact Nat.lt_trans lt (ha c hc)
    · split
      · rename_i e
        subst e
        exact List.pairwise_cons.mpr ⟨ha, ht⟩
      · rename_i n1 n2
        refine List.pairwise_cons.mpr ⟨fun c hc => ?_, ih ht⟩
        rcases mem_put t k v hc with e | hc
        · rw [e]; show a < k; omega
        · exact ha c hc

theorem sorted_filter {m : SMap α} (p : Nat × α → Bool) (h : sorted m) : sorted (m.filter p) := List.Pairwise.filter p h

theorem sorted_del {m : SMap α} (k : Nat) (h : sorted m) : sorted (del m k) := sorted_filter _ h

theorem sorted_putD [DecidableEq α] {m : SMap α} (d : α) (k : Nat) (v : α) (h : sorted m) : sorted (putD d m k v) := by
  unfold putD
  split
  · exact sorted_del k h
  · exact sorted_put k v h

/-! ## Byte memories -/

/-- The byte read after a write of one byte. -/
theorem Ram.byte_setByte (r : Ram) (free a a' : Nat) (b : Byte) :
    (r.setByte a b).byte free a' = if a' = a then b else r.byte free a' := by
  unfold Ram.setByte Ram.byte
  by_cases h : r.unlisted = some b
  · by_cases e : a' = a <;> simp [h, look_del, e]
  · by_cases e : a' = a <;> simp [h, look_put, e]

@[simp] theorem Ram.setByte_unlisted (r : Ram) (a : Nat) (b : Byte) : (r.setByte a b).unlisted = r.unlisted := rfl

@[simp] theorem Ram.write_unlisted (r : Ram) (a : Nat) (bs : List Byte) : (r.write a bs).unlisted = r.unlisted := by
  induction bs generalizing r a with
  | nil => rfl
  | cons b t ih => simp [Ram.write, ih]

/-- The byte read after a write of several: the written byte inside, the old one outside. -/
theorem Ram.byte_write (r : Ram) (free a a' : Nat) (bs : List Byte) :
    (r.write a bs).byte free a' =
      if a ≤ a' ∧ a' < a + bs.length then bs.getD (a' - a) 0#8 else r.byte free a' := by
  induction bs generalizing r a with
  | nil => simp [Ram.write]
  | cons b t ih =>
    simp only [Ram.write, ih, Ram.byte_setByte, List.length_cons]
    by_cases h : a' = a
    · subst h; simp
    · by_cases h1 : a + 1 ≤ a' ∧ a' < a + 1 + t.length
      · have h2 : a ≤ a' ∧ a' < a + (t.length + 1) := by omega
        rw [if_pos h1, if_pos h2]
        have e : a' - a = (a' - (a + 1)) + 1 := by omega
        simp [e]
      · have h2 : ¬ (a ≤ a' ∧ a' < a + (t.length + 1)) := by omega
        rw [if_neg h1, if_neg h2, if_neg h]

theorem Ram.wf_setByte {r : Ram} (a : Nat) (b : Byte) (h : r.wf) : (r.setByte a b).wf := by
  unfold Ram.setByte
  split
  · refine ⟨sorted_del a h.1, fun c hc => h.2 c ?_⟩
    exact (List.mem_filter.mp hc).1
  · rename_i ne
    refine ⟨sorted_put a b h.1, fun c hc => ?_⟩
    rcases mem_put r.cells a b hc with e | hc
    · rw [e]; exact ne
    · exact h.2 c hc

/-- Every write keeps the canonical form of a byte memory. -/
theorem Ram.wf_write {r : Ram} (a : Nat) (bs : List Byte) (h : r.wf) : (r.write a bs).wf := by
  induction bs generalizing r a with
  | nil => exact h
  | cons b t ih => exact ih (a + 1) (Ram.wf_setByte a b h)

@[simp] theorem Ram.length_read (r : Ram) (free a n : Nat) : (r.read free a n).length = n := by
  induction n generalizing a with
  | zero => rfl
  | succ n ih => simp [Ram.read, ih]

/-- What a read of several bytes gives, byte by byte. -/
theorem Ram.getElem?_read (r : Ram) (free a n i : Nat) (h : i < n) : (r.read free a n)[i]? = some (r.byte free (a + i)) := by
  induction n generalizing a i with
  | zero => omega
  | succ n ih =>
    cases i with
    | zero => simp [Ram.read]
    | succ i =>
      simp only [Ram.read, List.getElem?_cons_succ]
      rw [ih (a + 1) i (by omega)]
      congr 2
      omega

end Sys2Proof.Machine
end

