-- ==== Sys2Proof/Laws/State.lean ====
section
/-! SUPPORT. Laws of the state's updates: one lemma for each field of State under each named update, and what each accessor
reads after an update of its table. -/

namespace Sys2Proof.Machine

variable (s : State)

/-! ## One group of State at a time -/

@[simp] theorem modAo_pending (f : Ao → Ao) : (modAo s f).pending = s.pending := rfl
@[simp] theorem modAo_free (f : Ao → Ao) : (modAo s f).free = s.free := rfl
@[simp] theorem modAo_ao (f : Ao → Ao) : (modAo s f).ao = f s.ao := rfl
@[simp] theorem modAo_dev (f : Ao → Ao) : (modAo s f).dev = s.dev := rfl
@[simp] theorem modAo_sec (f : Ao → Ao) : (modAo s f).sec = s.sec := rfl
@[simp] theorem modAo_fpt (f : Ao → Ao) : (modAo s f).fpt = s.fpt := rfl
@[simp] theorem modAo_pcie (f : Ao → Ao) : (modAo s f).pcie = s.pcie := rfl
@[simp] theorem modAo_mbx (f : Ao → Ao) : (modAo s f).mbx = s.mbx := rfl
@[simp] theorem modAo_work (f : Ao → Ao) : (modAo s f).work = s.work := rfl
@[simp] theorem modAo_epoch (f : Ao → Ao) : (modAo s f).epoch = s.epoch := rfl
@[simp] theorem modAo_hearths (f : Ao → Ao) : (modAo s f).hearths = s.hearths := rfl
@[simp] theorem modAo_mem (f : Ao → Ao) : (modAo s f).mem = s.mem := rfl
@[simp] theorem modAo_ash (f : Ao → Ao) : (modAo s f).ash = s.ash := rfl
@[simp] theorem modAo_fabric (f : Ao → Ao) : (modAo s f).fabric = s.fabric := rfl
@[simp] theorem modAo_chain (f : Ao → Ao) : (modAo s f).chain = s.chain := rfl
@[simp] theorem modAo_draught (f : Ao → Ao) : (modAo s f).draught = s.draught := rfl
@[simp] theorem modAo_counters (f : Ao → Ao) : (modAo s f).counters = s.counters := rfl

@[simp] theorem modDev_pending (f : Dev → Dev) : (modDev s f).pending = s.pending := rfl
@[simp] theorem modDev_free (f : Dev → Dev) : (modDev s f).free = s.free := rfl
@[simp] theorem modDev_ao (f : Dev → Dev) : (modDev s f).ao = s.ao := rfl
@[simp] theorem modDev_dev (f : Dev → Dev) : (modDev s f).dev = f s.dev := rfl
@[simp] theorem modDev_sec (f : Dev → Dev) : (modDev s f).sec = s.sec := rfl
@[simp] theorem modDev_fpt (f : Dev → Dev) : (modDev s f).fpt = s.fpt := rfl
@[simp] theorem modDev_pcie (f : Dev → Dev) : (modDev s f).pcie = s.pcie := rfl
@[simp] theorem modDev_mbx (f : Dev → Dev) : (modDev s f).mbx = s.mbx := rfl
@[simp] theorem modDev_work (f : Dev → Dev) : (modDev s f).work = s.work := rfl
@[simp] theorem modDev_epoch (f : Dev → Dev) : (modDev s f).epoch = s.epoch := rfl
@[simp] theorem modDev_hearths (f : Dev → Dev) : (modDev s f).hearths = s.hearths := rfl
@[simp] theorem modDev_mem (f : Dev → Dev) : (modDev s f).mem = s.mem := rfl
@[simp] theorem modDev_ash (f : Dev → Dev) : (modDev s f).ash = s.ash := rfl
@[simp] theorem modDev_fabric (f : Dev → Dev) : (modDev s f).fabric = s.fabric := rfl
@[simp] theorem modDev_chain (f : Dev → Dev) : (modDev s f).chain = s.chain := rfl
@[simp] theorem modDev_draught (f : Dev → Dev) : (modDev s f).draught = s.draught := rfl
@[simp] theorem modDev_counters (f : Dev → Dev) : (modDev s f).counters = s.counters := rfl

@[simp] theorem modSec_pending (f : Sec → Sec) : (modSec s f).pending = s.pending := rfl
@[simp] theorem modSec_free (f : Sec → Sec) : (modSec s f).free = s.free := rfl
@[simp] theorem modSec_ao (f : Sec → Sec) : (modSec s f).ao = s.ao := rfl
@[simp] theorem modSec_dev (f : Sec → Sec) : (modSec s f).dev = s.dev := rfl
@[simp] theorem modSec_sec (f : Sec → Sec) : (modSec s f).sec = f s.sec := rfl
@[simp] theorem modSec_fpt (f : Sec → Sec) : (modSec s f).fpt = s.fpt := rfl
@[simp] theorem modSec_pcie (f : Sec → Sec) : (modSec s f).pcie = s.pcie := rfl
@[simp] theorem modSec_mbx (f : Sec → Sec) : (modSec s f).mbx = s.mbx := rfl
@[simp] theorem modSec_work (f : Sec → Sec) : (modSec s f).work = s.work := rfl
@[simp] theorem modSec_epoch (f : Sec → Sec) : (modSec s f).epoch = s.epoch := rfl
@[simp] theorem modSec_hearths (f : Sec → Sec) : (modSec s f).hearths = s.hearths := rfl
@[simp] theorem modSec_mem (f : Sec → Sec) : (modSec s f).mem = s.mem := rfl
@[simp] theorem modSec_ash (f : Sec → Sec) : (modSec s f).ash = s.ash := rfl
@[simp] theorem modSec_fabric (f : Sec → Sec) : (modSec s f).fabric = s.fabric := rfl
@[simp] theorem modSec_chain (f : Sec → Sec) : (modSec s f).chain = s.chain := rfl
@[simp] theorem modSec_draught (f : Sec → Sec) : (modSec s f).draught = s.draught := rfl
@[simp] theorem modSec_counters (f : Sec → Sec) : (modSec s f).counters = s.counters := rfl

@[simp] theorem modFpt_pending (f : Fpt → Fpt) : (modFpt s f).pending = s.pending := rfl
@[simp] theorem modFpt_free (f : Fpt → Fpt) : (modFpt s f).free = s.free := rfl
@[simp] theorem modFpt_ao (f : Fpt → Fpt) : (modFpt s f).ao = s.ao := rfl
@[simp] theorem modFpt_dev (f : Fpt → Fpt) : (modFpt s f).dev = s.dev := rfl
@[simp] theorem modFpt_sec (f : Fpt → Fpt) : (modFpt s f).sec = s.sec := rfl
@[simp] theorem modFpt_fpt (f : Fpt → Fpt) : (modFpt s f).fpt = f s.fpt := rfl
@[simp] theorem modFpt_pcie (f : Fpt → Fpt) : (modFpt s f).pcie = s.pcie := rfl
@[simp] theorem modFpt_mbx (f : Fpt → Fpt) : (modFpt s f).mbx = s.mbx := rfl
@[simp] theorem modFpt_work (f : Fpt → Fpt) : (modFpt s f).work = s.work := rfl
@[simp] theorem modFpt_epoch (f : Fpt → Fpt) : (modFpt s f).epoch = s.epoch := rfl
@[simp] theorem modFpt_hearths (f : Fpt → Fpt) : (modFpt s f).hearths = s.hearths := rfl
@[simp] theorem modFpt_mem (f : Fpt → Fpt) : (modFpt s f).mem = s.mem := rfl
@[simp] theorem modFpt_ash (f : Fpt → Fpt) : (modFpt s f).ash = s.ash := rfl
@[simp] theorem modFpt_fabric (f : Fpt → Fpt) : (modFpt s f).fabric = s.fabric := rfl
@[simp] theorem modFpt_chain (f : Fpt → Fpt) : (modFpt s f).chain = s.chain := rfl
@[simp] theorem modFpt_draught (f : Fpt → Fpt) : (modFpt s f).draught = s.draught := rfl
@[simp] theorem modFpt_counters (f : Fpt → Fpt) : (modFpt s f).counters = s.counters := rfl

@[simp] theorem modPcie_pending (f : Pcie → Pcie) : (modPcie s f).pending = s.pending := rfl
@[simp] theorem modPcie_free (f : Pcie → Pcie) : (modPcie s f).free = s.free := rfl
@[simp] theorem modPcie_ao (f : Pcie → Pcie) : (modPcie s f).ao = s.ao := rfl
@[simp] theorem modPcie_dev (f : Pcie → Pcie) : (modPcie s f).dev = s.dev := rfl
@[simp] theorem modPcie_sec (f : Pcie → Pcie) : (modPcie s f).sec = s.sec := rfl
@[simp] theorem modPcie_fpt (f : Pcie → Pcie) : (modPcie s f).fpt = s.fpt := rfl
@[simp] theorem modPcie_pcie (f : Pcie → Pcie) : (modPcie s f).pcie = f s.pcie := rfl
@[simp] theorem modPcie_mbx (f : Pcie → Pcie) : (modPcie s f).mbx = s.mbx := rfl
@[simp] theorem modPcie_work (f : Pcie → Pcie) : (modPcie s f).work = s.work := rfl
@[simp] theorem modPcie_epoch (f : Pcie → Pcie) : (modPcie s f).epoch = s.epoch := rfl
@[simp] theorem modPcie_hearths (f : Pcie → Pcie) : (modPcie s f).hearths = s.hearths := rfl
@[simp] theorem modPcie_mem (f : Pcie → Pcie) : (modPcie s f).mem = s.mem := rfl
@[simp] theorem modPcie_ash (f : Pcie → Pcie) : (modPcie s f).ash = s.ash := rfl
@[simp] theorem modPcie_fabric (f : Pcie → Pcie) : (modPcie s f).fabric = s.fabric := rfl
@[simp] theorem modPcie_chain (f : Pcie → Pcie) : (modPcie s f).chain = s.chain := rfl
@[simp] theorem modPcie_draught (f : Pcie → Pcie) : (modPcie s f).draught = s.draught := rfl
@[simp] theorem modPcie_counters (f : Pcie → Pcie) : (modPcie s f).counters = s.counters := rfl

@[simp] theorem modWork_pending (f : Work → Work) : (modWork s f).pending = s.pending := rfl
@[simp] theorem modWork_free (f : Work → Work) : (modWork s f).free = s.free := rfl
@[simp] theorem modWork_ao (f : Work → Work) : (modWork s f).ao = s.ao := rfl
@[simp] theorem modWork_dev (f : Work → Work) : (modWork s f).dev = s.dev := rfl
@[simp] theorem modWork_sec (f : Work → Work) : (modWork s f).sec = s.sec := rfl
@[simp] theorem modWork_fpt (f : Work → Work) : (modWork s f).fpt = s.fpt := rfl
@[simp] theorem modWork_pcie (f : Work → Work) : (modWork s f).pcie = s.pcie := rfl
@[simp] theorem modWork_mbx (f : Work → Work) : (modWork s f).mbx = s.mbx := rfl
@[simp] theorem modWork_work (f : Work → Work) : (modWork s f).work = f s.work := rfl
@[simp] theorem modWork_epoch (f : Work → Work) : (modWork s f).epoch = s.epoch := rfl
@[simp] theorem modWork_hearths (f : Work → Work) : (modWork s f).hearths = s.hearths := rfl
@[simp] theorem modWork_mem (f : Work → Work) : (modWork s f).mem = s.mem := rfl
@[simp] theorem modWork_ash (f : Work → Work) : (modWork s f).ash = s.ash := rfl
@[simp] theorem modWork_fabric (f : Work → Work) : (modWork s f).fabric = s.fabric := rfl
@[simp] theorem modWork_chain (f : Work → Work) : (modWork s f).chain = s.chain := rfl
@[simp] theorem modWork_draught (f : Work → Work) : (modWork s f).draught = s.draught := rfl
@[simp] theorem modWork_counters (f : Work → Work) : (modWork s f).counters = s.counters := rfl

@[simp] theorem modEpoch_pending (f : Epoch → Epoch) : (modEpoch s f).pending = s.pending := rfl
@[simp] theorem modEpoch_free (f : Epoch → Epoch) : (modEpoch s f).free = s.free := rfl
@[simp] theorem modEpoch_ao (f : Epoch → Epoch) : (modEpoch s f).ao = s.ao := rfl
@[simp] theorem modEpoch_dev (f : Epoch → Epoch) : (modEpoch s f).dev = s.dev := rfl
@[simp] theorem modEpoch_sec (f : Epoch → Epoch) : (modEpoch s f).sec = s.sec := rfl
@[simp] theorem modEpoch_fpt (f : Epoch → Epoch) : (modEpoch s f).fpt = s.fpt := rfl
@[simp] theorem modEpoch_pcie (f : Epoch → Epoch) : (modEpoch s f).pcie = s.pcie := rfl
@[simp] theorem modEpoch_mbx (f : Epoch → Epoch) : (modEpoch s f).mbx = s.mbx := rfl
@[simp] theorem modEpoch_work (f : Epoch → Epoch) : (modEpoch s f).work = s.work := rfl
@[simp] theorem modEpoch_epoch (f : Epoch → Epoch) : (modEpoch s f).epoch = f s.epoch := rfl
@[simp] theorem modEpoch_hearths (f : Epoch → Epoch) : (modEpoch s f).hearths = s.hearths := rfl
@[simp] theorem modEpoch_mem (f : Epoch → Epoch) : (modEpoch s f).mem = s.mem := rfl
@[simp] theorem modEpoch_ash (f : Epoch → Epoch) : (modEpoch s f).ash = s.ash := rfl
@[simp] theorem modEpoch_fabric (f : Epoch → Epoch) : (modEpoch s f).fabric = s.fabric := rfl
@[simp] theorem modEpoch_chain (f : Epoch → Epoch) : (modEpoch s f).chain = s.chain := rfl
@[simp] theorem modEpoch_draught (f : Epoch → Epoch) : (modEpoch s f).draught = s.draught := rfl
@[simp] theorem modEpoch_counters (f : Epoch → Epoch) : (modEpoch s f).counters = s.counters := rfl

@[simp] theorem modMem_pending (f : Mem → Mem) : (modMem s f).pending = s.pending := rfl
@[simp] theorem modMem_free (f : Mem → Mem) : (modMem s f).free = s.free := rfl
@[simp] theorem modMem_ao (f : Mem → Mem) : (modMem s f).ao = s.ao := rfl
@[simp] theorem modMem_dev (f : Mem → Mem) : (modMem s f).dev = s.dev := rfl
@[simp] theorem modMem_sec (f : Mem → Mem) : (modMem s f).sec = s.sec := rfl
@[simp] theorem modMem_fpt (f : Mem → Mem) : (modMem s f).fpt = s.fpt := rfl
@[simp] theorem modMem_pcie (f : Mem → Mem) : (modMem s f).pcie = s.pcie := rfl
@[simp] theorem modMem_mbx (f : Mem → Mem) : (modMem s f).mbx = s.mbx := rfl
@[simp] theorem modMem_work (f : Mem → Mem) : (modMem s f).work = s.work := rfl
@[simp] theorem modMem_epoch (f : Mem → Mem) : (modMem s f).epoch = s.epoch := rfl
@[simp] theorem modMem_hearths (f : Mem → Mem) : (modMem s f).hearths = s.hearths := rfl
@[simp] theorem modMem_mem (f : Mem → Mem) : (modMem s f).mem = f s.mem := rfl
@[simp] theorem modMem_ash (f : Mem → Mem) : (modMem s f).ash = s.ash := rfl
@[simp] theorem modMem_fabric (f : Mem → Mem) : (modMem s f).fabric = s.fabric := rfl
@[simp] theorem modMem_chain (f : Mem → Mem) : (modMem s f).chain = s.chain := rfl
@[simp] theorem modMem_draught (f : Mem → Mem) : (modMem s f).draught = s.draught := rfl
@[simp] theorem modMem_counters (f : Mem → Mem) : (modMem s f).counters = s.counters := rfl

@[simp] theorem modAsh_pending (f : Ash → Ash) : (modAsh s f).pending = s.pending := rfl
@[simp] theorem modAsh_free (f : Ash → Ash) : (modAsh s f).free = s.free := rfl
@[simp] theorem modAsh_ao (f : Ash → Ash) : (modAsh s f).ao = s.ao := rfl
@[simp] theorem modAsh_dev (f : Ash → Ash) : (modAsh s f).dev = s.dev := rfl
@[simp] theorem modAsh_sec (f : Ash → Ash) : (modAsh s f).sec = s.sec := rfl
@[simp] theorem modAsh_fpt (f : Ash → Ash) : (modAsh s f).fpt = s.fpt := rfl
@[simp] theorem modAsh_pcie (f : Ash → Ash) : (modAsh s f).pcie = s.pcie := rfl
@[simp] theorem modAsh_mbx (f : Ash → Ash) : (modAsh s f).mbx = s.mbx := rfl
@[simp] theorem modAsh_work (f : Ash → Ash) : (modAsh s f).work = s.work := rfl
@[simp] theorem modAsh_epoch (f : Ash → Ash) : (modAsh s f).epoch = s.epoch := rfl
@[simp] theorem modAsh_hearths (f : Ash → Ash) : (modAsh s f).hearths = s.hearths := rfl
@[simp] theorem modAsh_mem (f : Ash → Ash) : (modAsh s f).mem = s.mem := rfl
@[simp] theorem modAsh_ash (f : Ash → Ash) : (modAsh s f).ash = f s.ash := rfl
@[simp] theorem modAsh_fabric (f : Ash → Ash) : (modAsh s f).fabric = s.fabric := rfl
@[simp] theorem modAsh_chain (f : Ash → Ash) : (modAsh s f).chain = s.chain := rfl
@[simp] theorem modAsh_draught (f : Ash → Ash) : (modAsh s f).draught = s.draught := rfl
@[simp] theorem modAsh_counters (f : Ash → Ash) : (modAsh s f).counters = s.counters := rfl

@[simp] theorem modFabric_pending (f : Fabric → Fabric) : (modFabric s f).pending = s.pending := rfl
@[simp] theorem modFabric_free (f : Fabric → Fabric) : (modFabric s f).free = s.free := rfl
@[simp] theorem modFabric_ao (f : Fabric → Fabric) : (modFabric s f).ao = s.ao := rfl
@[simp] theorem modFabric_dev (f : Fabric → Fabric) : (modFabric s f).dev = s.dev := rfl
@[simp] theorem modFabric_sec (f : Fabric → Fabric) : (modFabric s f).sec = s.sec := rfl
@[simp] theorem modFabric_fpt (f : Fabric → Fabric) : (modFabric s f).fpt = s.fpt := rfl
@[simp] theorem modFabric_pcie (f : Fabric → Fabric) : (modFabric s f).pcie = s.pcie := rfl
@[simp] theorem modFabric_mbx (f : Fabric → Fabric) : (modFabric s f).mbx = s.mbx := rfl
@[simp] theorem modFabric_work (f : Fabric → Fabric) : (modFabric s f).work = s.work := rfl
@[simp] theorem modFabric_epoch (f : Fabric → Fabric) : (modFabric s f).epoch = s.epoch := rfl
@[simp] theorem modFabric_hearths (f : Fabric → Fabric) : (modFabric s f).hearths = s.hearths := rfl
@[simp] theorem modFabric_mem (f : Fabric → Fabric) : (modFabric s f).mem = s.mem := rfl
@[simp] theorem modFabric_ash (f : Fabric → Fabric) : (modFabric s f).ash = s.ash := rfl
@[simp] theorem modFabric_fabric (f : Fabric → Fabric) : (modFabric s f).fabric = f s.fabric := rfl
@[simp] theorem modFabric_chain (f : Fabric → Fabric) : (modFabric s f).chain = s.chain := rfl
@[simp] theorem modFabric_draught (f : Fabric → Fabric) : (modFabric s f).draught = s.draught := rfl
@[simp] theorem modFabric_counters (f : Fabric → Fabric) : (modFabric s f).counters = s.counters := rfl

@[simp] theorem modChain_pending (f : Chain → Chain) : (modChain s f).pending = s.pending := rfl
@[simp] theorem modChain_free (f : Chain → Chain) : (modChain s f).free = s.free := rfl
@[simp] theorem modChain_ao (f : Chain → Chain) : (modChain s f).ao = s.ao := rfl
@[simp] theorem modChain_dev (f : Chain → Chain) : (modChain s f).dev = s.dev := rfl
@[simp] theorem modChain_sec (f : Chain → Chain) : (modChain s f).sec = s.sec := rfl
@[simp] theorem modChain_fpt (f : Chain → Chain) : (modChain s f).fpt = s.fpt := rfl
@[simp] theorem modChain_pcie (f : Chain → Chain) : (modChain s f).pcie = s.pcie := rfl
@[simp] theorem modChain_mbx (f : Chain → Chain) : (modChain s f).mbx = s.mbx := rfl
@[simp] theorem modChain_work (f : Chain → Chain) : (modChain s f).work = s.work := rfl
@[simp] theorem modChain_epoch (f : Chain → Chain) : (modChain s f).epoch = s.epoch := rfl
@[simp] theorem modChain_hearths (f : Chain → Chain) : (modChain s f).hearths = s.hearths := rfl
@[simp] theorem modChain_mem (f : Chain → Chain) : (modChain s f).mem = s.mem := rfl
@[simp] theorem modChain_ash (f : Chain → Chain) : (modChain s f).ash = s.ash := rfl
@[simp] theorem modChain_fabric (f : Chain → Chain) : (modChain s f).fabric = s.fabric := rfl
@[simp] theorem modChain_chain (f : Chain → Chain) : (modChain s f).chain = f s.chain := rfl
@[simp] theorem modChain_draught (f : Chain → Chain) : (modChain s f).draught = s.draught := rfl
@[simp] theorem modChain_counters (f : Chain → Chain) : (modChain s f).counters = s.counters := rfl

@[simp] theorem modDraught_pending (f : Draught → Draught) : (modDraught s f).pending = s.pending := rfl
@[simp] theorem modDraught_free (f : Draught → Draught) : (modDraught s f).free = s.free := rfl
@[simp] theorem modDraught_ao (f : Draught → Draught) : (modDraught s f).ao = s.ao := rfl
@[simp] theorem modDraught_dev (f : Draught → Draught) : (modDraught s f).dev = s.dev := rfl
@[simp] theorem modDraught_sec (f : Draught → Draught) : (modDraught s f).sec = s.sec := rfl
@[simp] theorem modDraught_fpt (f : Draught → Draught) : (modDraught s f).fpt = s.fpt := rfl
@[simp] theorem modDraught_pcie (f : Draught → Draught) : (modDraught s f).pcie = s.pcie := rfl
@[simp] theorem modDraught_mbx (f : Draught → Draught) : (modDraught s f).mbx = s.mbx := rfl
@[simp] theorem modDraught_work (f : Draught → Draught) : (modDraught s f).work = s.work := rfl
@[simp] theorem modDraught_epoch (f : Draught → Draught) : (modDraught s f).epoch = s.epoch := rfl
@[simp] theorem modDraught_hearths (f : Draught → Draught) : (modDraught s f).hearths = s.hearths := rfl
@[simp] theorem modDraught_mem (f : Draught → Draught) : (modDraught s f).mem = s.mem := rfl
@[simp] theorem modDraught_ash (f : Draught → Draught) : (modDraught s f).ash = s.ash := rfl
@[simp] theorem modDraught_fabric (f : Draught → Draught) : (modDraught s f).fabric = s.fabric := rfl
@[simp] theorem modDraught_chain (f : Draught → Draught) : (modDraught s f).chain = s.chain := rfl
@[simp] theorem modDraught_draught (f : Draught → Draught) : (modDraught s f).draught = f s.draught := rfl
@[simp] theorem modDraught_counters (f : Draught → Draught) : (modDraught s f).counters = s.counters := rfl

@[simp] theorem modCounters_pending (f : Counters → Counters) : (modCounters s f).pending = s.pending := rfl
@[simp] theorem modCounters_free (f : Counters → Counters) : (modCounters s f).free = s.free := rfl
@[simp] theorem modCounters_ao (f : Counters → Counters) : (modCounters s f).ao = s.ao := rfl
@[simp] theorem modCounters_dev (f : Counters → Counters) : (modCounters s f).dev = s.dev := rfl
@[simp] theorem modCounters_sec (f : Counters → Counters) : (modCounters s f).sec = s.sec := rfl
@[simp] theorem modCounters_fpt (f : Counters → Counters) : (modCounters s f).fpt = s.fpt := rfl
@[simp] theorem modCounters_pcie (f : Counters → Counters) : (modCounters s f).pcie = s.pcie := rfl
@[simp] theorem modCounters_mbx (f : Counters → Counters) : (modCounters s f).mbx = s.mbx := rfl
@[simp] theorem modCounters_work (f : Counters → Counters) : (modCounters s f).work = s.work := rfl
@[simp] theorem modCounters_epoch (f : Counters → Counters) : (modCounters s f).epoch = s.epoch := rfl
@[simp] theorem modCounters_hearths (f : Counters → Counters) : (modCounters s f).hearths = s.hearths := rfl
@[simp] theorem modCounters_mem (f : Counters → Counters) : (modCounters s f).mem = s.mem := rfl
@[simp] theorem modCounters_ash (f : Counters → Counters) : (modCounters s f).ash = s.ash := rfl
@[simp] theorem modCounters_fabric (f : Counters → Counters) : (modCounters s f).fabric = s.fabric := rfl
@[simp] theorem modCounters_chain (f : Counters → Counters) : (modCounters s f).chain = s.chain := rfl
@[simp] theorem modCounters_draught (f : Counters → Counters) : (modCounters s f).draught = s.draught := rfl
@[simp] theorem modCounters_counters (f : Counters → Counters) : (modCounters s f).counters = f s.counters := rfl

@[simp] theorem bumpFree_free : (bumpFree s).free = s.free + 1 := rfl
@[simp] theorem bumpFree_pending : (bumpFree s).pending = s.pending := rfl
@[simp] theorem bumpFree_ao : (bumpFree s).ao = s.ao := rfl
@[simp] theorem bumpFree_dev : (bumpFree s).dev = s.dev := rfl
@[simp] theorem bumpFree_sec : (bumpFree s).sec = s.sec := rfl
@[simp] theorem bumpFree_fpt : (bumpFree s).fpt = s.fpt := rfl
@[simp] theorem bumpFree_pcie : (bumpFree s).pcie = s.pcie := rfl
@[simp] theorem bumpFree_mbx : (bumpFree s).mbx = s.mbx := rfl
@[simp] theorem bumpFree_work : (bumpFree s).work = s.work := rfl
@[simp] theorem bumpFree_epoch : (bumpFree s).epoch = s.epoch := rfl
@[simp] theorem bumpFree_hearths : (bumpFree s).hearths = s.hearths := rfl
@[simp] theorem bumpFree_mem : (bumpFree s).mem = s.mem := rfl
@[simp] theorem bumpFree_ash : (bumpFree s).ash = s.ash := rfl
@[simp] theorem bumpFree_fabric : (bumpFree s).fabric = s.fabric := rfl
@[simp] theorem bumpFree_chain : (bumpFree s).chain = s.chain := rfl
@[simp] theorem bumpFree_draught : (bumpFree s).draught = s.draught := rfl
@[simp] theorem bumpFree_counters : (bumpFree s).counters = s.counters := rfl

/-! ## Tables of the state -/

@[simp] theorem setHearth_pending (site : Nat) (x : Hearth) : (setHearth s site x).pending = s.pending := rfl
@[simp] theorem modHearth_pending (site : Nat) (f : Hearth → Hearth) : (modHearth s site f).pending = s.pending := rfl
@[simp] theorem setHearth_free (site : Nat) (x : Hearth) : (setHearth s site x).free = s.free := rfl
@[simp] theorem modHearth_free (site : Nat) (f : Hearth → Hearth) : (modHearth s site f).free = s.free := rfl
@[simp] theorem setHearth_ao (site : Nat) (x : Hearth) : (setHearth s site x).ao = s.ao := rfl
@[simp] theorem modHearth_ao (site : Nat) (f : Hearth → Hearth) : (modHearth s site f).ao = s.ao := rfl
@[simp] theorem setHearth_dev (site : Nat) (x : Hearth) : (setHearth s site x).dev = s.dev := rfl
@[simp] theorem modHearth_dev (site : Nat) (f : Hearth → Hearth) : (modHearth s site f).dev = s.dev := rfl
@[simp] theorem setHearth_sec (site : Nat) (x : Hearth) : (setHearth s site x).sec = s.sec := rfl
@[simp] theorem modHearth_sec (site : Nat) (f : Hearth → Hearth) : (modHearth s site f).sec = s.sec := rfl
@[simp] theorem setHearth_fpt (site : Nat) (x : Hearth) : (setHearth s site x).fpt = s.fpt := rfl
@[simp] theorem modHearth_fpt (site : Nat) (f : Hearth → Hearth) : (modHearth s site f).fpt = s.fpt := rfl
@[simp] theorem setHearth_pcie (site : Nat) (x : Hearth) : (setHearth s site x).pcie = s.pcie := rfl
@[simp] theorem modHearth_pcie (site : Nat) (f : Hearth → Hearth) : (modHearth s site f).pcie = s.pcie := rfl
@[simp] theorem setHearth_mbx (site : Nat) (x : Hearth) : (setHearth s site x).mbx = s.mbx := rfl
@[simp] theorem modHearth_mbx (site : Nat) (f : Hearth → Hearth) : (modHearth s site f).mbx = s.mbx := rfl
@[simp] theorem setHearth_work (site : Nat) (x : Hearth) : (setHearth s site x).work = s.work := rfl
@[simp] theorem modHearth_work (site : Nat) (f : Hearth → Hearth) : (modHearth s site f).work = s.work := rfl
@[simp] theorem setHearth_epoch (site : Nat) (x : Hearth) : (setHearth s site x).epoch = s.epoch := rfl
@[simp] theorem modHearth_epoch (site : Nat) (f : Hearth → Hearth) : (modHearth s site f).epoch = s.epoch := rfl
@[simp] theorem setHearth_mem (site : Nat) (x : Hearth) : (setHearth s site x).mem = s.mem := rfl
@[simp] theorem modHearth_mem (site : Nat) (f : Hearth → Hearth) : (modHearth s site f).mem = s.mem := rfl
@[simp] theorem setHearth_ash (site : Nat) (x : Hearth) : (setHearth s site x).ash = s.ash := rfl
@[simp] theorem modHearth_ash (site : Nat) (f : Hearth → Hearth) : (modHearth s site f).ash = s.ash := rfl
@[simp] theorem setHearth_fabric (site : Nat) (x : Hearth) : (setHearth s site x).fabric = s.fabric := rfl
@[simp] theorem modHearth_fabric (site : Nat) (f : Hearth → Hearth) : (modHearth s site f).fabric = s.fabric := rfl
@[simp] theorem setHearth_chain (site : Nat) (x : Hearth) : (setHearth s site x).chain = s.chain := rfl
@[simp] theorem modHearth_chain (site : Nat) (f : Hearth → Hearth) : (modHearth s site f).chain = s.chain := rfl
@[simp] theorem setHearth_draught (site : Nat) (x : Hearth) : (setHearth s site x).draught = s.draught := rfl
@[simp] theorem modHearth_draught (site : Nat) (f : Hearth → Hearth) : (modHearth s site f).draught = s.draught := rfl
@[simp] theorem setHearth_counters (site : Nat) (x : Hearth) : (setHearth s site x).counters = s.counters := rfl
@[simp] theorem modHearth_counters (site : Nat) (f : Hearth → Hearth) : (modHearth s site f).counters = s.counters := rfl
@[simp] theorem hearth_setHearth_self (site : Nat) (x : Hearth) : Machine.hearth (setHearth s site x) site = x := by simp [Machine.hearth, setHearth]
theorem hearth_setHearth_other (site : Nat) {y : Nat} (x : Hearth) (h : y ≠ site) : Machine.hearth (setHearth s site x) y = Machine.hearth s y := by
  simp [Machine.hearth, setHearth, lookD_putD, h]
@[simp] theorem hearth_modHearth_self (site : Nat) (f : Hearth → Hearth) : Machine.hearth (modHearth s site f) site = f (Machine.hearth s site) := by
  simp [modHearth]
theorem hearth_modHearth_other (site : Nat) {y : Nat} (f : Hearth → Hearth) (h : y ≠ site) : Machine.hearth (modHearth s site f) y = Machine.hearth s y := by
  simp [modHearth, hearth_setHearth_other, h]

@[simp] theorem setMbx_pending (fn : Nat) (x : Mbx) : (setMbx s fn x).pending = s.pending := rfl
@[simp] theorem modMbx_pending (fn : Nat) (f : Mbx → Mbx) : (modMbx s fn f).pending = s.pending := rfl
@[simp] theorem setMbx_free (fn : Nat) (x : Mbx) : (setMbx s fn x).free = s.free := rfl
@[simp] theorem modMbx_free (fn : Nat) (f : Mbx → Mbx) : (modMbx s fn f).free = s.free := rfl
@[simp] theorem setMbx_ao (fn : Nat) (x : Mbx) : (setMbx s fn x).ao = s.ao := rfl
@[simp] theorem modMbx_ao (fn : Nat) (f : Mbx → Mbx) : (modMbx s fn f).ao = s.ao := rfl
@[simp] theorem setMbx_dev (fn : Nat) (x : Mbx) : (setMbx s fn x).dev = s.dev := rfl
@[simp] theorem modMbx_dev (fn : Nat) (f : Mbx → Mbx) : (modMbx s fn f).dev = s.dev := rfl
@[simp] theorem setMbx_sec (fn : Nat) (x : Mbx) : (setMbx s fn x).sec = s.sec := rfl
@[simp] theorem modMbx_sec (fn : Nat) (f : Mbx → Mbx) : (modMbx s fn f).sec = s.sec := rfl
@[simp] theorem setMbx_fpt (fn : Nat) (x : Mbx) : (setMbx s fn x).fpt = s.fpt := rfl
@[simp] theorem modMbx_fpt (fn : Nat) (f : Mbx → Mbx) : (modMbx s fn f).fpt = s.fpt := rfl
@[simp] theorem setMbx_pcie (fn : Nat) (x : Mbx) : (setMbx s fn x).pcie = s.pcie := rfl
@[simp] theorem modMbx_pcie (fn : Nat) (f : Mbx → Mbx) : (modMbx s fn f).pcie = s.pcie := rfl
@[simp] theorem setMbx_work (fn : Nat) (x : Mbx) : (setMbx s fn x).work = s.work := rfl
@[simp] theorem modMbx_work (fn : Nat) (f : Mbx → Mbx) : (modMbx s fn f).work = s.work := rfl
@[simp] theorem setMbx_epoch (fn : Nat) (x : Mbx) : (setMbx s fn x).epoch = s.epoch := rfl
@[simp] theorem modMbx_epoch (fn : Nat) (f : Mbx → Mbx) : (modMbx s fn f).epoch = s.epoch := rfl
@[simp] theorem setMbx_hearths (fn : Nat) (x : Mbx) : (setMbx s fn x).hearths = s.hearths := rfl
@[simp] theorem modMbx_hearths (fn : Nat) (f : Mbx → Mbx) : (modMbx s fn f).hearths = s.hearths := rfl
@[simp] theorem setMbx_mem (fn : Nat) (x : Mbx) : (setMbx s fn x).mem = s.mem := rfl
@[simp] theorem modMbx_mem (fn : Nat) (f : Mbx → Mbx) : (modMbx s fn f).mem = s.mem := rfl
@[simp] theorem setMbx_ash (fn : Nat) (x : Mbx) : (setMbx s fn x).ash = s.ash := rfl
@[simp] theorem modMbx_ash (fn : Nat) (f : Mbx → Mbx) : (modMbx s fn f).ash = s.ash := rfl
@[simp] theorem setMbx_fabric (fn : Nat) (x : Mbx) : (setMbx s fn x).fabric = s.fabric := rfl
@[simp] theorem modMbx_fabric (fn : Nat) (f : Mbx → Mbx) : (modMbx s fn f).fabric = s.fabric := rfl
@[simp] theorem setMbx_chain (fn : Nat) (x : Mbx) : (setMbx s fn x).chain = s.chain := rfl
@[simp] theorem modMbx_chain (fn : Nat) (f : Mbx → Mbx) : (modMbx s fn f).chain = s.chain := rfl
@[simp] theorem setMbx_draught (fn : Nat) (x : Mbx) : (setMbx s fn x).draught = s.draught := rfl
@[simp] theorem modMbx_draught (fn : Nat) (f : Mbx → Mbx) : (modMbx s fn f).draught = s.draught := rfl
@[simp] theorem setMbx_counters (fn : Nat) (x : Mbx) : (setMbx s fn x).counters = s.counters := rfl
@[simp] theorem modMbx_counters (fn : Nat) (f : Mbx → Mbx) : (modMbx s fn f).counters = s.counters := rfl
@[simp] theorem mbx_setMbx_self (fn : Nat) (x : Mbx) : Machine.mbx (setMbx s fn x) fn = x := by simp [Machine.mbx, setMbx]
theorem mbx_setMbx_other (fn : Nat) {y : Nat} (x : Mbx) (h : y ≠ fn) : Machine.mbx (setMbx s fn x) y = Machine.mbx s y := by
  simp [Machine.mbx, setMbx, lookD_putD, h]
@[simp] theorem mbx_modMbx_self (fn : Nat) (f : Mbx → Mbx) : Machine.mbx (modMbx s fn f) fn = f (Machine.mbx s fn) := by
  simp [modMbx]
theorem mbx_modMbx_other (fn : Nat) {y : Nat} (f : Mbx → Mbx) (h : y ≠ fn) : Machine.mbx (modMbx s fn f) y = Machine.mbx s y := by
  simp [modMbx, mbx_setMbx_other, h]

@[simp] theorem setTenant_pending (t : Nat) (x : Tenant) : (setTenant s t x).pending = s.pending := rfl
@[simp] theorem modTenant_pending (t : Nat) (f : Tenant → Tenant) : (modTenant s t f).pending = s.pending := rfl
@[simp] theorem setTenant_free (t : Nat) (x : Tenant) : (setTenant s t x).free = s.free := rfl
@[simp] theorem modTenant_free (t : Nat) (f : Tenant → Tenant) : (modTenant s t f).free = s.free := rfl
@[simp] theorem setTenant_ao (t : Nat) (x : Tenant) : (setTenant s t x).ao = s.ao := rfl
@[simp] theorem modTenant_ao (t : Nat) (f : Tenant → Tenant) : (modTenant s t f).ao = s.ao := rfl
@[simp] theorem setTenant_dev (t : Nat) (x : Tenant) : (setTenant s t x).dev = s.dev := rfl
@[simp] theorem modTenant_dev (t : Nat) (f : Tenant → Tenant) : (modTenant s t f).dev = s.dev := rfl
@[simp] theorem setTenant_sec (t : Nat) (x : Tenant) : (setTenant s t x).sec = s.sec := rfl
@[simp] theorem modTenant_sec (t : Nat) (f : Tenant → Tenant) : (modTenant s t f).sec = s.sec := rfl
@[simp] theorem setTenant_fpt (t : Nat) (x : Tenant) : (setTenant s t x).fpt = s.fpt := rfl
@[simp] theorem modTenant_fpt (t : Nat) (f : Tenant → Tenant) : (modTenant s t f).fpt = s.fpt := rfl
@[simp] theorem setTenant_pcie (t : Nat) (x : Tenant) : (setTenant s t x).pcie = s.pcie := rfl
@[simp] theorem modTenant_pcie (t : Nat) (f : Tenant → Tenant) : (modTenant s t f).pcie = s.pcie := rfl
@[simp] theorem setTenant_mbx (t : Nat) (x : Tenant) : (setTenant s t x).mbx = s.mbx := rfl
@[simp] theorem modTenant_mbx (t : Nat) (f : Tenant → Tenant) : (modTenant s t f).mbx = s.mbx := rfl
@[simp] theorem setTenant_epoch (t : Nat) (x : Tenant) : (setTenant s t x).epoch = s.epoch := rfl
@[simp] theorem modTenant_epoch (t : Nat) (f : Tenant → Tenant) : (modTenant s t f).epoch = s.epoch := rfl
@[simp] theorem setTenant_hearths (t : Nat) (x : Tenant) : (setTenant s t x).hearths = s.hearths := rfl
@[simp] theorem modTenant_hearths (t : Nat) (f : Tenant → Tenant) : (modTenant s t f).hearths = s.hearths := rfl
@[simp] theorem setTenant_mem (t : Nat) (x : Tenant) : (setTenant s t x).mem = s.mem := rfl
@[simp] theorem modTenant_mem (t : Nat) (f : Tenant → Tenant) : (modTenant s t f).mem = s.mem := rfl
@[simp] theorem setTenant_ash (t : Nat) (x : Tenant) : (setTenant s t x).ash = s.ash := rfl
@[simp] theorem modTenant_ash (t : Nat) (f : Tenant → Tenant) : (modTenant s t f).ash = s.ash := rfl
@[simp] theorem setTenant_fabric (t : Nat) (x : Tenant) : (setTenant s t x).fabric = s.fabric := rfl
@[simp] theorem modTenant_fabric (t : Nat) (f : Tenant → Tenant) : (modTenant s t f).fabric = s.fabric := rfl
@[simp] theorem setTenant_chain (t : Nat) (x : Tenant) : (setTenant s t x).chain = s.chain := rfl
@[simp] theorem modTenant_chain (t : Nat) (f : Tenant → Tenant) : (modTenant s t f).chain = s.chain := rfl
@[simp] theorem setTenant_draught (t : Nat) (x : Tenant) : (setTenant s t x).draught = s.draught := rfl
@[simp] theorem modTenant_draught (t : Nat) (f : Tenant → Tenant) : (modTenant s t f).draught = s.draught := rfl
@[simp] theorem setTenant_counters (t : Nat) (x : Tenant) : (setTenant s t x).counters = s.counters := rfl
@[simp] theorem modTenant_counters (t : Nat) (f : Tenant → Tenant) : (modTenant s t f).counters = s.counters := rfl
@[simp] theorem tenant_setTenant_self (t : Nat) (x : Tenant) : Machine.tenant (setTenant s t x) t = x := by simp [Machine.tenant, setTenant]
theorem tenant_setTenant_other (t : Nat) {y : Nat} (x : Tenant) (h : y ≠ t) : Machine.tenant (setTenant s t x) y = Machine.tenant s y := by
  simp [Machine.tenant, setTenant, lookD_putD, h]
@[simp] theorem tenant_modTenant_self (t : Nat) (f : Tenant → Tenant) : Machine.tenant (modTenant s t f) t = f (Machine.tenant s t) := by
  simp [modTenant]
theorem tenant_modTenant_other (t : Nat) {y : Nat} (f : Tenant → Tenant) (h : y ≠ t) : Machine.tenant (modTenant s t f) y = Machine.tenant s y := by
  simp [modTenant, tenant_setTenant_other, h]

@[simp] theorem setPcieFn_pending (fn : Nat) (x : PcieFn) : (setPcieFn s fn x).pending = s.pending := rfl
@[simp] theorem modPcieFn_pending (fn : Nat) (f : PcieFn → PcieFn) : (modPcieFn s fn f).pending = s.pending := rfl
@[simp] theorem setPcieFn_free (fn : Nat) (x : PcieFn) : (setPcieFn s fn x).free = s.free := rfl
@[simp] theorem modPcieFn_free (fn : Nat) (f : PcieFn → PcieFn) : (modPcieFn s fn f).free = s.free := rfl
@[simp] theorem setPcieFn_ao (fn : Nat) (x : PcieFn) : (setPcieFn s fn x).ao = s.ao := rfl
@[simp] theorem modPcieFn_ao (fn : Nat) (f : PcieFn → PcieFn) : (modPcieFn s fn f).ao = s.ao := rfl
@[simp] theorem setPcieFn_dev (fn : Nat) (x : PcieFn) : (setPcieFn s fn x).dev = s.dev := rfl
@[simp] theorem modPcieFn_dev (fn : Nat) (f : PcieFn → PcieFn) : (modPcieFn s fn f).dev = s.dev := rfl
@[simp] theorem setPcieFn_sec (fn : Nat) (x : PcieFn) : (setPcieFn s fn x).sec = s.sec := rfl
@[simp] theorem modPcieFn_sec (fn : Nat) (f : PcieFn → PcieFn) : (modPcieFn s fn f).sec = s.sec := rfl
@[simp] theorem setPcieFn_fpt (fn : Nat) (x : PcieFn) : (setPcieFn s fn x).fpt = s.fpt := rfl
@[simp] theorem modPcieFn_fpt (fn : Nat) (f : PcieFn → PcieFn) : (modPcieFn s fn f).fpt = s.fpt := rfl
@[simp] theorem setPcieFn_mbx (fn : Nat) (x : PcieFn) : (setPcieFn s fn x).mbx = s.mbx := rfl
@[simp] theorem modPcieFn_mbx (fn : Nat) (f : PcieFn → PcieFn) : (modPcieFn s fn f).mbx = s.mbx := rfl
@[simp] theorem setPcieFn_work (fn : Nat) (x : PcieFn) : (setPcieFn s fn x).work = s.work := rfl
@[simp] theorem modPcieFn_work (fn : Nat) (f : PcieFn → PcieFn) : (modPcieFn s fn f).work = s.work := rfl
@[simp] theorem setPcieFn_epoch (fn : Nat) (x : PcieFn) : (setPcieFn s fn x).epoch = s.epoch := rfl
@[simp] theorem modPcieFn_epoch (fn : Nat) (f : PcieFn → PcieFn) : (modPcieFn s fn f).epoch = s.epoch := rfl
@[simp] theorem setPcieFn_hearths (fn : Nat) (x : PcieFn) : (setPcieFn s fn x).hearths = s.hearths := rfl
@[simp] theorem modPcieFn_hearths (fn : Nat) (f : PcieFn → PcieFn) : (modPcieFn s fn f).hearths = s.hearths := rfl
@[simp] theorem setPcieFn_mem (fn : Nat) (x : PcieFn) : (setPcieFn s fn x).mem = s.mem := rfl
@[simp] theorem modPcieFn_mem (fn : Nat) (f : PcieFn → PcieFn) : (modPcieFn s fn f).mem = s.mem := rfl
@[simp] theorem setPcieFn_ash (fn : Nat) (x : PcieFn) : (setPcieFn s fn x).ash = s.ash := rfl
@[simp] theorem modPcieFn_ash (fn : Nat) (f : PcieFn → PcieFn) : (modPcieFn s fn f).ash = s.ash := rfl
@[simp] theorem setPcieFn_fabric (fn : Nat) (x : PcieFn) : (setPcieFn s fn x).fabric = s.fabric := rfl
@[simp] theorem modPcieFn_fabric (fn : Nat) (f : PcieFn → PcieFn) : (modPcieFn s fn f).fabric = s.fabric := rfl
@[simp] theorem setPcieFn_chain (fn : Nat) (x : PcieFn) : (setPcieFn s fn x).chain = s.chain := rfl
@[simp] theorem modPcieFn_chain (fn : Nat) (f : PcieFn → PcieFn) : (modPcieFn s fn f).chain = s.chain := rfl
@[simp] theorem setPcieFn_draught (fn : Nat) (x : PcieFn) : (setPcieFn s fn x).draught = s.draught := rfl
@[simp] theorem modPcieFn_draught (fn : Nat) (f : PcieFn → PcieFn) : (modPcieFn s fn f).draught = s.draught := rfl
@[simp] theorem setPcieFn_counters (fn : Nat) (x : PcieFn) : (setPcieFn s fn x).counters = s.counters := rfl
@[simp] theorem modPcieFn_counters (fn : Nat) (f : PcieFn → PcieFn) : (modPcieFn s fn f).counters = s.counters := rfl
@[simp] theorem pcieFn_setPcieFn_self (fn : Nat) (x : PcieFn) : Machine.pcieFn (setPcieFn s fn x) fn = x := by simp [Machine.pcieFn, setPcieFn]
theorem pcieFn_setPcieFn_other (fn : Nat) {y : Nat} (x : PcieFn) (h : y ≠ fn) : Machine.pcieFn (setPcieFn s fn x) y = Machine.pcieFn s y := by
  simp [Machine.pcieFn, setPcieFn, lookD_putD, h]
@[simp] theorem pcieFn_modPcieFn_self (fn : Nat) (f : PcieFn → PcieFn) : Machine.pcieFn (modPcieFn s fn f) fn = f (Machine.pcieFn s fn) := by
  simp [modPcieFn]
theorem pcieFn_modPcieFn_other (fn : Nat) {y : Nat} (f : PcieFn → PcieFn) (h : y ≠ fn) : Machine.pcieFn (modPcieFn s fn f) y = Machine.pcieFn s y := by
  simp [modPcieFn, pcieFn_setPcieFn_other, h]

@[simp] theorem setAshRing_pending (fn : Nat) (x : AshRing) : (setAshRing s fn x).pending = s.pending := rfl
@[simp] theorem modAshRing_pending (fn : Nat) (f : AshRing → AshRing) : (modAshRing s fn f).pending = s.pending := rfl
@[simp] theorem setAshRing_free (fn : Nat) (x : AshRing) : (setAshRing s fn x).free = s.free := rfl
@[simp] theorem modAshRing_free (fn : Nat) (f : AshRing → AshRing) : (modAshRing s fn f).free = s.free := rfl
@[simp] theorem setAshRing_ao (fn : Nat) (x : AshRing) : (setAshRing s fn x).ao = s.ao := rfl
@[simp] theorem modAshRing_ao (fn : Nat) (f : AshRing → AshRing) : (modAshRing s fn f).ao = s.ao := rfl
@[simp] theorem setAshRing_dev (fn : Nat) (x : AshRing) : (setAshRing s fn x).dev = s.dev := rfl
@[simp] theorem modAshRing_dev (fn : Nat) (f : AshRing → AshRing) : (modAshRing s fn f).dev = s.dev := rfl
@[simp] theorem setAshRing_sec (fn : Nat) (x : AshRing) : (setAshRing s fn x).sec = s.sec := rfl
@[simp] theorem modAshRing_sec (fn : Nat) (f : AshRing → AshRing) : (modAshRing s fn f).sec = s.sec := rfl
@[simp] theorem setAshRing_fpt (fn : Nat) (x : AshRing) : (setAshRing s fn x).fpt = s.fpt := rfl
@[simp] theorem modAshRing_fpt (fn : Nat) (f : AshRing → AshRing) : (modAshRing s fn f).fpt = s.fpt := rfl
@[simp] theorem setAshRing_pcie (fn : Nat) (x : AshRing) : (setAshRing s fn x).pcie = s.pcie := rfl
@[simp] theorem modAshRing_pcie (fn : Nat) (f : AshRing → AshRing) : (modAshRing s fn f).pcie = s.pcie := rfl
@[simp] theorem setAshRing_mbx (fn : Nat) (x : AshRing) : (setAshRing s fn x).mbx = s.mbx := rfl
@[simp] theorem modAshRing_mbx (fn : Nat) (f : AshRing → AshRing) : (modAshRing s fn f).mbx = s.mbx := rfl
@[simp] theorem setAshRing_work (fn : Nat) (x : AshRing) : (setAshRing s fn x).work = s.work := rfl
@[simp] theorem modAshRing_work (fn : Nat) (f : AshRing → AshRing) : (modAshRing s fn f).work = s.work := rfl
@[simp] theorem setAshRing_epoch (fn : Nat) (x : AshRing) : (setAshRing s fn x).epoch = s.epoch := rfl
@[simp] theorem modAshRing_epoch (fn : Nat) (f : AshRing → AshRing) : (modAshRing s fn f).epoch = s.epoch := rfl
@[simp] theorem setAshRing_hearths (fn : Nat) (x : AshRing) : (setAshRing s fn x).hearths = s.hearths := rfl
@[simp] theorem modAshRing_hearths (fn : Nat) (f : AshRing → AshRing) : (modAshRing s fn f).hearths = s.hearths := rfl
@[simp] theorem setAshRing_mem (fn : Nat) (x : AshRing) : (setAshRing s fn x).mem = s.mem := rfl
@[simp] theorem modAshRing_mem (fn : Nat) (f : AshRing → AshRing) : (modAshRing s fn f).mem = s.mem := rfl
@[simp] theorem setAshRing_fabric (fn : Nat) (x : AshRing) : (setAshRing s fn x).fabric = s.fabric := rfl
@[simp] theorem modAshRing_fabric (fn : Nat) (f : AshRing → AshRing) : (modAshRing s fn f).fabric = s.fabric := rfl
@[simp] theorem setAshRing_chain (fn : Nat) (x : AshRing) : (setAshRing s fn x).chain = s.chain := rfl
@[simp] theorem modAshRing_chain (fn : Nat) (f : AshRing → AshRing) : (modAshRing s fn f).chain = s.chain := rfl
@[simp] theorem setAshRing_draught (fn : Nat) (x : AshRing) : (setAshRing s fn x).draught = s.draught := rfl
@[simp] theorem modAshRing_draught (fn : Nat) (f : AshRing → AshRing) : (modAshRing s fn f).draught = s.draught := rfl
@[simp] theorem setAshRing_counters (fn : Nat) (x : AshRing) : (setAshRing s fn x).counters = s.counters := rfl
@[simp] theorem modAshRing_counters (fn : Nat) (f : AshRing → AshRing) : (modAshRing s fn f).counters = s.counters := rfl
@[simp] theorem ashRing_setAshRing_self (fn : Nat) (x : AshRing) : Machine.ashRing (setAshRing s fn x) fn = x := by simp [Machine.ashRing, setAshRing]
theorem ashRing_setAshRing_other (fn : Nat) {y : Nat} (x : AshRing) (h : y ≠ fn) : Machine.ashRing (setAshRing s fn x) y = Machine.ashRing s y := by
  simp [Machine.ashRing, setAshRing, lookD_putD, h]
@[simp] theorem ashRing_modAshRing_self (fn : Nat) (f : AshRing → AshRing) : Machine.ashRing (modAshRing s fn f) fn = f (Machine.ashRing s fn) := by
  simp [modAshRing]
theorem ashRing_modAshRing_other (fn : Nat) {y : Nat} (f : AshRing → AshRing) (h : y ≠ fn) : Machine.ashRing (modAshRing s fn f) y = Machine.ashRing s y := by
  simp [modAshRing, ashRing_setAshRing_other, h]

@[simp] theorem setChainPort_pending (p : Nat) (x : ChainPort) : (setChainPort s p x).pending = s.pending := rfl
@[simp] theorem modChainPort_pending (p : Nat) (f : ChainPort → ChainPort) : (modChainPort s p f).pending = s.pending := rfl
@[simp] theorem setChainPort_free (p : Nat) (x : ChainPort) : (setChainPort s p x).free = s.free := rfl
@[simp] theorem modChainPort_free (p : Nat) (f : ChainPort → ChainPort) : (modChainPort s p f).free = s.free := rfl
@[simp] theorem setChainPort_ao (p : Nat) (x : ChainPort) : (setChainPort s p x).ao = s.ao := rfl
@[simp] theorem modChainPort_ao (p : Nat) (f : ChainPort → ChainPort) : (modChainPort s p f).ao = s.ao := rfl
@[simp] theorem setChainPort_dev (p : Nat) (x : ChainPort) : (setChainPort s p x).dev = s.dev := rfl
@[simp] theorem modChainPort_dev (p : Nat) (f : ChainPort → ChainPort) : (modChainPort s p f).dev = s.dev := rfl
@[simp] theorem setChainPort_sec (p : Nat) (x : ChainPort) : (setChainPort s p x).sec = s.sec := rfl
@[simp] theorem modChainPort_sec (p : Nat) (f : ChainPort → ChainPort) : (modChainPort s p f).sec = s.sec := rfl
@[simp] theorem setChainPort_fpt (p : Nat) (x : ChainPort) : (setChainPort s p x).fpt = s.fpt := rfl
@[simp] theorem modChainPort_fpt (p : Nat) (f : ChainPort → ChainPort) : (modChainPort s p f).fpt = s.fpt := rfl
@[simp] theorem setChainPort_pcie (p : Nat) (x : ChainPort) : (setChainPort s p x).pcie = s.pcie := rfl
@[simp] theorem modChainPort_pcie (p : Nat) (f : ChainPort → ChainPort) : (modChainPort s p f).pcie = s.pcie := rfl
@[simp] theorem setChainPort_mbx (p : Nat) (x : ChainPort) : (setChainPort s p x).mbx = s.mbx := rfl
@[simp] theorem modChainPort_mbx (p : Nat) (f : ChainPort → ChainPort) : (modChainPort s p f).mbx = s.mbx := rfl
@[simp] theorem setChainPort_work (p : Nat) (x : ChainPort) : (setChainPort s p x).work = s.work := rfl
@[simp] theorem modChainPort_work (p : Nat) (f : ChainPort → ChainPort) : (modChainPort s p f).work = s.work := rfl
@[simp] theorem setChainPort_epoch (p : Nat) (x : ChainPort) : (setChainPort s p x).epoch = s.epoch := rfl
@[simp] theorem modChainPort_epoch (p : Nat) (f : ChainPort → ChainPort) : (modChainPort s p f).epoch = s.epoch := rfl
@[simp] theorem setChainPort_hearths (p : Nat) (x : ChainPort) : (setChainPort s p x).hearths = s.hearths := rfl
@[simp] theorem modChainPort_hearths (p : Nat) (f : ChainPort → ChainPort) : (modChainPort s p f).hearths = s.hearths := rfl
@[simp] theorem setChainPort_mem (p : Nat) (x : ChainPort) : (setChainPort s p x).mem = s.mem := rfl
@[simp] theorem modChainPort_mem (p : Nat) (f : ChainPort → ChainPort) : (modChainPort s p f).mem = s.mem := rfl
@[simp] theorem setChainPort_ash (p : Nat) (x : ChainPort) : (setChainPort s p x).ash = s.ash := rfl
@[simp] theorem modChainPort_ash (p : Nat) (f : ChainPort → ChainPort) : (modChainPort s p f).ash = s.ash := rfl
@[simp] theorem setChainPort_fabric (p : Nat) (x : ChainPort) : (setChainPort s p x).fabric = s.fabric := rfl
@[simp] theorem modChainPort_fabric (p : Nat) (f : ChainPort → ChainPort) : (modChainPort s p f).fabric = s.fabric := rfl
@[simp] theorem setChainPort_draught (p : Nat) (x : ChainPort) : (setChainPort s p x).draught = s.draught := rfl
@[simp] theorem modChainPort_draught (p : Nat) (f : ChainPort → ChainPort) : (modChainPort s p f).draught = s.draught := rfl
@[simp] theorem setChainPort_counters (p : Nat) (x : ChainPort) : (setChainPort s p x).counters = s.counters := rfl
@[simp] theorem modChainPort_counters (p : Nat) (f : ChainPort → ChainPort) : (modChainPort s p f).counters = s.counters := rfl
@[simp] theorem chainPort_setChainPort_self (p : Nat) (x : ChainPort) : Machine.chainPort (setChainPort s p x) p = x := by simp [Machine.chainPort, setChainPort]
theorem chainPort_setChainPort_other (p : Nat) {y : Nat} (x : ChainPort) (h : y ≠ p) : Machine.chainPort (setChainPort s p x) y = Machine.chainPort s y := by
  simp [Machine.chainPort, setChainPort, lookD_putD, h]
@[simp] theorem chainPort_modChainPort_self (p : Nat) (f : ChainPort → ChainPort) : Machine.chainPort (modChainPort s p f) p = f (Machine.chainPort s p) := by
  simp [modChainPort]
theorem chainPort_modChainPort_other (p : Nat) {y : Nat} (f : ChainPort → ChainPort) (h : y ≠ p) : Machine.chainPort (modChainPort s p f) y = Machine.chainPort s y := by
  simp [modChainPort, chainPort_setChainPort_other, h]

@[simp] theorem setQueue_pending (t q : Nat) (x : Queue) : (setQueue s t q x).pending = s.pending := rfl
@[simp] theorem setQueue_free (t q : Nat) (x : Queue) : (setQueue s t q x).free = s.free := rfl
@[simp] theorem setQueue_ao (t q : Nat) (x : Queue) : (setQueue s t q x).ao = s.ao := rfl
@[simp] theorem setQueue_dev (t q : Nat) (x : Queue) : (setQueue s t q x).dev = s.dev := rfl
@[simp] theorem setQueue_sec (t q : Nat) (x : Queue) : (setQueue s t q x).sec = s.sec := rfl
@[simp] theorem setQueue_fpt (t q : Nat) (x : Queue) : (setQueue s t q x).fpt = s.fpt := rfl
@[simp] theorem setQueue_pcie (t q : Nat) (x : Queue) : (setQueue s t q x).pcie = s.pcie := rfl
@[simp] theorem setQueue_mbx (t q : Nat) (x : Queue) : (setQueue s t q x).mbx = s.mbx := rfl
@[simp] theorem setQueue_epoch (t q : Nat) (x : Queue) : (setQueue s t q x).epoch = s.epoch := rfl
@[simp] theorem setQueue_hearths (t q : Nat) (x : Queue) : (setQueue s t q x).hearths = s.hearths := rfl
@[simp] theorem setQueue_mem (t q : Nat) (x : Queue) : (setQueue s t q x).mem = s.mem := rfl
@[simp] theorem setQueue_ash (t q : Nat) (x : Queue) : (setQueue s t q x).ash = s.ash := rfl
@[simp] theorem setQueue_fabric (t q : Nat) (x : Queue) : (setQueue s t q x).fabric = s.fabric := rfl
@[simp] theorem setQueue_chain (t q : Nat) (x : Queue) : (setQueue s t q x).chain = s.chain := rfl
@[simp] theorem setQueue_draught (t q : Nat) (x : Queue) : (setQueue s t q x).draught = s.draught := rfl
@[simp] theorem setQueue_counters (t q : Nat) (x : Queue) : (setQueue s t q x).counters = s.counters := rfl

@[simp] theorem modQueue_pending (t q : Nat) (x : Queue → Queue) : (modQueue s t q x).pending = s.pending := rfl
@[simp] theorem modQueue_free (t q : Nat) (x : Queue → Queue) : (modQueue s t q x).free = s.free := rfl
@[simp] theorem modQueue_ao (t q : Nat) (x : Queue → Queue) : (modQueue s t q x).ao = s.ao := rfl
@[simp] theorem modQueue_dev (t q : Nat) (x : Queue → Queue) : (modQueue s t q x).dev = s.dev := rfl
@[simp] theorem modQueue_sec (t q : Nat) (x : Queue → Queue) : (modQueue s t q x).sec = s.sec := rfl
@[simp] theorem modQueue_fpt (t q : Nat) (x : Queue → Queue) : (modQueue s t q x).fpt = s.fpt := rfl
@[simp] theorem modQueue_pcie (t q : Nat) (x : Queue → Queue) : (modQueue s t q x).pcie = s.pcie := rfl
@[simp] theorem modQueue_mbx (t q : Nat) (x : Queue → Queue) : (modQueue s t q x).mbx = s.mbx := rfl
@[simp] theorem modQueue_epoch (t q : Nat) (x : Queue → Queue) : (modQueue s t q x).epoch = s.epoch := rfl
@[simp] theorem modQueue_hearths (t q : Nat) (x : Queue → Queue) : (modQueue s t q x).hearths = s.hearths := rfl
@[simp] theorem modQueue_mem (t q : Nat) (x : Queue → Queue) : (modQueue s t q x).mem = s.mem := rfl
@[simp] theorem modQueue_ash (t q : Nat) (x : Queue → Queue) : (modQueue s t q x).ash = s.ash := rfl
@[simp] theorem modQueue_fabric (t q : Nat) (x : Queue → Queue) : (modQueue s t q x).fabric = s.fabric := rfl
@[simp] theorem modQueue_chain (t q : Nat) (x : Queue → Queue) : (modQueue s t q x).chain = s.chain := rfl
@[simp] theorem modQueue_draught (t q : Nat) (x : Queue → Queue) : (modQueue s t q x).draught = s.draught := rfl
@[simp] theorem modQueue_counters (t q : Nat) (x : Queue → Queue) : (modQueue s t q x).counters = s.counters := rfl

@[simp] theorem setRegion_pending (t r : Nat) (x : Region) : (setRegion s t r x).pending = s.pending := rfl
@[simp] theorem setRegion_free (t r : Nat) (x : Region) : (setRegion s t r x).free = s.free := rfl
@[simp] theorem setRegion_ao (t r : Nat) (x : Region) : (setRegion s t r x).ao = s.ao := rfl
@[simp] theorem setRegion_dev (t r : Nat) (x : Region) : (setRegion s t r x).dev = s.dev := rfl
@[simp] theorem setRegion_sec (t r : Nat) (x : Region) : (setRegion s t r x).sec = s.sec := rfl
@[simp] theorem setRegion_fpt (t r : Nat) (x : Region) : (setRegion s t r x).fpt = s.fpt := rfl
@[simp] theorem setRegion_pcie (t r : Nat) (x : Region) : (setRegion s t r x).pcie = s.pcie := rfl
@[simp] theorem setRegion_mbx (t r : Nat) (x : Region) : (setRegion s t r x).mbx = s.mbx := rfl
@[simp] theorem setRegion_epoch (t r : Nat) (x : Region) : (setRegion s t r x).epoch = s.epoch := rfl
@[simp] theorem setRegion_hearths (t r : Nat) (x : Region) : (setRegion s t r x).hearths = s.hearths := rfl
@[simp] theorem setRegion_mem (t r : Nat) (x : Region) : (setRegion s t r x).mem = s.mem := rfl
@[simp] theorem setRegion_ash (t r : Nat) (x : Region) : (setRegion s t r x).ash = s.ash := rfl
@[simp] theorem setRegion_fabric (t r : Nat) (x : Region) : (setRegion s t r x).fabric = s.fabric := rfl
@[simp] theorem setRegion_chain (t r : Nat) (x : Region) : (setRegion s t r x).chain = s.chain := rfl
@[simp] theorem setRegion_draught (t r : Nat) (x : Region) : (setRegion s t r x).draught = s.draught := rfl
@[simp] theorem setRegion_counters (t r : Nat) (x : Region) : (setRegion s t r x).counters = s.counters := rfl

@[simp] theorem modDisp_pending (id : Nat) (f : Disp → Disp) : (modDisp s id f).pending = s.pending := rfl
@[simp] theorem modDisp_free (id : Nat) (f : Disp → Disp) : (modDisp s id f).free = s.free := rfl
@[simp] theorem modDisp_ao (id : Nat) (f : Disp → Disp) : (modDisp s id f).ao = s.ao := rfl
@[simp] theorem modDisp_dev (id : Nat) (f : Disp → Disp) : (modDisp s id f).dev = s.dev := rfl
@[simp] theorem modDisp_sec (id : Nat) (f : Disp → Disp) : (modDisp s id f).sec = s.sec := rfl
@[simp] theorem modDisp_fpt (id : Nat) (f : Disp → Disp) : (modDisp s id f).fpt = s.fpt := rfl
@[simp] theorem modDisp_pcie (id : Nat) (f : Disp → Disp) : (modDisp s id f).pcie = s.pcie := rfl
@[simp] theorem modDisp_mbx (id : Nat) (f : Disp → Disp) : (modDisp s id f).mbx = s.mbx := rfl
@[simp] theorem modDisp_epoch (id : Nat) (f : Disp → Disp) : (modDisp s id f).epoch = s.epoch := rfl
@[simp] theorem modDisp_hearths (id : Nat) (f : Disp → Disp) : (modDisp s id f).hearths = s.hearths := rfl
@[simp] theorem modDisp_mem (id : Nat) (f : Disp → Disp) : (modDisp s id f).mem = s.mem := rfl
@[simp] theorem modDisp_ash (id : Nat) (f : Disp → Disp) : (modDisp s id f).ash = s.ash := rfl
@[simp] theorem modDisp_fabric (id : Nat) (f : Disp → Disp) : (modDisp s id f).fabric = s.fabric := rfl
@[simp] theorem modDisp_chain (id : Nat) (f : Disp → Disp) : (modDisp s id f).chain = s.chain := rfl
@[simp] theorem modDisp_draught (id : Nat) (f : Disp → Disp) : (modDisp s id f).draught = s.draught := rfl
@[simp] theorem modDisp_counters (id : Nat) (f : Disp → Disp) : (modDisp s id f).counters = s.counters := rfl

@[simp] theorem endDisp_pending (id : Nat) (rs : List Report) : (endDisp s id rs).pending = s.pending := rfl
@[simp] theorem endDisp_free (id : Nat) (rs : List Report) : (endDisp s id rs).free = s.free := rfl
@[simp] theorem endDisp_ao (id : Nat) (rs : List Report) : (endDisp s id rs).ao = s.ao := rfl
@[simp] theorem endDisp_dev (id : Nat) (rs : List Report) : (endDisp s id rs).dev = s.dev := rfl
@[simp] theorem endDisp_sec (id : Nat) (rs : List Report) : (endDisp s id rs).sec = s.sec := rfl
@[simp] theorem endDisp_fpt (id : Nat) (rs : List Report) : (endDisp s id rs).fpt = s.fpt := rfl
@[simp] theorem endDisp_pcie (id : Nat) (rs : List Report) : (endDisp s id rs).pcie = s.pcie := rfl
@[simp] theorem endDisp_mbx (id : Nat) (rs : List Report) : (endDisp s id rs).mbx = s.mbx := rfl
@[simp] theorem endDisp_epoch (id : Nat) (rs : List Report) : (endDisp s id rs).epoch = s.epoch := rfl
@[simp] theorem endDisp_hearths (id : Nat) (rs : List Report) : (endDisp s id rs).hearths = s.hearths := rfl
@[simp] theorem endDisp_mem (id : Nat) (rs : List Report) : (endDisp s id rs).mem = s.mem := rfl
@[simp] theorem endDisp_ash (id : Nat) (rs : List Report) : (endDisp s id rs).ash = s.ash := rfl
@[simp] theorem endDisp_fabric (id : Nat) (rs : List Report) : (endDisp s id rs).fabric = s.fabric := rfl
@[simp] theorem endDisp_chain (id : Nat) (rs : List Report) : (endDisp s id rs).chain = s.chain := rfl
@[simp] theorem endDisp_draught (id : Nat) (rs : List Report) : (endDisp s id rs).draught = s.draught := rfl
@[simp] theorem endDisp_counters (id : Nat) (rs : List Report) : (endDisp s id rs).counters = s.counters := rfl

@[simp] theorem endUnit_pending (id unit : Nat) (r : Report) : (endUnit s id unit r).pending = s.pending := rfl
@[simp] theorem endUnit_free (id unit : Nat) (r : Report) : (endUnit s id unit r).free = s.free := rfl
@[simp] theorem endUnit_ao (id unit : Nat) (r : Report) : (endUnit s id unit r).ao = s.ao := rfl
@[simp] theorem endUnit_dev (id unit : Nat) (r : Report) : (endUnit s id unit r).dev = s.dev := rfl
@[simp] theorem endUnit_sec (id unit : Nat) (r : Report) : (endUnit s id unit r).sec = s.sec := rfl
@[simp] theorem endUnit_fpt (id unit : Nat) (r : Report) : (endUnit s id unit r).fpt = s.fpt := rfl
@[simp] theorem endUnit_pcie (id unit : Nat) (r : Report) : (endUnit s id unit r).pcie = s.pcie := rfl
@[simp] theorem endUnit_mbx (id unit : Nat) (r : Report) : (endUnit s id unit r).mbx = s.mbx := rfl
@[simp] theorem endUnit_epoch (id unit : Nat) (r : Report) : (endUnit s id unit r).epoch = s.epoch := rfl
@[simp] theorem endUnit_hearths (id unit : Nat) (r : Report) : (endUnit s id unit r).hearths = s.hearths := rfl
@[simp] theorem endUnit_mem (id unit : Nat) (r : Report) : (endUnit s id unit r).mem = s.mem := rfl
@[simp] theorem endUnit_ash (id unit : Nat) (r : Report) : (endUnit s id unit r).ash = s.ash := rfl
@[simp] theorem endUnit_fabric (id unit : Nat) (r : Report) : (endUnit s id unit r).fabric = s.fabric := rfl
@[simp] theorem endUnit_chain (id unit : Nat) (r : Report) : (endUnit s id unit r).chain = s.chain := rfl
@[simp] theorem endUnit_draught (id unit : Nat) (r : Report) : (endUnit s id unit r).draught = s.draught := rfl
@[simp] theorem endUnit_counters (id unit : Nat) (r : Report) : (endUnit s id unit r).counters = s.counters := rfl

@[simp] theorem countAt_pending (event site n : Nat) : (countAt s event site n).pending = s.pending := rfl
@[simp] theorem countAt_free (event site n : Nat) : (countAt s event site n).free = s.free := rfl
@[simp] theorem countAt_ao (event site n : Nat) : (countAt s event site n).ao = s.ao := rfl
@[simp] theorem countAt_dev (event site n : Nat) : (countAt s event site n).dev = s.dev := rfl
@[simp] theorem countAt_sec (event site n : Nat) : (countAt s event site n).sec = s.sec := rfl
@[simp] theorem countAt_fpt (event site n : Nat) : (countAt s event site n).fpt = s.fpt := rfl
@[simp] theorem countAt_pcie (event site n : Nat) : (countAt s event site n).pcie = s.pcie := rfl
@[simp] theorem countAt_mbx (event site n : Nat) : (countAt s event site n).mbx = s.mbx := rfl
@[simp] theorem countAt_work (event site n : Nat) : (countAt s event site n).work = s.work := rfl
@[simp] theorem countAt_epoch (event site n : Nat) : (countAt s event site n).epoch = s.epoch := rfl
@[simp] theorem countAt_hearths (event site n : Nat) : (countAt s event site n).hearths = s.hearths := rfl
@[simp] theorem countAt_mem (event site n : Nat) : (countAt s event site n).mem = s.mem := rfl
@[simp] theorem countAt_ash (event site n : Nat) : (countAt s event site n).ash = s.ash := rfl
@[simp] theorem countAt_fabric (event site n : Nat) : (countAt s event site n).fabric = s.fabric := rfl
@[simp] theorem countAt_chain (event site n : Nat) : (countAt s event site n).chain = s.chain := rfl
@[simp] theorem countAt_draught (event site n : Nat) : (countAt s event site n).draught = s.draught := rfl

@[simp] theorem countU_pending (event n : Nat) : (countU s event n).pending = s.pending := rfl
@[simp] theorem countU_free (event n : Nat) : (countU s event n).free = s.free := rfl
@[simp] theorem countU_ao (event n : Nat) : (countU s event n).ao = s.ao := rfl
@[simp] theorem countU_dev (event n : Nat) : (countU s event n).dev = s.dev := rfl
@[simp] theorem countU_sec (event n : Nat) : (countU s event n).sec = s.sec := rfl
@[simp] theorem countU_fpt (event n : Nat) : (countU s event n).fpt = s.fpt := rfl
@[simp] theorem countU_pcie (event n : Nat) : (countU s event n).pcie = s.pcie := rfl
@[simp] theorem countU_mbx (event n : Nat) : (countU s event n).mbx = s.mbx := rfl
@[simp] theorem countU_work (event n : Nat) : (countU s event n).work = s.work := rfl
@[simp] theorem countU_epoch (event n : Nat) : (countU s event n).epoch = s.epoch := rfl
@[simp] theorem countU_hearths (event n : Nat) : (countU s event n).hearths = s.hearths := rfl
@[simp] theorem countU_mem (event n : Nat) : (countU s event n).mem = s.mem := rfl
@[simp] theorem countU_ash (event n : Nat) : (countU s event n).ash = s.ash := rfl
@[simp] theorem countU_fabric (event n : Nat) : (countU s event n).fabric = s.fabric := rfl
@[simp] theorem countU_chain (event n : Nat) : (countU s event n).chain = s.chain := rfl
@[simp] theorem countU_draught (event n : Nat) : (countU s event n).draught = s.draught := rfl

@[simp] theorem countTAt_pending (event site tag n : Nat) : (countTAt s event site tag n).pending = s.pending := rfl
@[simp] theorem countTAt_free (event site tag n : Nat) : (countTAt s event site tag n).free = s.free := rfl
@[simp] theorem countTAt_ao (event site tag n : Nat) : (countTAt s event site tag n).ao = s.ao := rfl
@[simp] theorem countTAt_dev (event site tag n : Nat) : (countTAt s event site tag n).dev = s.dev := rfl
@[simp] theorem countTAt_sec (event site tag n : Nat) : (countTAt s event site tag n).sec = s.sec := rfl
@[simp] theorem countTAt_fpt (event site tag n : Nat) : (countTAt s event site tag n).fpt = s.fpt := rfl
@[simp] theorem countTAt_pcie (event site tag n : Nat) : (countTAt s event site tag n).pcie = s.pcie := rfl
@[simp] theorem countTAt_mbx (event site tag n : Nat) : (countTAt s event site tag n).mbx = s.mbx := rfl
@[simp] theorem countTAt_work (event site tag n : Nat) : (countTAt s event site tag n).work = s.work := rfl
@[simp] theorem countTAt_epoch (event site tag n : Nat) : (countTAt s event site tag n).epoch = s.epoch := rfl
@[simp] theorem countTAt_hearths (event site tag n : Nat) : (countTAt s event site tag n).hearths = s.hearths := rfl
@[simp] theorem countTAt_mem (event site tag n : Nat) : (countTAt s event site tag n).mem = s.mem := rfl
@[simp] theorem countTAt_ash (event site tag n : Nat) : (countTAt s event site tag n).ash = s.ash := rfl
@[simp] theorem countTAt_fabric (event site tag n : Nat) : (countTAt s event site tag n).fabric = s.fabric := rfl
@[simp] theorem countTAt_chain (event site tag n : Nat) : (countTAt s event site tag n).chain = s.chain := rfl
@[simp] theorem countTAt_draught (event site tag n : Nat) : (countTAt s event site tag n).draught = s.draught := rfl

@[simp] theorem countT_pending (event tag n : Nat) : (countT s event tag n).pending = s.pending := rfl
@[simp] theorem countT_free (event tag n : Nat) : (countT s event tag n).free = s.free := rfl
@[simp] theorem countT_ao (event tag n : Nat) : (countT s event tag n).ao = s.ao := rfl
@[simp] theorem countT_dev (event tag n : Nat) : (countT s event tag n).dev = s.dev := rfl
@[simp] theorem countT_sec (event tag n : Nat) : (countT s event tag n).sec = s.sec := rfl
@[simp] theorem countT_fpt (event tag n : Nat) : (countT s event tag n).fpt = s.fpt := rfl
@[simp] theorem countT_pcie (event tag n : Nat) : (countT s event tag n).pcie = s.pcie := rfl
@[simp] theorem countT_mbx (event tag n : Nat) : (countT s event tag n).mbx = s.mbx := rfl
@[simp] theorem countT_work (event tag n : Nat) : (countT s event tag n).work = s.work := rfl
@[simp] theorem countT_epoch (event tag n : Nat) : (countT s event tag n).epoch = s.epoch := rfl
@[simp] theorem countT_hearths (event tag n : Nat) : (countT s event tag n).hearths = s.hearths := rfl
@[simp] theorem countT_mem (event tag n : Nat) : (countT s event tag n).mem = s.mem := rfl
@[simp] theorem countT_ash (event tag n : Nat) : (countT s event tag n).ash = s.ash := rfl
@[simp] theorem countT_fabric (event tag n : Nat) : (countT s event tag n).fabric = s.fabric := rfl
@[simp] theorem countT_chain (event tag n : Nat) : (countT s event tag n).chain = s.chain := rfl
@[simp] theorem countT_draught (event tag n : Nat) : (countT s event tag n).draught = s.draught := rfl

end Sys2Proof.Machine
end

