-- ==== Sys2Proof/Laws/Ops.lean ====
section
/-! SUPPORT. What each shared operation can change: one law for each, which names the groups of State that it may replace. -/

namespace Sys2Proof.Machine

variable {s t u : State}

/-! ## Relations between the state before and the state after -/

/-- Only the ash collector, the counters and the count of free values may differ: what a read does. -/
def Reads (s t : State) : Prop := t = { s with ash := t.ash, counters := t.counters, free := t.free }

/-- As `Reads`, and memory may differ too: what a write does. -/
def Writes (s t : State) : Prop := t = { s with mem := t.mem, ash := t.ash, counters := t.counters, free := t.free }

theorem Reads.pending (h : Reads s t) : t.pending = s.pending := by rw [show t = _ from h]
theorem Reads.ao (h : Reads s t) : t.ao = s.ao := by rw [show t = _ from h]
theorem Reads.dev (h : Reads s t) : t.dev = s.dev := by rw [show t = _ from h]
theorem Reads.sec (h : Reads s t) : t.sec = s.sec := by rw [show t = _ from h]
theorem Reads.fpt (h : Reads s t) : t.fpt = s.fpt := by rw [show t = _ from h]
theorem Reads.pcie (h : Reads s t) : t.pcie = s.pcie := by rw [show t = _ from h]
theorem Reads.mbx (h : Reads s t) : t.mbx = s.mbx := by rw [show t = _ from h]
theorem Reads.work (h : Reads s t) : t.work = s.work := by rw [show t = _ from h]
theorem Reads.epoch (h : Reads s t) : t.epoch = s.epoch := by rw [show t = _ from h]
theorem Reads.hearths (h : Reads s t) : t.hearths = s.hearths := by rw [show t = _ from h]
theorem Reads.mem (h : Reads s t) : t.mem = s.mem := by rw [show t = _ from h]
theorem Reads.fabric (h : Reads s t) : t.fabric = s.fabric := by rw [show t = _ from h]
theorem Reads.chain (h : Reads s t) : t.chain = s.chain := by rw [show t = _ from h]
theorem Reads.draught (h : Reads s t) : t.draught = s.draught := by rw [show t = _ from h]

@[refl] theorem Reads.refl (s : State) : Reads s s := rfl

theorem Reads.trans (h : Reads s t) (k : Reads t u) : Reads s u := by
  unfold Reads at *
  rw [k, h]

theorem Writes.pending (h : Writes s t) : t.pending = s.pending := by rw [show t = _ from h]
theorem Writes.ao (h : Writes s t) : t.ao = s.ao := by rw [show t = _ from h]
theorem Writes.dev (h : Writes s t) : t.dev = s.dev := by rw [show t = _ from h]
theorem Writes.sec (h : Writes s t) : t.sec = s.sec := by rw [show t = _ from h]
theorem Writes.fpt (h : Writes s t) : t.fpt = s.fpt := by rw [show t = _ from h]
theorem Writes.pcie (h : Writes s t) : t.pcie = s.pcie := by rw [show t = _ from h]
theorem Writes.mbx (h : Writes s t) : t.mbx = s.mbx := by rw [show t = _ from h]
theorem Writes.work (h : Writes s t) : t.work = s.work := by rw [show t = _ from h]
theorem Writes.epoch (h : Writes s t) : t.epoch = s.epoch := by rw [show t = _ from h]
theorem Writes.hearths (h : Writes s t) : t.hearths = s.hearths := by rw [show t = _ from h]
theorem Writes.fabric (h : Writes s t) : t.fabric = s.fabric := by rw [show t = _ from h]
theorem Writes.chain (h : Writes s t) : t.chain = s.chain := by rw [show t = _ from h]
theorem Writes.draught (h : Writes s t) : t.draught = s.draught := by rw [show t = _ from h]

@[refl] theorem Writes.refl (s : State) : Writes s s := rfl

theorem Writes.trans (h : Writes s t) (k : Writes t u) : Writes s u := by
  unfold Writes at *
  rw [k, h]

theorem Reads.ite {c : Prop} [Decidable c] (h : Reads s t) (k : Reads s u) : Reads s (if c then t else u) := by
  split
  · exact h
  · exact k

theorem Writes.ite {c : Prop} [Decidable c] (h : Writes s t) (k : Writes s u) : Writes s (if c then t else u) := by
  split
  · exact h
  · exact k

theorem Reads.writes (h : Reads s t) : Writes s t := by
  unfold Reads Writes at *
  rw [h]

/-! ## Counters and free values -/

theorem reads_countAt (s : State) (e x n : Nat) : Reads s (countAt s e x n) := rfl
theorem reads_countU (s : State) (e n : Nat) : Reads s (countU s e n) := rfl
theorem reads_countTAt (s : State) (e x g n : Nat) : Reads s (countTAt s e x g n) := rfl
theorem reads_countT (s : State) (e g n : Nat) : Reads s (countT s e g n) := rfl
theorem reads_bumpFree (s : State) : Reads s (bumpFree s) := rfl
theorem reads_modAsh (s : State) (f : Ash → Ash) : Reads s (modAsh s f) := rfl
theorem reads_modCounters (s : State) (f : Counters → Counters) : Reads s (modCounters s f) := rfl
theorem writes_modMem (s : State) (f : Mem → Mem) : Writes s (modMem s f) := rfl

/-- A raw counter after a count. -/
theorem countAt_raw (s : State) (e x n k : Nat) : lookD 0 (countAt s e x n).counters.raw k =
    if k = 256 * e + x then (lookD 0 s.counters.raw k + n) % 2 ^ 48 else lookD 0 s.counters.raw k := by
  show lookD 0 (putD 0 s.counters.raw (256 * e + x) _) k = _
  rw [lookD_putD]
  split
  · rename_i h
    rw [h]
  · rfl

/-- A count changes no tenant share. -/
@[simp] theorem countAt_shares (s : State) (e x n : Nat) : (countAt s e x n).counters.shares = s.counters.shares := rfl

/-! ## MSI-X and ash events -/

/-- An event for a vector changes the PCIe group and the counters, nothing else. -/
theorem raiseVector_only (s : State) (fn v : Nat) :
    raiseVector s fn v = { s with pcie := (raiseVector s fn v).pcie, counters := (raiseVector s fn v).counters } := by
  unfold raiseVector
  split
  · rfl
  · split <;> rfl

/-- An ash event is appended to those that fly to the collector; nothing else changes. -/
theorem raiseAsh_only (s : State) (ty src tag r : Nat) (d : List Byte) (ds al : List Nat) :
    raiseAsh s ty src tag r d ds al =
      { s with ash := { s.ash with flying := s.ash.flying ++ [⟨ty, src, tag, r, d, now s, now s, 0, ds, al, false⟩] } } := rfl

theorem reads_raiseAsh (s : State) (ty src tag r : Nat) (d : List Byte) (ds al : List Nat) :
    Reads s (raiseAsh s ty src tag r d ds al) := by
  unfold Reads
  rw [raiseAsh_only]

/-- The events that fly after one was raised. -/
theorem raiseAsh_flying (s : State) (ty src tag r : Nat) (d : List Byte) (ds al : List Nat) :
    (raiseAsh s ty src tag r d ds al).ash.flying = s.ash.flying ++ [⟨ty, src, tag, r, d, now s, now s, 0, ds, al, false⟩] := rfl

/-! ## Reading and writing words -/

theorem reads_raiseBucket (s : State) (p : Place) (o : Option Nat) (a req : Nat) (y : Check) :
    Reads s (raiseBucket s p o a req y) := by
  unfold raiseBucket
  refine Reads.trans (t := if p.hbm then countT s (0x902 + 8 * (p.unit / 32)) (o.getD 31) 1
    else countAt s (0x210 + p.bank / 16) p.unit 1) (.ite rfl rfl) ?_
  exact .ite (reads_modAsh _ _) ((reads_modAsh _ _).trans (reads_raiseAsh _ _ _ _ _ _ _ _))

theorem reads_noteRead (s : State) (p : Place) (req tag ra : Nat) : Reads s (noteRead s p req tag ra) := by
  unfold noteRead
  refine Reads.trans (t := if p.hbm then countT s (0x900 + 8 * (p.unit / 32)) tag 1
    else countAt s (0x200 + p.bank / 16) p.unit 1) (.ite rfl rfl) ?_
  generalize (if p.hbm then countT s (0x900 + 8 * (p.unit / 32)) tag 1 else countAt s (0x200 + p.bank / 16) p.unit 1) = s₁
  have bad (s : State) (k : Nat) (y : Check) : Reads s (raiseAsh (if p.hbm then countT s (0x903 + 8 * (p.unit / 32)) tag 1
      else if k = 2 then countAt (countAt s 0x220 p.unit 1) 0x221 p.unit 1
        else if k = 3 then countAt (countAt s 0x220 p.unit 1) 0x222 p.unit 1 else countAt s 0x220 p.unit 1)
      2 (placeSource p) tag k (memDetail p ra (Req.code req) y) (adminAnd (if tag = 0 then none else some tag)) []) :=
    Reads.trans (.ite (reads_countT _ _ _ _) (.ite ((reads_countAt _ _ _ _).trans (reads_countAt _ _ _ _))
      (.ite ((reads_countAt _ _ _ _).trans (reads_countAt _ _ _ _)) (reads_countAt _ _ _ _)))) (reads_raiseAsh _ _ _ _ _ _ _ _)
  dsimp only
  split
  · exact bad _ _ _
  have h : Reads s₁ (if (stored? s₁ p).isNone then bumpFree s₁ else s₁) := .ite (reads_bumpFree _) (.refl _)
  refine h.trans ?_
  generalize (if (stored? s₁ p).isNone then bumpFree s₁ else s₁) = s₂
  cases placeClass s₁ p (storedOr s₁ p) with
  | clean => rfl
  | corrected fl => exact .ite (reads_countAt _ _ _ _) (reads_raiseBucket _ _ _ _ _ _)
  | poisoned => exact bad _ _ _
  | address => exact bad _ _ _
  | ue => exact bad _ _ _

theorem reads_choose {α : Type} (x : α) (l : List α) (s : State) : Reads s (choose x l s).2 := by
  induction l generalizing x s with
  | nil => rfl
  | cons y l ih => exact Reads.trans (reads_bumpFree s) (ih _ _)

/-- A read that meets another word leaves memory as it is. -/
theorem reads_readAs (s : State) (p : Place) (w : StoredWord) (req tag ra : Nat) : Reads s (readAs s p w req tag ra).2 := by
  have h : Reads (storeWord s p w) (noteRead (storeWord s p w) p req tag ra) := reads_noteRead _ _ _ _ _
  unfold Reads at *
  show { noteRead (storeWord s p w) p req tag ra with mem := s.mem } = _
  rw [h]
  rfl

theorem reads_readPlace (s : State) (p : Place) (req tag ra : Nat) : Reads s (readPlace s p req tag ra).2 := by
  unfold readPlace
  split
  · exact reads_noteRead _ _ _ _ _
  · have h := reads_choose none ((oldWords s p req).map some) s
    split
    all_goals
      rename_i e
      rw [e] at h
    · exact h.trans (reads_noteRead _ _ _ _ _)
    · exact h.trans (reads_readAs _ _ _ _ _ _)

/-- With no word listed as it was before a write, a read gives the word as it stands. -/
theorem readPlace_calm {s : State} (p : Place) (req tag ra : Nat) (h : s.mem.races = []) :
    readPlace s p req tag ra = (peek s p, noteRead s p req tag ra) := by
  unfold readPlace oldWords
  rw [h]
  rfl

theorem writes_writePlace (s : State) (p : Place) (d : Line) : Writes s (writePlace s p d) := by
  unfold writePlace
  refine .ite rfl ?_
  exact Writes.trans (t := if p.hbm then countT s (0x901 + 8 * (p.unit / 32)) 31 1 else countAt s (0x208 + p.bank / 16) p.unit 1)
    (.ite rfl rfl) (writes_modMem _ _)

theorem writes_logWrite (s : State) (p : Place) (req : Req) : Writes s (logWrite s p req) := by
  unfold logWrite
  split
  · exact .ite rfl (writes_modMem _ _)
  · rfl

theorem writes_contest (s : State) (p : Place) (req : Req) : Writes s (contest s p req) := by
  unfold contest
  exact .ite rfl rfl

theorem writes_writeWord (s : State) (p : Place) (d : Line) (req : Req) : Writes s (writeWord s p d req) :=
  ((writes_logWrite _ _ _).trans (writes_writePlace _ _ _)).trans (writes_contest _ _ _)

theorem writes_writePart (s : State) (p : Place) (off : Nat) (bs : List Byte) (req tag ra : Nat) :
    Writes s (writePart s p off bs req tag ra).2 := by
  unfold writePart
  split
  · exact .ite (reads_noteRead _ _ _ _ _).writes (writes_writeWord _ _ _ _)
  · split
    · refine Writes.trans ?_ (writes_writeWord _ _ _ _)
      exact .ite (reads_noteRead _ _ _ _ _).writes ((reads_noteRead _ _ _ _ _).trans (reads_countAt _ _ _ _)).writes
    · exact (reads_noteRead _ _ _ _ _).writes

/-! ## Spans -/

theorem reads_readLines (t rn : Nat) (r : Region) (req n : Nat) (s : State) (o : Nat) :
    Reads s (readLines t rn r req n s o).2 := by
  induction n generalizing s o with
  | zero => rfl
  | succ n ih =>
    simp only [readLines]
    split
    · rfl
    · rename_i p _
      have h := reads_readPlace s p req t (2 ^ 48 * rn + o)
      split
      · rename_i e
        rwa [e] at h
      · rename_i e
        rw [e] at h
        split
        · rename_i e'
          exact h.trans ((congrArg (Reads _) (congrArg Prod.snd e')).mp (ih _ _))
        · exact h.trans (ih _ _)

/-- A span read changes only the ash collector, the counters and the count of free values. -/
theorem reads_readSpan (s : State) (t a len req : Nat) : Reads s (readSpan s t a len req).2 := by
  unfold readSpan
  split
  · rfl
  · rename_i r _
    dsimp only
    split
    · have h := reads_readLines t (regionOf a) r req ((offsetOf a % 32 + len + 31) / 32) s (offsetOf a / 32 * 32)
      split
      · rename_i e
        rwa [e] at h
      · exact h
    · rfl

theorem writes_writeChunks (t rn : Nat) (r : Region) (req n : Nat) (s : State) (o : Nat) (bs : List Byte) (e : Option Nat) :
    Writes s (writeChunks t rn r req n s o bs e).2 := by
  induction n generalizing s o bs e with
  | zero => rfl
  | succ n ih =>
    simp only [writeChunks]
    split
    · rfl
    · split
      · rfl
      · rename_i p _
        have h := writes_writePart s p (o % 32) (bs.take (min (32 - o % 32) bs.length)) req t (2 ^ 48 * rn + o)
        split
        · rename_i e'
          rw [e'] at h
          exact h.trans (ih _ _ _ _)
        · rename_i e'
          rw [e'] at h
          exact h.trans (ih _ _ _ _)

/-- A span write changes memory beside what a read changes. -/
theorem writes_writeSpan (s : State) (t a : Nat) (bs : List Byte) (req : Nat) : Writes s (writeSpan s t a bs req).2 := by
  unfold writeSpan
  split
  · rfl
  · rename_i r _
    split
    · have h := writes_writeChunks t (regionOf a) r req (bs.length + 1) s (offsetOf a) bs none
      split
      · rename_i e
        rwa [e] at h
      · rename_i e
        rwa [e] at h
    · rfl

theorem writes_fillWords (t rn : Nat) (r : Region) (pat : Line) (n : Nat) (s : State) (o : Nat) :
    Writes s (fillWords t rn r pat n s o).2 := by
  induction n generalizing s o with
  | zero => rfl
  | succ n ih =>
    simp only [fillWords]
    split
    · rfl
    · split
      · exact (reads_noteRead _ _ _ _ _).writes.trans (ih _ _)
      · exact (writes_writeWord _ _ _ _).trans (ih _ _)

/-! ## Staging, host memory, rings -/

theorem reads_mixStaging (base : Nat) (bs : List Byte) (l : List Race) (s : State) : Reads s (mixStaging base bs l s).2 := by
  induction l generalizing bs s with
  | nil => rfl
  | cons e l ih => exact Reads.trans (reads_bumpFree s) (ih _ _)

theorem reads_seeStaging (s : State) (site a n req : Nat) : Reads s (seeStaging s site a n req).2 := by
  have h : Reads s (if (hearth s site).staging.unlisted.isNone then bumpFree s else s) := .ite (reads_bumpFree _) (.refl _)
  unfold seeStaging
  dsimp only
  split
  · exact h
  · exact h.trans (reads_mixStaging _ _ _ _)

theorem reads_stRead (s : State) (site a n req : Nat) : Reads s (stRead s site a n req).2 := by
  unfold stRead
  dsimp only
  have c : Reads s (if (unitsIn (hearth s site).stagingSoft a n).length = 0 then countAt s 0x009 site ((n + 31) / 32)
      else countAt (countAt s 0x009 site ((n + 31) / 32)) 0x00B site (unitsIn (hearth s site).stagingSoft a n).length) :=
    .ite (reads_countAt _ _ _ _) ((reads_countAt _ _ _ _).trans (reads_countAt _ _ _ _))
  split
  · exact c.trans (reads_seeStaging _ _ _ _ _)
  · exact c.trans ((reads_countAt _ _ _ _).trans (reads_raiseAsh _ _ _ _ _ _ _ _))

/-- A staging write changes the hearth of its site and the counters. -/
theorem stWrite_only (s : State) (site a : Nat) (bs : List Byte) (r : Req) :
    stWrite s site a bs r = { s with hearths := (stWrite s site a bs r).hearths, counters := (stWrite s site a bs r).counters } := rfl

/-- The other hearths stand as they were. -/
theorem stWrite_other (s : State) {site x : Nat} (a : Nat) (bs : List Byte) (r : Req) (h : x ≠ site) :
    hearth (stWrite s site a bs r) x = hearth s x :=
  lookD_putD_other _ _ _ h

theorem reads_hostRead (s : State) (tag a n : Nat) : Reads s (hostRead s tag a n).2 := by
  unfold hostRead
  split <;> rfl

/-- A host write changes host memory and the counters. -/
theorem hostWrite_only (s : State) (tag a : Nat) (bs : List Byte) : hostWrite s tag a bs =
    { s with mem := { s.mem with host := s.mem.host.write a bs }, counters := (hostWrite s tag a bs).counters } := rfl

theorem writes_hostWrite (s : State) (tag a : Nat) (bs : List Byte) : Writes s (hostWrite s tag a bs) := rfl

theorem reads_ringRead (s : State) (t : Nat) (hbm : Bool) (base : Word) (off n req : Nat) :
    Reads s (ringRead s t hbm base off n req).2 := by
  unfold ringRead
  split
  · exact reads_readSpan _ _ _ _ _
  · exact reads_hostRead _ _ _ _

theorem writes_ringWrite (s : State) (t : Nat) (hbm : Bool) (base : Word) (off : Nat) (bs : List Byte) :
    Writes s (ringWrite s t hbm base off bs).2 := by
  unfold ringWrite
  split
  · exact writes_writeSpan _ _ _ _ _
  · rfl

theorem writes_ringPost (s : State) (t : Nat) (hbm : Bool) (base : Word) (off : Nat) (bs : List Byte) :
    Writes s (ringPost s t hbm base off bs).2 := by
  unfold ringPost
  split <;> split <;> first | exact writes_ringWrite _ _ _ _ _ _ | rfl

/-! ## Dispatches and sites -/

/-- A change of one dispatch changes the work group only. -/
theorem modDisp_only (s : State) (id : Nat) (f : Disp → Disp) : modDisp s id f = { s with work := (modDisp s id f).work } := rfl
theorem endDisp_only (s : State) (id : Nat) (rs : List Report) : endDisp s id rs = { s with work := (endDisp s id rs).work } := rfl
theorem endUnit_only (s : State) (id unit : Nat) (r : Report) :
    endUnit s id unit r = { s with work := (endUnit s id unit r).work } := rfl

/-- Dispatches keep their numbers and their order when one of them changes, if the change keeps its number. -/
theorem modDisp_ids (s : State) (id : Nat) (f : Disp → Disp) (h : ∀ d, (f d).id = d.id) :
    (modDisp s id f).work.disps.map (·.id) = s.work.disps.map (·.id) := by
  show (s.work.disps.map fun d => if d.id = id then f d else d).map (·.id) = _
  rw [List.map_map]
  refine List.map_congr_left fun d _ => ?_
  show (if d.id = id then f d else d).id = d.id
  split
  · exact h d
  · rfl

/-- The one report of a list with a single one is that one. -/
theorem worstReport_single (r : Report) (h : r.status.rank < 12) : worstReport [r] = r := by
  have hw : Report.worse { site := 0xFFFF, status := .done, detail := 0 } r = r := by
    unfold Report.worse
    exact if_pos (.inl h)
  obtain ⟨a, st, d⟩ := r
  unfold worstReport
  simp only [List.foldl_cons, List.foldl_nil, hw]
  split
  · simp
  · rfl

end Sys2Proof.Machine
end

