-- ==== Sys2Proof/Laws/Memory.lean ====
section
/-! SUPPORT. Laws of memory words: the code of a word just written, what a word holds after a write to it or to another, and
that every memory operation keeps the canonical form of the memories. -/

namespace Sys2Proof.Machine

variable {s : State}

/-! ## The word code -/

/-- A word with the check bits of a correct write has syndrome 0. -/
@[simp] theorem syndrome_encode (d : Line) (a : Nat) : syndrome (encode d a) a = 0 := by
  unfold syndrome encode
  exact BitVec.xor_self

/-- A poisoned word has the all-ones syndrome. -/
@[simp] theorem syndrome_poisonWord (w : StoredWord) (a : Nat) : syndrome (poisonWord w a) a = 0xFFFF#16 := by
  unfold syndrome poisonWord
  dsimp only
  rw [BitVec.xor_comm (enc w.data a), BitVec.xor_assoc, BitVec.xor_self, BitVec.xor_zero]

@[simp] theorem classify_zero (die : Bool) (e : Option Nat) : classify die e 0 = .clean := by
  unfold classify
  exact if_pos rfl

@[simp] theorem classify_ones (die : Bool) (e : Option Nat) : classify die e 0xFFFF#16 = .poisoned := by
  unfold classify
  rw [if_neg (by decide), if_pos rfl]

/-- What encryption stores, decryption gives back. -/
@[simp] theorem Place.unseal_seal (p : Place) (d : Line) : p.unseal (p.seal d) = d := by
  unfold Place.unseal Place.seal
  split
  · exact Equiv.symm_apply_apply _ _
  · rfl

/-! ## Reading after writing -/

/-- Whether a place is out of service depends on the Floor Plan, the flue links and the keys alone. -/
theorem placeOut_congr {t : State} (p : Place) (hf : t.fpt = s.fpt) (hb : t.fabric = s.fabric) (hk : t.sec = s.sec) :
    placeOut t p = placeOut s p := by
  unfold placeOut channelLive bankLive siteLive siteRec hbmMask fenced flueDown
  rw [hf, hb, hk]

theorem Reads.placeOut {t : State} (h : Reads s t) (p : Place) : Machine.placeOut t p = Machine.placeOut s p :=
  placeOut_congr p h.fpt h.fabric h.sec

theorem Writes.placeOut {t : State} (h : Writes s t) (p : Place) : Machine.placeOut t p = Machine.placeOut s p :=
  placeOut_congr p h.fpt h.fabric h.sec

theorem Reads.stored? {t : State} (h : Reads s t) (p : Place) : Machine.stored? t p = Machine.stored? s p := by
  unfold Machine.stored?
  rw [h.mem]

/-- The arrays after a word was put into one. -/
theorem storeWord_mem (p : Place) (w : StoredWord) : (storeWord s p w).mem =
    if p.hbm then { s.mem with hbm := put s.mem.hbm p.index w } else { s.mem with slice := put s.mem.slice p.index w } := rfl

/-- The arrays after a write to a place in service. -/
theorem writePlace_mem (p : Place) (d : Line) (h : placeOut s p = false) : (writePlace s p d).mem =
    if p.hbm then { s.mem with hbm := put s.mem.hbm p.index (encode (p.seal d) p.cover) }
    else { s.mem with slice := put s.mem.slice p.index (encode (p.seal d) p.cover) } := by
  unfold writePlace
  rw [h]
  show (storeWord _ p _).mem = _
  rw [storeWord_mem]
  cases p.hbm <;> rfl

/-- A write to a place out of service changes nothing. -/
theorem writePlace_out (p : Place) (d : Line) (h : placeOut s p = true) : writePlace s p d = s := by
  unfold writePlace
  rw [h]
  rfl

/-- The word written holds the sealed data and its check bits. -/
theorem stored?_writePlace_self (p : Place) (d : Line) (h : placeOut s p = false) :
    stored? (writePlace s p d) p = some (encode (p.seal d) p.cover) := by
  unfold stored?
  rw [writePlace_mem p d h]
  cases p.hbm <;> exact look_put_self _ _ _

/-- Every other word stands as it was. -/
theorem stored?_writePlace_other (p q : Place) (d : Line) (h : q.hbm ≠ p.hbm ∨ q.index ≠ p.index) :
    stored? (writePlace s p d) q = stored? s q := by
  cases o : placeOut s p with
  | true => rw [writePlace_out p d o]
  | false =>
    unfold stored?
    rw [writePlace_mem p d o]
    cases hp : p.hbm <;> cases hq : q.hbm <;> simp_all [look_put_other]

/-! ## The canonical form -/

theorem reset_mem_wf : State.reset.mem.wf := by decide

theorem Mem.wf_slice {m : Mem} (h : m.wf) {x : SMap StoredWord} (hx : sorted x) : ({ m with slice := x } : Mem).wf := ⟨hx, h.2⟩
theorem Mem.wf_hbm {m : Mem} (h : m.wf) {x : SMap StoredWord} (hx : sorted x) : ({ m with hbm := x } : Mem).wf := ⟨h.1, hx, h.2.2⟩
theorem Mem.wf_host {m : Mem} (h : m.wf) {x : Ram} (hx : x.wf) : ({ m with host := x } : Mem).wf := ⟨h.1, h.2.1, hx⟩

/-- One word replaced in the array that a place names. -/
theorem Mem.wf_put {m : Mem} (h : m.wf) (p : Place) (w : StoredWord) :
    (if p.hbm then { m with hbm := put m.hbm p.index w } else { m with slice := put m.slice p.index w } : Mem).wf := by
  split
  · exact Mem.wf_hbm h (sorted_put _ _ h.2.1)
  · exact Mem.wf_slice h (sorted_put _ _ h.1)

theorem Reads.wf {t : State} (h : Reads s t) (w : s.mem.wf) : t.mem.wf := by rwa [h.mem]

theorem writePlace_wf (p : Place) (d : Line) (w : s.mem.wf) : (writePlace s p d).mem.wf := by
  cases h : placeOut s p with
  | true => rwa [writePlace_out p d h]
  | false =>
    rw [writePlace_mem p d h]
    exact Mem.wf_put w p _

theorem storeWord_wf (p : Place) (x : StoredWord) (w : s.mem.wf) : (storeWord s p x).mem.wf := Mem.wf_put w p x

theorem logWrite_wf (p : Place) (req : Req) (w : s.mem.wf) : (logWrite s p req).mem.wf := by
  unfold logWrite
  split
  · split
    · exact w
    · exact w
  · exact w

theorem contest_wf (p : Place) (req : Req) (w : s.mem.wf) : (contest s p req).mem.wf := by
  have h (b : Bool) (x : StoredWord) (f : Mem → Mem) (k : ∀ m : Mem, m.wf → (f m).wf) :
      (if b then s else modMem (bumpFree (storeWord s p x)) f).mem.wf := by
    split
    · exact w
    · exact k _ (storeWord_wf p x w)
  exact h _ _ _ fun _ k => k

theorem writeWord_wf (p : Place) (d : Line) (req : Req) (w : s.mem.wf) : (writeWord s p d req).mem.wf :=
  contest_wf _ _ (writePlace_wf _ _ (logWrite_wf _ _ w))

theorem writePart_wf (p : Place) (off : Nat) (bs : List Byte) (req tag ra : Nat) (w : s.mem.wf) :
    (writePart s p off bs req tag ra).2.mem.wf := by
  have n := (reads_noteRead s p req tag ra).wf w
  unfold writePart
  split
  · dsimp only
    split
    · exact n
    · exact writeWord_wf _ _ _ w
  · split
    · apply writeWord_wf
      split
      · exact n
      · exact n
    · exact n

theorem writeChunks_wf (t rn : Nat) (r : Region) (req n o : Nat) (bs : List Byte) (e : Option Nat) (w : s.mem.wf) :
    (writeChunks t rn r req n s o bs e).2.mem.wf := by
  induction n generalizing s o bs e with
  | zero => exact w
  | succ n ih =>
    simp only [writeChunks]
    split
    · exact w
    · split
      · exact w
      · rename_i p _
        have h := writePart_wf p (o % 32) (bs.take (min (32 - o % 32) bs.length)) req t (2 ^ 48 * rn + o) w
        split
        all_goals
          rename_i e'
          rw [e'] at h
          exact ih _ _ _ h

theorem writeSpan_wf (t a : Nat) (bs : List Byte) (req : Nat) (w : s.mem.wf) : (writeSpan s t a bs req).2.mem.wf := by
  unfold writeSpan
  split
  · exact w
  · rename_i r _
    split
    · have h := writeChunks_wf t (regionOf a) r req (bs.length + 1) (offsetOf a) bs none w
      split
      all_goals
        rename_i e
        rwa [e] at h
    · exact w

theorem fillWords_wf (t rn : Nat) (r : Region) (pat : Line) (n o : Nat) (w : s.mem.wf) :
    (fillWords t rn r pat n s o).2.mem.wf := by
  induction n generalizing s o with
  | zero => exact w
  | succ n ih =>
    simp only [fillWords]
    split
    · exact w
    · split
      · exact ih _ ((reads_noteRead _ _ _ _ _).wf w)
      · exact ih _ (writeWord_wf _ _ _ w)

theorem fillSpan_wf (t rn o len : Nat) (pat : Line) (w : s.mem.wf) : (fillSpan s t rn o len pat).2.mem.wf := by
  unfold fillSpan
  split
  · exact w
  · exact fillWords_wf _ _ _ _ _ _ w

theorem hostWrite_wf (tag a : Nat) (bs : List Byte) (w : s.mem.wf) : (hostWrite s tag a bs).mem.wf :=
  Mem.wf_host w (Ram.wf_write a bs w.2.2)

theorem ringWrite_wf (t : Nat) (hbm : Bool) (base : Word) (off : Nat) (bs : List Byte) (w : s.mem.wf) :
    (ringWrite s t hbm base off bs).2.mem.wf := by
  unfold ringWrite
  split
  · exact writeSpan_wf _ _ _ _ w
  · exact hostWrite_wf _ _ _ w

theorem ringPost_wf (t : Nat) (hbm : Bool) (base : Word) (off : Nat) (bs : List Byte) (w : s.mem.wf) :
    (ringPost s t hbm base off bs).2.mem.wf := by
  unfold ringPost
  split <;> split <;> first | exact ringWrite_wf _ _ _ _ _ w | exact w

/-! ## Sweep, repair and sanitise keep it -/

theorem poisonPlace_wf (p : Place) (h : Option Home) (w : s.mem.wf) : (poisonPlace s p h).mem.wf := by
  unfold poisonPlace
  split
  · exact w
  · refine (reads_raiseAsh _ _ _ _ _ _ _ _).wf ?_
    exact Mem.wf_put w p _

/-- Memories that keep their arrays and host memory keep the form. -/
theorem Mem.wf_congr {m n : Mem} (w : m.wf) (h : n.slice = m.slice) (k : n.hbm = m.hbm) (l : n.host = m.host) : n.wf := by
  unfold Mem.wf
  rwa [h, k, l]

theorem keeps_ite {α : Type} {P : α → Prop} {c : Prop} [Decidable c] {a b : α} (h : P a) (k : P b) : P (if c then a else b) := by
  split
  · exact h
  · exact k

theorem feedTracker_wf (site bank sub u d : Nat) (v : Bool) (addr : Nat) (y : Check) (w : s.mem.wf) :
    (feedTracker s site bank sub u d v addr y).mem.wf := by
  unfold feedTracker
  dsimp only
  split
  · split <;> exact w
  · split <;> exact w

theorem countSweep_wf (p : Place) (e : Nat) (w : s.mem.wf) : (countSweep s p e).mem.wf := by
  unfold countSweep
  split <;> exact w

theorem sweepCorrected_wf (p : Place) (h : Option Home) (x : StoredWord) (fl : List Nat) (w : s.mem.wf) :
    (sweepCorrected s p h x fl).mem.wf := by
  have k := (reads_raiseBucket s p (homeTenant s h p.hbm p.unit) (homeAddr h) 0xFF (syndrome x p.cover)).wf w
  unfold sweepCorrected
  dsimp only
  generalize raiseBucket s p (homeTenant s h p.hbm p.unit) (homeAddr h) 0xFF (syndrome x p.cover) = s₁ at k ⊢
  have c : (countSweep (modMem s₁ fun m =>
      if p.hbm then { m with hbm := put m.hbm p.index (encode (flipData x.data fl) p.cover) }
      else { m with slice := put m.slice p.index (encode (flipData x.data fl) p.cover) }) p 0x226).mem.wf :=
    countSweep_wf _ _ (Mem.wf_put k p _)
  generalize countSweep (modMem s₁ _) p 0x226 = s₂ at c ⊢
  generalize (fl.filter fun y => y < 256 && some y != erasureOf s p) = l
  split
  · exact keeps_ite (P := fun s : State => s.mem.wf) c (feedTracker_wf _ _ _ _ _ _ _ _ c)
  · exact c

theorem sweepWord_wf (hbm : Bool) (unit addr : Nat) (w : s.mem.wf) : (sweepWord s hbm unit addr).mem.wf := by
  unfold sweepWord
  dsimp only
  split
  · exact w
  · have c := countSweep_wf (homePlace (homeOf s hbm unit addr) hbm unit addr) 0x225 w
    split
    · exact c
    · split
      · exact c
      · exact c
      · split
        · exact c
        · exact sweepCorrected_wf _ _ _ _ c
      all_goals exact countSweep_wf _ _ (poisonPlace_wf _ _ c)

theorem lineRecord_wf (ty : Nat) (f : LineFault) (a b : Bool) (al : List Nat) (w : s.mem.wf) :
    (lineRecord s ty f a b al).mem.wf := by
  unfold lineRecord
  exact (reads_raiseAsh _ _ _ _ _ _ _ _).wf w

theorem store_wf (k : Nat) (x : StoredWord) (w : s.mem.wf) :
    (modMem s fun m => { m with slice := put m.slice k x }).mem.wf := Mem.wf_slice w (sorted_put _ _ w.1)

/-- The row's word is as it was, or one word of the slice array is replaced; the bucket aside nothing else changes. -/
theorem repairRow_wf (f : LineFault) (row : Nat) (w : s.mem.wf) : (repairRow s f row).1.mem.wf := by
  unfold repairRow
  dsimp only
  split
  · exact w
  · split
    · refine store_wf _ _ (keeps_ite (P := fun s : State => s.mem.wf) ((reads_raiseBucket _ _ _ _ _ _).wf w) w)
    all_goals exact w

/-- What every step of a fold keeps, the fold keeps. -/
theorem foldl_keeps {α β : Type} (P : α → Prop) (f : α → β → α) (h : ∀ a b, P a → P (f a b)) (l : List β) (a : α) (k : P a) :
    P (l.foldl f a) := by
  induction l generalizing a with
  | nil => exact k
  | cons b l ih => exact ih _ (h a b k)

/-- A unit that leaves service leaves the words as they are. -/
theorem fenceUnit_wf (u : FieldUnit) (w : s.mem.wf) : (fenceUnit s u).mem.wf := by
  unfold fenceUnit
  exact w

theorem repairOne_wf (f : LineFault) (w : s.mem.wf) : (repairOne s f).mem.wf := by
  unfold repairOne
  dsimp only
  split
  · exact fenceUnit_wf _ (lineRecord_wf 5 f false true [] w)
  · refine lineRecord_wf 5 f false false [] (foldl_keeps (fun s : State => s.mem.wf) _ (fun _ _ k => poisonPlace_wf _ _ k) _ _ ?_)
    have k := foldl_keeps (fun r : State × List (Place × Option Home) => r.1.mem.wf)
      (fun r i =>
        let x := repairRow r.1 f (512 * f.subarray + i)
        (x.1, match x.2 with | some p => r.2 ++ [p] | none => r.2))
      (fun r i k => repairRow_wf _ _ k) (List.range 512)
      (modMem s fun m => { m with repairs := m.repairs.filter (· != f) }, []) w
    generalize List.range 512 = l at k ⊢
    exact k

theorem repairNext_wf (f : LineFault) (w : s.mem.wf) : (repairNext s f).mem.wf := by
  unfold repairNext
  split
  · exact repairOne_wf _ w
  · exact w

theorem repairSite_wf (site limit : Nat) (w : s.mem.wf) : (repairSite s site limit).mem.wf := by
  unfold repairSite
  exact foldl_keeps (fun s : State => s.mem.wf) _
    (fun _ _ k => foldl_keeps (fun s : State => s.mem.wf) _ (fun _ _ k => repairNext_wf _ k) _ _ k) _ _ w

theorem zeroSite_wf (site : Nat) (w : s.mem.wf) : (zeroSite s site).mem.wf := by
  unfold zeroSite
  split
  · exact w
  · have k := repairSite_wf site s.mem.repairs.length w
    dsimp only
    generalize repairSite s site s.mem.repairs.length = s₁ at k ⊢
    exact Mem.wf_slice k (sorted_filter _ k.1)

theorem forgetWords_wf (r : Region) (w : s.mem.wf) : (forgetWords s r).mem.wf := by
  show Mem.wf (if r.hbm then _ else _)
  split
  · exact Mem.wf_hbm w (sorted_filter _ w.2.1)
  · exact Mem.wf_slice w (sorted_filter _ w.1)

end Sys2Proof.Machine
end

