-- ==== Sys2Proof/Tests/Slice0.lean ====
section
/-! SUPPORT. Ill-formed commands that the checks refuse, and for every obligation a state that meets its hypotheses, with what its command
does there. The kernel evaluates each (decide +kernel). -/

namespace Sys2Proof.Tests

set_option Elab.async false

open Sys2Proof.Machine

/-! ## Well-formedness: an ill-formed command for each check, and the greatest operands that pass -/

theorem test_wf_function : (Instr.sysHello 17 0).wellFormed = false ∧ (Instr.sysHello 16 0).wellFormed = true := by decide
theorem test_wf_strap : (Instr.vauxUp 8).wellFormed = false ∧ (Instr.vauxUp 7).wellFormed = true := by decide
theorem test_wf_sensor : (Instr.sensorSample [⟨6408, 0⟩]).wellFormed = false ∧ (Instr.sensorSample [⟨6407, 0⟩]).wellFormed = true := by decide
theorem test_wf_numVfs : (Instr.vfDisable 17 true).wellFormed = false ∧ (Instr.vfDisable 16 true).wellFormed = true := by decide
theorem test_wf_queue : (Instr.copy 0 0).wellFormed = false ∧ (Instr.copy 17 0).wellFormed = false ∧ (Instr.copy 1 64).wellFormed = false ∧
    (Instr.copy 16 63).wellFormed = true := by decide
theorem test_wf_signal : (Instr.dblSignalWrite 1 256 0).wellFormed = false ∧ (Instr.dblSignalWrite 1 255 0).wellFormed = true := by decide
theorem test_wf_site : (Instr.nop 200).wellFormed = false ∧ (Instr.nop 199).wellFormed = true := by decide
theorem test_wf_channel : (Instr.dmaTransferStart 0 8).wellFormed = false ∧ (Instr.dmaTransferStart 199 7).wellFormed = true := by decide
theorem test_wf_ember : (Instr.emberAdd 0 32).wellFormed = false ∧ (Instr.emberAdd 199 31).wellFormed = true := by decide
theorem test_wf_layer : (Instr.layerThrottle 0 8).wellFormed = false ∧ (Instr.layerThrottle 199 7).wellFormed = true := by decide
theorem test_wf_row : (Instr.rowRefresh 0 128 0).wellFormed = false ∧ (Instr.rowRefresh 0 0 6240).wellFormed = false ∧
    (Instr.rowRefresh 199 127 6239).wellFormed = true := by decide
theorem test_wf_lane : (Instr.environmentStart 0 16).wellFormed = false ∧ (Instr.environmentStart 199 15).wellFormed = true := by decide
theorem test_wf_port : (Instr.initProbe 4).wellFormed = false ∧ (Instr.initProbe 3).wellFormed = true := by decide
theorem test_wf_link : (Instr.ctrlSend 3 false).wellFormed = false ∧ (Instr.ctrlSend 2 false).wellFormed = true := by decide
theorem test_wf_group : (Instr.groupSuspect 2 false 24).wellFormed = false ∧ (Instr.groupSuspect 0 false 32).wellFormed = false ∧
    (Instr.groupSuspect 2 false 23).wellFormed = true ∧ (Instr.groupSuspect 1 true 31).wellFormed = true := by decide
theorem test_wf_sweepUnit : (Instr.sweepVisit (.channel 256)).wellFormed = false ∧ (Instr.sweepVisit (.bank 0 128)).wellFormed = false ∧
    (Instr.sweepVisit (.channel 255)).wellFormed = true := by decide
theorem test_wf_repair : (Instr.spareColumnRepair 200 0).wellFormed = false ∧ (Instr.spareColumnRepair 199 127).wellFormed = true := by decide
theorem test_wf_bucket : (Instr.bucketLeak (.layer 0 8)).wellFormed = false ∧ (Instr.bucketLeak (.channel 256)).wellFormed = false ∧
    (Instr.bucketLeak (.layer 199 7)).wellFormed = true := by decide
theorem test_wf_island : (Instr.droop 2842).wellFormed = false ∧ (Instr.droop 2841).wellFormed = true := by decide
theorem test_wf_logicOver : (Instr.logicOver 200 0).wellFormed = false ∧ (Instr.logicOver 0 2842).wellFormed = false := by decide +kernel
theorem test_wf_stack : (Instr.hbmHot 8 0).wellFormed = false ∧ (Instr.hbmHot 7 0).wellFormed = true := by decide +kernel
theorem test_wf_nodePort : (Instr.outputPortGrant 201 0).wellFormed = false ∧ (Instr.outputPortGrant 0 7).wellFormed = false ∧
    (Instr.outputPortGrant 200 6).wellFormed = true := by decide
theorem test_wf_fieldUnit : (FieldUnit.quadrant 0 4).ok = false ∧ (FieldUnit.hearth 200).ok = false ∧ (FieldUnit.hbmChannel 256).ok = false ∧
    (FieldUnit.linkSpare 0 0 3).ok = false ∧ (FieldUnit.linkSpare 0 0 0).ok = false ∧ (FieldUnit.linkNarrow 2 24).ok = false ∧
    (FieldUnit.linkSpare 2 23 2).ok = true ∧ (Instr.unitFenced (.lane 0 16)).wellFormed = false := by decide

/-! ## States the tests start from -/

def img : Image := { level := 2, major := 4, minor := 2, patch := 0, keySlot := 1, revoke := 0, measurement := 0 }

/-- A function that masters the bus and has its first five vectors open. -/
def openFn : PcieFn := { PcieFn.reset with busMaster := true, msixEnable := true, unmasked := [0, 1, 2, 3, 4] }

/-- 64 KiB in bank 0 of site 0. -/
def sliceRegion : Region :=
  { hbm := false, die := false, bankLocal := false, mask := 1, share := 65536, size := 65536,
    extents := [{ unit := 0, banks := [0], base := 0, count := 32 }], init := [], generation := 1, key := 0 }

/-- 2 MiB of pseudo-channel 0. -/
def hbmRegion : Region :=
  { hbm := true, die := false, bankLocal := false, mask := 1, share := 2097152, size := 2097152,
    extents := [{ unit := 0, banks := [], base := 0, count := 65536 }], init := [], generation := 1, key := 0 }

/-- A ring pair of 16 descriptors and 16 records in host memory, with one descriptor posted. -/
def ring : Queue :=
  { Queue.reset with state := .active, sqEntries := 16, cqEntries := 16, sqBase := 0x1000, cqBase := 0x2000, sqTail := 1 }

/-- Tenant 1: slice region 1, HBM region 2, queue 0. -/
def tenant1 : Tenant := { Tenant.reset with alive := true, queues := [(0, ring)], regions := [(1, sliceRegion), (2, hbmRegion)] }

/-- READY with its link up, sixteen virtual functions and tenant 1, which holds sites 0 and 1. -/
def up : State :=
  { State.reset with
    ao := { Ao.reset with vauxOk := true, devtime := 10 ^ 13, pwrEn := true, pwrGood := true, coolOk := true },
    dev := { Dev.reset with state := .ready, step := 13, image := some img },
    sec := { Sec.reset with tested := true, drbgSeeded := true },
    fpt := { Fpt.reset with table := some .manufacture, published := true },
    pcie := { Pcie.reset with perst := false, linkUp := true, vfEnable := true, numVfs := 16, fns := [(0, openFn), (1, openFn)] },
    work := { Work.reset with tenants := [(1, tenant1)], owner := [(0, 1), (1, 1)] } }

/-- A test of the state a command leaves. -/
def gives (c : Instr) (s : State) (p : State → Bool) : Bool := match exec c s with | .next t => p t | _ => false

/-- READY, with another always-on domain. -/
def withAo (f : Ao → Ao) : State := { up with ao := f up.ao }

/-! ## The step -/

theorem witness_Step_front : ({ State.reset with pending := [.drivePwrEn, .vauxLoss] }).pending = .drivePwrEn :: [.vauxLoss] := rfl
theorem witness_Step_idle : up.pending = [] ∧ step up = .next { up with ao := { up.ao with devtime := up.ao.devtime + 1 } } := ⟨rfl, rfl⟩
theorem test_withFetchWord : up.withFetchWord 16 0 = up := by decide +kernel

/-! ## Power, pins and sensors -/

/-- VAUX is up and the main rails are off. -/
def vaux : State := { State.reset with ao := { Ao.reset with vauxOk := true, devtime := 10 ^ 13, seeking := true } }

/-- The main rails are good and the part is still in OFF. -/
def railed : State := { vaux with ao := { vaux.ao with seeking := false, pwrEn := true, pwrEnRoseAt := 10 ^ 13 - 65000000 } }

theorem witness_PowerUp_vauxUp : (7 < 8 ∧ State.reset.ao.vauxOk = false) ∧
    gives (.vauxUp 7) State.reset (fun t => t.ao.vauxOk && t.ao.addrStrap == 7 && t.ao.boardCap == 2200) = true := by decide +kernel
/-- R61: PWR_EN rises after three valid reads with COOL_OK high; two are not enough. -/
theorem witness_PowerUp_drive :
    (vaux.ao.vauxOk = true ∧ vaux.ao.seeking = true ∧ vaux.ao.tripLatched = false ∧ vaux.ao.seekAt + 50000000 ≤ vaux.ao.devtime ∧ ¬ (3 ≤ vaux.ao.goodTrayReads ∧ vaux.ao.coolOk = true)) ∧
    let s := { vaux with ao := { vaux.ao with goodTrayReads := 3, coolOk := true } }
    (s.ao.vauxOk = true ∧ s.ao.seeking = true ∧ 3 ≤ s.ao.goodTrayReads ∧ s.ao.coolOk = true) ∧
      gives .drivePwrEn s (fun t => t.ao.pwrEn) = true ∧ gives .drivePwrEn vaux (fun t => !t.ao.pwrEn && t.ao.retrying) = true := by
  decide +kernel
/-- R61: t0 + 50 ms is the latest: with the conditions met at t0 + 40 ms PWR_EN rises, without them nothing is done yet. A latched
trip keeps it low (R66). -/
theorem witness_PowerUp_early :
    let s := { vaux with ao := { vaux.ao with seekAt := 10 ^ 13 - 40000000 } }
    (s.ao.vauxOk = true ∧ s.ao.seeking = true ∧ s.ao.devtime < s.ao.seekAt + 50000000) ∧
      gives .drivePwrEn s (fun t => t == s) = true ∧
      gives .drivePwrEn { s with ao := { s.ao with goodTrayReads := 3, coolOk := true } } (fun t => t.ao.pwrEn) = true ∧
      gives .drivePwrEn { s with ao := { s.ao with goodTrayReads := 3, coolOk := true, tripLatched := true } } (fun t => !t.ao.pwrEn) = true := by
  decide +kernel
theorem witness_PowerUp_timeout :
    let s := { railed with ao := { railed.ao with pwrEnRoseAt := 10 ^ 13 - 65000000 } }
    (s.ao.vauxOk = true ∧ s.ao.pwrEn = true ∧ s.ao.pwrGood = false ∧ s.ao.pwrEnRoseAt + 65000000 ≤ s.ao.devtime) ∧
      gives .pwrGoodTimeout s (fun t => !t.ao.pwrEn && t.ao.retrying) = true := by decide +kernel
theorem witness_PowerUp_rerun :
    let s := { vaux with ao := { vaux.ao with seeking := false, pwrEnFellAt := some (10 ^ 13 - 1000000000) } }
    (s.ao.vauxOk = true ∧ s.dev.state = .off ∧ s.ao.pwrEn = false ∧ s.ao.pkgResetN = true ∧ s.ao.tripLatched = false ∧
      s.ao.seeking = false ∧ 10 ^ 13 - 1000000000 + 1000000000 ≤ s.ao.devtime) ∧
      gives .powerUpRerun s (fun t => t.ao.seeking) = true := by decide +kernel
theorem witness_PowerUp_rise : (railed.ao.vauxOk = true ∧ railed.dev.state = .off ∧ railed.ao.pkgResetN = true ∧ railed.ao.pwrEn = true ∧
    railed.ao.tripLatched = false ∧ railed.ao.devtime ≤ railed.ao.pwrEnRoseAt + 65000000) ∧
    gives (.pwrGoodRise false) railed (fun t => t.ao.pwrGood && t.dev.bootAt == 10 ^ 13) = true := by decide +kernel
/-- R62: PWR_GOOD 65 ms and 1 ns after PWR_EN is a power failure: the main rails go off and step 2 is taken again. -/
theorem witness_PowerUp_late : let s := { railed with ao := { railed.ao with pwrEnRoseAt := 10 ^ 13 - 65000001 } }
    (s.ao.vauxOk = true ∧ s.ao.pwrEn = true ∧ s.ao.pwrGood = false ∧ s.ao.pwrEnRoseAt + 65000000 < s.ao.devtime) ∧
      gives (.pwrGoodRise true) s (fun t => t.dev.state == .off && !t.ao.pwrEn && t.ao.retrying) = true := by decide +kernel
theorem witness_PowerUp_release :
    let s := { railed with ao := { railed.ao with pwrGood := true, pkgResetN := false } }
    s.ao.vauxOk = true ∧ s.dev.state = .off ∧ s.ao.pkgResetN = false ∧ s.ao.pwrEn = true ∧ s.ao.pwrGood = true ∧ s.ao.tripLatched = false := by
  decide
/-- R65: a self-test that fails, or no image, leaves FAILED with CAUSE NO_FIRMWARE. -/
theorem test_noFirmware : gives (.pwrGoodRise false) railed (fun t => t.dev.state == .failed && t.dev.cause == 1) = true := by decide +kernel

/-- Two hot samples of one DRAM sensor. -/
def hot : State := withAo fun a => { a with sensors := [(200, 128 * 109)], sensorsBefore := [(200, 128 * 109)] }

theorem witness_Off_pwrGoodFall : (up.ao.vauxOk = true ∧ up.ao.pwrEn = true) ∧
    gives .pwrGoodFall up (fun t => t.dev.state == .off && !t.ao.pwrEn && t.work.tenants.isEmpty && t.ao.pwrEnFellAt == some (10 ^ 13)) = true := by
  decide +kernel
theorem witness_Off_trip :
    let s := withAo fun a => { a with lowFlowReads := 200 }
    (s.ao.vauxOk = true ∧ s.ao.tripLatched = false ∧ tripCauses s ≠ 0) ∧
      gives .hardwareTrip s (fun t => t.ao.tripLatched && t.ao.tripCause == 4 && t.dev.state == .off) = true := by decide +kernel
theorem witness_Off_vauxLoss : up.ao.vauxOk = true ∧ gives .vauxLoss up (fun t => t.dev.state == .off && t.ao.devtime == 0) = true := by
  decide +kernel
theorem witness_Off_pkgReset : (up.ao.vauxOk = true ∧ 1000000 ≤ 1000000 ∧ tripCauses up = 0) ∧
    (tripCauses (withAo fun a => { a with lowFlowReads := 200 }) ≠ 0 ∧ 999 < 1000) ∧
    gives (.pkgResetAssert 1000000 true) up (fun t => t.dev.state == .off && !t.ao.pkgResetN && t.ao.pwrEn) = true ∧
      gives (.pkgResetAssert 999 true) up (fun t => t == up) = true := by decide +kernel

theorem witness_Cooling_coolOk : (up.ao.coolOk ≠ false ∧ live up = true) ∧ (withAo fun a => { a with coolOk := false }).ao.coolOk ≠ true ∧
    gives (.coolOkChange false) up (fun t => t.ash.flying.map (fun e => (e.type_, (e.detail.getD 0 0).toNat)) == [(0x30, 6)] && t.ao.smbAlert) = true := by
  decide +kernel
theorem witness_Cooling_sample :
    let rs : List Reading := [⟨0, 128⟩, ⟨6407, 256⟩]
    (up.ao.vauxOk = true ∧ (∀ r ∈ rs, r.sensor < 6408) ∧ (rs.map (·.sensor)).Nodup) ∧
      gives (.sensorSample rs) up (fun t => lookD 0 t.ao.sensors 6407 == 256 && t.ao.sensorsBefore == up.ao.sensors) = true := by decide +kernel

/-- R81: a tray block with its CRC-8: both readings valid, 25 degrees in, 30 out, 2,000 a minute. -/
def trayBlock : List Byte :=
  let b := [0x5A#8, 1, 7, 9] ++ leBytes 2 (128 * 25) ++ leBytes 2 (128 * 30) ++ leBytes 2 2000 ++ List.replicate 3 0
  b ++ [crc8 b]

theorem witness_Cooling_tray : (up.ao.vauxOk = true ∧ trayValid trayBlock = true) ∧
    gives (.trayRead (some trayBlock)) up (fun t => t.ao.flow == 2000 && t.ao.goodTrayReads == 1 && t.ao.lowFlowReads == 0) = true := by
  decide +kernel
theorem witness_Cooling_badTray : (up.ao.vauxOk = true ∧ trayValid [] = false) ∧
    gives (.trayRead (some [])) up (fun t => t.ao.lowFlowReads == 1) = true ∧ gives (.trayRead none) up (fun t => t.ao.lowFlowReads == 1) = true := by
  decide +kernel
theorem witness_Cooling_lost :
    let s := withAo fun a => { a with trayValidAt := 10 ^ 13 - 200000000, traySeqAt := 10 ^ 13 }
    (live s = true ∧ s.draught.trayLost = false ∧ s.ao.trayValidAt + 200000000 ≤ s.ao.devtime) ∧
      gives .traySensorLost s (fun t => t.draught.trayLost && t.draught.lTh == 900) = true := by decide +kernel
theorem witness_Cooling_stale :
    let s := withAo fun a => { a with trayValidAt := 10 ^ 13, traySeqAt := 10 ^ 13 - 100000000 }
    live s = true ∧ s.draught.trayLost = false ∧ s.ao.traySeqAt + 100000000 ≤ s.ao.devtime := by decide +kernel

/-! ## PCIe -/

theorem witness_Perst_assert : (up.pcie.perst = false ∧ up.dev.state ≠ .off ∧ (tenant up 1).alive = true) ∧
    gives .perstNAssert up (fun t => t.pcie.perst && !t.pcie.linkUp && (mbx t 16).resetting && t.pcie.fns.isEmpty) = true := by decide +kernel
theorem test_perstRelease : gives .perstNRelease { up with pcie := { up.pcie with perst := true, linkUp := false } }
    (fun t => !t.pcie.perst && t.pcie.linkUp) = true := by decide +kernel
/-- R73, R74: BAR2 takes 64 GiB and refuses 128 GiB. -/
theorem test_barSize :
    gives (.configRequest ⟨0, .write (.barSize 2) (2 ^ 36)⟩) up (fun t => t.pcie.cfgReply == .completion && (pcieFn t 0).bar2Size == 2 ^ 36) = true ∧
    gives (.configRequest ⟨0, .write (.barSize 2) (2 ^ 37)⟩) up (fun t => (pcieFn t 0).bar2Size == 2 ^ 28) = true := by decide +kernel
/-- R122: before step 2 of BOOT a configuration request is retried; a function that does not exist does not answer. -/
theorem test_configRequest :
    gives (.configRequest ⟨16, .read .vfDeviceId⟩) up (fun t => t.pcie.cfgReply == .completion) = true ∧
    gives (.configRequest ⟨16, .read .vendorId⟩) { up with pcie := { up.pcie with numVfs := 15 } } (fun t => t.pcie.cfgReply == .absent) = true ∧
    gives (.configRequest ⟨0, .read .vendorId⟩) { up with dev := { up.dev with state := .boot, step := 1 } } (fun t => t.pcie.cfgReply == .retry) = true := by
  decide +kernel
theorem witness_Function_control : (16 ≤ 16 ∧ fnReachable up 16 = true ∧ 67 < vectors 16 ∧ 71 < vectors 0 ∧ fnReachable up 0 = true ∧
      (tenant up 1).alive = true) ∧
    gives (.busMasterEnableSet 16 true) up (fun t => (pcieFn t 16).busMaster && !hostReachable up 16 && hostReachable t 16) = true ∧
    gives (.functionLevelReset 1) up (fun t => !(pcieFn t 1).busMaster && (mbx t 1).resetting && (tenant t 1).alive) = true ∧
    gives (.vfDisable 0 false) up (fun t => !t.pcie.vfEnable && !(tenant t 1).alive && !(pcieFn t 1).busMaster) = true := by decide +kernel
/-- R76: an unmasked vector that is pending sends one message. -/
theorem test_msixUnmask :
    let s := { up with pcie := { up.pcie with fns := [(0, { openFn with pending := [7] })] } }
    gives (.msixUnmask 0 (.vector 7)) s (fun t => t.pcie.sent == [(0, 7)] && (pcieFn t 0).pending.isEmpty) = true := by decide +kernel

/-! ## Start and floor plan -/

/-- BOOT with an image, both flash copies of the same generation. -/
def booted : State := { up with dev := { up.dev with state := .boot, step := 3, bootAt := 10 ^ 13 }, fpt := { Fpt.reset with flashA := some .manufacture } }
/-- R111: with a single-mode flash the Stoker may start until 545 ms after the entry into BOOT. -/
theorem test_bootBound :
    let s := { booted with dev := { booted.dev with bootAt := 10 ^ 13 - 160000000 } }
    gives .bootTimeout { s with dev := { s.dev with fwQuad := false } } (fun t => t.dev.state == .boot) = true ∧
      gives .bootTimeout s (fun t => t.dev.state == .failed) = true := by decide +kernel
def noFindings : TrainFindings := { failing := [], reuseFailed := false, lanesOut := [], deadSensors := [], svcFail := 0, lotKeyOk := true, power := 40000 }

theorem witness_Start_stoker : Instr.wellFormed (.stokerStart noFindings) = true ∧ booted.dev.image = some img ∧ booted.dev.state = .boot ∧
    booted.ao.devtime ≤ booted.dev.bootAt + 160000000 ∧
    selectFlash booted.fpt = some (false, .manufacture) := by decide +kernel
theorem witness_Start_noTable : let s := { booted with fpt := { booted.fpt with flashA := none, flashB := none } }
    Instr.wellFormed (.stokerStart noFindings) = true ∧ s.dev.image = some img ∧ s.dev.state = .boot ∧ s.fpt.flashA = none ∧ s.fpt.flashB = none := by
  decide +kernel
theorem witness_Start_timeout : let s := { booted with dev := { booted.dev with bootAt := 10 ^ 13 - 160000000 } }
    (s.dev.state = .boot ∧ s.dev.image.isSome = true ∧ s.dev.bootAt + 160000000 ≤ s.ao.devtime) ∧
      gives .bootTimeout s (fun t => t.dev.state == .failed && t.dev.cause == 4) = true := by decide +kernel
/-- R29: of equal generations copy A is selected, of different ones the newer. -/
theorem witness_Start_select : Fpt.reset.flashA = some .manufacture ∧ Fpt.reset.flashB = some .manufacture ∧
    selectFlash Fpt.reset = some (false, .manufacture) ∧
    selectFlash { Fpt.reset with flashB := some { FptTable.manufacture with generation := 2 } } =
      some (true, { FptTable.manufacture with generation := 2 }) := by decide +kernel

def record : TrainRec :=
  TrainRec.stamp (at_ := 0)
    { magic := 0x314E5254, format := 1, bodySize := 0, crc := 0, body := [], sequence := 1, level := 2, major := 4, minor := 2,
      patch := 0, tFb0 := 0, tFb1 := 0, tFlue := 0, linkMapCrc := 0, savedAt := 0, failedLanes := [] }

theorem witness_TrainingRecord : let s := { up with fpt := { up.fpt with trainDue := some record } }
    (s.fpt.trainDue = some record ∧ live s = true) ∧ s.fpt.trainA = none ∧
      gives (.trainingRecordWrite true true) s (fun t => (recordCopy t.fpt (recordTarget s.fpt)).isSome && t.fpt.trainDue.isNone) = true := by
  decide +kernel

theorem witness_Fenced : ((FieldUnit.hearth 199).ok = true ∧ live up = true ∧ inService up (.hearth 199) = true) ∧
    gives (.unitFenced (.hearth 199)) up (fun t => !siteLive t 199 && t.fpt.waiting.length == 1) = true := by decide +kernel

def laneChange : FptChange := { unit := .lane 5 3, selfTest := false, at_ := 7 }
def changed : State := { up with fpt := { up.fpt with waiting := [laneChange] } }

/-- R49, R50: a publication of a lost lane raises the generation by one. -/
theorem witness_Publication : (live changed = true ∧ changed.fpt.table = some .manufacture ∧ changed.fpt.waiting = [laneChange] ∧
      changes .manufacture laneChange.unit = true) ∧
    gives .fptPublish changed (fun t => (t.fpt.table.map (·.generation)) == some 2 && t.fpt.changed && t.fpt.persistDue &&
      t.fpt.waiting.isEmpty && (siteRec t 5).lane == 0xFFF7#16) = true := by decide +kernel
theorem witness_Persist : let s := { up with fpt := { up.fpt with persistDue := true, persistPending := true } }
    (s.fpt.table = some .manufacture ∧ s.fpt.persistDue = true ∧ live s = true) ∧
      gives (.fptPersist true true) s (fun t => !t.fpt.persistPending && !t.fpt.persistDue && flashOf t.fpt (persistTarget s.fpt) == some .manufacture) = true := by
  decide +kernel

/-! ## Die links -/

def trainedLink (near : LinkEnd) : Link := { Link.reset with trained := true, near := near }

/-- Flue link 0 and the bridge run, with these near ends. -/
def linked (e b : LinkEnd) : State :=
  { up with fabric := { up.fabric with link0 := trainedLink e, link1 := trainedLink .reset, link2 := trainedLink b } }

def flit (seq vc : Nat) : LinkFlit := { seq := BitVec.ofNat 16 seq, vc := vc, gen := false, payload := List.replicate 128 0 }

theorem test_dataFlit (f : LinkFlit) : flitGood (dataFlit f) = true := flitGood_flitBytes _ _ _ (by rcases f.gen <;> simp [b2n] <;> omega)
theorem witness_Data_good (n : Nat) (h : n < 65536) : let f := dataFlit (flit n 0)
    flitGood f = true ∧ flitType f = 1 ∧ fld f 128 2 = n := by
  refine ⟨test_dataFlit _, ?_, ?_⟩
  · simp [flitType, dataFlit, flitBytes_fields, flit, b2n]
  · simp [dataFlit, flitBytes_fields, flit]; omega
/-- The distances 0, 1, 1,023, 1,024 and 65,535 of R347, which a flit of that SEQ has at a fresh end. -/
theorem witness_Data : let s := linked .reset .reset
    (groupOk 0 31 = true ∧ onGroup s 0 31 = true ∧ groupOk 2 23 = true ∧ onGroup s 2 23 = true) ∧ (linkEnd s 0 false).nakAt = none ∧
      ([0, 1, 1023, 1024, 65535].map fun n => (BitVec.ofNat 16 n - (linkEnd s 0 false).expect).toNat) = [0, 1, 1023, 1024, 65535] := by decide +kernel
theorem witness_Data_bad : flitGood (flitBytes [] 0 3) = false := by simp [flitGood, flitType, flitBytes_fields]
/-- R347: SEQ ahead by 1,023 asks for a NAK, by 1,024 does not, behind by 1 neither. -/
theorem test_sequence : let s := linked .reset .reset
    let naks (n : Nat) := (linkEnd (sequenceFlit s 0 false (flit n 0)) 0 false).nakDue
    (linkEnd (sequenceFlit s 0 false (flit 0 0)) 0 false).expect = 1 ∧ [1, 1023, 1024, 65535].map naks = [true, true, false, false] := by
  decide +kernel

/-- A CTRL payload that acknowledges before SEQ `a` with flags. -/
def ctrl (a flags : Nat) : List Byte := leBytes 2 a ++ leBytes 1 flags
def sentTwo : LinkEnd := { LinkEnd.reset with replay := [flit 0 0, flit 1 0], nextSeq := 2 }

theorem witness_Ctrl_good (p : List Byte) : flitGood (flitBytes p 0 2) = true ∧ flitType (flitBytes p 0 2) = 2 :=
  ⟨flitGood_flitBytes _ _ _ (by decide), by simp [flitType, flitBytes_fields]⟩
theorem witness_Ctrl : let s := linked sentTwo .reset
    groupOk 0 0 = true ∧ onGroup s 0 0 = true ∧ (linkEnd s 0 false).replay = flit 0 0 :: [flit 1 0] ∧ fld (ctrl 1 3) 0 2 = 1 ∧
      fld (ctrl 1 3) 2 1 % 2 = 1 ∧ fld (ctrl 1 3) 2 1 / 2 % 2 = 1 := by decide +kernel
/-- R345: acknowledging one frees it and the NAK resends the other; one too many frees none. -/
theorem test_ctrl : let s := linked sentTwo .reset
    let after (p : List Byte) := linkEnd (takeCtrl s 0 false p) 0 false
    (after (ctrl 1 3)).replay = [flit 1 0] ∧ (after (ctrl 1 3)).resend = [flit 1 0] ∧ (after (ctrl 2 0)).replay = [] ∧
      (after (ctrl 3 0)).replay.length = 2 := by decide +kernel
theorem witness_ReplayTimeout : let s := linked { sentTwo with ackAt := 10 ^ 13 - 200 } .reset
    (0 < 3 ∧ linkRuns s 0 = true ∧ (linkEnd s 0 false).replay ≠ [] ∧ (linkEnd s 0 false).ackAt + 200 ≤ s.ao.devtime) ∧
      gives (.replayTimeout 0 false) s (fun t => (linkEnd t 0 false).resend.length == 2) = true := by decide +kernel

/-- R346, R347: a slot takes the replay first, then a new flit, then a CTRL that is due, else an IDLE. -/
theorem witness_Slot_replay : let s := linked { sentTwo with resend := [flit 0 0] } .reset
    (0 < 3 ∧ linkRuns s 0 = true ∧ (linkEnd s 2 false).detourBegun = false ∧ (linkEnd s 0 false).resend = flit 0 0 :: []) ∧
      gives (.linkFlitSend 0 false) s (fun t => (linkEnd t 0 false).wire.length == 1 && (linkEnd t 0 false).nextSeq == 2) = true := by
  decide +kernel
/-- R330: a replay entry that a retrain left uncharged costs its credit when it is sent again; R341, R346: a lane found failed is left
out, and the receiver reads the same bytes. -/
theorem witness_Slot_uncharged : let s0 := linked { sentTwo with resend := [flit 0 0], uncharged := [0] } .reset
    let s := modLink s0 0 fun x => { x with failedLanes := [(0, [0])] }
    (linkRuns s 0 = true ∧ (linkEnd s 0 false).resend = flit 0 0 :: [] ∧ (flit 0 0).seq ∈ (linkEnd s 0 false).uncharged ∧
      64 ≤ ((List.range 66).filter fun n => !(lookD [] (link s 0).failedLanes 0).contains n).length) ∧
      gives (.linkFlitSend 0 false) s (fun t => (linkEnd t 0 false).uncharged.isEmpty && lookD 0 (linkEnd t 0 false).sent 0 == 1 &&
        (linkEnd t 0 false).wire.map (fun x => (x.group, (x.lanes.map (·.1)).take 2)) == [(0, [1, 2])]) = true := by decide +kernel
theorem witness_Slot_new : let s := linked { LinkEnd.reset with txq := [flit 0 0] } { LinkEnd.reset with txq := [flit 0 0, flit 0 10], slot := 23 }
    ((linkEnd s 0 false).resend = [] ∧ nextData 0 (linkEnd s 0 false) = some (flit 0 0)) ∧
      linkRuns s 2 = true ∧ (nextData 2 (linkEnd s 2 false)).isSome = true ∧
      gives (.linkFlitSend 0 false) s (fun t => (linkEnd t 0 false).nextSeq == 1 && (linkEnd t 0 false).replay == [flit 0 0] &&
        (linkEnd t 0 false).txq.isEmpty) = true ∧
      gives (.linkFlitSend 2 false) s (fun t => (linkEnd t 2 false).wire.map (fun x => (x.group, x.block)) == [(23, 0)] && (linkEnd t 2 false).txq.length == 1) = true := by
  decide +kernel
/-- R348: a CTRL is due 8 ns after the oldest acceptance that none has carried, not 7 ns after it. -/
theorem witness_Slot_ctrl : let s := linked { LinkEnd.reset with unacked := 1, ctrlSince := some (10 ^ 13 - 8) } { LinkEnd.reset with unacked := 256 }
    ((linkEnd s 0 false).resend = [] ∧ nextData 0 (linkEnd s 0 false) = none ∧ ctrlDue s (linkEnd s 0 false) = true ∧
      ctrlDue s { LinkEnd.reset with unacked := 1, ctrlSince := some (10 ^ 13 - 7) } = false ∧
      10 ^ 13 - 8 + 8 ≤ s.ao.devtime ∧ 256 ≤ (linkEnd s 2 false).unacked ∧ linkRuns s 2 = true) ∧
      gives (.linkFlitSend 0 false) s (fun t => (linkEnd t 0 false).ctrlSince.isNone && (linkEnd t 0 false).unacked == 0) = true ∧
      gives (.ctrlSend 0 false) s (fun t => (linkEnd t 0 false).unacked == 0) = true ∧
      gives (.ctrlSend 2 false) s (fun t => (linkEnd t 2 false).unacked == 0) = true := by decide +kernel
theorem witness_Slot_idle : let s := linked .reset { LinkEnd.reset with retrainReq := true }
    ((linkEnd s 0 false).resend = [] ∧ nextData 0 (linkEnd s 0 false) = none ∧ ctrlDue s (linkEnd s 0 false) = false ∧
      (linkEnd s 0 false).retrainReq = false ∧ (linkEnd s 2 false).retrainReq = true) ∧
      gives (.linkFlitSend 0 false) s (fun t => (linkEnd t 0 false).wire.length == 1) = true := by decide +kernel

/-- A link with a retrain due. -/
def dueLink : Link := { trainedLink .reset with due := some 1 }

theorem witness_Suspect : let s := linked { LinkEnd.reset with gchk := [(31, List.replicate 17 (10 ^ 13))] } .reset
    (groupOk 0 31 = true ∧ linkRuns s 0 = true ∧ burst (lookD [] (linkEnd s 0 false).gchk 31) 16 100000000 = true ∧
      (linkEnd s 0 false).suspect.getLsbD 31 = false) ∧
      gives (.groupSuspect 0 false 31) s (fun t => (linkEnd t 0 false).suspect.getLsbD 31 && (link t 0).due.isSome) = true := by decide +kernel
theorem witness_Storm : let s := linked { LinkEnd.reset with retries := List.replicate 65 (10 ^ 13) } .reset
    (linkRuns s 0 = true ∧ burst (linkEnd s 0 false).retries 64 1000000 = true ∧ (linkEnd s 0 false).retrainReq = false) ∧
      gives (.retryStorm 0 false) s (fun t => (link t 0).due.isSome) = true := by decide +kernel
/-- R353-R358: with nothing found the link is UP again; with 25 of 32 groups gone it is DOWN. -/
theorem witness_Retrain : let s := { up with fabric := { up.fabric with link0 := dueLink, link2 := dueLink } }
    (0 < 3 ∧ retrainDue s 0 = true ∧ (link s 0).secondTry = false ∧ retrainDue s 2 = true ∧ 8 ≤ activeGroups s 2) ∧
      gives (.retrainStart 0 ⟨[], []⟩) s (fun t => decide (8 ≤ activeGroups t 0) && (link t 0).state == .up && (link t 0).due.isNone) = true ∧
      gives (.retrainStart 0 ⟨[(0, 65)], []⟩) s (fun t => (link t 0).failedLanes == [(0, [65])] &&
        t.fpt.waiting.map (·.unit) == [FieldUnit.linkSpare 0 0 1]) = true ∧
      gives (.retrainStart 0 ⟨[], List.range 24⟩) s (fun t => activeGroups t 0 == 8 && (link t 0).state == .up) = true ∧
      gives (.retrainStart 0 ⟨[], List.range 25⟩) s (fun t => activeGroups t 0 == 7 && (link t 0).state == .down) = true ∧
      gives (.retrainBoundMiss 2 []) s (fun t => (link t 2).state == .detour && t.epoch.waiting.length == 1) = true ∧
      gives (.retrainBoundMiss 0 []) s (fun t => (link t 0).state == .retraining && (link t 0).secondTry) = true := by decide +kernel

/-- The bridge is in detour. -/
def detour (n f : LinkEnd) (at_ : Nat) : State :=
  { up with
    fabric := { up.fabric with
      link0 := trainedLink .reset, link1 := trainedLink .reset,
      link2 := { trainedLink n with farEnd := f, state := .detour, detourAt := at_ } } }

/-- R360: the end that has not declared the bridge failed begins the detour when DETOUR_BEGIN reaches it; the other has begun already. -/
theorem witness_Detour_begin :
    let s (b : Bool) := detour { LinkEnd.reset with detourBegun := true }
      { sentTwo with relayIn := [flit 4 0], beginIn := some (4, 1), detourBegun := b } 0
    (inDetour (s false) = true ∧ relayRuns (s false) = true ∧ 4 < 65536 ∧ (linkEnd (s false) 2 true).beginIn = some (BitVec.ofNat 16 4, 1) ∧
      (linkEnd (s false) 2 true).detourBegun = false ∧ (linkEnd (s true) 2 true).detourBegun = true) ∧
      gives (.detourBeginReceive true 4 1) (s false) (fun t => (linkEnd t 2 true).detourBegun && (linkEnd t 2 false).relayIn.length == 2 &&
        (linkEnd t 2 false).beginIn == some (0, 2) && (linkEnd t 2 true).beginIn.isNone) = true ∧
      gives (.detourBeginReceive true 4 1) (s true) (fun t => (linkEnd t 2 false).relayIn.isEmpty && (linkEnd t 2 true).beginIn.isNone) = true := by
  decide +kernel
theorem witness_Detour_relay : let s := detour { LinkEnd.reset with relayIn := [flit 0 0, flit 9 0] } .reset 0
    (inDetour s = true ∧ relayRuns s = true ∧ (linkEnd s 2 false).beginIn = none ∧ (linkEnd s 2 false).relayIn = flit 0 0 :: [flit 9 0] ∧ (flit 0 0).seq = (linkEnd s 2 false).expect ∧
      (flit 9 0).seq ≠ (linkEnd s 2 false).expect) ∧
      gives (.relayedFlitReceive false) s (fun t => (linkEnd t 2 false).expect == 1) = true := by decide +kernel
/-- R363: the attempts are 10 s apart from t0, whatever the last one's time. -/
theorem witness_Detour_retry : let s := detour sentTwo .reset (10 ^ 13 - 10000000000)
    ((link s 2).state = .detour ∧ (link s 2).detourAt + 10000000000 * ((link s 2).detourTries + 1) ≤ s.ao.devtime ∧ detourPending s = false ∧
      (link s 0).state ≠ .down ∧ (link s 1).state ≠ .down) ∧
      gives (.detourRetry false ⟨[], []⟩) s (fun t => (link t 2).state == .detour && (link t 2).detourAt == 10 ^ 13 - 10000000000 &&
        (link t 2).detourTries == 1 && gives (.detourRetry true ⟨[], []⟩) t (fun u => u.epoch.waiting.isEmpty)) = true ∧
      gives (.detourRetry true ⟨[], []⟩) s (fun t => (linkEnd t 2 false).replay.isEmpty && t.epoch.waiting.length == 1 &&
        credits (linkEnd t 2 false) 0 == 256) = true ∧
      gives (.detourRetry true ⟨[], List.range 17⟩) s (fun t => (link t 2).state == .down) = true := by decide +kernel

/-! ## Routing, Epoch changes and the mesh -/

theorem witness_Epoch_routing : (up.fpt.table = some .manufacture ∧ live up = true ∧ graphOf up .manufacture ≠ graphIn up ∧ routingPending up = false) ∧
    gives .routingGeneration up (fun t => t.epoch.waiting.length == 1) = true := by decide +kernel

def waiting (a : EpochAction) : State := { up with epoch := { up.epoch with waiting := [{ action := a, reply := none }] } }

/-- R461, R464: an assignment installs its sites, a definition its region, a deletion none, a binding its domain. -/
theorem witness_Epoch_changes :
    (orphanChange (waiting (.assign 1 [2, 3])) (.assign 1 [2, 3]) = false ∧ orphanChange (waiting .routing) .routing = false ∧
      orphanChange (waiting (.assign 2 [2])) (.assign 2 [2]) = true) ∧
    gives .epochChange (waiting (.assign 1 [2, 3])) (fun t => ownedBy t 1 == [0, 1, 2, 3] && t.epoch.generation == 1 && t.fabric.bank1) = true ∧
    gives .epochChange (waiting (.define 1 5 sliceRegion)) (fun t => (region? t 1 5).isSome) = true ∧
    gives .epochChange (waiting (.delete 1 1)) (fun t => (region? t 1 1).isNone && (region? t 1 2).isSome) = true ∧
    gives .epochChange (waiting (.bind 9 1 3)) (fun t => (look t.chain.domains 9).map (·.port) == some 3) = true ∧
    gives .epochChange (waiting .routing) (fun t => graphIn t == graphOf up .manufacture) = true ∧
    gives .epochChange (waiting (.assign 2 [2])) (fun t => t.epoch.generation == 0 && t.epoch.waiting.isEmpty) = true := by decide +kernel

def mflit (id node dest vc waited : Nat) : MeshFlit :=
  { id := id, node := node, inPort := 4, inVc := vc, vc := vc, down := false, dest := dest, src := 0, tenant := 1, gen := false,
    agent := 0, srcAgent := 0, msg := id, last := true, waited := waited, starved := 0, aged := false, error := false, data := id }

/-- R461, R463: a flit of the older generation under way holds the change up; the next change waits for it. -/
theorem witness_Epoch_held : let f := mflit 0 0 5 0 0
    let c : EpochChange := { action := .routing, reply := none }
    let s := { waiting .routing with fabric := { up.fabric with flits := [f] } }
    let r (gen : Bool) := { s with epoch := { s.epoch with waiting := [], running := some c, mixed := true }
                                   fabric := { s.fabric with bank1 := true, flits := [{ f with gen := gen }] } }
    (s.epoch.running = none ∧ s.epoch.waiting = c :: [] ∧ drained s = true ∧ heldGen s s.fabric.bank1 = true ∧
      (r true).epoch.running = some c ∧ drained (r true) = true ∧ drained (r false) = false) ∧
    gives .epochChange s (fun t => t.epoch.mixed && t.epoch.running == some c && t.fabric.bank1) = true ∧
    gives .epochChange (r false) (fun t => t.epoch.mixed && t.epoch.running == some c) = true ∧
    gives .epochChange (r true) (fun t => !t.epoch.mixed && t.epoch.running.isNone) = true ∧
    (let w := { s with fabric := { s.fabric with bank1 := true } }
     (w.epoch.running = none ∧ drained w = false) ∧ gives .epochChange w (fun t => t.epoch.waiting == [c] && !t.epoch.mixed) = true) := by
  decide +kernel

/-- A routed mesh with these flits. -/
def meshed (fs : List MeshFlit) : State :=
  { up with
    fabric := { up.fabric with
      graph0 := graphOf up .manufacture, flits := fs, link0 := trainedLink .reset, link1 := trainedLink .reset,
      link2 := trainedLink .reset } }

/-- Site 1 lies east of site 0, or west: eight flits fill the channel there. -/
theorem witness_Escape :
    let f := { mflit 0 0 1 0 64 with starved := 64 }
    let p := ((outPort (meshed [f]) f).getD 9)
    let s := meshed (f :: (List.range 8).map fun i => { mflit (i + 1) 1 1 0 0 with inPort := opposite p })
    (flit? s 0 = some f ∧ nextNode s f = some 1 ∧ outPort s f = some p ∧ f.escape = false ∧ 64 ≤ f.starved ∧ f.dest ≠ f.node ∧
      hasCredit s f.node p f.vc 1 = false ∧ partSent s f = false) ∧
      gives (.escapeMove 0) s (fun t => (flit? t 0).map (·.vc) == some 1) = true := by decide +kernel
theorem witness_Aged : let s := meshed [mflit 0 0 1 0 1024]
    (flit? s 0 = some (mflit 0 0 1 0 1024) ∧ 1024 ≤ (mflit 0 0 1 0 1024).waited ∧ (mflit 0 0 1 0 1024).aged = false) ∧
      gives (.flitAged 0) s (fun t => (flit? t 0).map (·.aged) == some true) = true := by decide +kernel
theorem witness_Retired : let s := { meshed [mflit 0 0 5 0 0] with fpt := { up.fpt with waiting := [{ unit := .hearth 5, selfTest := false, at_ := 0 }] } }
    (flit? s 0 = some (mflit 0 0 5 0 0) ∧ (mflit 0 0 5 0 0).vc / 2 % 2 = 0 ∧ (mflit 0 0 5 0 0).dest < 200 ∧ siteRetired s 5 = true) ∧
      gives (.retiredHearthRequest 0) s (fun t => (flit? t 0).map (fun f => (f.error, f.vc, f.dest)) == some (true, 2, 0)) = true := by decide +kernel
theorem witness_Sync : (up.ao.vauxOk = true ∧ up.fabric.syncAt + 1024 ≤ up.ao.devtime) ∧
    gives .devtimeSync up (fun t => t.fabric.syncs == 1) = true := by decide +kernel
theorem witness_Grant_none : nodePortOk 200 6 = true ∧ readyAt (meshed []) 0 4 = [] ∧
    gives (.outputPortGrant 0 4) (meshed []) (fun t => t.fabric.delivered.isEmpty) = true := by decide +kernel
/-- R323: a flit at its destination leaves by port 4; one for the next site goes to it. -/
theorem witness_Grant :
    let f := mflit 0 0 0 0 0
    let g := mflit 1 0 1 0 0
    let s := meshed [f, g]
    let p := (outPort s g).getD 9
    (readyAt s 0 4 = [f] ∧ readyAt s 0 p = [g] ∧ p < 4 ∧ agedForced s 0 4 = false) ∧
      gives (.outputPortGrant 0 4) s (fun t => t.fabric.delivered == [f]) = true ∧
      gives (.outputPortGrant 0 p) s (fun t => (flit? t 1).map (·.node) == some 1) = true := by decide +kernel
theorem witness_Grant_aged :
    let f := { mflit 0 0 0 0 1024 with aged := true }
    agedForced (meshed [mflit 1 0 0 10 0, f]) 0 4 = true := by decide +kernel

/-- R326: the endpoint that takes a request injects its response, on the response channel, to the requester. -/
theorem test_response : gives (.outputPortGrant 0 4) (meshed [{ mflit 0 0 0 4 0 with src := 7, srcAgent := 0 }])
    (fun t => t.fabric.flits.map (fun f => (f.node, f.vc, f.dest, f.gen)) == [(0, 6, 7, false)]) = true := by decide +kernel

/-! ## Registers and mailbox rings -/

theorem witness_Registers : (16 ≤ 16 ∧ aligned 0x14002 4 = false ∧ mbxOpen up 16 = true ∧ aligned 0x17FFC 4 = true ∧ 0x14000 ≤ 0x17FFC ∧
      0x17FFC < 0x18000 ∧ aligned 0x14000 4 = true ∧ fnReachable up 0 = true ∧ up.dev.state ≠ .boot ∧ isRo64 0 0x43000 = true ∧ isRo64 16 8 = true) ∧
    gives (.registerWrite 16 0x14002 4 0) up (fun t => t == up) = true ∧
    gives (.registerWrite 16 0x17FFC 4 0xAABBCCDD) up (fun t => fld ((mbx t 16).req.read 0 0x3FFC 4) 0 4 == 0xAABBCCDD) = true ∧
    gives (.registerWrite 0 0x43008 4 8) { up with fpt := { up.fpt with changed := true } } (fun t => !t.fpt.changed) = true ∧
    gives (.lowHalfRead 0 ⟨0x43000, 4⟩) up (fun t => t.pcie.readData == 1 && look t.pcie.latched (latchKey 0 0x43000) == some 0) = true := by decide +kernel
/-- R7: the read of the high half returns what the read of the low half latched. -/
theorem witness_HighHalf :
    let s := { up with pcie := { up.pcie with latched := [(latchKey 0 0x43000, 0xABCD#32)] } }
    (0 ≤ 16 ∧ fnReachable s 0 = true ∧ isRo64 0 0x43000 = true ∧ 0x43000 % 8 = 0 ∧
      look s.pcie.latched (latchKey 0 0x43000) = some 0xABCD#32) ∧ aligned 0x43001 4 = false ∧
      gives (.lowHalfRead 0 ⟨0x43004, 4⟩) s (fun t => t.pcie.readData == 0xABCD && t.pcie.latched.isEmpty) = true := by decide +kernel

def boxed (m : Mbx) : State := { up with mbx := [(0, m)] }

/-- R127: 64 requests fit, 65 do not, and an index does not go back. -/
theorem witness_ReqPi : (0 ≤ 16 ∧ mbxOpen up 0 = true ∧ (mbx up 0).resetting = false) ∧
    gives (.mbxReqPiWrite 0 64) up (fun t => (mbx t 0).reqPi == 64 && !(mbx t 0).piError) = true ∧
    gives (.mbxReqPiWrite 0 65) up (fun t => (mbx t 0).reqPi == 0 && (mbx t 0).piError) = true ∧
    gives (.mbxReqPiWrite 0 3) (boxed { Mbx.reset with reqPi := 4 }) (fun t => (mbx t 0).reqPi == 4 && (mbx t 0).piError) = true ∧
    gives (.mbxReqPiWrite 0 4) (boxed { Mbx.reset with reqPi := 4 }) (fun t => !(mbx t 0).piError) = true := by decide +kernel
theorem witness_RspCi :
    let w := boxed { Mbx.reset with rspPi := 64, urgBusy := true, urgWaiting := some (0, List.replicate 256 7) }
    (mbxOpen w 0 = true ∧ (mbx w 0).resetting = false ∧ (mbx w 0).urgWaiting.isSome = true) ∧
    gives (.mbxRspCiWrite 0 1) w (fun t => (mbx t 0).rspCi == 1 && (mbx t 0).urgWaiting.isNone && !(mbx t 0).urgBusy && (mbx t 0).rspPi == 65) = true ∧
    gives (.mbxRspCiWrite 0 2) (boxed { Mbx.reset with rspPi := 2 }) (fun t => (mbx t 0).rspCi == 2 && !(mbx t 0).piError) = true ∧
    gives (.mbxRspCiWrite 0 3) (boxed { Mbx.reset with rspPi := 2 }) (fun t => (mbx t 0).rspCi == 0 && (mbx t 0).piError) = true := by decide +kernel
theorem witness_Resetting : let s := boxed { Mbx.reset with resetting := true }
    (mbx s 0).resetting = true ∧ gives (.mbxReqPiWrite 0 1) s (fun t => t == s) = true := by decide +kernel

/-- A request: opcode, level 4, LENGTH 240, payload. -/
def msg (op : Nat) (p : List Byte) : List Byte :=
  leBytes 2 op ++ leBytes 4 0 ++ [4, 0] ++ leBytes 2 240 ++ List.replicate 6 0 ++ p ++ List.replicate (240 - p.length) 0
def taken (op : Nat) (p : List Byte) : Taken :=
  { seq := 0, slot := 0, msg := msg op p, started := false, startedAt := 0, discard := false, level := none, owned := [1] }

/-- The admin function at level 4 with one request taken. -/
def mailed (op : Nat) (p : List Byte) : State := boxed { Mbx.reset with level := 4, reqPi := 1, reqCi := 1, taken := [taken op p] }
/-- The same, with another part of the state replaced. -/
def mailedIn (s : State) (op : Nat) (p : List Byte) : State := { s with mbx := (mailed op p).mbx }
/-- The request is answered by one response. -/
def answers (c : Instr) (s : State) : Bool := gives c s fun t => (mbx t 0).taken.isEmpty && (mbx t 0).rspPi == 1

/-- R129: 63 slots reserved and one unconsumed response leave an urgent response none: it waits. -/
theorem test_urgentWaits : let t (k : Nat) : Taken := { taken 2 [] with seq := k }
    let u : Taken := { taken 0x105 [1] with seq := 99, slot := 255 }
    let s := boxed { Mbx.reset with rspPi := 1, urgBusy := true, taken := (List.range 63).map t ++ [u] }
    (mbx (respond s 0 u .ok 0 []) 0).urgWaiting.isSome = true ∧ (mbx (respond s 0 u .ok 0 []) 0).rspPi = 1 := by decide +kernel

/-- A request of sys.status in slot 0 of the ring. -/
def posted (level : Nat) (m : List Byte) : State := boxed { Mbx.reset with level := level, reqPi := 1, req := Ram.zero.write 0 m }

theorem witness_Take : let s := posted 4 (msg 2 [])
    (turn 17 s.work.lastMbx (mayTake s) = some 0 ∧ undescribed (mbx s 0).level (nextRequest s 0) = false ∧
      opcodes.contains (fld (nextRequest s 0) 0 2) = true) ∧
      gives (.mbxTakeRequest 0) s (fun t => (mbx t 0).taken.map (·.slot) == [0] && (mbx t 0).reqCi == 1) = true := by decide +kernel
theorem witness_Take_unknown : let s := posted 4 (msg 0x999 [])
    (turn 17 s.work.lastMbx (mayTake s) = some 0 ∧ opcodes.contains (fld (nextRequest s 0) 0 2) = false) ∧
      answers (.mbxTakeRequest 0) s = true := by decide +kernel
theorem witness_Take_level3 : let s := posted 3 (leBytes 2 2 ++ leBytes 4 0 ++ [3])
    turn 17 s.work.lastMbx (mayTake s) = some 0 ∧ undescribed (mbx s 0).level (nextRequest s 0) = true ∧
      exec (.mbxTakeRequest 0) s = .refused .undescribedLevel := by
  refine ⟨by decide +kernel, by decide +kernel, rfl⟩
/-- A command whose operands name units of the part completes; one whose operands name none faults. -/
theorem witness_Completes : let s := up
    ((Instr.nop 199).wellFormed = true ∧ gives (.nop 199) s (fun _ => true) = true) ∧ (Instr.nop 200).wellFormed = false := by decide +kernel
theorem witness_MailboxReset : (16 ≤ 16 ∧ mbxOpen up 16 = true) ∧
    gives (.mailboxReset 0) (mailed 2 []) (fun t => (mbx t 0).resetting && (mbx t 0).taken.all (·.discard)) = true ∧
    gives (.mailboxResetDone 0) (boxed { Mbx.reset with resetting := true }) (fun t => !(mbx t 0).resetting) = true := by decide +kernel
theorem witness_Urgent :
    let s := boxed { Mbx.reset with level := 4, urg := Ram.zero.write 0 (msg 0x105 [1]) }
    let b := boxed { Mbx.reset with urgBusy := true }
    (mbxOpen s 0 = true ∧ (mbx s 0).resetting = false ∧ (mbx s 0).urgBusy = false ∧ (mbx b 0).urgBusy = true ∧
      wrongVersion (mbx s 0).level ((mbx s 0).urg.read 0 0 256) = false ∧ fld ((mbx s 0).urg.read 0 0 256) 0 2 = 0x105) ∧
      fld (msg 0x603 []) 0 2 = 0x603 ∧
      gives (.urgentGo 0) s (fun t => (mbx t 0).urgBusy && (mbx t 0).taken.map (·.slot) == [255]) = true ∧
      gives (.urgentGo 0) b (fun t => (mbx t 0).urgOverrun) = true := by decide +kernel
/-- R131: a command that names what an earlier one holds waits; R136: a reserved field that is not zero is E_ARG. -/
theorem witness_MailChecks :
    let first := { taken 0x106 [1] with seq := 0, slot := 0 }
    let second := { taken 0x105 [1] with seq := 1, slot := 1 }
    let s := boxed { Mbx.reset with level := 4, taken := [first, second] }
    let bad := mailed 0x106 [1, 1]
    (((0x105, Instr.tenantHalt) : Nat × (Nat → Nat → Instr)).1 = 0x105 ∧ draining? s 0 1 = none ∧ request? s 0 1 0x105 = some second ∧
      mayStart s 0 second = false) ∧ (mayStart bad 0 (taken 0x106 [1, 1]) = true ∧ preCheck bad 0 (taken 0x106 [1, 1]) = some (.eArg, 0x11)) ∧
      gives (.tenantHalt 0 1) s (fun t => t == s) = true ∧ answers (.tenantResume 0 0) bad = true := by decide +kernel

/-! ## Mailbox commands -/

/-- R139: sys.hello names no level in its header. -/
theorem witness_Hello :
    let m := leBytes 2 1 ++ leBytes 6 0 ++ leBytes 2 240 ++ List.replicate 6 0 ++ [3, 4] ++ List.replicate 238 0
    let tk := { taken 1 [] with msg := m }
    let s := boxed { Mbx.reset with taken := [tk] }
    (Begins s 0 0 1 tk ∧ (∀ e ∈ (mbx s 0).taken, tk.seq ≤ e.seq) ∧ chooseLevel s tk.msg = some 4) ∧
      gives (.sysHello 0 0) s (fun t => (mbx t 0).level == 4) = true := by unfold Begins; decide +kernel
theorem witness_Status : Begins (mailed 2 []) 0 0 2 (taken 2 []) ∧ answers (.sysStatus 0 0) (mailed 2 []) = true := by
  unfold Begins; decide +kernel
theorem witness_FwAbort : let p : List Byte := leBytes 4 0 ++ leBytes 2 16 ++ [2]
    (Begins (mailed 3 p) 0 0 3 (taken 3 p) ∧ fld (taken 3 p).msg 0x16 1 = 2) ∧ answers (.fwUpdate 0 0) (mailed 3 p) = true := by
  unfold Begins; decide +kernel
theorem witness_FwWrite : let p : List Byte := leBytes 4 (7680 * 1024 - 16) ++ leBytes 2 16 ++ List.replicate 10 0 ++ List.replicate 16 0xAB
    let m := (taken 3 p).msg
    (Begins (mailed 3 p) 0 0 3 (taken 3 p) ∧ fld m 0x16 1 = 0 ∧ fld m 0x10 4 % 16 = 0 ∧ fld m 0x10 4 + fld m 0x14 2 ≤ 7680 * 1024 ∧
      (mailed 3 p).dev.fwWritten.any (overlap (slotBase (targetSlot (mailed 3 p)) + fld m 0x10 4, fld m 0x14 2)) = false) ∧
      answers (.fwUpdate 0 0) (mailed 3 p) = true := by unfold Begins; decide +kernel
/-- R143: what was written since the last WRITE at OFFSET 0 is not written again, an ABORT in between or not. -/
theorem witness_FwAgain : let p : List Byte := leBytes 4 16 ++ leBytes 2 16 ++ List.replicate 10 0 ++ List.replicate 16 0xAB
    let m := (taken 3 p).msg
    let s := { mailed 3 p with dev := { up.dev with fwWritten := [(slotBase true + 16, 16)] } }
    (Begins s 0 0 3 (taken 3 p) ∧ fld m 0x16 1 = 0 ∧ fld m 0x10 4 % 16 = 0 ∧ fld m 0x10 4 ≠ 0 ∧
      s.dev.fwWritten.any (overlap (slotBase (targetSlot s) + fld m 0x10 4, fld m 0x14 2)) = true) ∧
      gives (.fwUpdate 0 0) s (fun t => t.dev == s.dev && (mbx t 0).rspPi == 1) = true := by unfold Begins; decide +kernel
theorem witness_FwCommit : let p : List Byte := leBytes 4 0 ++ leBytes 2 16 ++ [1]
    (Begins (mailed 3 p) 0 0 3 (taken 3 p) ∧ fld (taken 3 p).msg 0x16 1 = 1 ∧ (mailed 3 p).sec.svcFail &&& 0x6#5 = 0 ∧
      (mailed 3 p).dev.fwOpen = false) ∧ gives (.fwUpdate 0 0) (mailed 3 p) (fun t => t.dev == up.dev && (mbx t 0).rspPi == 1) = true := by
  unfold Begins; decide +kernel
theorem witness_Policy : (Begins (mailed 4 [2]) 0 0 4 (taken 4 [2]) ∧ fld (taken 4 [2]).msg 0x10 1 ≤ 2) ∧
    gives (.trainingPolicy 0 0) (mailed 4 [1]) (fun t => t.ao.fullNext) = true := by unfold Begins; decide +kernel

/-- A tenant command about tenant 1. -/
theorem witness_TenantCreate : (Begins (mailed 0x100 [16, 1]) 0 0 0x100 (taken 0x100 [16, 1]) ∧
      namedTenant 0 (taken 0x100 [16, 1]).msg ≤ (mailed 0x100 [16, 1]).pcie.numVfs ∧
      (tenant (mailed 0x100 [16, 1]) (namedTenant 0 (taken 0x100 [16, 1]).msg)).alive = false) ∧
    gives (.tenantCreate 0 0) (mailed 0x100 [16, 1]) (fun t => (tenant t 16).alive && (tenant t 16).poisonNotify) = true := by
  unfold Begins; decide +kernel
theorem witness_TenantDestroy : Begins (mailed 0x101 [1]) 0 0 0x101 (taken 0x101 [1]) ∧
    gives (.tenantDestroy 0 0) (mailed 0x101 [1]) (fun t => !(tenant t 1).alive && (ownedBy t 1).isEmpty) = true := by unfold Begins; decide +kernel
theorem witness_TenantAssign : let p : List Byte := [1, 2, 0, 0, 198, 0, 199, 0]
    (Begins (mailed 0x102 p) 0 0 0x102 (taken 0x102 p) ∧
      ∀ x ∈ siteList (taken 0x102 p).msg, x < 200 ∧ siteLive (mailed 0x102 p) x = true ∧ siteTaken (mailed 0x102 p) x = false) ∧
    gives (.tenantAssign 0 0) (mailed 0x102 p) (fun t => t.epoch.waiting.map (·.action) == [.assign 1 [198, 199]]) = true := by
  unfold Begins; decide +kernel
theorem witness_TenantRelease : let p : List Byte := [1, 1, 0, 0, 1, 0]
    (Begins (mailed 0x103 p) 0 0 0x103 (taken 0x103 p) ∧
      ∀ x ∈ siteList (taken 0x103 p).msg, ownerOf (mailed 0x103 p) x = some (namedTenant 0 (taken 0x103 p).msg)) ∧
    gives (.tenantRelease 0 0) (mailed 0x103 p) (fun t => ownedBy t 1 == [0]) = true := by unfold Begins; decide +kernel
theorem witness_TenantReset : Begins (mailed 0x104 [1]) 0 0 0x104 (taken 0x104 [1]) ∧ answers (.tenantReset 0 0) (mailed 0x104 [1]) = true := by
  unfold Begins; decide +kernel
theorem witness_TenantHalt : Begins (mailed 0x105 [1]) 0 0 0x105 (taken 0x105 [1]) ∧
    gives (.tenantHalt 0 0) (mailed 0x105 [1]) (fun t => (tenant t 1).halted) = true := by unfold Begins; decide +kernel
theorem witness_TenantResume :
    let s := mailedIn { up with work := { up.work with tenants := [(1, { tenant1 with halted := true })] } } 0x106 [1]
    (Begins s 0 0 0x106 (taken 0x106 [1]) ∧ (tenant s (namedTenant 0 (taken 0x106 [1]).msg)).halted = true) ∧
    gives (.tenantResume 0 0) s (fun t => !(tenant t 1).halted) = true := by unfold Begins; decide +kernel
theorem witness_TenantNotify : Begins (mailed 0x107 [1, 1]) 0 0 0x107 (taken 0x107 [1, 1]) ∧
    gives (.tenantNotify 0 0) (mailed 0x107 [1, 1]) (fun t => (tenant t 1).poisonNotify) = true := by unfold Begins; decide +kernel

/-- R144: 16 and 4,096 entries are the bounds. -/
theorem witness_QueueCreate : let p : List Byte := [1, 63] ++ leBytes 2 16 ++ leBytes 2 4096 ++ [0, 0] ++ leBytes 8 0x10000 ++ leBytes 8 0x20000
    let s := mailed 0x200 p
    let m := (taken 0x200 p).msg
    (Begins s 0 0 0x200 (taken 0x200 p) ∧ fld m 0x11 1 ≤ 63 ∧ powerIn 16 4096 (fld m 0x12 2) = true ∧ powerIn 16 4096 (fld m 0x14 2) = true ∧
      badBase s 1 (fld m 0x16 1 % 2 == 1) (fld m 0x18 8) = false ∧ badBase s 1 (fld m 0x16 1 / 2 % 2 == 1) (fld m 0x20 8) = false ∧
      (queue s 1 (fld m 0x11 1)).state = .absent ∧ ringOutside s 1 (fld m 0x16 1 % 2 == 1) (fld m 0x18 8) (64 * fld m 0x12 2) = false ∧
      ringOutside s 1 (fld m 0x16 1 / 2 % 2 == 1) (fld m 0x20 8) (32 * fld m 0x14 2) = false) ∧ namedTenant 0 m = 1 ∧
    gives (.queueCreate 0 0) s (fun t => (queue t 1 63).state == .active && (queue t 1 63).cqEntries == 4096) = true := by
  unfold Begins; decide +kernel
theorem witness_QueueDestroy : let s := mailed 0x201 [1, 0]
    (Begins s 0 0 0x201 (taken 0x201 [1, 0]) ∧ draining? s 0 0 = none ∧ fld (taken 0x201 [1, 0]).msg 0x11 1 ≤ 63 ∧ (queue s 1 0).state ≠ .absent ∧
      (tenant s 1).alive = true ∧ reserved s 1 0 = 0) ∧
    gives (.queueDestroy 0 0) s (fun t => (queue t 1 0).state == .absent) = true := by
  unfold Begins; decide +kernel

/-- A region on site 1: 64 KiB with SECDED. -/
theorem witness_RegionDefine :
    let p : List Byte := [1, 0, 0, 0, 0, 0, 0, 0] ++ leBytes 8 65536 ++ leBytes 32 2
    let s := mailed 0x300 p
    let m := (taken 0x300 p).msg
    ∃ share num es, (Begins s 0 0 0x300 (taken 0x300 p) ∧ fld m 0x11 1 = 0 ∧ fld m 0x12 1 ≤ 1 ∧ fld m 0x13 1 ≤ 1 ∧ fld m 0x18 8 ≠ 0 ∧
      bits (maskAt m 0x20) ≠ [] ∧ (∀ u ∈ bits (maskAt m 0x20), unusable s 1 false u = false) ∧
      share = shareOf (fld m 0x18 8) (bits (maskAt m 0x20)).length ∧ freeNumber s 1 = some num ∧
      placeAll (fun u => sliceExtent s u share) (bits (maskAt m 0x20)) = some es ∧ (allRegions s).length < 4096) := by
  refine ⟨shareOf 65536 1, 0, (placeAll (fun u => sliceExtent up u (shareOf 65536 1)) [1]).getD [], ?_⟩
  unfold Begins; decide +kernel
theorem witness_RegionDelete : let p : List Byte := [1, 0, 1, 0]
    (Begins (mailed 0x301 p) 0 0 0x301 (taken 0x301 p) ∧ regionUsed (mailed 0x301 p) 1 (fld (taken 0x301 p).msg 0x12 2) = false) ∧
    gives (.regionDelete 0 0) (mailed 0x301 p) (fun t => t.epoch.waiting.map (·.action) == [.delete 1 1]) = true := by unfold Begins; decide +kernel
theorem witness_RegionFill : let p : List Byte := [1, 0, 1, 0, 0, 0, 0, 0] ++ leBytes 8 (65536 - 32) ++ leBytes 8 32 ++ List.replicate 32 5
    let s := mailed 0x302 p
    let m := (taken 0x302 p).msg
    (Begins s 0 0 0x302 (taken 0x302 p) ∧ region? s 1 (fld m 0x12 2) = some sliceRegion ∧ fld m 0x18 8 % 32 = 0 ∧ fld m 0x20 8 % 32 = 0 ∧
      fld m 0x18 8 + fld m 0x20 8 ≤ sliceRegion.size) ∧ answers (.regionFill 0 0) s = true := by unfold Begins; decide +kernel
theorem witness_RegionQuery : let p : List Byte := [1, 0, 1, 0]
    (Begins (mailed 0x303 p) 0 0 0x303 (taken 0x303 p) ∧ region? (mailed 0x303 p) 1 (fld (taken 0x303 p).msg 0x12 2) = some sliceRegion) ∧
    answers (.regionQuery 0 0) (mailed 0x303 p) = true := by unfold Begins; decide +kernel
theorem witness_ApertureMap : let p : List Byte := [1, 0, 2, 0, 0, 0, 0, 0] ++ leBytes 8 (2 ^ 28 - 2 ^ 21) ++ leBytes 8 0 ++ leBytes 8 (2 ^ 21)
    let s := mailed 0x304 p
    let m := (taken 0x304 p).msg
    (Begins s 0 0 0x304 (taken 0x304 p) ∧ region? s 1 (fld m 0x12 2) = some hbmRegion ∧ hbmRegion.hbm = true ∧ fld m 0x18 8 % 2 ^ 21 = 0 ∧
      fld m 0x20 8 % 2 ^ 21 = 0 ∧ fld m 0x28 8 % 2 ^ 21 = 0 ∧ fld m 0x18 8 + fld m 0x28 8 ≤ (pcieFn s 1).bar2Size ∧
      fld m 0x20 8 + fld m 0x28 8 ≤ hbmRegion.size ∧
      ∀ x ∈ (tenant s 1).apertures, meets (fld m 0x18 8) (fld m 0x28 8) x.offset x.length = false) ∧
    gives (.apertureMap 0 0) s (fun t => (tenant t 1).apertures.length == 1) = true := by unfold Begins; decide +kernel

def mapping : Aperture := { offset := 0, region := 2, regionOffset := 0, length := 2 ^ 21 }
def mapped : State := { up with work := { up.work with tenants := [(1, { tenant1 with apertures := [mapping] })] } }

theorem witness_ApertureUnmap : let s := mailedIn mapped 0x305 ([1] ++ leBytes 15 0)
    (Begins s 0 0 0x305 (taken 0x305 ([1] ++ leBytes 15 0)) ∧ mapping ∈ (tenant s 1).apertures ∧
      mapping.offset = fld (taken 0x305 ([1] ++ leBytes 15 0)).msg 0x18 8) ∧
    gives (.apertureUnmap 0 0) s (fun t => (tenant t 1).apertures.isEmpty) = true := by unfold Begins; decide +kernel

/-! ## Models, tables, windows, rings -/

/-- Bytes stored as words of a slice from a word on. -/
def sliceBytes (k : Nat) (bs : List Byte) : SMap StoredWord :=
  (List.range ((bs.length + 31) / 32)).map fun i => (k + i, encode (bytesLine (slice bs (32 * i) 32)) (k + i))
/-- Region 1 of tenant 1 begins with these bytes. -/
def stored (bs : List Byte) : State := { up with mem := { up.mem with slice := sliceBytes 0 bs } }

/-- R261-R266: one link, without joints or contacts. -/
def modelBody : List Byte :=
  [0x41, 0x44, 0x4D, 0x31, 1, 0, 0, 1] ++ leBytes 4 416 ++ [1] ++ List.replicate 7 0 ++ [0xE2] ++ List.replicate 235 0 ++
    ([0xFF] ++ List.replicate 15 0 ++ leBytes 4 (2 ^ 30) ++ List.replicate 24 0 ++ [1, 0, 0, 0] ++ List.replicate 12 0 ++
      [1, 0, 0, 0, 1, 0, 0, 0, 1, 0, 0, 0] ++ List.replicate 56 0) ++ List.replicate 28 0
/-- With its CRC-32C, which the checks below confirm. -/
def modelImage : List Byte := modelBody ++ leBytes 4 1130870913

def crcByte (c : BitVec 32) (b : Byte) : BitVec 32 :=
  crc32Step (crc32Step (crc32Step (crc32Step (crc32Step (crc32Step (crc32Step (crc32Step (c ^^^ b.setWidth 32))))))))
theorem crc_split (n : Nat) (c : BitVec 32) (l : List Byte) : l.foldl crcByte c = (l.drop n).foldl crcByte ((l.take n).foldl crcByte c) := by
  rw [← List.foldl_append, List.take_append_drop]
/-- The model's bytes from `n` on. -/
def modelFrom (n : Nat) : List Byte := modelBody.drop n
theorem model_stage (n k : Nat) (c d : BitVec 32) (h : ((modelFrom n).take k).foldl crcByte c = d) :
    (modelFrom n).foldl crcByte c = (modelFrom (n + k)).foldl crcByte d := by
  rw [crc_split k, h, modelFrom, modelFrom, List.drop_drop]
theorem model_crc : crc32c modelBody = 1130870913#32 := by
  have h : (modelFrom 0).foldl crcByte 0xFFFFFFFF#32 = 3164096382#32 := by
    rw [model_stage 0 46 _ 2986451276#32 (by decide +kernel), model_stage _ 46 _ 1325025311#32 (by decide +kernel),
      model_stage _ 46 _ 3934958599#32 (by decide +kernel), model_stage _ 46 _ 707577606#32 (by decide +kernel),
      model_stage _ 46 _ 3766328536#32 (by decide +kernel), model_stage _ 46 _ 1251356185#32 (by decide +kernel),
      model_stage _ 46 _ 68548349#32 (by decide +kernel), model_stage _ 46 _ 1419922116#32 (by decide +kernel)]
    decide +kernel
  have e : crc32c modelBody = (modelFrom 0).foldl crcByte 0xFFFFFFFF#32 ^^^ 0xFFFFFFFF#32 := rfl
  rw [e, h]; decide
theorem model_check : Img.check modelImage = none := by
  have e : modelImage.take (modelImage.length - 4) = modelBody := by decide +kernel
  rw [Img.check, e, model_crc]
  decide +kernel

theorem witness_ModelLoad : let p : List Byte := [1, 0, 1, 0] ++ leBytes 4 416
    let s := mailedIn (stored modelImage) 0x400 p
    (Begins s 0 0 0x400 (taken 0x400 p) ∧ blobInside s 1 (taken 0x400 p).msg = true ∧ fld (taken 0x400 p).msg 0x14 4 ≤ 9504 ∧
      (readBlob s 1 (taken 0x400 p).msg).1 = .bytes modelImage ∧ sizeOk modelImage = true ∧
      firstFree (tenant s 1).models 64 = some 0) ∧ Img.check modelImage = none := by
  refine ⟨?_, model_check⟩
  unfold Begins; decide +kernel
theorem witness_ModelUnload :
    let s := mailedIn { up with work := { up.work with tenants := [(1, { tenant1 with models := [(5, [])] })] } } 0x401 [1, 0, 5, 0]
    (Begins s 0 0 0x401 (taken 0x401 [1, 0, 5, 0]) ∧ modelUsed s 1 (fld (taken 0x401 [1, 0, 5, 0]).msg 0x12 2) = false) ∧
    gives (.andironModelUnload 0 0) s (fun t => (tenant t 1).models.isEmpty) = true := by unfold Begins; decide +kernel
theorem witness_ActLoad : let p : List Byte := [1, 7, 1, 0] ++ leBytes 4 544
    let s := mailedIn (stored (List.replicate 544 0)) 0x402 p
    (Begins s 0 0 0x402 (taken 0x402 p) ∧ fld (taken 0x402 p).msg 0x11 1 ≤ 7 ∧ fld (taken 0x402 p).msg 0x14 4 = 544 ∧
      blobInside s 1 (taken 0x402 p).msg = true ∧ (readBlob s 1 (taken 0x402 p).msg).1 = .bytes (List.replicate 544 0) ∧
      tableOk (List.replicate 544 0) = true ∧ 1 ∈ (taken 0x402 p).owned ∧ ownerOf s 1 = some 1 ∧ siteRetired s 1 = false) ∧
    gives (.emberActLoad 0 0) s (fun t => (look (hearth t 1).actTables 7).isSome) = true := by unfold Begins; decide +kernel
/-- Window 63 of the admin: retired instructions of site 199; window 0: a flue-die event. -/
theorem witness_Window : let p : List Byte := [0, 63, 1, 0, 199, 0]
    let q : List Byte := [0, 0, 0, 8, 0xFF, 0xFF]
    let m := (taken 0x500 p).msg
    let s := mailed 0x500 p
    (Begins s 0 0 0x500 (taken 0x500 p) ∧ fld m 0x11 1 ≤ 63 ∧ (eventAttr (fld m 0x12 2)).isSome = true ∧ hearthEvent (fld m 0x12 2) = true ∧
      fld m 0x14 2 < 200 ∧ (siteRec s (fld m 0x14 2)).works = true) ∧
    (Begins (mailed 0x500 q) 0 0 0x500 (taken 0x500 q) ∧ hearthEvent (fld (taken 0x500 q).msg 0x12 2) = false ∧
      fld (taken 0x500 q).msg 0x14 2 = 0xFFFF) ∧
    gives (.counterWindowSet 0 0) s (fun t => (window t 0 63).selected && (window t 0 63).site == 199) = true := by
  unfold Begins; decide +kernel
theorem witness_Ring : let p : List Byte := [1, 0, 0, 0] ++ leBytes 4 65536 ++ leBytes 8 0x100000
    let s := mailed 0x501 p
    let m := (taken 0x501 p).msg
    (Begins s 0 0 0x501 (taken 0x501 p) ∧ namedTenant 0 m = 1 ∧ powerIn 64 65536 (fld m 0x14 4) = true ∧
      badBase s 1 (fld m 0x11 1 % 2 == 1) (fld m 0x18 8) = false ∧
      ringOutside s 1 (fld m 0x11 1 % 2 == 1) (fld m 0x18 8) (64 * fld m 0x14 4) = false) ∧
    gives (.ashRingConfig 0 0) s (fun t => (ashRing t 1).placed && (ashRing t 1).entries == 65536) = true := by unfold Begins; decide +kernel
theorem witness_Bucket : let p : List Byte := leBytes 4 3600
    (Begins (mailed 0x502 p) 0 0 0x502 (taken 0x502 p) ∧ 1 ≤ fld (taken 0x502 p).msg 0x10 2 ∧ fld (taken 0x502 p).msg 0x10 2 ≤ 3600) ∧
    gives (.ashBucketConfig 0 0) (mailed 0x502 p) (fun t => t.ash.leakS == 3600) = true := by unfold Begins; decide +kernel
theorem witness_Sweep : let p : List Byte := leBytes 4 10080
    (Begins (mailed 0x503 p) 0 0 0x503 (taken 0x503 p) ∧ 15 ≤ fld (taken 0x503 p).msg 0x10 4 ∧ fld (taken 0x503 p).msg 0x10 4 ≤ 10080) ∧
    gives (.sweepConfig 0 0) (mailed 0x503 p) (fun t => t.mem.passMin == 10080) = true ∧
    gives (.sweepConfig 0 0) (mailed 0x503 (leBytes 4 14)) (fun t => t.mem.passMin == 480) = true := by unfold Begins; decide +kernel
theorem witness_PlanRead : (Begins (mailed 0x504 []) 0 0 0x504 (taken 0x504 []) ∧ up.fpt.table = some .manufacture) ∧
    (planPayload .manufacture (readableSites up 0 0)).length ≤ 240 := by unfold Begins; decide +kernel

/-! ## Draught, chain and security commands -/

theorem witness_CapSet : let p : List Byte := leBytes 2 900 ++ leBytes 2 2560
    (Begins (mailed 0x600 p) 0 0 0x600 (taken 0x600 p) ∧ 900 ≤ fld (taken 0x600 p).msg 0x10 2 ∧ fld (taken 0x600 p).msg 0x10 2 ≤ 2200 ∧
      fld (taken 0x600 p).msg 0x12 2 ≤ 2560) ∧
    gives (.draughtCapSet 0 0) (mailed 0x600 p) (fun t => t.draught.mailboxCap == 900 && t.draught.margin == 2560) = true ∧
    gives (.draughtCapSet 0 0) (mailed 0x600 (leBytes 2 2201)) (fun t => t.draught.mailboxCap == 1800) = true := by unfold Begins; decide +kernel
theorem witness_RampSet : let p : List Byte := leBytes 2 2000 ++ [0]
    (Begins (mailed 0x601 p) 0 0 0x601 (taken 0x601 p) ∧ 150 ≤ fld (taken 0x601 p).msg 0x10 2 ∧ fld (taken 0x601 p).msg 0x10 2 ≤ 2000 ∧
      fld (taken 0x601 p).msg 0x12 1 ≤ 1) ∧
    gives (.draughtRampSet 0 0) (mailed 0x601 p) (fun t => t.draught.ramp == 2000 && !t.draught.banking) = true := by unfold Begins; decide +kernel
theorem witness_DraughtStatus : Begins (mailed 0x602 []) 0 0 0x602 (taken 0x602 []) ∧ answers (.draughtStatus 0 0) (mailed 0x602 []) = true := by
  unfold Begins; decide +kernel
/-- R418: CAUSE 2 is low flow. -/
theorem witness_TripTest : (Begins (mailed 0x603 [0, 2]) 0 0 0x603 (taken 0x603 [0, 2]) ∧ Begins (mailed 0x603 [1, 2]) 0 0 0x603 (taken 0x603 [1, 2]) ∧
      fld (taken 0x603 [1, 2]).msg 0x11 1 ≤ 2 ∧ tripCauses (mailed 0x603 [1, 2]) = 0 ∧ fld (taken 0x603 [0, 2]).msg 0x10 1 = 0 ∧
      fld (taken 0x603 [1, 2]).msg 0x10 1 = 1) ∧
    gives (.draughtTripTest 0 0) (mailed 0x603 [1, 2]) (fun t => t.ao.tripLatched && t.ao.tripCause == 4 && t.dev.state == .off) = true ∧
    gives (.draughtTripTest 0 0) (mailed 0x603 [0, 2]) (fun t => !t.ao.tripLatched && t.dev.state == .ready) = true := by unfold Begins; decide +kernel
theorem witness_PortConfig : let p : List Byte := [3, 1] ++ leBytes 2 0x9000 ++ leBytes 6 0x111213141516 ++ leBytes 6 0x212223242526
    (Begins (mailed 0x700 p) 0 0 0x700 (taken 0x700 p) ∧ fld (taken 0x700 p).msg 0x10 1 ≤ 3 ∧ fld (taken 0x700 p).msg 0x11 1 ≤ 1 ∧
      (chainPort (mailed 0x700 p) 3).window = [] ∧ (chainPort (mailed 0x700 p) 3).reads = []) ∧
    gives (.chainPortConfig 0 0) (mailed 0x700 p) (fun t => (chainPort t 3).etherType == 0x9000 && (chainPort t 3).src == 0x212223242526) = true := by
  unfold Begins; decide +kernel
theorem witness_Bind : let p : List Byte := [9, 0, 1, 3]
    (Begins (mailed 0x701 p) 0 0 0x701 (taken 0x701 p) ∧ fld (taken 0x701 p).msg 0x13 1 ≤ 3 ∧
      look (mailed 0x701 p).chain.domains (fld (taken 0x701 p).msg 0x10 2) = none ∧ boundCount (mailed 0x701 p) < 256) ∧
    gives (.chainDomainBind 0 0) (mailed 0x701 p) (fun t => t.epoch.waiting.map (·.action) == [.bind 9 1 3]) = true := by unfold Begins; decide +kernel

def domain9 : Domain := { tenant := 1, port := 3, exports := [(0, (1, true, true))] }
def bound : State := { up with chain := { up.chain with domains := [(9, domain9)] } }

theorem witness_Export : let p : List Byte := [9, 0, 63, 2, 1, 0]
    let q : List Byte := [9, 0, 0, 0, 0, 0]
    (Begins (mailedIn bound 0x702 p) 0 0 0x702 (taken 0x702 p) ∧ Begins (mailedIn bound 0x702 q) 0 0 0x702 (taken 0x702 q) ∧
      look bound.chain.domains (fld (taken 0x702 p).msg 0x10 2) = some domain9 ∧ fld (taken 0x702 p).msg 0x12 1 ≤ 63 ∧
      (region? (mailedIn bound 0x702 p) domain9.tenant (fld (taken 0x702 p).msg 0x14 2)).isSome = true ∧ fld (taken 0x702 q).msg 0x13 1 = 0) ∧
    gives (.chainDomainExport 0 0) (mailedIn bound 0x702 p) (fun t =>
      (look t.chain.domains 9).map (fun d => look d.exports 63) == some (some (1, false, true))) = true ∧
    gives (.chainDomainExport 0 0) (mailedIn bound 0x702 q) (fun t => (look t.chain.domains 9).map (·.exports) == some []) = true := by
  unfold Begins; decide +kernel
theorem witness_Unbind : (Begins (mailedIn bound 0x703 [9]) 0 0 0x703 (taken 0x703 [9]) ∧
      (look (mailedIn bound 0x703 [9]).chain.domains (fld (taken 0x703 [9]).msg 0x10 2)).isSome = true) ∧
    gives (.chainDomainUnbind 0 0) (mailedIn bound 0x703 [9]) (fun t => t.chain.domains.isEmpty) = true := by unfold Begins; decide +kernel
theorem witness_Attest : (Begins (mailed 0x800 []) 0 0 0x800 (taken 0x800 []) ∧ (mailed 0x800 []).dev.image = some img ∧
      fld (taken 0x800 []).msg 0x30 1 = 0 ∧ up.sec.zeroised = false ∧ up.sec.svcFail &&& 0x1E#5 = 0 ∧ up.sec.entropyRerun = false) ∧
    answers (.attestReport 0 0) (mailed 0x800 []) = true := by unfold Begins; decide +kernel
theorem witness_Zeroise : let p : List Byte := leBytes 4 0x5A45524F
    (Begins (mailed 0x801 p) 0 0 0x801 (taken 0x801 p) ∧ fld (taken 0x801 p).msg 0x10 4 = 0x5A45524F ∧ (tenant (mailed 0x801 p) 1).alive = true) ∧
    gives (.securityZeroise 0 0) (mailed 0x801 p) (fun t => t.sec.lotKeyBlown && t.sec.zeroised && (tenant t 1).halted) = true := by
  unfold Begins; decide +kernel

/-! ## SMBus -/

theorem witness_Smbus : (up.ao.vauxOk = true ∧ up.dev.image = some img ∧ up.dev.state ≠ .boot ∧ State.reset.dev.image = none ∧ (0 : Byte) ≠ 0xA5 ∧
      live up = true ∧ 900 ≤ (900#16).toNat ∧ (2200#16).toNat ≤ 2200 ∧ (899#16).toNat < 900 ∧ 2200 < (2201#16).toNat ∧
      railed.ao.vauxOk = true ∧ railed.ao.pwrGood = false) ∧
    gives (.smbStatus true) up (fun t => t.ao.smbReply == some [0x33#8]) = true ∧
    gives (.smbTripCause false) up (fun t => t.ao.smbReply == none) = true ∧
    gives (.smbBoardCap (some 900) true) up (fun t => t.ao.boardCap == 900) = true ∧
    gives (.smbBoardCap (some 2201) true) up (fun t => t.ao.boardCap == 2200 && t.ao.writeRejected) = true ∧
    gives (.smbFwLevel true) up (fun t => t.ao.smbReply == some [2, 4, 2, 0]) = true ∧
    gives (.smbResetReq 0 true true) up (fun t => t.ao.writeRejected && t.dev.state == .ready) = true ∧
    gives (.smbResetReq 0xA5 true false) up (fun t => t.dev.state == .failed && t.dev.cause == 1) = true ∧
    gives .alertResponseAddress (withAo fun a => { a with smbAlert := true, addrStrap := 5 }) (fun t => t.ao.smbReply == some [0xCA]) = true := by
  decide +kernel
theorem test_smbReads :
    gives (.smbPkgPower true) { up with draught := { up.draught with measured := 1234567 } } (fun t => t.ao.smbReply == some (leBytes 2 1234)) = true ∧
    gives (.smbThermalCycles true) up (fun t => t.ao.smbReply == some (List.replicate 8 0)) = true ∧
    gives (.smbTray true) (withAo fun a => { a with flow := 2000 }) (fun t => t.ao.smbReply == some ([0, 0, 0, 0] ++ leBytes 2 2000)) = true ∧
    gives (.smbTemps true) up (fun t => (t.ao.smbReply.map (·.length)) == some 10) = true := by decide +kernel

/-! ## Doorbells and apertures -/

/-- Tenant 1 with this queue 0. -/
def queued (q : Queue) : State := { up with work := { up.work with tenants := [(1, { tenant1 with queues := [(0, q)] })] } }

/-- R152: a full ring of 16 is allowed, one more and going back are not; a draining queue takes nothing. -/
theorem witness_SqTail : (queueOk 1 0 = true ∧ fnReachable up 1 = true ∧ live up = true ∧ (queue up 1 0).state ≠ .absent) ∧
    gives (.dblSqTailWrite 1 0 16) up (fun t => (queue t 1 0).sqTail == 16 && !(queue t 1 0).indexError) = true ∧
    gives (.dblSqTailWrite 1 0 17) up (fun t => (queue t 1 0).sqTail == 1 && (queue t 1 0).indexError) = true ∧
    gives (.dblSqTailWrite 1 0 0) up (fun t => (queue t 1 0).sqTail == 1 && (queue t 1 0).indexError) = true ∧
    gives (.dblSqTailWrite 1 0 32) up (fun t => (queue t 1 0).indexError) = true ∧
    gives (.dblSqTailWrite 1 0 2) (queued { ring with state := .draining }) (fun t => (queue t 1 0).sqTail == 1 && (queue t 1 0).indexError) = true := by
  decide +kernel
theorem witness_CqHead : let s := queued { ring with cqTail := 3 }
    (queueOk 1 0 = true ∧ fnReachable s 1 = true ∧ live s = true ∧ (queue s 1 0).state ≠ .absent) ∧
    gives (.dblCqHeadWrite 1 0 3) s (fun t => (queue t 1 0).cqHead == 3) = true ∧
    gives (.dblCqHeadWrite 1 0 4) s (fun t => (queue t 1 0).cqHead == 0 && (queue t 1 0).indexError) = true := by decide +kernel

/-- A dispatch of tenant 1 from queue 0. -/
def disp (id : Nat) (desc : List Byte) : Disp :=
  { id := id, tenant := 1, queue := 0, sqIndex := 0, desc := desc, started := 0, ended := false, endedAt := 0, working := [], unclaimed := false,
    reports := [], frames := 0, orphan := false }
def inFlight (ds : List Disp) : State := { up with work := { up.work with disps := ds, nextId := 100 } }

/-- WAIT for signal 255 to be at least 5. -/
def waitDesc : List Byte := [8, 0, 0, 0, 0, 0, 0, 0, 255, 0] ++ List.replicate 6 0 ++ leBytes 8 5 ++ leBytes 8 0 ++ List.replicate 32 0

theorem witness_Signal : let s := inFlight [disp 7 waitDesc]
    (queueOk 1 0 = true ∧ 255 < 256 ∧ fnReachable s 1 = true ∧ live s = true ∧ (tenant s 1).alive = true ∧ disp? s 7 = some (disp 7 waitDesc) ∧
      (disp 7 waitDesc).op = 8) ∧
    gives (.dblSignalWrite 1 255 4) s (fun t => signalOf t 1 255 == 4 && (disp? t 7).map (·.ended) == some false) = true ∧
    gives (.dblSignalWrite 1 255 5) s (fun t => (disp? t 7).map (·.ended) == some true) = true := by decide +kernel

theorem witness_ApertureRead : (16 ≤ 16 ∧ inBar2 mapped 1 0 32 = true ∧ live mapped = true ∧ backing mapped 1 0 32 = some (2 ^ 49) ∧
      backing mapped 1 (2 ^ 21 - 31) 32 = none ∧ inBar2 mapped 1 (2 ^ 21 - 31) 32 = true) ∧
    inBar2 { up with dev := { up.dev with state := .train } } 0 0 4 = true ∧
    gives (.apertureRead 1 (2 ^ 21 - 31) 32) mapped (fun t => t.pcie.bar2Data == List.replicate 32 0xFF && t.ash.flying.length == 1) = true ∧
    (∃ b s', readSpan (countT mapped 0xC02 1 1) 1 (2 ^ 49) 0 8 = (.bytes b, s')) :=
  ⟨by decide +kernel, by decide +kernel, by decide +kernel, _, _, rfl⟩
/-- A channel out of service reads as an uncorrectable word. -/
theorem witness_ApertureBad :
    let s := { mapped with fpt := { mapped.fpt with waiting := [{ unit := .hbmChannel 0, selfTest := false, at_ := 0 }] } }
    (readSpan (countT s 0xC02 1 1) 1 (2 ^ 49) 32 8).1 = .bad 4 := by decide +kernel
theorem witness_ApertureWrite : let bs : List Byte := List.replicate 32 9
    16 ≤ 16 ∧ inBar2 mapped 1 0 bs.length = true ∧ live mapped = true ∧ backing mapped 1 0 bs.length = some (2 ^ 49) ∧
      region? mapped 1 (regionOf (2 ^ 49)) = some hbmRegion ∧ offsetOf (2 ^ 49) + bs.length ≤ hbmRegion.size ∧ offsetOf (2 ^ 49) % 32 = 0 ∧
      placeOut mapped ((regionPlace hbmRegion 0).getD ⟨true, 0, 0, false, 0⟩) = false ∧ (regionPlace hbmRegion 0).isSome = true ∧
      backing mapped 1 (2 ^ 21) bs.length = none := by decide +kernel
theorem test_apertureWrite : gives (.apertureWrite 1 (2 ^ 21) [1]) mapped (fun t => t.mem == mapped.mem && t.ash.flying.length == 1) = true := by
  decide +kernel

/-! ## The dispatcher -/

def pad (bs : List Byte) : List Byte := bs ++ List.replicate (64 - bs.length) 0

/-- Queue 0 of tenant 1 has this descriptor at its head. -/
def posts (s : State) (b : List Byte) : State := { s with mem := { s.mem with host := Ram.open.write 0x1000 b } }
/-- The state with the descriptor admitted. -/
def admitted (s : State) (b : List Byte) : State := enterDisp (fetchDesc s 1 0).2 1 0 b

theorem fetches_of (s : State) (b : List Byte) (ht : nextTake s = some (1, 0)) (h : (fetchDesc s 1 0).1 = .bytes b) : Fetches s 1 0 b (admitted s b) :=
  ⟨rfl, ht, (fetchDesc s 1 0).2, Prod.ext h rfl, rfl⟩

/-- How dispatch 0 stands. -/
def endsWith (c : Instr) (s : State) (st : Status) (det site : Nat) : Bool :=
  gives c s fun t => (disp? t 0).map (fun d => (d.ended, d.reports)) == some (true, [⟨site, st, det⟩]) && (queue t 1 0).sqHead == 1 &&
    (queue t 1 0).inflight == 1
def goesOn (c : Instr) (s : State) : Bool := gives c s fun t => (disp? t 0).map (·.ended) == some false && (queue t 1 0).inflight == 1

/-- Reads of the ring's page fail. -/
theorem witness_FetchFails :
    let s := { up with mem := { up.mem with hostBad := [1] } }
    (queueOk 1 0 = true ∧ nextTake s = some (1, 0) ∧ (fetchDesc s 1 0).1 = .bad 6) ∧
      endsWith (.fence 1 0) s .aborted 0x0A 0xFFFF = true ∧ endsWith (.undefinedDescriptorOpcode 1 0) s .aborted 0x0A 0xFFFF = true := by
  decide +kernel
theorem witness_UndefinedOpcode :
    Fetches (posts up (pad [10])) 1 0 (pad [10]) (admitted (posts up (pad [10])) (pad [10])) ∧
      (fld (pad [0]) 0 1 = 0 ∧ 9 < fld (pad [10]) 0 1) ∧ endsWith (.undefinedDescriptorOpcode 1 0) (posts up (pad [10])) .aborted 2 0xFFFF = true ∧
      endsWith (.undefinedDescriptorOpcode 1 0) (posts up (pad [])) .aborted 2 0xFFFF = true :=
  ⟨fetches_of _ _ (by decide +kernel) (by decide +kernel), by decide +kernel, by decide +kernel, by decide +kernel⟩
/-- A reserved bit of each descriptor set: ABORTED, DETAIL 1 (R163). -/
theorem witness_FailedChecks : let s (k : Nat) := posts up (BitVec.ofNat 8 k :: 0 :: 1 :: List.replicate 61 0)
    Fetches (s 9) 1 0 (9 :: 0 :: 1 :: List.replicate 61 0) (admitted (s 9) (9 :: 0 :: 1 :: List.replicate 61 0)) ∧
      (takeRows 1 0)[9 - 1]? = some (.turnover 1 0) ∧
      firstFail (takeChecks (admitted (s 9) (9 :: 0 :: 1 :: List.replicate 61 0)) 1 (9 :: 0 :: 1 :: List.replicate 61 0)) = some (.aborted, 1, 0xFFFF) ∧
      (∀ k ∈ List.range 9, ((takeRows 1 0)[k]?).any (fun c => endsWith c (s (k + 1)) .aborted 1 0xFFFF) = true) :=
  ⟨fetches_of _ _ (by decide +kernel) (by decide +kernel), rfl, by decide +kernel, by decide +kernel⟩
theorem witness_NotItsTurn : nextTake (queued { ring with sqTail := 0 }) ≠ some (1, 0) ∧ queueOk 1 0 = true ∧
    gives (.copy 1 0) (queued { ring with sqTail := 0 }) (fun t => t == queued { ring with sqTail := 0 }) = true := by decide +kernel

/-- RUN_RECIPE on site 0 (package column 9), code in region 1. -/
def recipeDesc : List Byte := pad ([1] ++ List.replicate 7 0 ++ [0, 9, 1, 1, 1] ++ List.replicate 11 0 ++ leBytes 8 0x55)
theorem witness_RunRecipe : let s := posts up recipeDesc
    Fetches s 1 0 recipeDesc (admitted s recipeDesc) ∧ fld recipeDesc 0 1 = 1 ∧ firstFail (recipeChecks (admitted s recipeDesc) 1 recipeDesc) = none ∧
      usedRect s recipeDesc = [0] ∧ goesOn (.runRecipe 1 0) s = true :=
  ⟨fetches_of _ _ (by decide +kernel) (by decide +kernel), by decide +kernel, by decide +kernel, by decide +kernel, by decide +kernel⟩

/-- ANDIRON_BATCH on site 0 with model 0 and its batch at the start of region 1. -/
def batchDesc : List Byte := pad ([2] ++ List.replicate 7 0 ++ [0, 9, 1, 1] ++ List.replicate 4 0 ++ leBytes 8 (2 ^ 48))
/-- FK of one environment, results to staging (R282). -/
def batch : List Byte :=
  leBytes 4 0x31424441 ++ [0, 0, 1, 0] ++ leBytes 4 1 ++ leBytes 12 0 ++ leBytes 8 (2 ^ 48 + 4096) ++ leBytes 8 0 ++ leBytes 2 64 ++ leBytes 2 64 ++
    List.replicate 52 0
def batchState : State := let s := posts (stored batch) batchDesc
  { s with work := { s.work with tenants := [(1, { tenant1 with models := [(0, modelImage)] })] } }
theorem startsNow_empty (s : State) (tn q : Nat) (h : s.work.disps = []) : StartsNow s tn q :=
  ⟨⟨by simp [h], by simp [h]⟩, by simp [h]⟩

theorem witness_Batch : StartsNow batchState 1 0 ∧
    Fetches batchState 1 0 batchDesc (admitted batchState batchDesc) ∧ fld batchDesc 0 1 = 2 ∧
      firstFail (batchChecks (admitted batchState batchDesc) 1 batchDesc) = none ∧
      (let r := readSpan (admitted batchState batchDesc) 1 (fld batchDesc 0x10 8) 96 6
       r.1 = .bytes batch ∧ batchCheck r.2 1 (fld batchDesc 0x10 8) (lookD [] (tenant r.2 1).models (fld batchDesc 0xC 2)) batch (usedRect r.2 batchDesc) = none) ∧
      gives (.andironBatch 1 0) batchState (fun t => (hearth t 0).launches.map (·.lanes.length) == [16] && (disp? t 0).map (·.working) == some [0]) = true :=
  ⟨startsNow_empty _ _ _ rfl, fetches_of _ _ (by decide +kernel) (by decide +kernel), by decide +kernel, by decide +kernel, by decide +kernel, by decide +kernel⟩

/-- A DIE region of site 0 for embers, its program in region 1. -/
def dieRegion : Region := { sliceRegion with die := true, extents := [{ unit := 0, banks := [1], base := 0, count := 32 }] }
def emberState (b : List Byte) (prog : List Byte) : State := let s := posts (stored prog) b
  { s with work := { s.work with tenants := [(1, { tenant1 with regions := [(1, sliceRegion), (3, dieRegion)] })] } }
def emberDesc : List Byte := pad ([3] ++ List.replicate 7 0 ++ [3, 0] ++ List.replicate 6 0 ++ leBytes 8 (2 ^ 48) ++ leBytes 8 0 ++ leBytes 8 2048)
theorem witness_EmberRun : let s := emberState emberDesc []
    Fetches s 1 0 emberDesc (admitted s emberDesc) ∧ fld emberDesc 0 1 = 3 ∧ firstFail (emberChecks (admitted s emberDesc) 1 emberDesc) = none ∧
      goesOn (.emberRun 1 0) s = true :=
  ⟨fetches_of _ _ (by decide +kernel) (by decide +kernel), by decide +kernel, by decide +kernel, by decide +kernel⟩

/-- COPY of 64 bytes of host memory into region 1. -/
def copyDesc (sk dk dom : Nat) (src dst : Nat) : List Byte :=
  pad ([4] ++ List.replicate 7 0 ++ leBytes 8 src ++ leBytes 8 dst ++ leBytes 8 64 ++ leBytes 1 sk ++ leBytes 1 dk ++ [1, 0] ++ leBytes 2 dom)
def copyState : State :=
  { up with mem := { up.mem with host := (Ram.open.write 0x1000 (copyDesc 0 1 0 0x8000 (2 ^ 48))).write 0x8000 (List.replicate 64 0x77) } }
theorem witness_Copy : let b := copyDesc 0 1 0 0x8000 (2 ^ 48)
    StartsNow copyState 1 0 ∧ Fetches copyState 1 0 b (admitted copyState b) ∧ (fld b 0 1 = 4 ∧ firstFail (copyChecks (admitted copyState b) 1 b) = none ∧ fld b 0x20 1 ≠ 2 ∧
      fld b 0x21 1 ≠ 2) ∧ endsWith (.copy 1 0) copyState .done 0 0xFFFF = true ∧
      gives (.copy 1 0) copyState (fun t => (readSpan t 1 (2 ^ 48) 64 7).1 == .bytes (List.replicate 64 0x77)) = true :=
  ⟨startsNow_empty _ _ _ rfl, fetches_of _ _ (by decide +kernel) (by decide +kernel), by decide +kernel, by decide +kernel, by decide +kernel⟩

def upPort : ChainPort := { ChainPort.reset with state := .up, locked := true, rxAt := 10 ^ 13, txAt := 10 ^ 13 }
def chained (p : ChainPort) : State := { up with chain := { ports := [(3, p)], domains := [(9, domain9)] } }
theorem witness_ChainCopy : let b := copyDesc 2 0 9 0 0x8000
    let s := posts (chained upPort) b
    StartsNow s 1 0 ∧ Fetches s 1 0 b (admitted s b) ∧ (fld b 0 1 = 4 ∧ firstFail (copyChecks (admitted s b) 1 b) = none ∧ fld b 0x20 1 = 2 ∧
      look (admitted s b).chain.domains (fld b 0x24 2) = some domain9 ∧ (chainPort (admitted s b) domain9.port).state = .up) ∧
      gives (.copy 1 0) s (fun t => (chainPort t 3).waiting.length == 1 && (disp? t 0).map (·.frames) == some 2) = true :=
  ⟨startsNow_empty _ _ _ rfl, fetches_of _ _ (by decide +kernel) (by decide +kernel), by decide +kernel, by decide +kernel⟩
def fillDesc : List Byte := pad ([5] ++ List.replicate 7 0 ++ leBytes 8 (2 ^ 48) ++ leBytes 8 64 ++ List.replicate 32 0x11)
theorem witness_Fill : let s := posts up fillDesc
    StartsNow s 1 0 ∧ Fetches s 1 0 fillDesc (admitted s fillDesc) ∧ (fld fillDesc 0 1 = 5 ∧ firstFail (fillChecks (admitted s fillDesc) 1 fillDesc) = none) ∧
      gives (.fill 1 0) s (fun t => (readSpan t 1 (2 ^ 48) 64 7).1 == .bytes (List.replicate 64 0x11)) = true :=
  ⟨startsNow_empty _ _ _ rfl, fetches_of _ _ (by decide +kernel) (by decide +kernel), by decide +kernel, by decide +kernel⟩
/-- A FILL behind a RUN_RECIPE that waits for its claim waits too (R170). -/
theorem witness_FillBehind :
    let s := { posts up fillDesc with work := { (posts up fillDesc).work with disps := [{ disp 0 recipeDesc with unclaimed := true }], nextId := 1 } }
    Fetches s 1 0 fillDesc (admitted s fillDesc) ∧ FreshIds s ∧ (fld fillDesc 0 1 = 5 ∧ (takeRows 1 0)[5 - 1]? = some (.fill 1 0) ∧
      firstFail (takeChecks (admitted s fillDesc) 1 fillDesc) = none ∧ ∃ e ∈ s.work.disps, e.unclaimed = true ∧ e.tenant = 1 ∧ e.queue = 0 ∧ e.orphan = false) ∧
      gives (.fill 1 0) s (fun t => (disp? t 1).map (·.unclaimed) == some true && t.mem.slice == s.mem.slice) = true :=
  ⟨fetches_of _ _ (by decide +kernel) (by decide +kernel), ⟨by simp [disp], by simp⟩, by decide +kernel, by decide +kernel⟩

/-! ## FENCE, SIGNAL, WAIT, TURNOVER -/

/-- Another dispatch of the queue is in flight. -/
def after (s : State) : State := { s with work := { s.work with disps := [disp 0 (pad [4])], nextId := 1 } }

theorem freshIds_after (s : State) : FreshIds (after s) := ⟨by simp [after, disp], by simp [after]⟩
theorem witness_Fence : let s := posts up (pad [6])
    Fetches s 1 0 (pad [6]) (admitted s (pad [6])) ∧ (fld (pad [6]) 0 1 = 6 ∧ firstFail (takeChecks (admitted s (pad [6])) 1 (pad [6])) = none ∧
      s.work.disps = []) ∧ endsWith (.fence 1 0) s .done 0 0xFFFF = true :=
  ⟨fetches_of _ _ (by decide +kernel) (by decide +kernel), by decide +kernel, by decide +kernel⟩
theorem witness_FenceWaits : let s := after (posts up (pad [6]))
    Fetches s 1 0 (pad [6]) (admitted s (pad [6])) ∧ FreshIds s ∧ (firstFail (takeChecks (admitted s (pad [6])) 1 (pad [6])) = none ∧
      ∃ e ∈ s.work.disps, e.tenant = 1 ∧ e.queue = 0 ∧ e.orphan = false) ∧ gives (.fence 1 0) s (fun t => (disp? t 1).map (·.ended) == some false) = true :=
  ⟨fetches_of _ _ (by decide +kernel) (by decide +kernel), freshIds_after _, by decide +kernel, by decide +kernel⟩
def signalDesc (add : Byte) : List Byte := pad ([7, 0, 0, 0, 0, 0, 0, 0, 3, add] ++ List.replicate 6 0 ++ leBytes 8 5)
theorem witness_SignalDesc : let s := posts up (signalDesc 1)
    Fetches s 1 0 (signalDesc 1) (admitted s (signalDesc 1)) ∧ (fld (signalDesc 1) 0 1 = 7 ∧ s.work.disps = [] ∧
      firstFail (takeChecks (admitted s (signalDesc 1)) 1 (signalDesc 1)) = none) ∧
      gives (.signal 1 0) s (fun t => signalOf t 1 3 == 5) = true :=
  ⟨fetches_of _ _ (by decide +kernel) (by decide +kernel), by decide +kernel, by decide +kernel⟩
theorem witness_Wait : let s := posts up waitDesc
    let v := modTenant s 1 fun x => { x with signals := [(255, 5)] }
    Fetches s 1 0 waitDesc (admitted s waitDesc) ∧ FreshIds s ∧ Fetches v 1 0 waitDesc (admitted v waitDesc) ∧ FreshIds v ∧
      (fld waitDesc 0 1 = 8 ∧ firstFail (takeChecks (admitted s waitDesc) 1 waitDesc) = none ∧ firstFail (takeChecks (admitted v waitDesc) 1 waitDesc) = none) ∧
      goesOn (.wait 1 0) s = true ∧ endsWith (.wait 1 0) v .done 0 0xFFFF = true :=
  ⟨fetches_of _ _ (by decide +kernel) (by decide +kernel), by unfold FreshIds; decide +kernel, fetches_of _ _ (by decide +kernel) (by decide +kernel),
    by unfold FreshIds; decide +kernel, by decide +kernel, by decide +kernel, by decide +kernel⟩
def turnoverDesc : List Byte := pad ([9] ++ List.replicate 7 0 ++ [15])
theorem witness_Turnover : let s := posts up turnoverDesc
    Fetches s 1 0 turnoverDesc (admitted s turnoverDesc) ∧ (fld turnoverDesc 0 1 = 9 ∧
      firstFail (takeChecks (admitted s turnoverDesc) 1 turnoverDesc) = none) ∧ goesOn (.turnover 1 0) s = true :=
  ⟨fetches_of _ _ (by decide +kernel) (by decide +kernel), by decide +kernel, by decide +kernel⟩

/-! ## Completions and recipes -/

theorem witness_WaitTimeout : let d := { disp 7 (waitDesc.take 0x18 ++ leBytes 8 1000 ++ List.replicate 32 0) with started := 10 ^ 13 - 1000 }
    (disp? (inFlight [d]) 7 = some d ∧ d.op = 8 ∧ d.ended = false ∧ fld d.desc 0x18 8 ≠ 0 ∧ d.started + fld d.desc 0x18 8 ≤ (inFlight [d]).ao.devtime) ∧
      gives (.waitTimeout 7) (inFlight [d]) (fun t => (disp? t 7).map (fun e => e.reports.map (·.detail)) == some [4]) = true := by decide +kernel
theorem witness_TurnoverDrained : let d := disp 7 turnoverDesc
    let s := modHearth (inFlight [d]) 0 fun h => { h with weightPages := [(0, { words := [], die := false, valid := true })] }
    (disp? s 7 = some d ∧ d.op = 9 ∧ d.ended = false ∧ ∀ e ∈ s.work.disps, e.tenant = d.tenant → e.id = 7) ∧
      gives (.turnoverDrained 7) s (fun t => (tenant t 1).phase == 15 && t.work.disps.isEmpty && (hearth t 0).weightPages.all (!·.2.valid)) = true := by
  decide +kernel
theorem witness_Complete : let d := { disp 7 (pad [5]) with ended := true }
    (disp? (inFlight [d]) 7 = some d ∧ d.ended = true ∧ d.orphan = false ∧ (queue (inFlight [d]) 1 0).cqEntries ≠ 0 ∧
      (queue (inFlight [d]) 1 0).cqHbm = false ∧ hostReachable (inFlight [d]) 1 = true) ∧
      gives (.dispatchComplete 7) (inFlight [d]) (fun t => t.work.disps.isEmpty && (queue t 1 0).cqTail == 1) = true := by decide +kernel

/-- Site 0 with this hearth. -/
def hearthed (h : Hearth) : State := { up with hearths := [(0, h)] }

theorem witness_RecipeClaim : let d := { disp 7 recipeDesc with unclaimed := true }
    (disp? (inFlight [d]) 7 = some d ∧ d.op = 1 ∧ d.unclaimed = true ∧ rectOk (inFlight [d]) d.desc = true ∧
      (∀ x ∈ usedRect (inFlight [d]) d.desc, (hearth (inFlight [d]) x).disp = none) ∧ WaitsAlone (inFlight [d]) d ∧ (allRect d.desc)[0]? = some 0 ∧ 0 ∈ usedRect (inFlight [d]) d.desc) ∧
      gives (.recipeClaim 7) (inFlight [d]) (fun t => (hearth t 0).seq == .running && (hearth t 0).regs == [(3, 1), (4, 1), (5, 0x55)]) = true := by
  unfold WaitsAlone; decide +kernel
/-- A later recipe of the queue does not overtake it (R170); a FILL that waited behind a claim starts with it. -/
theorem witness_ClaimWaits :
    let d := { disp 7 recipeDesc with unclaimed := true }
    let e := { disp 6 recipeDesc with unclaimed := true }
    (disp? (inFlight [e, d]) 7 = some d ∧ e ∈ (inFlight [e, d]).work.disps ∧ e.unclaimed = true ∧ e.id < d.id ∧ e.orphan = d.orphan) ∧
      gives (.recipeClaim 7) (inFlight [e, d]) (fun t => t == inFlight [e, d]) = true ∧
      gives (.recipeClaim 7) (inFlight [d, { disp 8 fillDesc with unclaimed := true }])
        (fun t => (disp? t 8).map (·.ended) == some true) = true := by decide +kernel
/-- A site that retires ends the EMBER_RUN that waits for its token (R49). -/
theorem test_emberRunRetires : let s := { emberState emberDesc [] with work := { (emberState emberDesc []).work with disps := [{ disp 7 emberDesc with unclaimed := true }] } }
    ((disp? (retireSites s [0]) 7).any fun d => d.ended && d.reports.map (·.site) == [0] && d.reports.map (·.status) == [.hearthRetired]) = true := by decide +kernel
theorem witness_SiteEnd : let s := { hearthed { Hearth.reset with seq := .ending, disp := some 7, tenant := 1 } with
        work := { up.work with disps := [{ disp 7 recipeDesc with working := [0] }] } }
    ((hearth s 0).seq = .ending ∧ itemsDone (hearth s 0) = true ∧ (hearth s 0).disp = some 7 ∧ (hearth s 0).fails = [] ∧
      disp? s 7 = some { disp 7 recipeDesc with working := [0] }) ∧
      gives (.recipeSiteEnd 0) s (fun t => (hearth t 0).seq == .idle && (disp? t 7).map (·.ended) == some true) = true := by decide +kernel

/-- Site 0 executes from pc, with code region `code`, and the code's lines not yet in the buffer. -/
def fetching (pc : Word) (code : Nat) : Hearth := { Hearth.reset with seq := .running, disp := some 7, tenant := 1, codeRegion := code, pc := pc }
theorem witness_IbufFill : let s := { stored (List.replicate 256 1) with hearths := [(0, fetching 0xFC 1)] }
    (executing s 0 = true ∧ lineAt (hearth s 0) = none ∧ region? s 1 1 = some sliceRegion ∧ (0xFC : Nat) < sliceRegion.share ∧
      (readShare (countAt s 0x004 0 1) 1 0 (2 ^ 48 * 1 + 0) (min 256 sliceRegion.share) 1).1 = .bytes (List.replicate 256 1)) ∧
      gives (.ibufFill 0) s (fun t => (lineAt (hearth t 0)).isSome) = true := by decide +kernel

/-! ## Sequencer instructions: words by the fields of R198 -/

/-- A word: opcode, rd, ra, and bits 10-0. -/
def word (op rd ra low : Nat) : Nat := op * 2 ^ 26 + rd * 2 ^ 16 + ra * 2 ^ 11 + low
/-- A word guarded by P6: on where P6 is 1 (N = 0), or where it is 0 (N = 1). -/
def onP6 (w n : Nat) : Nat := w + 2 ^ 25 + n * 2 ^ 24 + 6 * 2 ^ 21

/-- The sequencer of site 0 at pc 0x10 with this word there, staging of zeros and some registers. -/
def seqH (w : Nat) (regs : SMap Word) : Hearth :=
  { fetching 0x10 9 with ibuf := [(0, 0, List.replicate 16 0 ++ leBytes 4 w ++ List.replicate 236 0)], regs := regs, staging := .zero }
def seqS (w : Nat) (regs : SMap Word) : State := hearthed (seqH w regs)
/-- The command leaves rd 9 with a value, and pc at the next word. -/
def sets9 (c : Instr) (s : State) (v : Word) : Bool := gives c s fun t => getG (hearth t 0) 9 == v && (hearth t 0).pc == 0x14

/-- R200: ADD, SUB, AND, OR, XOR, SLL, SRL, SRA, MUL, MULHU, MIN, MAX, MINU, MAXU of -8 and 3. -/
theorem witness_Alu : Runs (seqS (word 1 9 1 (2 * 64 + 13)) []) 0 (word 1 9 1 (2 * 64 + 13)) 1 ∧
    ([-5, -11, 0, -5, -5, -64, 0x1FFFFFFFFFFFFFFF, -1, -24, 2, -8, 3, 3, -8] : List Int) =
      (List.range 14).map fun fn => match exec (.alu 0) (seqS (word 1 9 1 (2 * 64 + fn)) [(1, -8), (2, 3)]) with
        | .next t => (getG (hearth t 0) 9).toInt | _ => 0 := by unfold Runs; decide +kernel
theorem witness_Immediates : Runs (seqS (word 2 9 1 0x7FF) []) 0 (word 2 9 1 0x7FF) 2 ∧ Runs (seqS (word 3 9 1 0) []) 0 (word 3 9 1 0) 3 ∧
    Runs (seqS (word 4 9 1 0) []) 0 (word 4 9 1 0) 4 ∧ Runs (seqS (word 5 9 1 0) []) 0 (word 5 9 1 0) 5 ∧
    sets9 (.addi 0) (seqS (word 2 9 1 0x7FF) [(1, 0)]) (-1) = true ∧ sets9 (.andi 0) (seqS (word 3 9 1 0x400) [(1, -1)]) (-1024) = true ∧
    sets9 (.ori 0) (seqS (word 4 9 1 5) [(1, 2)]) 7 = true ∧ sets9 (.xori 0) (seqS (word 5 9 1 0x7FF) [(1, 2)]) (-3) = true := by
  unfold Runs; decide +kernel
theorem witness_Shifts : (bf (word 6 9 1 63) 6 5 = 0 ∧ Runs (seqS (word 6 9 1 63) []) 0 (word 6 9 1 63) 6 ∧
      Runs (seqS (word 7 9 1 63) []) 0 (word 7 9 1 63) 7 ∧ Runs (seqS (word 8 9 1 63) []) 0 (word 8 9 1 63) 8) ∧
    sets9 (.slli 0) (seqS (word 6 9 1 63) [(1, 3)]) 0x8000000000000000 = true ∧ sets9 (.srli 0) (seqS (word 7 9 1 63) [(1, -1)]) 1 = true ∧
    sets9 (.srai 0) (seqS (word 8 9 1 63) [(1, -5)]) (-1) = true := by unfold Runs; decide +kernel
/-- MOVI sign-extends; MOVK1 replaces bits 31-16 only; a result for g0 is discarded. -/
theorem witness_Moves : (Runs (seqS (word 9 9 0 0x8000) []) 0 (word 9 9 0 0x8000) 9 ∧ Runs (seqS (word 0xA 9 0 1) []) 0 (word 0xA 9 0 1) (0xA + 0) ∧
      Runs (seqS (word 0xD 9 0 1) []) 0 (word 0xD 9 0 1) (0xA + 3)) ∧
    sets9 (.movi 0) (seqS (word 9 9 0 0x8000) []) (-32768) = true ∧ sets9 (.movk1 0) (seqS (word 0xB 9 0 0x1234) [(9, -1)]) 0xFFFFFFFF1234FFFF = true ∧
    sets9 (.movk0 0) (seqS (word 0xA 9 0 0x1234) [(9, -1)]) 0xFFFFFFFFFFFF1234 = true ∧
    sets9 (.movk2 0) (seqS (word 0xC 9 0 0x1234) []) 0x123400000000 = true ∧ sets9 (.movk3 0) (seqS (word 0xD 9 0 0x1234) []) 0x1234000000000000 = true ∧
    gives (.movi 0) (seqS (word 9 0 0 7) []) (fun t => getG (hearth t 0) 0 == 0 && (hearth t 0).pc == 0x14) = true := by unfold Runs; decide +kernel

/-- CMP: Pd at bit 18, ra at 13, rb at 8, cond at 5. CMPI: the same ra, cond at 10, 10 bits. PLOG: Pd, Pa at 15, Pb at 12. -/
def cmpW (c : Nat) : Nat := 0x10 * 2 ^ 26 + 7 * 2 ^ 18 + 1 * 2 ^ 13 + 2 * 2 ^ 8 + c * 2 ^ 5
def cmpiW (c i : Nat) : Nat := 0x11 * 2 ^ 26 + 7 * 2 ^ 18 + 1 * 2 ^ 13 + c * 2 ^ 10 + i
def p7 (c : Instr) (s : State) : Bool := gives c s fun t => (hearth t 0).preds.getLsbD 7
theorem witness_Compare : (Runs (seqS (cmpW 5) []) 0 (cmpW 5) 0x10 ∧ bf (cmpW 5) 0 5 = 0 ∧ bf (cmpW 5) 5 3 ≤ 5 ∧ Runs (seqS (cmpiW 5 0) []) 0 (cmpiW 5 0) 0x11 ∧
      bf (cmpiW 5 0) 10 3 ≤ 5 ∧ 6 ≤ bf (cmpW 6) 5 3 ∧ Runs (seqS (cmpW 6) []) 0 (cmpW 6) 0x10 ∧ 6 ≤ bf (cmpiW 6 0) 10 3 ∧
      Runs (seqS (cmpiW 6 0) []) 0 (cmpiW 6 0) 0x11) ∧
    ((List.range 6).map fun c => p7 (.cmp 0) (seqS (cmpW c) [(1, -1), (2, 1)])) = [false, true, true, false, false, true] ∧
    ((List.range 6).map fun c => p7 (.cmpi 0) (seqS (cmpiW c 0x3FF) [(1, 1)])) = [false, true, false, true, true, false] ∧
    gives (.cmp 0) (hearthed { seqH (cmpW 6) [] with tvec := 0x40 }) (fun t => (hearth t 0).pc == 0x40 && (hearth t 0).tcause == 1 && (hearth t 0).inTrap) = true := by
  unfold Runs; decide +kernel
def plogW (f : Nat) : Nat := 0x12 * 2 ^ 26 + 7 * 2 ^ 18 + 1 * 2 ^ 15 + 2 * 2 ^ 12 + f
theorem witness_Plog : (Runs (seqS (plogW 5) []) 0 (plogW 5) 0x12 ∧ bf (plogW 5) 4 8 = 0 ∧ bf (plogW 5) 0 4 ≤ 5) ∧
    ((List.range 6).map fun f => p7 (.plog 0) (hearthed { seqH (plogW f) [] with preds := 2 })) = [false, true, true, true, true, false] := by
  unfold Runs; decide +kernel
theorem witness_Guards : let w := onP6 (word 9 9 0 7) 0
    let v := onP6 (word 9 9 0 7) 1
    let bad := word 9 9 0 7 + 2 ^ 21
    (((9, Instr.movi) : Nat × (Nat → Instr)) ∈ seqRows) ∧
    ((executing (seqS w []) 0 = true ∧ cachedWord (hearth (seqS w []) 0) = some w ∧ staleCode (seqS w []) 0 w = false) ∧
      (opcodeOf w = 9 ∧ bf w 25 1 = 1 ∧ ((hearth (seqS w []) 0).preds.getLsbD (bf w 21 3) = true ↔ bf w 24 1 = 1)) ∧
      (opcodeOf bad = 9 ∧ bf bad 25 1 = 0 ∧ bf bad 21 4 ≠ 0) ∧ opcodeOf w ≠ 2 ∧ executing up 0 = false) ∧
    gives (.movi 0) (seqS w []) (fun t => getG (hearth t 0) 9 == 0 && (hearth t 0).pc == 0x14) = true ∧
    sets9 (.movi 0) (seqS v []) 7 = true ∧ gives (.addi 0) (seqS w []) (fun t => t == seqS w []) = true :=
  ⟨by simp [seqRows], by decide +kernel, by decide +kernel, by decide +kernel, by decide +kernel⟩

/-- R201: the last doubleword of staging; an odd address and one past the end do not fit. -/
theorem witness_Staging : let ld := word 0x18 9 1 0
    let st := word 0x1A 2 1 0
    let lw := word 0x19 9 1 1
    let sw := word 0x1B 2 1 1
    (((0x18, 8, Instr.lds) : Nat × Nat × (Nat → Instr)) ∈ stagingLoads ∧ ((0x1B, 4, Instr.sws) : Nat × Nat × (Nat → Instr)) ∈ stagingStores) ∧
    (Runs (seqS ld [(1, 0x7FFFF8)]) 0 ld 0x18 ∧ stagingUe (seqH ld []) 0x7FFFF8 8 = false ∧ (0x7FFFF8 : Nat) < 0x800000 ∧
      Runs (seqS lw []) 0 lw 0x19 ∧ Runs (seqS st [(1, 0x7FFFF8)]) 0 st 0x1A ∧ Runs (seqS sw []) 0 sw 0x1B ∧
      overtaken (seqS ld [(1, 0x7FFFF8)]) 0 16 0 = [] ∧ (seqH ld []).races = [] ∧
      Runs (seqS ld [(1, 0x800000)]) 0 ld 0x18 ∧ Runs (seqS st [(1, 4)]) 0 st 0x1A) ∧
    sets9 (.lds 0) (hearthed { seqH ld [(1, 0x7FFFF8)] with staging := Ram.zero.write 0x7FFFF8 (leBytes 8 0x1122334455667788) }) 0x1122334455667788 = true ∧
    sets9 (.lws 0) (hearthed { seqH lw [] with staging := Ram.zero.write 4 (leBytes 4 0xFFEEDDCC) }) 0xFFEEDDCC = true ∧
    gives (.sts 0) (seqS st [(1, 0x7FFFF8), (2, 0xAABB)]) (fun t => (hearth t 0).staging.read 0 0x7FFFF8 8 == leBytes 8 0xAABB) = true ∧
    gives (.sws 0) (seqS sw [(2, -1)]) (fun t => (hearth t 0).staging.read 0 0 12 == leBytes 4 0 ++ List.replicate 4 0xFF ++ leBytes 4 0) = true ∧
    gives (.lds 0) (hearthed { seqH ld [(1, 0x800000)] with tvec := 0x40 }) (fun t => (hearth t 0).tcause == 2 && (hearth t 0).tval == 0x800000) = true :=
  ⟨by simp [stagingLoads, stagingStores], by unfold Runs; decide +kernel, by decide +kernel, by decide +kernel, by decide +kernel, by decide +kernel,
    by decide +kernel⟩

/-- Region 1 begins with 64 bytes; site 0 has this hearth. -/
def storedH (h : Hearth) : State := { stored (List.replicate 64 0x5A) with hearths := [(0, h)] }
theorem witness_Region : let ld := word 0x1C 9 1 1
    let st := word 0x1E 2 1 1
    let at_ : SMap Word := [(1, BitVec.ofNat 64 (2 ^ 48)), (2, 7)]
    let p : Place := { hbm := false, unit := 0, addr := 0, die := false, key := 0 }
    (((0x1C, 8, Instr.ldr) : Nat × Nat × (Nat → Instr)) ∈ regionLoads ∧ ((0x1F, 4, Instr.swr) : Nat × Nat × (Nat → Instr)) ∈ regionStores) ∧
    ((Runs (storedH (seqH ld at_)) 0 ld 0x1C ∧ Runs (storedH (seqH st at_)) 0 st 0x1E ∧ region? (storedH (seqH ld at_)) 1 1 = some sliceRegion ∧
      offsetOf (2 ^ 48 + 8) + 8 ≤ sliceRegion.size ∧ regionPlace sliceRegion 0 = some p ∧
      peek (storedH (seqH ld at_)) p = .data (bytesLine (List.replicate 32 0x5A)) ∧ HasTag (storedH (seqH ld at_)) 0 p ∧
      Calm (storedH (seqH ld at_)) 0 16 0 ∧ touched (storedH (seqH st at_)) p = false) ∧
      (Runs (seqS ld [(1, 1)]) 0 ld 0x1C ∧ Runs (seqS ld []) 0 ld 0x1C ∧ region? up 1 0 = none)) ∧
    sets9 (.ldr 0) (storedH (seqH ld at_)) 0x5A5A5A5A5A5A5A5A = true ∧
    sets9 (.lwr 0) (storedH (seqH (word 0x1D 9 1 1) at_)) 0x5A5A5A5A = true ∧
    gives (.str 0) (storedH (seqH st at_)) (fun t => peek t p == .data (bytesLine (List.replicate 8 0x5A ++ leBytes 8 7 ++ List.replicate 16 0x5A))) = true ∧
    gives (.swr 0) (storedH (seqH (word 0x1F 2 1 1) at_)) (fun t => peek t p == .data (bytesLine (List.replicate 4 0x5A ++ leBytes 4 7 ++ List.replicate 24 0x5A))) = true ∧
    gives (.ldr 0) (seqS ld []) (fun t => (hearth t 0).seq == .idle) = true :=
  ⟨by simp [regionLoads, regionStores], by unfold Runs HasTag Calm; decide +kernel, by decide +kernel, by decide +kernel, by decide +kernel, by decide +kernel,
    by decide +kernel⟩

/-- R254: a store into a word that a running ember program reads leaves it contested; R179: without a tag HBM is out of reach. -/
theorem witness_Contested : let st := word 0x1E 2 1 1
    let at_ : SMap Word := [(1, BitVec.ofNat 64 (2 ^ 48)), (2, 7)]
    let p : Place := { hbm := false, unit := 0, addr := 0, die := false, key := 0 }
    let r : EmberRun := { entry := 5, banks := [], bank := 0, s := 0, n := 1, i := 0, j := 0, regs := [], merge := [], touch := [(0, 1)] }
    let s := storedH { seqH st at_ with emberRuns := [(0, r)] }
    (Runs s 0 st 0x1E ∧ regionPlace sliceRegion 0 = some p ∧ (peek s p == .bad 1) = false ∧ HasTag s 0 p ∧ touched s p = true) ∧
    gives (.str 0) s (fun t => t.mem.contested == [0]) = true := by unfold Runs HasTag; decide +kernel
theorem witness_NoTag : let ld := word 0x1C 9 1 1
    let full : List TagUse := [⟨3, 9, 256, false, 0⟩]
    let s := { stored (List.replicate 64 0x5A) with hearths := [(5, { seqH ld [(1, BitVec.ofNat 64 (2 ^ 48))] with tags := full })] }
    (Runs s 5 ld 0x1C ∧ regionPlace sliceRegion 0 = some { hbm := false, unit := 0, addr := 0, die := false, key := 0 } ∧ tagsFree (hearth s 5) = 0) ∧
    gives (.ldr 5) s (fun t => t == s) = true := by unfold Runs; decide +kernel

theorem witness_Control : let br := 0x20 * 2 ^ 26 + (2 ^ 21 - 4)
    let call := 0x21 * 2 ^ 26 + 16
    let jr := word 0x22 0 1 0
    (Runs (seqS br []) 0 br 0x20 ∧ Runs (seqS call []) 0 call 0x21 ∧ Runs (seqS jr [(1, 0x80)]) 0 jr 0x22 ∧ bf jr 0 11 = 0 ∧ rdOf jr = 0 ∧
      (getG (seqH jr [(1, 0x80)]) (raOf jr)).toNat % 4 = 0 ∧ (getG (seqH jr [(1, 2)]) (raOf jr)).toNat % 4 ≠ 0) ∧
    gives (.br 0) (seqS br []) (fun t => (hearth t 0).pc == 0) = true ∧
    gives (.call 0) (seqS call []) (fun t => (hearth t 0).pc == 0x50 && getG (hearth t 0) 31 == 0x14) = true ∧
    gives (.jr 0) (seqS jr [(1, 0x80)]) (fun t => (hearth t 0).pc == 0x80) = true := by unfold Runs; decide +kernel
theorem witness_Plain : let w (op : Nat) := op * 2 ^ 26
    (bf (w 0x38) 0 21 = 0 ∧ Runs (seqS (w 0x38) []) 0 (w 0x38) 0x38 ∧ Runs (seqS (w 0x3D) []) 0 (w 0x3D) 0x3D ∧ Runs (seqS (w 0x3E) []) 0 (w 0x3E) 0x3E ∧
      Runs (seqS (w 0x3F) []) 0 (w 0x3F) 0x3F) ∧
    gives (.iflush 0) (seqS (w 0x38) []) (fun t => (hearth t 0).ibuf.isEmpty && (hearth t 0).pc == 0x14) = true ∧
    gives (.rte 0) (hearthed { seqH (w 0x3D) [] with inTrap := true, tpc := 0x30 }) (fun t => !(hearth t 0).inTrap && (hearth t 0).pc == 0x30) = true ∧
    gives (.nop 0) (seqS (w 0x3E) []) (fun t => (hearth t 0).pc == 0x14) = true ∧
    gives (.endRecipe 0) (seqS (w 0x3F) []) (fun t => (hearth t 0).seq == .ending && (hearth t 0).pc == 0x10) = true := by unfold Runs; decide +kernel
/-- R197: SITE (7), QUAD_MASK (8) and PHASE (10); a write of STICKY clears where the value is 0. -/
theorem witness_Specials : let w (op sr : Nat) := op * 2 ^ 26 + 9 * 2 ^ 16 + sr * 2 ^ 8
    (bf (w 0x30 10) 0 8 = 0 ∧ Runs (seqS (w 0x30 10) []) 0 (w 0x30 10) 0x30 ∧ bf (w 0x30 10) 8 8 ≤ 10 ∧ bf (w 0x30 10) 8 8 ≠ 6 ∧
      Runs (seqS (w 0x30 6) []) 0 (w 0x30 6) 0x30 ∧ bf (w 0x30 6) 8 8 = 6 ∧ 8 ≤ (seqS 0 []).ao.devtime ∧ (seqS 0 []).ao.devtime + 8 < 2 ^ 64 ∧
      Runs (seqS (w 0x31 5) []) 0 (w 0x31 5) 0x31 ∧ bf (w 0x31 5) 8 8 = 5) ∧
    sets9 (.mfs 0) (seqS (w 0x30 7) []) 0 = true ∧ sets9 (.mfs 0) (seqS (w 0x30 8) []) 0xF = true ∧ sets9 (.mfs 0) (seqS (w 0x30 9) []) 0xFFFF = true ∧
    gives (.mts 0) (hearthed { seqH (w 0x31 5) [(9, 5)] with sticky := 6 }) (fun t => (hearth t 0).sticky == 4) = true := by unfold Runs; decide +kernel
theorem witness_TrapIllegal : let w := 0x3C * 2 ^ 26 + 0x7F
    let u := 0x0E * 2 ^ 26
    (Runs (seqS w []) 0 w 0x3C ∧ bf w 7 14 = 0 ∧ Runs (seqS u []) 0 u (opcodeOf u) ∧ opcodeOf u ∉ seqRows.map (·.1)) ∧
    gives (.trap 0) (hearthed { seqH w [] with tvec := 0x40 }) (fun t => (hearth t 0).tcause == 0xFF && (hearth t 0).tpc == 0x10 && (hearth t 0).pc == 0x40) = true ∧
    gives (.illegal 0) (hearthed { seqH u [] with tvec := 0x40 }) (fun t => (hearth t 0).tcause == 1) = true ∧
    gives (.trap 0) (seqS w []) (fun t => (hearth t 0).seq == .idle) = true :=
  ⟨by unfold Runs; refine ⟨by decide +kernel, by decide +kernel, by decide +kernel, by simp [seqRows, opcodeOf, bf]⟩, by decide +kernel, by decide +kernel, by decide +kernel⟩

/-- A vector ADD of one row of eight: operands at 0x1000 and 0x2000, result at 0x3000 (R205). -/
def vecBlock (op rows cols : Nat) : List Byte :=
  leBytes 4 op ++ leBytes 2 rows ++ leBytes 2 cols ++ leBytes 4 0x1000 ++ leBytes 4 0x2000 ++ leBytes 4 0 ++ leBytes 4 0x3000 ++ leBytes 8 0
/-- ISSUE to queue q: the block's address in ra. -/
def issueW (q : Nat) : Nat := word 0x28 9 1 0 + q * 2 ^ 7
def issueS (b : List Byte) (qs : SMap (List Item)) : State := hearthed { seqH (issueW 1) [(1, 0x100)] with staging := Ram.zero.write 0x100 b, queues := qs }
def item (n : Nat) (b : List Byte) (started : Bool) : Item := { num := n, block := b, started := started, done := false, quad := 0, waited := [], before := [] }
theorem witness_Issue : let b := vecBlock 0 1 8
    let bad := vecBlock 15 1 8
    let full : SMap (List Item) := [(1, (List.range 64).map fun i => item (i + 1) b false)]
    (Runs (issueS b []) 0 (issueW 1) 0x28 ∧ bf (issueW 1) 0 7 = 0 ∧ qOf (issueW 1) = 1 ∧ queueNumber 1 = true ∧
      (getG (hearth (issueS b []) 0) (raOf (issueW 1))).toNat = 0x100 ∧ (hearth (issueS b []) 0).staging.unlisted.isSome = true ∧
      stagingUe (hearth (issueS b []) 0) 0x100 32 = false ∧ Calm (issueS b []) 0 16 0 ∧ Calm (issueS b full) 0 16 0 ∧ (hearth (issueS b []) 0).staging.read (issueS b []).free 0x100 32 = b) ∧
    (badItem (issueS b []) 0 1 b = none ∧ itemAbsent (issueS b []) 0 1 b = none ∧ itemProt (issueS b []) 0 1 b = none ∧
      creditFree (hearth (issueS b []) 0) 1 = true ∧ creditFree (hearth (issueS b full) 0) 1 = false ∧ (badItem (issueS bad []) 0 1 bad).isSome = true) ∧
    gives (.issue 0) (issueS b []) (fun t => getG (hearth t 0) 9 == 1 && (lookD [] (hearth t 0).queues 1).map (·.block) == [b]) = true ∧
    gives (.issue 0) (issueS b full) (fun t => t == issueS b full) = true ∧
    gives (.issue 0) (hearthed { (hearth (issueS bad []) 0) with tvec := 0x40 }) (fun t => (hearth t 0).tcause == 5) = true := by
  unfold Runs Calm; decide +kernel
theorem witness_Waits : let wq := word 0x29 0 1 0 + 8 * 2 ^ 7
    let wf := word 0x2B 0 1 0 + 15 * 2 ^ 7
    let rq := word 0x2A 9 0 0 + 15 * 2 ^ 7
    let rf := word 0x2C 9 0 0 + 15 * 2 ^ 7
    let h (w issued completed : Nat) := { seqH w [(1, 2)] with issued := [(8, issued), (15, 3)], completed := [(8, completed), (15, 3)], arrival := [(15, 4)] }
    (Runs (hearthed (h wq 2 2)) 0 wq 0x29 ∧ bf wq 0 7 = 0 ∧ rdOf wq = 0 ∧ queueNumber (qOf wq) = true ∧ Runs (hearthed (h wf 0 0)) 0 wf 0x2B ∧
      bf rq 0 7 = 0 ∧ raOf rq = 0 ∧ Runs (hearthed (h rq 0 0)) 0 rq 0x2A ∧ queueNumber (qOf rq) = true ∧ Runs (hearthed (h rf 0 0)) 0 rf 0x2C) ∧
    gives (.waitq 0) (hearthed (h wq 2 2)) (fun t => (hearth t 0).pc == 0x14 && (hearth t 0).waited == [(8, 2)]) = true ∧ gives (.waitq 0) (hearthed (h wq 2 1)) (fun t => (hearth t 0).pc == 0x10) = true ∧
    gives (.waitq 0) (hearthed { h wq 1 1 with tvec := 0x40 }) (fun t => (hearth t 0).tcause == 6) = true ∧
    gives (.waitf 0) (hearthed (h wf 0 0)) (fun t => (hearth t 0).pc == 0x14) = true ∧
    sets9 (.rdq 0) (hearthed (h rq 0 0)) 3 = true ∧ sets9 (.rdf 0) (hearthed (h rf 0 0)) 4 = true := by unfold Runs; decide +kernel
/-- WAITF below its target waits. -/
theorem witness_WaitfWaits : let w := word 0x2B 0 1 0
    Runs (seqS w [(1, 1)]) 0 w 0x2B ∧ gives (.waitf 0) (seqS w [(1, 1)]) (fun t => t == seqS w [(1, 1)]) = true := by unfold Runs; decide +kernel

/-! ## Engines of a hearth -/

/-- A staging with the bytes of operands at 0x1000 and 0x2000. -/
def operands (a b : List Byte) : Ram := (Ram.zero.write 0x1000 a).write 0x2000 b
def engineH (q : Nat) (it : Item) (st : Ram) : Hearth := { fetching 0 9 with queues := [(q, [it])], staging := st }
def engineS (q : Nat) (it : Item) (st : Ram) : State := hearthed (engineH q it st)

/-- INT8, 1 row by 16 columns, K of 16: A at 0x1000, C at 0x3000, weights in page 0x2000; bit 3 KEEP clear, ZERO_C0 and FROM_PAGES set (R203). -/
def tileBlock (quad : Nat) : List Byte :=
  [1, BitVec.ofNat 8 (quad + 32 + 64), 0, 1, 1, 0] ++ leBytes 2 1 ++ leBytes 4 0x1000 ++ leBytes 4 0x3000 ++ leBytes 8 0 ++ leBytes 4 0x2000 ++ leBytes 4 0
/-- A: 1 to 16 in the first row; W: column j is all j. -/
def tileStaging : Ram := operands ((List.range 16).map fun i => BitVec.ofNat 8 (i + 1)) ((List.range 512).map fun i => BitVec.ofNat 8 (i / 32))

theorem witness_TileStart : let s (q : Nat) := engineS 0 (item 1 (tileBlock q) false) tileStaging
    (item? (s 3) 0 0 1 = some (item 1 (tileBlock 3) false) ∧ engineFree (s 3) 0 = true ∧ earlierStarted (s 3) 0 0 1 = true ∧
      ((tileOf (tileBlock 3)).serial = true → earlierDoneItems (s 3) 0 0 1 = true) ∧ (tileOf (tileBlock 3)).quad = 3 ∧ quadLive (s 3) 0 3 = true ∧
      quadBusy (s 3) 0 3 = false ∧ 4 ≤ (tileOf (tileBlock 7)).quad ∧ (quadOrder (s 7) 0).find? (fun y => !quadBusy (s 7) 0 y) = some 0) ∧
    gives (.tileStart 0 1) (s 3) (fun t => (lookD [] (hearth t 0).queues 0).map (fun i => (i.started, i.quad)) == [(true, 3)]) = true := by decide +kernel
/-- R188, R189: C[0][j] is the sum of i times j, 136 j. -/
theorem witness_TileComplete : let s := engineS 0 (item 1 (tileBlock 0) true) tileStaging
    let x := tileOf (tileBlock 0)
    (siteLive s 0 = true ∧ item? s 0 0 1 = some (item 1 (tileBlock 0) true) ∧ (runTile s 0 (item 1 (tileBlock 0) true)).1 = none ∧ Calm s 0 0 1 ∧ x.fromPages = true ∧
      (hearth s 0).weightPages = [] ∧ x.keep = false ∧ x.status = false ∧ x.zeroC0 = true ∧ 4 * x.n ≤ x.pitch ∧ x.format = 1 ∧ x.wBytes = 512 ∧
      (hearth s 0).staging.unlisted.isSome = true ∧ stagingUe (hearth s 0) x.page x.wBytes = false ∧ stagingUe (hearth s 0) x.a (x.m * x.rowBytes) = false) ∧
    ((List.range 16).all fun j => (tileElem x ((List.range 16).map fun i => BitVec.ofNat 8 (i + 1)) (List.replicate 16 (BitVec.ofNat 8 j)) 0).1 ==
      BitVec.ofNat 32 (136 * j)) = true := by unfold Calm; decide +kernel
/-- R193: once at a multiple of 2 ms, and not a nanosecond later. -/
theorem witness_Rotation : let late := { up with ao := { up.ao with devtime := up.ao.devtime + 1 } }
    let again := { up with fabric := { up.fabric with rotatedAt := some up.ao.devtime } }
    (up.dev.state ≠ .off ∧ up.ao.devtime % 2000000 = 0 ∧ up.fabric.rotatedAt ≠ some up.ao.devtime ∧ late.ao.devtime % 2000000 ≠ 0) ∧
    gives .quadrantRotation up (fun t => t.fabric.rotation == 1) = true ∧ gives .quadrantRotation late (fun t => t == late) = true ∧
    gives .quadrantRotation again (fun t => t == again) = true := by decide +kernel

/-- Eight words of binary32: 1.0 and 2.0. -/
def ones32 : List Byte := (List.range 8).flatMap fun _ => leBytes 4 0x3F800000
def twos32 : List Byte := (List.range 8).flatMap fun _ => leBytes 4 0x40000000
def vecS (op rows cols : Nat) (started : Bool) : State := engineS 1 (item 1 (vecBlock op rows cols) started) (operands ones32 twos32)
def vec (c : Instr) (op rows cols n v : Nat) : Bool :=
  gives c (vecS op rows cols false) fun t => (List.range n).all fun i => fld ((hearth t 0).staging.read 0 0x3000 (4 * n)) (4 * i) 4 == v
theorem witness_Vector : (((0xB, Instr.rsum) : Nat × (Nat → Instr)) ∈ vectorRows) ∧
    (nextVector (vecS 0 1 8 false) 0 0 = some (item 1 (vecBlock 0 1 8) false) ∧
      (hearth (vecS 0 1 8 false) 0).staging.unlisted.isSome = true ∧ stagingUe (hearth (vecS 0 1 8 false) 0) 0x1000 32 = false ∧
      stagingUe (hearth (vecS 0 1 8 false) 0) 0x2000 32 = false ∧ stagingUe (hearth (vecS 0 1 8 false) 0) 0 0 = false ∧
      Calm (vecS 0 1 8 false) 0 1 1 ∧ siteLive (vecS 0 1 8 true) 0 = true ∧ headItem (vecS 0 1 8 true) 0 1 = some (item 1 (vecBlock 0 1 8) true)) ∧
    (vec (.vectorAdd 0) 0 1 8 8 0x40400000 && vec (.vectorSub 0) 1 1 8 8 0xBF800000 && vec (.vectorMul 0) 2 1 8 8 0x40000000 &&
      vec (.vectorMax 0) 3 1 8 8 0x40000000 && vec (.vectorMin 0) 4 1 8 8 0x3F800000 && vec (.vectorFma 0) 5 1 8 8 0x40000000 &&
      vec (.vectorScale 0) 6 1 8 8 0 && vec (.rowscale 0) 7 1 8 8 0x40000000 && vec (.colscale 0) 8 1 8 8 0x40000000 &&
      vec (.rsqrt 0) 0xA 1 8 8 0x3F800000 && vec (.rsum 0) 0xB 1 8 1 0x41000000 && vec (.rmax 0) 0xC 1 8 1 0x3F800000) = true ∧
    gives (.vectorOpComplete 0) (vecS 0 1 8 true) (fun t => lookD 0 (hearth t 0).completed 1 == 1 && (lookD [] (hearth t 0).queues 1).isEmpty) = true :=
  ⟨by simp [vectorRows], by unfold Calm; decide +kernel, by decide +kernel, by decide +kernel⟩
/-- R205: CVT to BF16 and CVTI; a NaN sets the sticky bit; an activation table of zeros gives 0. -/
theorem test_convert :
    let b : List Byte := [0xD, 1, 0, 0] ++ leBytes 2 1 ++ leBytes 2 8 ++ leBytes 4 0x1000 ++ leBytes 8 0 ++ leBytes 4 0x3000 ++ leBytes 8 0
    gives (.vectorCvt 0) (engineS 1 (item 1 b false) (operands ones32 [])) (fun t => fld ((hearth t 0).staging.read 0 0x3000 16) 14 2 == 0x3F80) = true ∧
    gives (.vectorCvt 0) (engineS 1 (item 1 b false) (operands (leBytes 4 0x7FC00000) [])) (fun t => (hearth t 0).sticky.getLsbD 1) = true ∧
    gives (.cvti 0) (engineS 1 (item 1 (vecBlock 0xE 1 8) false) (operands (leBytes 4 0xFFFFFFFF) [])) (fun t =>
      fld ((hearth t 0).staging.read 0 0x3000 4) 0 4 == 0xBF800000) = true ∧
    vec (.vectorAct 0) 9 1 8 0 0 = true := by decide +kernel

/-- DMA of 64 bytes within staging, 0x1000 to 0x3000 (R204); stream of 64 bytes to or from site 1. -/
def dmaBlock (dst : Nat) : List Byte := leBytes 8 0x1000 ++ leBytes 8 dst ++ leBytes 8 64 ++ [0, 0] ++ List.replicate 6 0
def streamBlock (dir : Byte) : List Byte := [dir, 0, 1, 15] ++ leBytes 4 0x1000 ++ leBytes 4 0x3000 ++ leBytes 4 64 ++ List.replicate 16 0
theorem witness_Dma : let f := engineS 15 (item 1 (dmaBlock 0x3000) false) (operands ones32 twos32)
    let s := engineS 15 (item 1 (dmaBlock 0x3000) true) (operands ones32 twos32)
    (headItem f 0 (8 + 7) = some (item 1 (dmaBlock 0x3000) false) ∧ engineFree f 0 = true ∧ 7 ∉ (hearth f 0).dmaHalted ∧
      headItem s 0 (8 + 7) = some (item 1 (dmaBlock 0x3000) true) ∧ siteLive s 0 = true ∧ (item 1 (dmaBlock 0x3000) true).f 0x18 1 = 0 ∧
      stagingUe (hearth s 0) 0x1000 64 = false ∧ 0x1000 + 64 ≤ 0x3000 ∧ (runDma s 0 7 (item 1 (dmaBlock 0x3000) true)).1 = true ∧
      dmaNeed f 0 (item 1 (dmaBlock 0x3000) false) = 0 ∧ awaited (hearth s 0) 15 = false ∧ Calm s 0 15 1) ∧
    gives (.dmaTransferStart 0 7) f (fun t => (lookD [] (hearth t 0).queues 15).map (·.started) == [true]) = true ∧
    gives (.dmaTransferComplete 0 7) s (fun t => (hearth t 0).staging.read 0 0x3000 32 == ones32 && lookD 0 (hearth t 0).completed 15 == 1) = true := by
  unfold Calm; decide +kernel
/-- R179: a transfer out of region 1 into HBM or another site holds tags, and waits while all 256 are in use; R331: responses to one that a
reset stopped come before anything else. -/
def tagS (tags : List TagUse) : State :=
  let b : List Byte := leBytes 8 (2 ^ 48) ++ leBytes 8 0x3000 ++ leBytes 8 64 ++ [1, 0] ++ List.replicate 6 0
  { stored (List.replicate 64 0x5A) with hearths := [(5, { engineH 8 (item 1 b false) .zero with tags := tags })] }
theorem witness_Tags : let it := item 1 (leBytes 8 (2 ^ 48) ++ leBytes 8 0x3000 ++ leBytes 8 64 ++ [1, 0] ++ List.replicate 6 0) false
    let full : List TagUse := [⟨3, 9, 256, false, 0⟩]
    let old : List TagUse := [⟨8, 4, 250, true, 0⟩, ⟨2, 4, 1, true, 0⟩]
    (headItem (tagS []) 5 (8 + 0) = some it ∧ engineFree (tagS []) 5 = true ∧ dmaNeed (tagS []) 5 it = 2 ∧ tagsFree (hearth (tagS []) 5) = 256 ∧
      tagsFree (hearth (tagS full) 5) = 0 ∧ awaited (hearth (tagS old) 5) (8 + 0) = true ∧ awaited (hearth (tagS old) 5) 2 = true) ∧
    gives (.dmaTransferStart 5 0) (tagS []) (fun t => (hearth t 5).tags.map (fun x => (x.queue, x.num)) == [(8, 1)]) = true ∧
    gives (.dmaTransferStart 5 0) (tagS full) (fun t => t == tagS full) = true ∧
    gives (.outputPortGrant 5 4) { tagS [⟨8, it.num, 2, false, 1⟩] with fabric := (meshed []).fabric } (fun t =>
      t.fabric.flits.map (fun f => (f.node, f.dest, f.tenant)) == [(5, 0, 1)] && (hearth t 5).tags.map (·.sent) == [2]) = true ∧
    gives (.dmaTransferComplete 5 0) (tagS old) (fun t => tagsFree (hearth t 5) == 255) = true ∧
    gives (.pushComplete 5 1) (tagS old) (fun t => tagsFree (hearth t 5) == 6) = true := by decide +kernel
/-- R178: a transfer issued without a wait on the transfer of another channel that wrote 0x1000 reads the word before or after. -/
theorem test_overtaken : let a : Item := { item 2 (dmaBlock 0x5000) true with before := [(9, 1)] }
    let w : Item := { a with waited := [(9, 1)] }
    let h (i : Item) := { engineH 8 i (operands ones32 twos32) with races := [⟨9, 1, 0x1000 / 32, 7⟩] }
    (oldStaging (h a) 0 0x1000 32 (byItem 3 0 8 2)).map (·.line) = [7] ∧ oldStaging (h w) 0 0x1000 32 (byItem 3 0 8 2) = [] ∧
      oldStaging (h a) 0 0x1020 32 (byItem 3 0 8 2) = [] := by decide +kernel
/-- An uncorrectable unit of staging halts the channel. -/
theorem witness_DmaHalt : let s := hearthed { engineH 8 (item 1 (dmaBlock 0x3000) true) .zero with stagingBad := [0x1000 / 8] }
    (headItem s 0 (8 + 0) = some (item 1 (dmaBlock 0x3000) true) ∧ siteLive s 0 = true ∧
      (runDma s 0 0 (item 1 (dmaBlock 0x3000) true)).1 = false ∧ awaited (hearth s 0) 8 = false) ∧
    gives (.dmaTransferComplete 0 0) s (fun t => (hearth t 0).dmaHalted == [0] && (hearth t 0).fails.length == 1 && (hearth t 0).sticky == 4) = true := by
  decide +kernel
/-- R358: a DMA transfer of site 0 towards site 100 is in flight when the flue link of FB1 goes DOWN. -/
def acrossS : State :=
  let b : List Byte := leBytes 8 (4 * 2 ^ 48) ++ leBytes 8 0x3000 ++ leBytes 8 64 ++ [1, 0] ++ List.replicate 6 0
  let r : Region := { sliceRegion with extents := [{ unit := 100, banks := List.range 128, base := 0, count := 1 }], share := 262144, size := 262144 }
  { engineS 8 (item 1 b true) .zero with
    work := { up.work with tenants := [(1, { tenant1 with regions := [(4, r)] })], disps := [{ disp 7 recipeDesc with working := [0] }] },
    fabric := { up.fabric with link1 := { Link.reset with trained := true, state := .up, due := some 0 } } }
theorem test_flue_request_lost : inFlightTo acrossS 1 0 = true ∧
    gives (.retrainStart 1 ⟨[], List.range 25⟩) acrossS (fun t =>
      (disp? t 7).map (fun d => d.reports.map fun x => (x.status, x.detail)) == some [(.linkLost, 0xFF)]) = true := by decide +kernel
def streamS (dir : Byte) (started : Bool) : State :=
  { up with hearths := [(0, { engineH 2 (item 1 (streamBlock dir) started) (operands ones32 []) with rect := [0, 1], rectCols := 2 }),
                        (1, { Hearth.reset with staging := Ram.zero.write 0x3000 twos32 })] }
theorem witness_Streams : (item? (streamS 0 false) 0 2 1 = some (item 1 (streamBlock 0) false) ∧ (item 1 (streamBlock 0) false).f 0 1 = 0 ∧
      (item 1 (streamBlock 1) false).f 0 1 = 1 ∧ engineFree (streamS 0 false) 0 = true ∧ earlierStarted (streamS 0 false) 0 2 1 = true ∧
      streamSite (hearth (streamS 0 true) 0) 0 1 = some 1 ∧ siteLive (streamS 0 true) 1 = true ∧ (hearth (streamS 1 true) 1).staging.unlisted.isSome = true ∧
      stagingUe (hearth (streamS 1 true) 1) 0x3000 64 = false ∧ stagingUe (hearth (streamS 0 true) 0) 0x1000 64 = false ∧
      streamNeed (streamS 0 false) 0 (item 1 (streamBlock 0) false) = 2 ∧ 0 < tagsFree (hearth (streamS 0 false) 0) ∧
      awaited (hearth (streamS 0 true) 0) 2 = false ∧ Calm (streamS 0 true) 0 2 1 ∧ Calm (streamS 1 true) 0 2 1) ∧
    gives (.push 0 1) (streamS 0 false) (fun t => (lookD [] (hearth t 0).queues 2).map (·.started) == [true]) = true ∧
    gives (.pull 0 1) (streamS 1 false) (fun t => (lookD [] (hearth t 0).queues 2).map (·.started) == [true]) = true ∧
    gives (.pushComplete 0 1) (streamS 0 true) (fun t => (hearth t 1).staging.read 0 0x3000 32 == ones32 && lookD 0 (hearth t 1).arrival 15 == 1) = true ∧
    gives (.pullComplete 0 1) (streamS 1 true) (fun t => (hearth t 0).staging.read 0 0x1000 32 == twos32 && (hearth t 1).arrival.isEmpty) = true := by
  unfold Calm; decide +kernel

/-! ## Embers -/

/-- A micro-operation: opcode, rd, ra, rb, plane. -/
def micro (opc rd ra rb plane : Nat) : BitVec 32 := BitVec.ofNat 32 (opc * 2 ^ 28 + rd * 2 ^ 25 + ra * 2 ^ 22 + rb * 2 ^ 19 + plane * 2 ^ 16)
/-- A program of one END. -/
def endProg : List Byte := [1, 0, 0, 0] ++ List.replicate 14 0xFF ++ List.replicate 14 0 ++ leBytes 4 0
/-- Bank 1 of site 0 belongs to ember 0. -/
def entry (op : BitVec 32) (start : List Nat) : EmberEntry :=
  { id := 5, disp := none, item := 1, tenant := 1, region := 3, offset := 0, length := 2048, planes := 3 :: List.replicate 7 0xFFFF, prog := [op],
    params := [0x3F800000, 0x40000000, 0, 0], act := 0, table := none, toStart := start, toEnd := [0], reports := [] }
def run (regs : SMap Line) : EmberRun := { entry := 5, banks := [], bank := 1, s := 0, n := 64, i := 0, j := 0, regs := regs, merge := [], touch := [] }
def emberH (op : BitVec 32) (r : EmberRun) : Hearth := { Hearth.reset with emberQ := [entry op []], emberRuns := [(0, r)], queues := [(3, [item 1 [] true])] }
def dieTenant : SMap Tenant := [(1, { tenant1 with regions := [(1, sliceRegion), (3, dieRegion)] })]
def emberS (h : Hearth) : State := { hearthed h with work := { up.work with tenants := dieTenant } }
def all32 (v : BitVec 32) : Line := fromLanes fun _ => v
/-- Register 7 after a micro-operation on registers of ones and twos. -/
def gives7 (c : Instr) (op : BitVec 32) (v : BitVec 32) : Bool :=
  gives c (emberS (emberH op (run [(1, all32 0x3F800000), (2, all32 0x40000000)]))) fun t =>
    (look (hearth t 0).emberRuns 0).map (fun r => (lookD 0 r.regs 7, r.j)) == some (all32 v, 1)

theorem witness_EmberClaim : let d := { disp 7 emberDesc with unclaimed := true }
    let s := { emberState emberDesc endProg with work := { (inFlight [d]).work with tenants := dieTenant } }
    (disp? s 7 = some d ∧ d.unclaimed = true ∧ fld d.desc 0 1 = 3 ∧ WaitsAlone s d ∧ (∀ sp ∈ runSpans s 1 d.desc, tokenFree s sp.1 = true) ∧
      (∀ sp ∈ runSpans s 1 d.desc, siteRetired s sp.1 = false) ∧ embersUsable s 1 d.desc = true ∧ runSpans s 1 d.desc = [(0, 0, 2048)] ∧
      (readProg (fun s a n => readSpan s 1 a n 4) s (fld d.desc 0x10 8)).1 = .bytes endProg ∧ region? s 1 3 = some dieRegion ∧
      emberProgCheck s 1 3 endProg (runSpans s 1 d.desc) (fld d.desc 0x18 8) (fld d.desc 0x20 8) = none) ∧
    gives (.emberTokenClaim 7) s (fun t => (hearth t 0).emberQ.map (·.toStart) == [[0]] && (disp? t 7).map (·.working) == some [0]) = true := by unfold WaitsAlone; decide +kernel
theorem witness_EmberStart : let en := entry 0 [0]
    let s := emberS { Hearth.reset with emberQ := [en] }
    ((hearth s 0).emberQ.find? (fun e => e.toEnd.contains 0) = some en ∧ siteLive s 0 = true ∧ emberLive s 0 0 = true ∧ look (hearth s 0).emberRuns 0 = none ∧
      0 ∈ en.toStart ∧ emPaused s 0 0 = false ∧ (tenant s en.tenant).halted = false ∧ emberBanks s 0 0 en = (1, 0, 64) :: []) ∧
    gives (.emberProgramStart 0 0) s (fun t => look (hearth t 0).emberRuns 0 == some { run [] with touch := emberTouch s 0 0 en }) = true := by decide +kernel
theorem witness_Micro : let op := micro 3 7 1 2 0
    RunsMicro (emberS (emberH op (run []))) 0 0 3 (entry op []) (run []) op ∧ RunsMicro (emberS (emberH (micro 0xA 0 0 0 0) (run []))) 0 0 0xA (entry (micro 0xA 0 0 0 0) [])
      (run []) (micro 0xA 0 0 0 0) ∧ RunsMicro (emberS (emberH 0 (run []))) 0 0 0 (entry 0 []) (run []) 0 ∧ (run []).merge = [] ∧ (run []).banks = [] ∧ up.mem.contested = [] ∧
    (gives7 (.emberAdd 0 0) op 0x40400000 && gives7 (.emberSub 0 0) (micro 4 7 1 2 0) 0xBF800000 && gives7 (.emberMul 0 0) (micro 5 7 1 2 0) 0x40000000 &&
      gives7 (.emberScale 0 0) (micro 6 7 2 0 3) 0xC0000000 && gives7 (.emberAct 0 0) (micro 7 7 1 0 0) 0 && gives7 (.emberMov 0 0) (micro 9 7 1 0 3) 0x40000000 &&
      gives7 (.emberCvt 0 0) (micro 8 7 2 0 0) 0x40000000) = true ∧
    gives (.emberLoop 0 0) (emberS (emberH (micro 0xA 0 0 0 0) (run []))) (fun t => (look (hearth t 0).emberRuns 0).map (fun r => (r.i, r.j)) == some (1, 0)) = true ∧
    gives (.emberEnd 0 0) (emberS (emberH 0 (run []))) (fun t => (hearth t 0).emberRuns.isEmpty && (hearth t 0).emberQ.map (·.toEnd) == [[]]) = true := by
  unfold RunsMicro; decide +kernel
/-- A run goes on with its next bank; a paused layer waits at LOOP. -/
theorem witness_Micro_more : let op := micro 0xA 0 0 0 0
    let r := { run [] with banks := [1], bank := 0 }
    let s := emberS (emberH 0 r)
    let p := { emberS (emberH op (run [])) with mem := { up.mem with emStep := [(0, 2)] } }
    (RunsMicro s 0 0 0 (entry 0 []) r 0 ∧ r.banks = 1 :: [] ∧ (1, 0, 64) ∈ (emberBanks s 0 0 (entry 0 [])).find? (fun x => x.1 == 1) ∧ emPaused s 0 0 = false ∧
      RunsMicro p 0 0 0xA (entry op []) (run []) op ∧ emPaused p 0 0 = true) ∧
    gives (.emberLoop 0 0) p (fun t => t == p) = true ∧
    gives (.emberEnd 0 0) s (fun t => (look (hearth t 0).emberRuns 0).map (fun r => (r.bank, r.banks)) == some (1, [])) = true := by
  unfold RunsMicro; decide +kernel
/-- The word at the start of bank 1. -/
def emberPlace : Place := { hbm := false, unit := 0, addr := 393216, die := true, key := 0 }
def planeS (op : BitVec 32) (r : EmberRun) : State :=
  { emberS (emberH op r) with mem := { up.mem with slice := [(393216, encode (all32 0x40000000) emberPlace.cover)] } }
theorem witness_LoadStore : let ld := micro 1 7 0 0 0
    let st := micro 2 0 1 0 0
    let bf := micro 2 0 1 0 0 + 2 ^ 14
    let r := run [(1, all32 0x3F800000)]
    let r1 := { r with i := 1, merge := [(0, 0, 512, all32 0x3F803F80)] }
    (microPlace (planeS ld r) 0 (entry ld []) r ld = some emberPlace ∧ peek (planeS ld r) emberPlace = .data (all32 0x40000000) ∧
      (planeS ld r).mem.races = [] ∧ emberPlace.index ∉ (planeS ld r).mem.contested ∧
      microPlace (planeS bf r1) 0 (entry bf []) r1 bf = some emberPlace ∧ peek (planeS bf r1) emberPlace = .data (all32 0x40000000)) ∧
    (RunsMicro (planeS ld r) 0 0 1 (entry ld []) r ld ∧ RunsMicro (planeS st r) 0 0 2 (entry st []) r st ∧ MicroOp.fmt st = 0 ∧
      RunsMicro (planeS bf r) 0 0 2 (entry bf []) r bf ∧ MicroOp.fmt bf = 1 ∧ planePart r 1 + 1 < 2 ^ emberSh 1 ∧
      RunsMicro (planeS bf r1) 0 0 2 (entry bf []) r1 bf ∧ planePart r1 1 + 1 = 2 ^ emberSh 1 ∧
        ∀ m ∈ r1.merge, m.2.2.1 % 32 + m.2.2.1 / 32 ≤ 32) ∧
    gives (.emberLoad 0 0) (planeS ld r) (fun t => (look (hearth t 0).emberRuns 0).map (fun r => lookD 0 r.regs 7) == some (all32 0x40000000)) = true ∧
    gives (.emberStore 0 0) (planeS st r) (fun t => peek t emberPlace == .data (all32 0x3F800000)) = true ∧
    gives (.emberStore 0 0) (planeS bf r) (fun t => (look (hearth t 0).emberRuns 0).map (·.merge.length) == some 1) = true ∧
    gives (.emberStore 0 0) (planeS bf r1) (fun t => peek t emberPlace == .data (all32 0x3F803F80)) = true := by unfold RunsMicro; decide +kernel
theorem witness_EmberProgramEnd : let en := { entry 0 [] with toEnd := [], reports := [⟨0, .done, 0⟩] }
    let s := emberS { Hearth.reset with emberQ := [en], queues := [(3, [item 1 [] true])] }
    let bd := { en with disp := some 7, reports := [⟨0, .busError, 0⟩] }
    let s2 := { emberS { Hearth.reset with emberQ := [bd] } with work := { up.work with tenants := dieTenant, disps := [{ disp 7 emberDesc with working := [0] }] } }
    (emberEntry? (hearth s 0) 5 = some en ∧ en.toStart = [] ∧ en.toEnd = [] ∧ en.disp = none ∧ (worstReport en.reports).status = .done) ∧
    (emberEntry? (hearth s2 0) 5 = some bd ∧ bd.disp = some 7 ∧ disp? s2 7 = some { disp 7 emberDesc with working := [0] } ∧ (worstReport bd.reports).status ≠ .done) ∧
    gives (.emberProgramEnd 0 5) s (fun t => (hearth t 0).emberQ.isEmpty && lookD 0 (hearth t 0).completed 3 == 1) = true ∧
    gives (.emberProgramEnd 0 5) s2 (fun t => (disp? t 7).map (fun d => (d.ended, d.reports.map (·.status))) == some (true, [.busError])) = true := by decide +kernel

/-! ## Layers -/

theorem witness_Layers : sensed up 199 = true ∧ coolFor up 1599 1 = false ∧
    (let s := { up with mem := { up.mem with coolSince := [(4 * 3 + 0, 10 ^ 13 - 1000000000), (4 * 3 + 1, 10 ^ 13 - 1000000000), (4 * 3 + 2, 0)], emStep := [(3, 2)], refresh := [(3, 8)] } }
     (coolFor s 3 0 = true ∧ coolFor s 3 1 = true ∧ coolFor s 3 2 = true) ∧
       gives (.layerUnthrottle 0 3) s (fun t => lookD 0 t.mem.emStep 3 == 0) = true ∧
       gives (.refreshIntervalLengthen 0 3) s (fun t => lookD 32 t.mem.refresh 3 == 32) = true) ∧
    (let s := { up with ao := { up.ao with sensors := (List.range 6408).map fun i => (i, 128 * 104) } }
     gives (.layerThrottle 0 3) s (fun t => lookD 0 t.mem.emStep 3 == 2) = true ∧ gives (.refreshIntervalShorten 0 3) s (fun t => lookD 32 t.mem.refresh 3 == 8) = true) := by
  decide +kernel
theorem witness_RowRefresh : (199 < 200 ∧ 127 < 128 ∧ 6239 < 6240 ∧ sensed up 199 = true) ∧
    gives (.rowRefresh 199 127 6239) up (fun t => lookD 0 t.mem.refreshPass (8 * 199 + 7) == 1) = true := by decide +kernel

/-! ## Andiron -/

/-- A launch of an item: one environment of FK on model 0, for the lane at place 0. -/
def launch : Launch :=
  { disp := none, item := 1, tenant := 1, model := 0, image := [], fetchBad := false, desc := batch, takenAt := 0, slots := 16, firstSlot := 0, lanes := List.range 16,
    started := false, waiting := [(0, 0)], reruns := [], reports := [], left := 1 }
def begun : Launch := { launch with started := true, image := modelImage }
/-- An iterative launch: STEP (kind 3) with at most one iteration. -/
def stepBatch : List Byte := leBytes 4 0x31424441 ++ [3, 0, 1, 0] ++ leBytes 4 1 ++ leBytes 4 1 ++ leBytes 80 0
def env (stop : Option Nat) : EnvRun := { envReset 0 with stop := stop }
def modelTenant : SMap Tenant := [(1, { tenant1 with models := [(0, modelImage)] })]
def andironS (l : Launch) (lanes : SMap EnvRun) : State :=
  { stored [] with hearths := [(0, { Hearth.reset with launches := [l], lanes := lanes, staging := .zero, queues := [(4, [item 1 [] true])] })],
                   work := { up.work with tenants := modelTenant } }
theorem witness_LaunchStart : let s := andironS launch []
    (siteLive s 0 = true ∧ (hearth s 0).launches = launch :: [] ∧ launch.started = false ∧ (tenant s 1).halted = false ∧ workingLanes s 0 ≠ [] ∧ 0 < tagsFree (hearth s 0)) ∧
    gives (.andironLaunchStart 0) s (fun t => (hearth t 0).launches.map (fun l => (l.started, l.waiting)) == [(true, [(0, 0)])]) = true := by decide +kernel
/-- R260: a model slot with an uncorrectable error. -/
theorem witness_ModelBad : let bad : SMap Tenant := [(1, { tenant1 with models := [(0, modelImage)], modelBad := [0] })]
    let s := andironS launch []
    let s := { s with work := { s.work with tenants := bad } }
    (launch.model ∈ (tenant s 1).modelBad ∧ (hearth s 0).launches = launch :: [] ∧ 0 < tagsFree (hearth s 0)) ∧
    gives (.andironLaunchStart 0) s (fun t => (hearth t 0).launches.map (·.fetchBad) == [true] && t.ash.flying.map (·.reason) == [5]) = true ∧
    gives (.environmentStart 0 0) (andironS { begun with fetchBad := true } []) (fun t => (look (hearth t 0).lanes 0).map (·.stop) == some (some 5)) = true := by
  decide +kernel
/-- A lane's computation from clear flags. -/
def ran {α : Type} (c : Lane α) : α × Sat := c.run 0
/-- R271, the worked example of 12: a FORCE word at a lever, stored as TORQUE (EXP -16, -28 and -18). -/
theorem test_storeTorque : ran (storeFx 8 (-18) (8093696 * 26843546, -44)) = (3237478, 0) := by decide +kernel
/-- R271, R272: a clamp sets the class flag; a store that shifts left past 64 bits sets ACC too. -/
theorem test_storeClamps : ran (storeFx 7 0 (2 ^ 31, 0)) = (2 ^ 31 - 1, 0x80#16) ∧ ran (storeFx 7 0 (-(2 ^ 40), 30)) = (-(2 ^ 31), 0x1080#16) := by
  decide +kernel
/-- R273: a division by 0 sets DIV; 1 ÷ 2 in exponent -16. -/
theorem test_divide : ran (divFx 7 (-16) (-5, 0) (0, 0)) = (-(2 ^ 31), 0x2000#16) ∧ ran (divFx 7 (-16) (1, 0) (2, 0)) = (32768, 0) := by
  decide +kernel
/-- R274: the sine of a right angle (an ANGLE word of exponent -28). -/
theorem test_cossin : ((cossin (-28) 421657428).1).natAbs ≤ 64 ∧ (((cossin (-28) 421657428).2) - 2 ^ 30).natAbs ≤ 64 := by decide +kernel
/-- R284, R286: FK of the one link gives its ROT. -/
theorem test_fk : ran (fkOutput modelImage (List.replicate 8 0)) = ([0, 0, 0, 2 ^ 30, 0, 0, 0], 0) := by decide +kernel
/-- An input of another tenant's region cannot be read; words of a record that hold 0 pass the guards of 0. -/
theorem witness_EnvStart : let s := andironS begun []
    let bad := { begun with desc := leBytes 0x18 0 ++ leBytes 8 (2 ^ 50) ++ leBytes 64 0 }
    ((hearth s 0).launches = begun :: [] ∧ begun.started = true ∧ laneLive s 0 15 = true ∧ look (hearth s 0).lanes 0 = none ∧
      nextEnv s 0 0 begun = some (0, false) ∧ (fetchInput s 0 bad 0).1 = none ∧ 0 < tagsFree (hearth s 0) ∧ overtaken s 0 4 1 = []) ∧
    guardFail modelImage batch (List.replicate 8 0) = none ∧ fld batch 4 1 ≤ 2 ∧ 3 ≤ fld stepBatch 4 1 ∧
    guardFail modelImage stepBatch (1 :: List.replicate 7 0) = some (13, 0) ∧
    gives (.environmentStart 0 0) (andironS bad []) (fun t => (look (hearth t 0).lanes 0).map (·.stop) == some (some 5)) = true := by decide +kernel
theorem witness_Iteration : let l := { begun with desc := stepBatch }
    let s := andironS l [(0, env none)]
    (siteLive s 0 = true ∧ (hearth s 0).launches = l :: [] ∧ look (hearth s 0).lanes 0 = some (env none) ∧ (env none).stop = none) ∧
    gives (.andironIteration 0 0) s (fun t => (look (hearth t 0).lanes 0).map (·.iter) == some 1) = true := by decide +kernel
theorem witness_EnvEnd : let s := andironS begun [(0, env (some 5))]
    (siteLive s 0 = true ∧ look (hearth s 0).lanes 0 = some (env (some 5)) ∧ (env (some 5)).stop.isSome = true ∧ Batch.outStaging begun.desc = true) ∧
    gives (.environmentEnd 0 0) s (fun t => (hearth t 0).lanes.isEmpty && fld ((hearth t 0).staging.read 0 0 32) 0 1 == 5 &&
      (hearth t 0).launches.map (fun l => (l.left, l.reports.map (·.status))) == [(0, [.busError])]) = true := by decide +kernel
theorem witness_LaunchComplete : let l := { begun with left := 0, reports := [⟨0, .range, 1⟩] }
    let b := { l with disp := some 7 }
    let s := andironS l []
    let s2 := { andironS b [] with work := { up.work with tenants := modelTenant, disps := [{ disp 7 batchDesc with working := [0] }] } }
    ((hearth s 0).launches = l :: [] ∧ l.started = true ∧ l.left = 0 ∧ (hearth s 0).lanes = [] ∧ l.disp = none ∧ (worstReport l.reports).status ≠ .done ∧
      b.disp = some 7 ∧ disp? s2 7 = some { disp 7 batchDesc with working := [0] } ∧ (worstReport b.reports).status.stops = false) ∧
    gives (.launchComplete 0) s (fun t => (hearth t 0).launches.isEmpty && lookD 0 (hearth t 0).completed 4 == 1 && (hearth t 0).sticky == 4) = true ∧
    gives (.launchComplete 0) s2 (fun t => (disp? t 7).map (·.ended) == some true) = true := by decide +kernel

/-! ## Chain ports -/

/-- A frame as R92 and R93 lay it out: type, flags byte (ACK valid is bit 7, INIT bit 6), SEQ, ACK, tag, LENGTH, region, REF_SEQ, ERR, payload;
domain 9, EtherType 0x88B5, OFFSET 0; the FCS at its end. -/
def frame (ty flags seq ack tag len region ref err : Byte) (pay : List Byte) : List Byte :=
  let b := List.replicate 12 0 ++ [0x88, 0xB5, 16 + ty, flags, 0, 9, 0, seq, 0, ack, 0, tag, 0, len, 0, region, 0, ref] ++ List.replicate 8 0 ++
    [err] ++ List.replicate 7 0 ++ pay
  b ++ fcs b
def pay : List Byte := List.replicate 32 0x66
def owned (seq : BitVec 16) (ty : Nat) : ChainFrame := { plainFrame ty with seq := seq, copy := some 7 }
def copying (p : ChainPort) : State := { chained p with work := { up.work with disps := [{ disp 7 (pad [4]) with frames := 2 }] } }
def wireTypes (s : State) : List Nat := (chainPort s 3).wire.map frameType

theorem witness_ChainWrite : (1, Instr.chainWrite) ∈ [(1, Instr.chainWrite), (2, Instr.chainReadReq), (3, Instr.chainReadResp), (4, Instr.chainErrorResp)] ∧
    (let f := frame 1 0 0 0 0 32 0 0 0 pay
     Hears (chained upPort) 3 f 1 ∧ frameSeq f = (chainPort (chained upPort) 3).expect ∧ frameAcks f = false ∧
       gives (.chainWrite 3 f) (chained upPort) (fun t => (chainPort t 3).expect == 1 && (look t.mem.slice 0).isSome) = true) ∧
    (let f := frame 1 0 0 0 0 32 1 0 0 pay
     Hears (chained upPort) 3 f 1 ∧ (checkFrame (chained upPort) 3 f true).1 = 2 ∧
       gives (.chainWrite 3 f) (chained upPort) (fun t => (chainPort t 3).waiting.map (fun x => (x.type_, x.err)) == [(4, 2)]) = true) := by
  unfold Hears; exact ⟨by simp, by decide +kernel, by decide +kernel⟩
/-- R98: the 32nd acceptance draws an ACK. -/
theorem witness_ChainBound : let f := frame 1 0 0 0 0 32 0 0 0 pay
    let s := chained { upPort with unacked := 31 }
    Hears s 3 f 1 ∧ gives (.chainWrite 3 f) s (fun t => (chainPort t 3).unacked == 0 && wireTypes t == [5]) = true := by
  unfold Hears; decide +kernel
/-- R104: a frame sent again below the SEQ of a waiting ERROR_RESP does not acknowledge the refused frame, SEQ 4. -/
theorem test_ackBeforeErrorResp : let p := { upPort with expect := 5, unacked := 1, window := [plainFrame 1, { plainFrame 4 with seq := 1, refSeq := 4 }] }
    carriedAck p 0 = some 4 ∧ carriedAck p 1 = some 5 := by decide
/-- R92: the check value of the FCS, that of CRC-32 for the digits 1 to 9. -/
theorem test_fcs : crc32 ((List.range 9).map fun i => BitVec.ofNat 8 (0x31 + i)) = 0xCBF43926#32 := by decide +kernel
/-- Five ahead of the frame expected, and one behind it. -/
theorem witness_ChainOrder :
    (let f := frame 1 0 5 0 0 32 0 0 0 pay
     Hears (chained upPort) 3 f 1 ∧ (frameSeq f - (0 : BitVec 16)).toNat = 5 ∧
       gives (.chainWrite 3 f) (chained upPort) (fun t => wireTypes t == [6] && (chainPort t 3).expect == 0) = true) ∧
    (let f := frame 1 0 0 0 0 32 0 0 0 pay
     let s := chained { upPort with expect := 1 }
     Hears s 3 f 1 ∧ (frameSeq f - (1 : BitVec 16)).toNat = 65535 ∧ gives (.chainWrite 3 f) s (fun t => wireTypes t == [5]) = true) := by
  unfold Hears; decide +kernel
theorem witness_ChainReadReq : let f := frame 2 0 0 0 4 32 0 0 0 []
    let s := { stored (List.replicate 64 0x5A) with chain := (chained upPort).chain }
    (Hears s 3 (frame 2 0 0 0 4 32 0 0 0 (List.replicate 14 0)) 2 ∧ Hears s 3 f 2 ∧ frameSeq f = (chainPort s 3).expect ∧ frameAcks f = false) ∧
      gives (.chainReadReq 3 f) s (fun t => (chainPort t 3).waiting.map (fun x => (x.type_, x.tag, x.payload)) == [(3, 4, List.replicate 32 0x5A)]) = true ∧
      gives (.chainReadReq 3 (frame 2 0 0 0 4 32 1 0 0 [])) s (fun t => (chainPort t 3).waiting.map (fun x => (x.type_, x.err)) == [(4, 2)]) = true := by
  unfold Hears; decide +kernel
theorem witness_ChainReadResp : let f := frame 3 0 0 0 4 32 0 0 0 pay
    let r : ChainRead := { copy := 7, got := 0, length := 64, dstKind := 0, dst := 0x8000, sentAt := 0 }
    let s := copying { upPort with reads := [(4, r)] }
    (Hears s 3 f 3 ∧ frameSeq f = (chainPort s 3).expect ∧ frameAcks f = false ∧ look (chainPort s 3).reads (hdr f 8 2) = some r ∧
      (∃ d, disp? s 7 = some d ∧ d.ended = false ∧ hostReachable s d.tenant = true) ∧ r.dstKind = 0) ∧
      gives (.chainReadResp 3 f) s (fun t => t.mem.host.read 0 0x8000 32 == pay && (look (chainPort t 3).reads 4).map (·.got) == some 32) = true := by
  unfold Hears
  exact ⟨⟨by decide +kernel, by decide +kernel, by decide +kernel, by decide +kernel, ⟨_, rfl, by decide, by decide +kernel⟩, rfl⟩, by decide +kernel⟩
theorem witness_ChainErrorResp :
    let s := copying { upPort with window := [owned 3 1, owned 4 1] }
    let test (err : Byte) (st : Status) (det : Nat) : Prop := let f := frame 4 0 0 0 0 0 0 4 err []
      Hears s 3 f 4 ∧ frameSeq f = (chainPort s 3).expect ∧ frameAcks f = false ∧
        (chainPort s 3).window.find? (fun y => y.seq.toNat == hdr f 14 2) = some (owned 4 1) ∧ (disp? s 7).map (·.ended) = some false ∧
        gives (.chainErrorResp 3 f) s (fun t => (disp? t 7).map (·.reports) == some [⟨0xFFFF, st, det⟩]) = true
    test 4 .prot 5 ∧ test 5 .poisoned 0 := by
  unfold Hears; decide +kernel

theorem witness_ChainAck : let s := chained { upPort with window := [plainFrame 1, { plainFrame 1 with seq := 1 }] }
    let test (ty : Byte) (c : List Byte → Instr) (n : Nat) (left again : Nat) : Prop := let f := frame ty 0x80 0 n 0 0 0 0 0 []
      frameAcks f = true ∧ (frameAck f - (0 : BitVec 16)).toNat = n ∧ Hears s 3 f ty.toNat ∧
        gives (c f) s (fun t => (chainPort t 3).window.length == left && (chainPort t 3).resend.length == again) = true
    test 5 (.chainAck 3) 1 1 0 ∧ test 5 (.chainAck 3) 2 0 0 ∧ test 6 (.chainNak 3) 1 1 1 := by unfold Hears; decide +kernel
theorem witness_ChainProbe : let i := frame 7 0x40 0 0 0 0 0 0 0 []
    let c := frame 7 0 0 0 0 0 0 0 0 []
    let sees (p : ChainPort) (f : List Byte) : Prop := hears (chained p) 3 = true ∧ frameOk p f = true ∧ frameType f = 7
    let probing := { upPort with state := .probing }
    (sees probing i ∧ frameInit i = true ∧ probing.initRx = none ∧
      gives (.chainProbe 3 i) (chained probing) (fun t => (chainPort t 3).initRx == some (10 ^ 13, 10 ^ 13)) = true) ∧
    (let p := { probing with initRx := some (5, 5) }
     sees p c ∧ frameInit c = false ∧ gives (.chainProbe 3 c) (chained p) (fun t => (chainPort t 3).state == .up && wireTypes t == [7]) = true) ∧
    (let p := { upPort with clearSeen := true }
     sees p i ∧ gives (.chainProbe 3 i) (chained p) (fun t => (chainPort t 3).state == .failed) = true) ∧
    (sees upPort c ∧ gives (.chainProbe 3 c) (chained upPort) (fun t => (chainPort t 3).clearSeen) = true) := by decide +kernel
/-- R88: a frame of another EtherType is dropped. -/
theorem witness_FrameDiscard : hears (chained upPort) 3 = true ∧ frameOk (chainPort (chained upPort) 3) (List.replicate 60 0) = false := by decide +kernel

theorem witness_ChainFrameSend :
    (let s := chained { upPort with resend := [{ plainFrame 1 with seq := 9 }], nextSeq := 12 }
     (chainPort s 3).locked = true ∧ gives (.chainFrameSend 3) s (fun t => (chainPort t 3).wire.map frameSeq == [9] && (chainPort t 3).nextSeq == 12) = true) ∧
    (let x := { plainFrame 1 with payload := pay, length := 32 }
     let s := chained { upPort with waiting := [x], nextSeq := 12 }
     nextFrame (chainPort s 3) = some x ∧ gives (.chainFrameSend 3) s (fun t => (chainPort t 3).wire.map frameSeq == [12] &&
       (chainPort t 3).nextSeq == 13 && (chainPort t 3).window.length == 1 && (chainPort t 3).waiting.isEmpty) = true) ∧
    nextFrame upPort = none := by decide +kernel
theorem witness_ChainTimes :
    (let s := chained { upPort with unacked := 1, expect := 6 }
     ackHeld (chainPort s 3) = false ∧ gives (.chainAckDue 3) s (fun t => (chainPort t 3).wire.map frameAck == [6] && wireTypes t == [5]) = true) ∧
    (let s := chained { upPort with window := [plainFrame 1], ackAt := 10 ^ 13 - 50000 }
     (chainPort s 3).ackAt + 50000 ≤ s.ao.devtime ∧ gives (.chainRetransmit 3) s (fun t => (chainPort t 3).resend.length == 1) = true) ∧
    (let s := chained { upPort with txAt := 10 ^ 13 - 100000 }
     (chainPort s 3).txAt + 100000 ≤ s.ao.devtime ∧ gives (.idleProbe 3) s (fun t => wireTypes t == [7]) = true) := by decide +kernel
theorem witness_ChainFail :
    let fails (p : ChainPort) : Prop := gives (.chainPortFail 3) (copying { p with window := [owned 0 1] }) (fun t => (chainPort t 3).state == .failed &&
      (disp? t 7).map (fun d => (d.ended, d.reports)) == some (true, [⟨0xFFFF, .linkLost, 3⟩])) = true
    (fails { upPort with locked := false, lockLostAt := 10 ^ 13 - 10000001 } ∧ fails { upPort with rxAt := 10 ^ 13 - 1000000 } ∧
      fails { upPort with idleRounds := 16 }) ∧ 7 ∈ portCopies { upPort with window := [owned 0 1] } ∧
    gives (.chainPortFail 3) (copying upPort) (fun t => (chainPort t 3).state == .up) = true := by decide +kernel
theorem witness_ChainReadTimeout :
    let r : ChainRead := { copy := 7, got := 0, length := 64, dstKind := 0, dst := 0x8000, sentAt := 10 ^ 13 - 1000000 }
    let s := copying { upPort with reads := [(4, r)] }
    (look (chainPort s 3).reads 4 = some r ∧ r.sentAt + 1000000 ≤ s.ao.devtime ∧ (disp? s 7).map (·.ended) = some false) ∧
      gives (.chainReadTimeout 3 4) s (fun t => (chainPort t 3).reads.isEmpty && (disp? t 7).map (·.ended) == some true) = true := by decide +kernel
theorem witness_ChainPortStates :
    (let s := chained { ChainPort.reset with state := .noLock }
     s.dev.state ≠ .off ∧ gives (.pcsLock 3) s (fun t => (chainPort t 3).state == .probing) = true) ∧
    gives (.pcsLockLoss 3) (chained { upPort with state := .probing }) (fun t => (chainPort t 3).state == .noLock) = true ∧
    gives (.initProbe 3) (chained { upPort with state := .probing }) (fun t => wireTypes t == [7]) = true ∧
    (let p := { upPort with state := .probing, initRx := some (10 ^ 13 - 100000, 10 ^ 13), initTx := some (5, 10 ^ 13) }
     max (10 ^ 13 - 100000) 5 + 100000 ≤ min (10 ^ 13) (10 ^ 13) ∧
       gives (.chainPortUp 3) (chained p) (fun t => (chainPort t 3).state == .up && (chainPort t 3).nextSeq == 0) = true) ∧
    gives (.chainPortRetry 3) (chained { upPort with state := .failed, failedAt := 10 ^ 13 - 1000000000 })
      (fun t => (chainPort t 3).state == .probing) = true := by decide +kernel

/-! ## Sweep and ash -/

/-- The first row of bank 0 of site 0 of tenant 1's region, whose first block is initialised, with bit 5 of word 1 flipped. -/
def sweeping : State :=
  { up with mem := { up.mem with slice := (List.range 64).map fun i => (i, let w := encode (all32 0x5A5A5A5A) i; if i = 1 then { w with data := w.data ^^^ 32#256 } else w) },
            work := { up.work with tenants := [(1, { tenant1 with regions := [(1, { sliceRegion with init := [0] })] })] } }
theorem witness_Sweep_visit :
    (bankLive sweeping 0 0 = true ∧ lookD 0 sweeping.mem.cursor 0 < 6144 ∧ eligible sweeping (homeOf sweeping false 0 1) false 0 = true ∧
      (let p := homePlace (homeOf sweeping false 0 1) false 0 1
       (stored? sweeping p).map (placeClass sweeping p) = some (.corrected [5]) ∧ some [5] ≠ (erasureOf sweeping p).map ([·])) ∧
      (let p := homePlace (homeOf sweeping false 0 2) false 0 2
       (stored? sweeping p).map (placeClass sweeping p) = some .clean)) ∧
    gives (.sweepVisit (.bank 0 0)) sweeping (fun t => look t.mem.slice 1 == some (encode (all32 0x5A5A5A5A) 1) && lookD 0 t.mem.cursor 0 == 1) = true := by
  decide +kernel
theorem witness_Sweep_pass : let s := { up with mem := { up.mem with cursor := [(0, 6143)] } }
    lookD 0 s.mem.cursor 0 + 1 = 6144 ∧ gives (.sweepVisit (.bank 0 0)) s (fun t => lookD 0 t.mem.cursor 0 == 0 && lookD 0 t.mem.passes 0 == 1) = true := by
  decide +kernel
def lineFault : LineFault := { site := 2, bank := 0, subarray := 0, u := 3, d := 9, rows := 4, addr := 3, syndrome := 0 }
theorem witness_ErasureMark : let s := { up with mem := { up.mem with faultsDue := [lineFault] } }
    let s' := { up with mem := { up.mem with faultsDue := [lineFault], erasures := [(12 * (128 * 2 + 0) + 0, (1, 1))] } }
    bankLive s 2 0 = true ∧ gives .erasureMark s (fun t => look t.mem.erasures 3072 == some (9, 3) && t.mem.repairs == [lineFault] &&
      t.ash.flying.map (fun e => (e.type_, e.source)) == [(4, 2)]) = true ∧
    gives .erasureMark s' (fun t => look t.mem.erasures 3072 == some (1, 1) && t.mem.repairs == [lineFault]) = true := by decide +kernel
theorem witness_Repair : let s (n : Nat) : State := { up with mem := { up.mem with repairs := [lineFault], sparesUsed := [(3072, n)] } }
    (bankLive (s 3) 2 0 = true ∧ ownerOf (s 3) 2 = none ∧ (s 3).mem.repairs.find? (fun g => g.site == 2 && g.bank == 0) = some lineFault ∧
      lookD 0 (s 3).mem.sparesUsed (12 * (128 * 2 + 0) + lineFault.subarray) = 3) ∧
    gives (.spareColumnRepair 2 0) (s 4) (fun t => !bankLive t 2 0 && t.mem.repairs.isEmpty) = true := by decide +kernel
theorem witness_BucketLeak : let s := { up with ash := { up.ash with buckets := [(1600, 3)], leakAt := [(1600, 10 ^ 13 - 60000000000)] } }
    ((Bucket.channel 0).ok = true ∧ s.ash.leakS = 60 ∧ lookD s.ash.leakBase s.ash.leakAt 1600 + s.ash.leakS * 1000000000 ≤ s.ao.devtime) ∧
      gives (.bucketLeak (.channel 0)) s (fun t => lookD 0 t.ash.buckets 1600 == 2) = true := by decide +kernel

def event (src : Nat) : AshEvent :=
  { type_ := 2, source := src, tenant := 0xFF, reason := 0, detail := List.replicate 32 0x11, at_ := 99, lastAt := 99, repeats := 0, dests := [0],
    alerts := [], sent := false }
def ashRing0 : AshRing := { AshRing.reset with placed := true, entries := 64, base := 0x4000, pi := 3, ci := 0 }
def ashed (flying fifo : List AshEvent) (r : AshRing) : State := { up with ash := { up.ash with flying := flying, fifo := fifo, rings := [(0, r)] } }
theorem witness_AshArrive :
    gives .ashEventArrive (ashed [event 1] [] ashRing0) (fun t => t.ash.fifo == [event 1] && t.ash.flying.isEmpty) = true ∧
    (let full := List.replicate 64 (event 1)
     (64 ≤ full.length ∧ ∃ x ∈ full, x.source = 1 ∧ x.type_ = 2 ∧ x.dests = [0]) ∧
       gives .ashEventArrive (ashed [event 1] full ashRing0) (fun t => t.ash.fifo.length == 64 && (t.ash.fifo.map (·.repeats)).foldl (· + ·) 0 == 1) = true ∧
       (¬ ∃ x ∈ full, x.source = 5 ∧ x.type_ = 2 ∧ x.dests = [0]) ∧
       gives .ashEventArrive (ashed [event 5] full ashRing0) (fun t => (ashRing t 0).loss && t.ash.fifo == full) = true) := by decide +kernel
theorem witness_AshWrite : let s := ashed [] [event 1] ashRing0
    ((ashRing s 0).placed = true ∧ (ashRing s 0).unreported = [] ∧ ((ashRing s 0).pi + 2 ^ 32 - (ashRing s 0).ci) % 2 ^ 32 ≠ (ashRing s 0).entries ∧
      (ashRing s 0).hbm = false ∧ hostReachable s 0 = true ∧ (event 1).detail.length = 32) ∧
    gives .ashRecordWrite s (fun t => (ashRing t 0).pi == 4 && fld (t.mem.host.read 0 (0x4000 + 192) 64) 0 4 == 3 &&
      slice (t.mem.host.read 0 (0x4000 + 192) 64) 0x20 32 == List.replicate 32 0x11) = true ∧
    gives .ashRecordWrite (ashed [] [event 1] { ashRing0 with placed := false }) (fun t => (ashRing t 0).loss && t.ash.fifo.isEmpty) = true := by
  decide +kernel
theorem witness_Lost : let s := ashed [] [] { ashRing0 with unreported := [(0, 2)], lost := [(0, 2)] }
    (s.ash.fifo.length < 64 ∧ (ashRing s 0).unreported ≠ [] ∧ hostReachable s 0 = true) ∧
      gives (.lost 0) s (fun t => (ashRing t 0).unreported.isEmpty && (ashRing t 0).pi == 4) = true := by decide +kernel
theorem witness_AshCi : let s := ashed [] [] ashRing0
    fnReachable s 0 = true ∧ gives (.ashCiWrite 0 3) s (fun t => (ashRing t 0).ci == 3) = true ∧ gives (.ashCiWrite 0 4) s (fun t => (ashRing t 0).ci == 0) = true := by
  decide +kernel

/-! ## Draught, counters, entropy -/

/-- Every sensor reads one temperature, in 1/128 K. -/
def warm (t : Nat) : State := { up with ao := { up.ao with sensors := (List.range 6408).map fun i => (i, BitVec.ofNat 16 t), inlet := 128 * 30 } }
/-- The sensors of one site read one temperature, all others 0. -/
def warmAt (site t : Nat) : State := { up with ao := { up.ao with sensors := (List.range 32).map fun i => (32 * site + i, BitVec.ofNat 16 t) } }
theorem witness_TokenPeriod : live up = true ∧ up.draught.banking = true ∧
    (let s := { up with draught := { up.draught with banking := false } }; live s = true ∧ s.draught.banking = false) ∧
    (sensed (warm (128 * 96)) 0 = true ∧ (∀ l, l < 8 → layerBlind (warm (128 * 96)) 0 l = false) ∧ 128 * 95 < layerTemp (warm (128 * 96)) 0 0) ∧
    (let s := { up with ao := { up.ao with deadSensors := [0, 1] } }; sensed s 0 = true ∧ layerBlind s 0 0 = true) := by decide +kernel
theorem nearest0 : nearestOf 0 = 16 ∨ nearestOf 0 = 17 := by
  simp only [nearestOf]; have := Nat.mod_lt (Config.nearestSensor 0) (show 0 < 2 by decide)
  norm_num; omega
theorem witness_Dvfs : (islandPowered up 0 = true ∧ live up = true) ∧ 128 * 105 < islandTemp (warm (128 * 106)) 0 ∧ islandTemp (warm (128 * 60)) 0 ≤ 128 * 105 := by
  refine ⟨by decide +kernel, ?_, ?_⟩ <;> unfold islandTemp <;> rcases nearest0 with h | h <;> rw [h] <;> decide +kernel
theorem witness_REst : (live up = true ∧ up.draught.trayLost = false ∧ up.dev.state ≠ .off) ∧
    (let s := { up with draught := { up.draught with rEst := 0x3D23D70A } }
     (quotientBy (128 * 95 - s16 s.ao.inlet - (s.draught.margin : Int)) s.draught.rEst).isSome = true ∧
       gives .capLoopPeriod s (fun t => decide (900 ≤ t.draught.lTh ∧ t.draught.cap = t.draught.lTh)) = true) := by decide +kernel
/-- 500 W of electrical power and no heat in the water raise the alarm; equal powers do not. -/
theorem witness_HeatBalance : let s (n : Nat) : State := { up with draught := { up.draught with balanceOn := n } }
    let m (n : Nat) : State := { up with draught := { up.draught with balance := true, balanceOff := n } }
    gives (.heatBalanceCheck 500) (s 9) (fun t => t.draught.balance) = true ∧ gives (.heatBalanceCheck 500) (s 8) (fun t => !t.draught.balance) = true ∧
    gives (.heatBalanceCheck 0) (m 9) (fun t => !t.draught.balance) = true ∧ gives (.heatBalanceCheck 0) (m 8) (fun t => t.draught.balance) = true := by
  decide +kernel
theorem witness_DramOver : let s := { warm (128 * 96) with draught := { up.draught with layerHot := [(8 * 199 + 7, 10 ^ 13 - 1000000000)] } }
    let e := { up with draught := { up.draught with dramOver := [8 * 199 + 7] } }
    (sensed s 199 = true ∧ 8 * 199 + 7 ∉ s.draught.dramOver ∧ look s.draught.layerHot (8 * 199 + 7) = some (10 ^ 13 - 1000000000)) ∧
    gives (.dramOver 199 7) s (fun t => t.draught.dramOver == [8 * 199 + 7] && t.ash.flying.length == 1) = true ∧
    gives (.dramOver 199 7) e (fun t => t.draught.dramOver.isEmpty && t.ash.flying.length == 1) = true := by decide +kernel
theorem witness_LogicOver : let held (i since : Nat) : State := { up with draught := { up.draught with islands := [(i, { Island.reset with heldSince := some since })] } }
    let ended (i : Nat) : State := { up with draught := { up.draught with logicOver := [i] } }
    (2799 / 14 = 199 ∧ (island (held 2799 (10 ^ 13 - 1000000000)) 2799).heldSince = some (10 ^ 13 - 1000000000)) ∧
    gives (.logicOver 199 2799) (held 2799 (10 ^ 13 - 1000000000)) (fun t => t.draught.logicOver == [2799]) = true ∧
    gives (.logicOver 0 2841) (held 2841 (10 ^ 13 - 1000000000)) (fun t => t.draught.logicOver == [2841]) = true ∧
    gives (.logicOver 199 2799) (ended 2799) (fun t => t.draught.logicOver.isEmpty) = true := by decide +kernel
theorem witness_HbmHot : (128 * 95 < (BitVec.ofNat 16 (128 * 95 + 1)).toInt ∧ (BitVec.ofNat 16 (128 * 95)).toInt ≤ 128 * 95) ∧
    gives (.hbmHot 7 (BitVec.ofNat 16 (128 * 95 + 1))) up (fun t => t.draught.hbmHot == [7]) = true ∧
    gives (.hbmHot 7 (BitVec.ofNat 16 (128 * 95))) { up with draught := { up.draught with hbmHot := [7] } } (fun t => t.draught.hbmHot.isEmpty) = true := by
  decide +kernel
/-- A rise turns when the reading has fallen 2 K below its top, not before. -/
theorem witness_Cycle : let s (ext : Int) (up' : Bool) : State := { warmAt 0 (128 * 60) with draught := { up.draught with cycle0 := { ref := 128 * 40, ext := ext, up := up' } } }
    hotLogic (warmAt 0 (128 * 60)) 0 = 128 * 60 ∧
    gives .thermalCycleSample (s (128 * 50) true) (fun t => t.draught.cycle0 == { ref := 128 * 40, ext := 128 * 60, up := true }) = true ∧
    gives .thermalCycleSample (s (128 * 62) true) (fun t => t.draught.cycle0 == { ref := 128 * 62, ext := 128 * 60, up := false } && t.draught.half10k == 1) = true ∧
    gives .thermalCycleSample (s (128 * 62 - 1) true) (fun t => t.draught.cycle0.up) = true ∧
    gives .thermalCycleSample (s (128 * 58) false) (fun t => t.draught.cycle0 == { ref := 128 * 58, ext := 128 * 60, up := true }) = true := by decide +kernel
theorem witness_Journal : gives (.journalAppend true) up (fun t => (look t.fpt.journal 0).isSome && t.fpt.journalNext == 1) = true ∧
    gives (.journalAppend false) { up with fpt := { up.fpt with journalNext := 2047 } } (fun t => t.fpt.journal.isEmpty && t.fpt.journalNext == 0) = true := by
  decide +kernel
theorem witness_Maps : let s := warmAt 199 7680
    (live s = true ∧ sensed s (1599 / 8) = true ∧ layerBlind s 199 7 = false ∧ layerTemp s 199 7 = 7680) ∧
    (let e := { up with ao := { up.ao with deadSensors := [6382, 6383] } }; layerBlind e 199 7 = true) := by decide +kernel

def window : Window :=
  { selected := true, share := 1, site := 0, event := 0x101, baselines := [(0, 5)], frozen := 0, value := 0, fresh := false, snapAt := 0, timeLatch := none }
theorem witness_Snapshot : let s := { up with counters := { up.counters with windows := [(3, window)] } }
    (look s.counters.windows 3 = some window ∧ window.selected = true ∧ snapshotArrives s window = true) ∧
      gives .counterSnapshot s (fun t => (look t.counters.windows 3).map (·.fresh) == some true) = true := by decide +kernel
theorem witness_Entropy : let s (n : Nat) : State := { up with sec := { up.sec with entropyRerun := true, entropyFails := n } }
    (up.sec.tested = true ∧ up.sec.svcFail.getLsbD 4 = false) ∧ gives .entropyHealthFail up (fun t => t.sec.entropyRerun) = true ∧
    gives (.entropyRerunDone true) (s 2) (fun t => !t.sec.entropyRerun && t.sec.entropyFails == 0) = true ∧
    gives (.entropyRerunDone false) (s 1) (fun t => t.sec.entropyFails == 2 && !t.sec.svcFail.getLsbD 4) = true ∧
    gives (.entropyRerunDone false) (s 2) (fun t => t.sec.svcFail.getLsbD 4) = true ∧
    (let d := { up with sec := { up.sec with drbgRequests := 2 ^ 20 } }
     (d.sec.drbgSeeded = true ∧ d.sec.entropyRerun = false) ∧ gives .drbgReseed d (fun t => t.sec.drbgRequests == 0) = true) := by decide +kernel

/-! ## Words, and what every step keeps -/

/-- The last check bit, and the first data bit of an odd word. -/
theorem witness_WordCode : 271 < 272 ∧ classify true none (syndrome { encode 7 5 with check := (encode 7 5).check ^^^ (1#16 <<< 15) } 5) = .corrected [271] ∧
    classify false none (syndrome { encode 7 5 with data := 6 } 5) = .corrected [0] := by decide +kernel
def place0 : Place := { hbm := false, unit := 0, addr := 0, die := false, key := 0 }
theorem witness_OldWords : let x : MemRace := ⟨0, 17, 7, false, place0.index, encode 0 0⟩
    let y : MemRace := { x with queue := 3 }
    let s := { up with mem := { up.mem with races := [x, y] } }
    let e := { hearthed { Hearth.reset with completed := [(3, 7)] } with mem := { up.mem with races := [y] } }
    x ∈ s.mem.races ∧ (oldWords s place0 6).length = 2 ∧ oldWords s place0 (byItem 4 0 3 8) = [] ∧ oldWords e place0 6 = [] := by decide +kernel
theorem witness_Words : placeOut up place0 = false ∧ (stored? (stored (List.replicate 32 0x5A)) place0).isSome = true ∧
    placeOut (stored (List.replicate 32 0x5A)) place0 = false := by decide +kernel
/-- A steps that starts where the three invariants hold. -/
theorem witness_Invariants : let s := { State.reset with pending := [.vauxUp 0] }
    s.mem.wf ∧ FreshIds s ∧ ∃ t, step s = .next t := by unfold FreshIds; exact ⟨by decide, by decide, _, rfl⟩
theorem witness_TimeAndQueue : ∃ t, exec .drivePwrEn up = .next t ∧ (∀ strap, Instr.drivePwrEn ≠ .vauxUp strap) ∧ Instr.drivePwrEn ≠ .vauxLoss := ⟨_, rfl, by simp, by simp⟩

end Sys2Proof.Tests
end

section
/-! Register accesses over BAR0: what one write and one read do, and the accesses that R7 leaves without effect
(00 R5-R7, 02 R53, 06 R126). -/

namespace Sys2Proof.Machine

/-! ## The two rows, for a function that exists -/

/-- A write acts on a reachable function alone, with 4 or 8 bytes, naturally aligned (R7). -/
theorem exec_registerWrite (s : State) {fn : Nat} (off w : Nat) (v : Word) (hfn : fn ≤ 16) :
    exec (.registerWrite fn off w v) s =
      .next (if fnReachable s fn && aligned off w then writeBar0 s fn off w v else s) :=
  if_pos (decide_eq_true hfn)

/-- A 4-byte read at a multiple of 4 of a reachable function. -/
theorem exec_lowHalfRead_word {s : State} {fn off : Nat} (hfn : fn ≤ 16) (hr : fnReachable s fn = true) (ho : off % 4 = 0) :
    exec (.lowHalfRead fn ⟨off, 4⟩) s = .next (read32 s fn off) := by
  have hwf : Instr.wellFormed (.lowHalfRead fn ⟨off, 4⟩) = true := decide_eq_true hfn
  simp [exec, execLowHalfRead, guarded, hwf, hr, ho]

/-- A read of another width, or at no natural alignment, answers a free value. -/
theorem exec_lowHalfRead_unaligned {s : State} {fn off w : Nat} (hfn : fn ≤ 16) (hr : fnReachable s fn = true)
    (ha : aligned off w = false) :
    exec (.lowHalfRead fn ⟨off, w⟩) s = .next (bumpFree (answerRead s (Config.freeWord s.free).toNat)) := by
  have hwf : Instr.wellFormed (.lowHalfRead fn ⟨off, w⟩) = true := decide_eq_true hfn
  have h4 : ¬ (w = 4 ∧ off % 4 = 0) := by rintro ⟨rfl, h⟩; simp [aligned, h] at ha
  have h8 : ¬ (w = 8 ∧ off % 8 = 0 ∧ (isRo64 fn off || isSignal fn off || isWindow fn off) = true) := by
    rintro ⟨rfl, h, _⟩; simp [aligned, h] at ha
  simp only [exec, execLowHalfRead, guarded, hwf, hr, Bool.not_true, if_neg h4, if_neg h8, if_true, Bool.false_eq_true,
    if_false]

/-! ## Writes -/

theorem fnReachable_of_mbxOpen {s : State} {fn : Nat} (h : mbxOpen s fn = true) : fnReachable s fn = true := by
  simp only [mbxOpen, Bool.and_eq_true] at h
  exact h.1.1.1

/-- A write to a request slot of an open mailbox is a write to the memory of the slots (R126). -/
theorem writeBar0_requestSlot {s : State} {fn off : Nat} (w : Nat) (v : Word) (hm : mbxOpen s fn = true)
    (hlo : 0x14000 ≤ off) (hhi : off < 0x18000) :
    writeBar0 s fn off w v =
      modMbx s fn fun m => { m with req := m.req.write (off - 0x14000) (leBytes w v.toNat) } := by
  have hblock : 0x10000 ≤ off ∧ off < 0x20000 := by omega
  have hnotUrg : ¬ (0x1000 ≤ off - 0x10000 ∧ off - 0x10000 < 0x1100) := by omega
  have hreq : 0x4000 ≤ off - 0x10000 ∧ off - 0x10000 < 0x8000 := by omega
  have hsub : off - 0x10000 - 0x4000 = off - 0x14000 := by omega
  rw [writeBar0, if_pos hblock, if_pos hm, writeMbx, if_neg hnotUrg, if_pos hreq, hsub]

theorem exec_registerWrite_requestSlot {s : State} {fn off w : Nat} (v : Word) (hfn : fn ≤ 16) (hm : mbxOpen s fn = true)
    (ha : aligned off w = true) (hlo : 0x14000 ≤ off) (hhi : off < 0x18000) :
    exec (.registerWrite fn off w v) s =
      .next (modMbx s fn fun m => { m with req := m.req.write (off - 0x14000) (leBytes w v.toNat) }) := by
  rw [exec_registerWrite s off w v hfn, fnReachable_of_mbxOpen hm, ha, writeBar0_requestSlot w v hm hlo hhi]
  rfl

theorem toNat_div_8_even (v : Word) : (v.toNat / 8 % 2 == 0) = !v.getLsbD 3 := by
  rw [BitVec.getLsbD, Nat.testBit_eq_decide_div_mod_eq]
  rcases Nat.mod_two_eq_zero_or_one (v.toNat / 8) with h | h <;> simp [h]

/-- CHANGED clears where a 1 is written to its bit (R53). -/
theorem writeBar0_changed {s : State} (v : Word) (hb : s.dev.state ≠ .boot) :
    writeBar0 s 0 0x43008 4 v = modFpt s fun f => { f with changed := f.changed && !v.getLsbD 3 } := by
  simp only [writeBar0, toNat_div_8_even]
  simp [hb]

/-! ## Reads of the 64-bit read-only registers -/

theorem mod_8_of_isRo64 {fn off : Nat} (h : isRo64 fn off = true) : off % 8 = 0 := by
  simp only [isRo64, Bool.or_eq_true, Bool.and_eq_true, beq_iff_eq, decide_eq_true_eq] at h
  omega

/-- No 64-bit register begins where the high half of another stands. -/
theorem isRo64_highHalf (fn : Nat) {off : Nat} (h : off % 8 = 0) : isRo64 fn (off + 4) = false :=
  Bool.eq_false_iff.mpr fun hne => by
    have := mod_8_of_isRo64 hne
    omega

/-- The snapshot's time latches in its window; nothing else changes (R432). -/
theorem latchTime_only (s : State) (fn off : Nat) : latchTime s fn off =
    { s with counters := { s.counters with windows := (latchTime s fn off).counters.windows } } := by
  unfold latchTime
  split
  · rfl
  · dsimp only
    generalize (if _ = 0 then _ else _ : Window) = x
    split <;> rfl

@[simp] theorem latchTime_pcie (s : State) (fn off : Nat) : (latchTime s fn off).pcie = s.pcie := by
  rw [latchTime_only]

/-- The low half is answered and the high half latched (R7). -/
theorem read32_lowHalf (s : State) {fn off : Nat} (h : isRo64 fn off = true) :
    read32 s fn off = latchTime { s with pcie := { s.pcie with
      readData := BitVec.ofNat 64 (regValue s fn off % 2 ^ 32),
      latched := put s.pcie.latched (latchKey fn off) (BitVec.ofNat 32 (regValue s fn off / 2 ^ 32)) } } fn off := by
  have hbase : off / 8 * 8 = off := by have := mod_8_of_isRo64 h; omega
  simp only [read32, h, hbase, if_true]
  rfl

/-- The high half is answered as it was latched, and its latch is given up (R7). -/
theorem read32_highHalf {s : State} {fn off : Nat} {hi : BitVec 32} (h : isRo64 fn off = true)
    (hl : look s.pcie.latched (latchKey fn off) = some hi) :
    read32 s fn (off + 4) = { s with pcie := { s.pcie with
      readData := BitVec.ofNat 64 hi.toNat, latched := del s.pcie.latched (latchKey fn off) } } := by
  have h8 := mod_8_of_isRo64 h
  have hbase : (off + 4) / 8 * 8 = off := by omega
  simp only [read32, isRo64_highHalf fn h8, hbase, h, hl, if_true, Bool.false_eq_true, if_false]
  rfl

/-! ## The clauses of R7, R53 and R126 -/

theorem registerWrite_unaligned_idles (s : State) {fn off w : Nat} (v : Word) (hfn : fn ≤ 16) (ha : aligned off w = false) :
    Idles (.registerWrite fn off w v) s := by
  simp [Idles, exec_registerWrite s off w v hfn, ha]

theorem registerWrite_requestSlot {s : State} {fn off w : Nat} (v : Word) (hfn : fn ≤ 16) (hm : mbxOpen s fn = true)
    (ha : aligned off w = true) (hlo : 0x14000 ≤ off) (hhi : off < 0x18000) :
    Gives (.registerWrite fn off w v) s fun t =>
      (∀ free a, (mbx t fn).req.byte free a =
        if off - 0x14000 ≤ a ∧ a < off - 0x14000 + w then (leBytes w v.toNat).getD (a - (off - 0x14000)) 0
        else (mbx s fn).req.byte free a) ∧
      mbx t fn = { mbx s fn with req := (mbx t fn).req } ∧ (∀ g, g ≠ fn → mbx t g = mbx s g) ∧
      t = { s with mbx := t.mbx } := by
  refine ⟨_, exec_registerWrite_requestSlot v hfn hm ha hlo hhi, ?bytes, ?mailbox,
    fun g hg => mbx_modMbx_other s fn _ hg, rfl⟩
  case bytes =>
    intro free a
    rw [mbx_modMbx_self, Ram.byte_write, length_leBytes]
    rfl
  case mailbox => rw [mbx_modMbx_self]

theorem registerWrite_changed {s : State} (v : Word) (hr : fnReachable s 0 = true) (hb : s.dev.state ≠ .boot) :
    Gives (.registerWrite 0 0x43008 4 v) s fun t =>
      t = { s with fpt := { s.fpt with changed := s.fpt.changed && !v.getLsbD 3 } } := by
  refine ⟨_, ?_, rfl⟩
  rw [exec_registerWrite s 0x43008 4 v (Nat.zero_le 16), hr, writeBar0_changed v hb]
  rfl

theorem lowHalfRead_latches {s : State} {fn off : Nat} (hfn : fn ≤ 16) (hr : fnReachable s fn = true)
    (h : isRo64 fn off = true) :
    Gives (.lowHalfRead fn ⟨off, 4⟩) s fun t =>
      t.pcie.readData.toNat = regValue s fn off % 2 ^ 32 ∧
        (∃ hi, look t.pcie.latched (latchKey fn off) = some hi ∧ hi.toNat = regValue s fn off / 2 ^ 32 % 2 ^ 32) ∧
        t = { s with pcie := { s.pcie with readData := t.pcie.readData, latched := t.pcie.latched },
                     counters := { s.counters with windows := t.counters.windows } } := by
  have h4 : off % 4 = 0 := by have := mod_8_of_isRo64 h; omega
  refine ⟨_, exec_lowHalfRead_word hfn hr h4, ?_⟩
  rw [read32_lowHalf s h]
  refine ⟨?low, ⟨BitVec.ofNat 32 (regValue s fn off / 2 ^ 32), ?latch, BitVec.toNat_ofNat _ _⟩, ?frame⟩
  case low =>
    rw [latchTime_pcie, BitVec.toNat_ofNat]
    omega
  case latch => rw [latchTime_pcie, look_put_self]
  case frame =>
    rw [latchTime_pcie]
    exact latchTime_only _ fn off

theorem lowHalfRead_highHalf {s : State} {fn off : Nat} {hi : BitVec 32} (hfn : fn ≤ 16) (hr : fnReachable s fn = true)
    (h : isRo64 fn off = true) (hl : look s.pcie.latched (latchKey fn off) = some hi) :
    Gives (.lowHalfRead fn ⟨off + 4, 4⟩) s fun t =>
      t.pcie.readData.toNat = hi.toNat ∧ look t.pcie.latched (latchKey fn off) = none ∧
        t = { s with pcie := { s.pcie with readData := t.pcie.readData, latched := t.pcie.latched } } := by
  have h4 : (off + 4) % 4 = 0 := by have := mod_8_of_isRo64 h; omega
  refine ⟨_, exec_lowHalfRead_word hfn hr h4, ?_⟩
  rw [read32_highHalf h hl]
  refine ⟨?high, ?latch, rfl⟩
  case high =>
    have := hi.isLt
    rw [BitVec.toNat_ofNat]
    omega
  case latch => rw [look_del, if_pos rfl]

theorem lowHalfRead_unaligned {s : State} {fn off w : Nat} (hfn : fn ≤ 16) (hr : fnReachable s fn = true)
    (ha : aligned off w = false) :
    Gives (.lowHalfRead fn ⟨off, w⟩) s fun t =>
      t = { s with free := t.free, pcie := { s.pcie with readData := t.pcie.readData } } :=
  ⟨_, exec_lowHalfRead_unaligned hfn hr ha, rfl⟩

/-- Settles O18, clause by clause: which function of the model serves each access, and what that function changes. -/
theorem registerAccesses : Obligations.RegisterAccesses :=
  ⟨fun s _ _ _ v hfn ha => registerWrite_unaligned_idles s v hfn ha,
    fun _ _ _ _ v hfn hm ha hlo hhi => registerWrite_requestSlot v hfn hm ha hlo hhi,
    fun _ v hr hb => registerWrite_changed v hr hb,
    fun _ _ _ hfn hr h => lowHalfRead_latches hfn hr h,
    fun _ _ _ _ hfn hr h _ hl => lowHalfRead_highHalf hfn hr h hl,
    fun _ _ _ _ hfn hr ha => lowHalfRead_unaligned hfn hr ha⟩

end Sys2Proof.Machine
end

section
/-! What no command moves: the queue of commands, and the master devtime while VAUX stays in tolerance (R25, R109; log entries 1
and 2). One law for each operation of the model that returns a state. -/

namespace Sys2Proof.Machine

/-- The queue of commands and the master devtime. What an operation does to them is stated once, as an equation that `simp` then uses
for the operations built from it (an equation that holds by definition is proved by `(rfl)`, so that `simp` takes it as a rewrite). -/
def queueTime (s : State) : List Instr × Nat := (s.pending, s.ao.devtime)

section
variable {s t : State}

theorem queueTime_of_reads (h : Reads s t) : queueTime t = queueTime s := by
  unfold queueTime
  rw [h.pending, h.ao]

theorem queueTime_of_writes (h : Writes s t) : queueTime t = queueTime s := by
  unfold queueTime
  rw [h.pending, h.ao]

/-- An answer taken apart into its value and its state. -/
theorem queueTime_snd {α : Type} {p : α × State} {x : α} (h : p = (x, t)) : queueTime t = queueTime p.2 := by rw [h]

end

@[simp] theorem queueTime_ite (c : Prop) [Decidable c] (s t : State) :
    queueTime (if c then s else t) = if c then queueTime s else queueTime t := apply_ite queueTime c s t

@[simp] theorem queueTime_snd_ite {α : Type} (c : Prop) [Decidable c] (p q : α × State) :
    queueTime (if c then p else q).2 = if c then queueTime p.2 else queueTime q.2 := apply_ite (queueTime ·.2) c p q

/-- A fold whose every step keeps the queue and devtime of the state it carries. -/
theorem queueTime_foldl_of {α β : Type} {g : α → State} {f : α → β → α} (h : ∀ a b, queueTime (g (f a b)) = queueTime (g a))
    (l : List β) (a : α) : queueTime (g (l.foldl f a)) = queueTime (g a) := by
  induction l generalizing a with
  | nil => rfl
  | cons b l ih => rw [List.foldl_cons, ih, h]

@[simp] theorem queueTime_foldl {β : Type} {f : State → β → State} (h : ∀ s b, queueTime (f s b) = queueTime s) (l : List β)
    (s : State) : queueTime (l.foldl f s) = queueTime s := queueTime_foldl_of (g := id) h l s

variable (s : State)

@[simp] theorem queueTime_modAo {f : Ao → Ao} (h : ∀ a, (f a).devtime = a.devtime) : queueTime (modAo s f) = queueTime s := by
  unfold queueTime
  rw [modAo_ao, modAo_pending, h]

/-! ## Parts of the state, counters, ash events, memory words, dispatches -/

@[simp] theorem queueTime_setHearth (site h) : queueTime (setHearth s site h) = queueTime s := (rfl)
@[simp] theorem queueTime_modHearth (site f) : queueTime (modHearth s site f) = queueTime s := by simp [modHearth]
@[simp] theorem queueTime_setMbx (fn m) : queueTime (setMbx s fn m) = queueTime s := (rfl)
@[simp] theorem queueTime_modMbx (fn f) : queueTime (modMbx s fn f) = queueTime s := by simp [modMbx]
@[simp] theorem queueTime_setTenant (t x) : queueTime (setTenant s t x) = queueTime s := (rfl)
@[simp] theorem queueTime_modTenant (t f) : queueTime (modTenant s t f) = queueTime s := by simp [modTenant]
@[simp] theorem queueTime_setQueue (t q x) : queueTime (setQueue s t q x) = queueTime s := by simp [setQueue]
@[simp] theorem queueTime_modQueue (t q f) : queueTime (modQueue s t q f) = queueTime s := by simp [modQueue]
@[simp] theorem queueTime_setRegion (t r x) : queueTime (setRegion s t r x) = queueTime s := by simp [setRegion]
@[simp] theorem queueTime_setPcieFn (fn x) : queueTime (setPcieFn s fn x) = queueTime s := (rfl)
@[simp] theorem queueTime_modPcieFn (fn f) : queueTime (modPcieFn s fn f) = queueTime s := by simp [modPcieFn]
@[simp] theorem queueTime_setAshRing (fn x) : queueTime (setAshRing s fn x) = queueTime s := (rfl)
@[simp] theorem queueTime_modAshRing (fn f) : queueTime (modAshRing s fn f) = queueTime s := by simp [modAshRing]
@[simp] theorem queueTime_setChainPort (p x) : queueTime (setChainPort s p x) = queueTime s := (rfl)
@[simp] theorem queueTime_modChainPort (p f) : queueTime (modChainPort s p f) = queueTime s := by simp [modChainPort]
@[simp] theorem queueTime_modDev (f) : queueTime (modDev s f) = queueTime s := (rfl)
@[simp] theorem queueTime_modSec (f) : queueTime (modSec s f) = queueTime s := (rfl)
@[simp] theorem queueTime_modFpt (f) : queueTime (modFpt s f) = queueTime s := (rfl)
@[simp] theorem queueTime_modPcie (f) : queueTime (modPcie s f) = queueTime s := (rfl)
@[simp] theorem queueTime_modWork (f) : queueTime (modWork s f) = queueTime s := (rfl)
@[simp] theorem queueTime_modEpoch (f) : queueTime (modEpoch s f) = queueTime s := (rfl)
@[simp] theorem queueTime_modMem (f) : queueTime (modMem s f) = queueTime s := (rfl)
@[simp] theorem queueTime_modAsh (f) : queueTime (modAsh s f) = queueTime s := (rfl)
@[simp] theorem queueTime_modFabric (f) : queueTime (modFabric s f) = queueTime s := (rfl)
@[simp] theorem queueTime_modChain (f) : queueTime (modChain s f) = queueTime s := (rfl)
@[simp] theorem queueTime_modDraught (f) : queueTime (modDraught s f) = queueTime s := (rfl)
@[simp] theorem queueTime_modCounters (f) : queueTime (modCounters s f) = queueTime s := (rfl)
@[simp] theorem queueTime_bumpFree : queueTime (bumpFree s) = queueTime s := (rfl)
@[simp] theorem queueTime_countAt (event site n) : queueTime (countAt s event site n) = queueTime s := by simp [countAt]
@[simp] theorem queueTime_countU (event n) : queueTime (countU s event n) = queueTime s := by simp [countU]
@[simp] theorem queueTime_countTAt (event site tag n) : queueTime (countTAt s event site tag n) = queueTime s := by simp [countTAt]
@[simp] theorem queueTime_countT (event tag n) : queueTime (countT s event tag n) = queueTime s := by simp [countT]
@[simp] theorem queueTime_raiseVector (fn v) : queueTime (raiseVector s fn v) = queueTime s := by simp [raiseVector]
@[simp] theorem queueTime_flushPending (fn) : queueTime (flushPending s fn) = queueTime s := by simp [flushPending]
@[simp] theorem queueTime_raiseAsh (ty source tag reason det dests alerts) :
    queueTime (raiseAsh s ty source tag reason det dests alerts) = queueTime s := by simp [raiseAsh]
@[simp] theorem queueTime_storeWord (p w) : queueTime (storeWord s p w) = queueTime s := by simp [storeWord]
@[simp] theorem queueTime_forgetRaces (site) : queueTime (forgetRaces s site) = queueTime s := by simp [forgetRaces]
@[simp] theorem queueTime_raiseBucket (p owner regionAddr requester synd) :
    queueTime (raiseBucket s p owner regionAddr requester synd) = queueTime s := queueTime_of_reads (reads_raiseBucket _ _ _ _ _ _)
@[simp] theorem queueTime_readPlace (p r tag regionAddr) :
    queueTime (readPlace s p r tag regionAddr).2 = queueTime s := queueTime_of_reads (reads_readPlace _ _ _ _ _)
@[simp] theorem queueTime_writePart (p off bs r tag regionAddr) :
    queueTime (writePart s p off bs r tag regionAddr).2 = queueTime s := queueTime_of_writes (writes_writePart _ _ _ _ _ _ _)
@[simp] theorem queueTime_modDisp (id f) : queueTime (modDisp s id f) = queueTime s := by simp [modDisp]
@[simp] theorem queueTime_endDisp (id rs) : queueTime (endDisp s id rs) = queueTime s := by simp [endDisp]
@[simp] theorem queueTime_endUnit (id unit r) : queueTime (endUnit s id unit r) = queueTime s := by simp [endUnit]

/-! ## Regions, staging, host memory, rings -/

@[simp] theorem queueTime_readSpan (t a len req) :
    queueTime (readSpan s t a len req).2 = queueTime s := queueTime_of_reads (reads_readSpan _ _ _ _ _)
@[simp] theorem queueTime_writeSpan (t a bs req) :
    queueTime (writeSpan s t a bs req).2 = queueTime s := queueTime_of_writes (writes_writeSpan _ _ _ _ _)

@[simp] theorem queueTime_fillSpan (t rn o len pat) : queueTime (fillSpan s t rn o len pat).2 = queueTime s := by
  unfold fillSpan
  split
  · rfl
  next r _ =>
    have h := queueTime_of_writes (writes_fillWords t rn r pat (len / 32) s o)
    simpa using h

@[simp] theorem queueTime_stRead (site a n r) :
    queueTime (stRead s site a n r).2 = queueTime s := queueTime_of_reads (reads_stRead _ _ _ _ _)
@[simp] theorem queueTime_stWrite (site a bs r) : queueTime (stWrite s site a bs r) = queueTime s := by simp [stWrite]
@[simp] theorem queueTime_takeTags (site q num need) : queueTime (takeTags s site q num need) = queueTime s := by simp [takeTags]
@[simp] theorem queueTime_freeTags (site q num) : queueTime (freeTags s site q num) = queueTime s := by simp [freeTags]
@[simp] theorem queueTime_discardResponses (site q) :
    queueTime (discardResponses s site q) = queueTime s := by simp [discardResponses]
@[simp] theorem queueTime_hostRead (tag a n) :
    queueTime (hostRead s tag a n).2 = queueTime s := queueTime_of_reads (reads_hostRead _ _ _ _)
@[simp] theorem queueTime_hostWrite (tag a bs) : queueTime (hostWrite s tag a bs) = queueTime s := by simp [hostWrite]
@[simp] theorem queueTime_ringRead (t hbm base off n req) :
    queueTime (ringRead s t hbm base off n req).2 = queueTime s := queueTime_of_reads (reads_ringRead _ _ _ _ _ _ _)
@[simp] theorem queueTime_ringPost (t hbm base off bs) :
    queueTime (ringPost s t hbm base off bs).2 = queueTime s := queueTime_of_writes (writes_ringPost _ _ _ _ _ _)

/-! ## Status flags and windows -/

@[simp] theorem queueTime_alertOn (after) : queueTime (alertOn s after) = queueTime after := by simp [alertOn]
@[simp] theorem queueTime_draughtRecord (event began site temp) :
    queueTime (draughtRecord s event began site temp) = queueTime s := by simp [draughtRecord]
@[simp] theorem queueTime_setOwner (site new) : queueTime (setOwner s site new) = queueTime s := (rfl)
@[simp] theorem queueTime_setDevState (st cause) : queueTime (setDevState s st cause) = queueTime s := by simp [setDevState]

/-! ## Completion records and responses -/

@[simp] theorem queueTime_leaveInflight (d) : queueTime (leaveInflight s d) = queueTime s := by simp [leaveInflight]
@[simp] theorem queueTime_writeRecord (d) : queueTime (writeRecord s d) = queueTime s := by simp [writeRecord]
@[simp] theorem queueTime_postResponse (fn bytes) : queueTime (postResponse s fn bytes) = queueTime s := by simp [postResponse]
@[simp] theorem queueTime_respond (fn t rc det payload) :
    queueTime (respond s fn t rc det payload) = queueTime s := by simp [respond]

@[simp] theorem queueTime_respondTo (fn seq rc det payload) : queueTime (respondTo s fn seq rc det payload) = queueTime s := by
  unfold respondTo
  split <;> simp

/-! ## Repair and poisoning -/

@[simp] theorem queueTime_poisonPlace (p h) : queueTime (poisonPlace s p h) = queueTime s := by
  unfold poisonPlace
  split <;> simp

@[simp] theorem queueTime_lineRecord (ty f notMarked noSpare alerts) :
    queueTime (lineRecord s ty f notMarked noSpare alerts) = queueTime s := by simp [lineRecord]

@[simp] theorem queueTime_repairRow (f row) : queueTime (repairRow s f row).1 = queueTime s := by
  unfold repairRow
  dsimp only
  split
  · rfl
  · split <;> simp

@[simp] theorem queueTime_fenceUnit (u) : queueTime (fenceUnit s u) = queueTime s := by simp [fenceUnit]

@[simp] theorem queueTime_repairOne (f) : queueTime (repairOne s f) = queueTime s := by
  unfold repairOne
  dsimp only
  generalize List.range 512 = rows
  split
  · simp
  · rw [queueTime_lineRecord, queueTime_foldl fun _ _ => queueTime_poisonPlace _ _ _, queueTime_modMem]
    refine (queueTime_foldl_of (g := Prod.fst) (fun _ _ => ?_) _ _).trans (queueTime_modMem _ _)
    exact queueTime_repairRow _ _ _

@[simp] theorem queueTime_repairNext (f) : queueTime (repairNext s f) = queueTime s := by simp [repairNext]
@[simp] theorem queueTime_repairSite (site limit) : queueTime (repairSite s site limit) = queueTime s := by simp [repairSite]

/-! ## Tiles, vectors, transfers, streams -/

@[simp] theorem queueTime_readShare (t site a len req) : queueTime (readShare s t site a len req).2 = queueTime s := by
  unfold readShare
  split
  · simp
  · split <;> simp

/-- The words of a page, each read and stored in turn. -/
theorem queueTime_refillPage_go (site wp r l a) : queueTime (refillPage.go site wp r s a l).2 = queueTime s := by
  induction l generalizing s a with
  | nil => rfl
  | cons w l ih =>
    simp only [refillPage.go]
    split
    next h => simp [queueTime_snd h]
    next h => simp [ih, queueTime_snd h]

@[simp] theorem queueTime_refillPage (site p wp r) : queueTime (refillPage s site p wp r).2 = queueTime s := by
  unfold refillPage
  have page := queueTime_refillPage_go s site wp r wp.words (4096 * p)
  split
  next h => simpa [queueTime_snd h] using page
  next => exact page

@[simp] theorem queueTime_refillPages (site r l) : queueTime (refillPages s site r l).2 = queueTime s := by
  induction l generalizing s with
  | nil => rfl
  | cons p l ih =>
    simp only [refillPages]
    split
    · rw [queueTime_snd_ite, ih]
      split
      · rfl
      · split
        next h => simp [ih, queueTime_snd h]
        next => simp
    · exact ih s

@[simp] theorem queueTime_tileWeights (site tn t r) : queueTime (tileWeights s site tn t r).2 = queueTime s := by
  unfold tileWeights
  split
  · split
    next h => simp [queueTime_snd h]
    next h => split <;> rename_i h' <;> simp [queueTime_snd h', queueTime_snd h]
  · simp

@[simp] theorem queueTime_tileRows (site t a w c0 q) :
    queueTime (tileRows s site t a w c0 q).1 = queueTime s := queueTime_foldl_of (g := Prod.fst) (fun _ _ => by simp) _ _

@[simp] theorem queueTime_tileC0 (site t r n) : queueTime (tileC0 s site t r n).2 = queueTime s := by
  induction n with
  | zero => rfl
  | succ n ih =>
    simp only [tileC0]
    split
    next h => simp [queueTime_snd h, ih]
    next h => split <;> rename_i h' <;> simp [queueTime_snd h', queueTime_snd h, ih]

@[simp] theorem queueTime_tileEffect (site tn it) : queueTime (tileEffect s site tn it).2 = queueTime s := by
  unfold tileEffect
  dsimp only
  split
  next h => simp [queueTime_snd h]
  next h => simp [queueTime_snd h]
  next w t h =>
    have weights : queueTime t = queueTime s := by simp [queueTime_snd h]
    split
    next h => simp [queueTime_snd h, weights]
    next a t' h =>
      have rows : queueTime t' = queueTime s := by simp [queueTime_snd h, weights]
      split
      next h => simp [queueTime_snd h, rows]
      next c0 u h =>
        have sums : queueTime u = queueTime s := by simp [queueTime_snd h, rows]
        simp only [queueTime_countAt, queueTime_ite, queueTime_modHearth, queueTime_stWrite, ite_self]
        split
        · split
          · simp [sums]
          · split <;> simp [sums]
        · simp [sums]

@[simp] theorem queueTime_vectorEffect (site it) : queueTime (vectorEffect s site it).2 = queueTime s := by
  unfold vectorEffect
  dsimp only
  split
  next h => simp [queueTime_snd h]
  next h =>
    split
    next h' => simp [queueTime_snd h', queueTime_snd h]
    next h' => split <;> rename_i h'' <;> simp [queueTime_snd h'', queueTime_snd h', queueTime_snd h]

@[simp] theorem queueTime_dmaSide (site tn kind a n req) : queueTime (dmaSide s site tn kind a n req).2 = queueTime s := by
  unfold dmaSide
  split
  · split <;> rename_i h <;> simp [queueTime_snd h]
  · simp

@[simp] theorem queueTime_dmaWords (site tn it r n o) : queueTime (dmaWords site tn it r n s o).2 = queueTime s := by
  induction n generalizing s o with
  | zero => rfl
  | succ n ih =>
    simp only [dmaWords]
    split
    next h =>
      split
      · simp [ih, queueTime_snd h]
      · split <;> rename_i h' <;> simp [ih, queueTime_snd h', queueTime_snd h]
    next h => simp [queueTime_snd h]

@[simp] theorem queueTime_dmaEffect (site tn ch it) : queueTime (dmaEffect s site tn ch it).2 = queueTime s := by simp [dmaEffect]

@[simp] theorem queueTime_streamEffect (site other it) : queueTime (streamEffect s site other it).2 = queueTime s := by
  unfold streamEffect
  dsimp only
  split
  next h => simp [queueTime_snd h]
  next h => split <;> simp [queueTime_snd h]

@[simp] theorem queueTime_foresee (site e) : queueTime (foresee site s e) = queueTime s := by simp [foresee]
@[simp] theorem queueTime_unforesee (site e) : queueTime (unforesee site s e) = queueTime s := by simp [unforesee]

/-- What is carried out amid overtaken work keeps what it keeps alone. -/
theorem queueTime_amid {α : Type} {f : State → α × State} (h : ∀ s, queueTime (f s).2 = queueTime s) (site q num) :
    queueTime (amid s site q num f).2 = queueTime s := by
  unfold amid
  split <;> simp [h]

@[simp] theorem queueTime_runTile (site it) :
    queueTime (runTile s site it).2 = queueTime s := queueTime_amid _ (fun _ => queueTime_tileEffect _ _ _ _) _ _ _
@[simp] theorem queueTime_runVector (site it) :
    queueTime (runVector s site it).2 = queueTime s := queueTime_amid _ (fun _ => queueTime_vectorEffect _ _ _) _ _ _
@[simp] theorem queueTime_runStream (site other it) :
    queueTime (runStream s site other it).2 = queueTime s := queueTime_amid _ (fun _ => queueTime_streamEffect _ _ _ _) _ _ _
@[simp] theorem queueTime_runDma (site ch it) :
    queueTime (runDma s site ch it).2 = queueTime s := queueTime_amid _ (fun _ => queueTime_dmaEffect _ _ _ _ _) _ _ _

/-! ## Ember programs -/

@[simp] theorem queueTime_flushMerge (site en run) : queueTime (flushMerge s site en run).2 = queueTime s := by
  refine queueTime_foldl_of (g := Prod.snd) (fun x p => ?_) _ _
  split
  · rfl
  · dsimp only
    split <;> rename_i h <;> simp [queueTime_snd h]

@[simp] theorem queueTime_settleContest (site run) : queueTime (settleContest s site run) = queueTime s := by
  unfold settleContest
  dsimp only
  split <;> simp

@[simp] theorem queueTime_emberDone (site ember st det) : queueTime (emberDone s site ember st det) = queueTime s := by
  unfold emberDone
  split <;> simp

@[simp] theorem queueTime_emberAbort (site ember st det) : queueTime (emberAbort s site ember st det) = queueTime s := by
  unfold emberAbort
  split
  · simp
  · split <;> simp

@[simp] theorem queueTime_stopEmbers (site) : queueTime (stopEmbers s site) = queueTime s := by
  unfold stopEmbers
  dsimp only
  rw [queueTime_modHearth, queueTime_foldl fun _ _ => queueTime_emberAbort _ _ _ _ _]

/-! ## Andiron launches -/

@[simp] theorem queueTime_writeResult (site l i bs) : queueTime (writeResult s site l i bs) = queueTime s := by simp [writeResult]
@[simp] theorem queueTime_finishEnv (site lane l e) : queueTime (finishEnv s site lane l e) = queueTime s := by simp [finishEnv]
@[simp] theorem queueTime_stopRunning (site l) : queueTime (stopRunning s site l) = queueTime s := by simp [stopRunning]
@[simp] theorem queueTime_stopLaunches (site disp) : queueTime (stopLaunches s site disp) = queueTime s := by simp [stopLaunches]

/-! ## Stops and traps -/

@[simp] theorem queueTime_settleStreams (site) : queueTime (settleStreams s site) = queueTime s := by
  refine queueTime_foldl (fun s it => ?_) _ _
  split <;> simp

@[simp] theorem queueTime_settleStarted (site) : queueTime (settleStarted s site) = queueTime s := by simp [settleStarted]
@[simp] theorem queueTime_stopItemEmbers (site disp) :
    queueTime (stopItemEmbers s site disp) = queueTime s := by simp [stopItemEmbers]
@[simp] theorem queueTime_stopSequencer (site) : queueTime (stopSequencer s site) = queueTime s := by simp [stopSequencer]
@[simp] theorem queueTime_stopRecipe (site) : queueTime (stopRecipe s site) = queueTime s := by simp [stopRecipe]
@[simp] theorem queueTime_stopDispOn (id site) : queueTime (stopDispOn s id site) = queueTime s := by simp [stopDispOn]

@[simp] theorem queueTime_stopSiblings (id) : queueTime (stopSiblings s id) = queueTime s := by
  unfold stopSiblings
  split <;> simp

@[simp] theorem queueTime_endSite (site st det) : queueTime (endSite s site st det) = queueTime s := by
  unfold endSite
  split <;> simp

@[simp] theorem queueTime_recordFail (site st det) : queueTime (recordFail s site st det) = queueTime s := by simp [recordFail]
@[simp] theorem queueTime_endWorkOn (sites st det) : queueTime (endWorkOn s sites st det) = queueTime s := by simp [endWorkOn]
@[simp] theorem queueTime_endUnclaimed (sites st det) :
    queueTime (endUnclaimed s sites st det) = queueTime s := by simp [endUnclaimed]
@[simp] theorem queueTime_retireSites (sites) : queueTime (retireSites s sites) = queueTime s := by simp [retireSites]
@[simp] theorem queueTime_siteTrap (site code val) : queueTime (siteTrap s site code val) = queueTime s := by simp [siteTrap]
@[simp] theorem queueTime_siteTrapOpen (site code) : queueTime (siteTrapOpen s site code) = queueTime s := by simp [siteTrapOpen]
@[simp] theorem queueTime_mapQueue (site q f) : queueTime (mapQueue s site q f) = queueTime s := by simp [mapQueue]
@[simp] theorem queueTime_advanceQueue (site q) : queueTime (advanceQueue s site q) = queueTime s := by simp [advanceQueue]
@[simp] theorem queueTime_itemDone (site q num) : queueTime (itemDone s site q num) = queueTime s := by simp [itemDone]
@[simp] theorem queueTime_tileAbsent (site num) : queueTime (tileAbsent s site num) = queueTime s := by simp [tileAbsent]
@[simp] theorem queueTime_loseQuad (site q) : queueTime (loseQuad s site q) = queueTime s := by simp [loseQuad]

@[simp] theorem queueTime_endNoLane (site) : queueTime (endNoLane s site) = queueTime s := by
  unfold endNoLane
  split
  · simp
  · split <;> simp

@[simp] theorem queueTime_loseLane (site lane) : queueTime (loseLane s site lane) = queueTime s := by
  unfold loseLane
  split <;> simp

/-! ## Resets, sanitise, entry into OFF -/

@[simp] theorem queueTime_resetMailbox (fn) : queueTime (resetMailbox s fn) = queueTime s := by simp [resetMailbox]
@[simp] theorem queueTime_flipBanks : queueTime (flipBanks s) = queueTime s := by simp [flipBanks]
@[simp] theorem queueTime_flipGeneration : queueTime (flipGeneration s) = queueTime s := by simp [flipGeneration]
@[simp] theorem queueTime_advanceGeneration : queueTime (advanceGeneration s) = queueTime s := by simp [advanceGeneration]
@[simp] theorem queueTime_objectRemoved (t kind number) :
    queueTime (objectRemoved s t kind number) = queueTime s := by simp [objectRemoved]
@[simp] theorem queueTime_dropQueue (t q) : queueTime (dropQueue s t q) = queueTime s := by simp [dropQueue]
@[simp] theorem queueTime_dropDependents (t rn) : queueTime (dropDependents s t rn) = queueTime s := by simp [dropDependents]
@[simp] theorem queueTime_removeRegion (t rn) : queueTime (removeRegion s t rn) = queueTime s := by simp [removeRegion]
@[simp] theorem queueTime_forgetWords (r) : queueTime (forgetWords s r) = queueTime s := by simp [forgetWords]
@[simp] theorem queueTime_zeroHbm (r) : queueTime (zeroHbm s r) = queueTime s := by simp [zeroHbm]
@[simp] theorem queueTime_sanitiseRegion (t p) : queueTime (sanitiseRegion s t p) = queueTime s := by simp [sanitiseRegion]
@[simp] theorem queueTime_deleteRegions (t doomed) : queueTime (deleteRegions s t doomed) = queueTime s := by simp [deleteRegions]
@[simp] theorem queueTime_zeroSite (site) : queueTime (zeroSite s site) = queueTime s := by simp [zeroSite]
@[simp] theorem queueTime_closeDomains (t) : queueTime (closeDomains s t) = queueTime s := by simp [closeDomains]
@[simp] theorem queueTime_forgetOwned (site) : queueTime (forgetOwned s site) = queueTime s := (rfl)
@[simp] theorem queueTime_sanitiseSites (t sites) : queueTime (sanitiseSites s t sites) = queueTime s := by simp [sanitiseSites]
@[simp] theorem queueTime_sanitise (t sites) : queueTime (sanitise s t sites) = queueTime s := by simp [sanitise]
@[simp] theorem queueTime_resetHearth (site) : queueTime (resetHearth s site) = queueTime s := by simp [resetHearth]
@[simp] theorem queueTime_dropFrames (ids) :
    queueTime (dropFrames s ids) = queueTime s := queueTime_foldl (fun _ _ => queueTime_modChainPort _ _ _) _ _
@[simp] theorem queueTime_resetDispatches (t silent) :
    queueTime (resetDispatches s t silent) = queueTime s := by simp [resetDispatches]
@[simp] theorem queueTime_tenantReset (t silent) : queueTime (tenantReset s t silent) = queueTime s := by simp [tenantReset]
@[simp] theorem queueTime_unbindDomain (dom) : queueTime (unbindDomain s dom) = queueTime s := by simp [unbindDomain]
@[simp] theorem queueTime_clearWindows (fn) : queueTime (clearWindows s fn) = queueTime s := by simp [clearWindows]
@[simp] theorem queueTime_destroyTenant (t) : queueTime (destroyTenant s t) = queueTime s := by simp [destroyTenant]
@[simp] theorem queueTime_endTenant (t) : queueTime (endTenant s t) = queueTime s := by simp [endTenant]

@[simp] theorem queueTime_enterOff : queueTime (enterOff s) = queueTime s := by
  unfold enterOff
  dsimp only
  exact queueTime_setDevState _ _ _

/-! ## The trip and L_th -/

@[simp] theorem queueTime_trackLayer (i) : queueTime (trackLayer s i) = queueTime s := by simp [trackLayer]
@[simp] theorem queueTime_trackLayers (sensors) : queueTime (trackLayers s sensors) = queueTime s := by simp [trackLayers]
@[simp] theorem queueTime_dropPwrEn : queueTime (dropPwrEn s) = queueTime s := by simp [dropPwrEn]
@[simp] theorem queueTime_fireTrip (cause) : queueTime (fireTrip s cause) = queueTime s := by simp [fireTrip]
@[simp] theorem queueTime_trackTrip : queueTime (trackTrip s) = queueTime s := by simp [trackTrip]
@[simp] theorem queueTime_clearTrip : queueTime (clearTrip s) = queueTime s := by simp [clearTrip]

@[simp] theorem queueTime_settleTrip : queueTime (settleTrip s) = queueTime s := by
  unfold settleTrip
  dsimp only
  split <;> simp

@[simp] theorem queueTime_setLimit (l) : queueTime (setLimit s l) = queueTime s := by simp [setLimit]
@[simp] theorem queueTime_applyCaps : queueTime (applyCaps s) = queueTime s := by simp [applyCaps]
@[simp] theorem queueTime_capLoop : queueTime (capLoop s) = queueTime s := by simp [capLoop]
@[simp] theorem queueTime_countHalf (a) : queueTime (countHalf s a) = queueTime s := by simp [countHalf]
@[simp] theorem queueTime_setCycle (fb c) : queueTime (setCycle s fb c) = queueTime s := by simp [setCycle]

/-! ## Publications -/

@[simp] theorem queueTime_settleState (t) : queueTime (settleState s t) = queueTime s := by simp [settleState]
@[simp] theorem queueTime_loseFlueRequests (fb) : queueTime (loseFlueRequests s fb) = queueTime s := by simp [loseFlueRequests]
@[simp] theorem queueTime_settleLink (l down) : queueTime (settleLink s l down) = queueTime s := by simp [settleLink]
@[simp] theorem queueTime_publishTable (t t' site cause) :
    queueTime (publishTable s t t' site cause) = queueTime s := by simp [publishTable]
@[simp] theorem queueTime_publish (t c) : queueTime (publish s t c) = queueTime s := by simp [publish]

@[simp] theorem queueTime_retireCutOff : queueTime (retireCutOff s) = queueTime s := by
  unfold retireCutOff
  split <;> simp

@[simp] theorem queueTime_dropStale (t) : queueTime (dropStale s t) = queueTime s := by simp [dropStale]

@[simp] theorem queueTime_publishNext : queueTime (publishNext s) = queueTime s := by
  unfold publishNext
  split
  · rfl
  · dsimp only
    split <;> simp

@[simp] theorem queueTime_unitLost (u) : queueTime (unitLost s u) = queueTime s := by
  cases u <;> simp [unitLost]

@[simp] theorem queueTime_setFlash (b t) : queueTime (setFlash s b t) = queueTime s := by simp [setFlash]
@[simp] theorem queueTime_persisted : queueTime (persisted s) = queueTime s := by simp [persisted]

/-! ## Die links -/

@[simp] theorem queueTime_setLink (l x) : queueTime (setLink s l x) = queueTime s := by simp [setLink]
@[simp] theorem queueTime_modLink (l f) : queueTime (modLink s l f) = queueTime s := by simp [modLink]
@[simp] theorem queueTime_modEnd (l far f) : queueTime (modEnd s l far f) = queueTime s := by simp [modEnd]
@[simp] theorem queueTime_linkEvent (l i n) : queueTime (linkEvent s l i n) = queueTime s := by simp [linkEvent]
@[simp] theorem queueTime_linkEventT (l i tag) : queueTime (linkEventT s l i tag) = queueTime s := by simp [linkEventT]
@[simp] theorem queueTime_wantNak (l far) : queueTime (wantNak s l far) = queueTime s := by simp [wantNak]
@[simp] theorem queueTime_flitLost (l far group flit) : queueTime (flitLost s l far group flit) = queueTime s := by simp [flitLost]
@[simp] theorem queueTime_enterRouter (f) : queueTime (enterRouter s f) = queueTime s := by simp [enterRouter]
@[simp] theorem queueTime_acceptFlit (l far f) : queueTime (acceptFlit s l far f) = queueTime s := by simp [acceptFlit]
@[simp] theorem queueTime_sequenceFlit (l far f) : queueTime (sequenceFlit s l far f) = queueTime s := by simp [sequenceFlit]
@[simp] theorem queueTime_acknowledge (l far a) : queueTime (acknowledge s l far a) = queueTime s := by simp [acknowledge]
@[simp] theorem queueTime_replayRound (l far) : queueTime (replayRound s l far) = queueTime s := by simp [replayRound]
@[simp] theorem queueTime_takeCtrl (l far p) : queueTime (takeCtrl s l far p) = queueTime s := by simp [takeCtrl]
@[simp] theorem queueTime_putSlot (l far bytes) : queueTime (putSlot s l far bytes) = queueTime s := by simp [putSlot]
@[simp] theorem queueTime_sendCtrl (l far) : queueTime (sendCtrl s l far) = queueTime s := by simp [sendCtrl]

@[simp] theorem queueTime_relayNew (far) : queueTime (relayNew s far) = queueTime s := by
  unfold relayNew
  dsimp only
  split <;> simp

@[simp] theorem queueTime_remapLanes (l found) : queueTime (remapLanes s l found) = queueTime s := by simp [remapLanes]

@[simp] theorem queueTime_applyOutcomes (l us) : queueTime (applyOutcomes s l us) = queueTime s := by
  refine queueTime_foldl (fun s u => ?_) _ _
  dsimp only
  split <;> simp

@[simp] theorem queueTime_exchangeEnd (l far) : queueTime (exchangeEnd s l far) = queueTime s := by simp [exchangeEnd]
@[simp] theorem queueTime_retrainRecord (l groups trigger suspect) :
    queueTime (retrainRecord s l groups trigger suspect) = queueTime s := by simp [retrainRecord]
@[simp] theorem queueTime_flueLinkDown (l) : queueTime (flueLinkDown s l) = queueTime s := by simp [flueLinkDown]
@[simp] theorem queueTime_beginDetour (far) : queueTime (beginDetour s far) = queueTime s := by simp [beginDetour]
@[simp] theorem queueTime_declareFailed : queueTime (declareFailed s) = queueTime s := queueTime_modLink _ _ _
@[simp] theorem queueTime_bridgeFailed (trigger before suspect) :
    queueTime (bridgeFailed s trigger before suspect) = queueTime s := by simp [bridgeFailed]
@[simp] theorem queueTime_finishRetrain (l us) : queueTime (finishRetrain s l us) = queueTime s := by simp [finishRetrain]

@[simp] theorem queueTime_relayStep (far) : queueTime (relayStep s far) = queueTime s := by
  unfold relayStep
  split <;> simp

@[simp] theorem queueTime_drainRelay (far) : queueTime (drainRelay s far) = queueTime s := by simp [drainRelay]
@[simp] theorem queueTime_restartBridge : queueTime (restartBridge s) = queueTime s := by simp [restartBridge]

/-! ## Epoch changes and the mesh -/

@[simp] theorem queueTime_installRoutes : queueTime (installRoutes s) = queueTime s := by
  unfold installRoutes
  split <;> simp

@[simp] theorem queueTime_detourRecord (ty before after trigger suspect) :
    queueTime (detourRecord s ty before after trigger suspect) = queueTime s := by simp [detourRecord]

@[simp] theorem queueTime_install (a) : queueTime (install s a) = queueTime s := by
  cases a <;> simp [install]

@[simp] theorem queueTime_conclude (a) : queueTime (conclude s a) = queueTime s := by
  cases a <;> simp [conclude]

@[simp] theorem queueTime_replyTo (c rc) : queueTime (replyTo s c rc) = queueTime s := by
  unfold replyTo
  split <;> simp

@[simp] theorem queueTime_endChange (c) : queueTime (endChange s c) = queueTime s := by simp [endChange]
@[simp] theorem queueTime_beginChange (c) : queueTime (beginChange s c) = queueTime s := by simp [beginChange]
@[simp] theorem queueTime_holdChannel (port f) : queueTime (holdChannel s port f) = queueTime s := by simp [holdChannel]
@[simp] theorem queueTime_freeEntry (f) : queueTime (freeEntry s f) = queueTime s := by simp [freeEntry]
@[simp] theorem queueTime_takeFlit (f) : queueTime (takeFlit s f) = queueTime s := by simp [takeFlit]
@[simp] theorem queueTime_moveFlit (f port y) : queueTime (moveFlit s f port y) = queueTime s := by simp [moveFlit]

@[simp] theorem queueTime_grant (node port) : queueTime (grant s node port) = queueTime s := by
  unfold grant
  dsimp only
  split <;> simp

@[simp] theorem queueTime_putFlit (f) : queueTime (putFlit s f) = queueTime s := by simp [putFlit]

@[simp] theorem queueTime_inject (node) : queueTime (inject s node) = queueTime s := by
  unfold inject
  split
  · simp
  · split
    · simp
    · split
      · simp
      · split <;> simp

@[simp] theorem queueTime_modFlit (id f) : queueTime (modFlit s id f) = queueTime s := by simp [modFlit]

/-! ## Batches -/

@[simp] theorem queueTime_enqueueLaunch (site l) : queueTime (enqueueLaunch s site l) = queueTime s := by simp [enqueueLaunch]

/-! ## Configuration space -/

@[simp] theorem queueTime_cfgWrite (fn f v) : queueTime (cfgWrite s fn f v) = queueTime s := by
  unfold cfgWrite
  split <;> simp

/-! ## Descriptors and signals -/

@[simp] theorem queueTime_fetchDesc (t q) : queueTime (fetchDesc s t q).2 = queueTime s := by simp [fetchDesc]
@[simp] theorem queueTime_enterDisp (t q desc) : queueTime (enterDisp s t q desc) = queueTime s := by simp [enterDisp]
@[simp] theorem queueTime_endWith (id st det) : queueTime (endWith s id st det) = queueTime s := by simp [endWith]

@[simp] theorem queueTime_takeDesc (t q row) {run : State → Nat → List Byte → State}
    (h : ∀ s id b, queueTime (run s id b) = queueTime s) : queueTime (takeDesc s t q row run) = queueTime s := by
  unfold takeDesc
  split
  · rfl
  · split <;> rename_i h' <;> simp [h, queueTime_snd h']

@[simp] theorem queueTime_wakeWaits : queueTime (wakeWaits s) = queueTime s := by simp [wakeWaits]
@[simp] theorem queueTime_putSignal (t n v) : queueTime (putSignal s t n v) = queueTime s := by simp [putSignal]
@[simp] theorem queueTime_setSignal (t n v) : queueTime (setSignal s t n v) = queueTime s := by simp [setSignal]
@[simp] theorem queueTime_applySignal (d) : queueTime (applySignal s d) = queueTime s := by simp [applySignal]
@[simp] theorem queueTime_settleWork : queueTime (settleWork s) = queueTime s := by simp [settleWork]

/-! ## Registers -/

@[simp] theorem queueTime_rejectIndex (fn) : queueTime (rejectIndex s fn) = queueTime s := by simp [rejectIndex]
@[simp] theorem queueTime_writeReqPi (fn v) : queueTime (writeReqPi s fn v) = queueTime s := by simp [writeReqPi]

@[simp] theorem queueTime_freeUrgent (fn) : queueTime (freeUrgent s fn) = queueTime s := by
  unfold freeUrgent
  dsimp only
  split <;> simp

@[simp] theorem queueTime_writeRspCi (fn v) : queueTime (writeRspCi s fn v) = queueTime s := by simp [writeRspCi]
@[simp] theorem queueTime_writeMbxCtrl (fn v) : queueTime (writeMbxCtrl s fn v) = queueTime s := by simp [writeMbxCtrl]
@[simp] theorem queueTime_writeMbxStatus (fn v) : queueTime (writeMbxStatus s fn v) = queueTime s := by simp [writeMbxStatus]
@[simp] theorem queueTime_takeMsg (fn t) : queueTime (takeMsg s fn t) = queueTime s := by simp [takeMsg]
@[simp] theorem queueTime_writeUrgGo (fn) : queueTime (writeUrgGo s fn) = queueTime s := by simp [writeUrgGo]
@[simp] theorem queueTime_rejectQueue (t q) : queueTime (rejectQueue s t q) = queueTime s := by simp [rejectQueue]
@[simp] theorem queueTime_writeSqTail (t q v) : queueTime (writeSqTail s t q v) = queueTime s := by simp [writeSqTail]
@[simp] theorem queueTime_writeCqHead (t q v) : queueTime (writeCqHead s t q v) = queueTime s := by simp [writeCqHead]
@[simp] theorem queueTime_writeQState (t q v) : queueTime (writeQState s t q v) = queueTime s := by simp [writeQState]
@[simp] theorem queueTime_writeSignal (t n off width v) :
    queueTime (writeSignal s t n off width v) = queueTime s := by simp [writeSignal]
@[simp] theorem queueTime_writeDbl (fn off width v) : queueTime (writeDbl s fn off width v) = queueTime s := by simp [writeDbl]
@[simp] theorem queueTime_writeAshCi (fn v) : queueTime (writeAshCi s fn v) = queueTime s := by simp [writeAshCi]
@[simp] theorem queueTime_writeAsh (fn off v) : queueTime (writeAsh s fn off v) = queueTime s := by simp [writeAsh]
@[simp] theorem queueTime_writeMsix (fn off bs) : queueTime (writeMsix s fn off bs) = queueTime s := by simp [writeMsix]
@[simp] theorem queueTime_writeMbx (fn off width v) : queueTime (writeMbx s fn off width v) = queueTime s := by simp [writeMbx]
@[simp] theorem queueTime_writeBar0 (fn off width v) : queueTime (writeBar0 s fn off width v) = queueTime s := by simp [writeBar0]

@[simp] theorem queueTime_latchTime (fn off) : queueTime (latchTime s fn off) = queueTime s := by
  unfold latchTime
  split <;> simp

@[simp] theorem queueTime_answerRead (v) : queueTime (answerRead s v) = queueTime s := by simp [answerRead]
@[simp] theorem queueTime_read32 (fn off) : queueTime (read32 s fn off) = queueTime s := by simp [read32]
@[simp] theorem queueTime_read64 (fn off) : queueTime (read64 s fn off) = queueTime s := by simp [read64]

/-! ## Mailbox requests -/

@[simp] theorem queueTime_takeRequest (fn) : queueTime (takeRequest s fn) = queueTime s := by simp [takeRequest]
@[simp] theorem queueTime_ok (fn t payload) : queueTime (ok s fn t payload) = queueTime s := by simp [ok]
@[simp] theorem queueTime_arg (fn t off) : queueTime (arg s fn t off) = queueTime s := by simp [arg]
@[simp] theorem queueTime_argOpen (fn t) : queueTime (argOpen s fn t) = queueTime s := by simp [argOpen]
@[simp] theorem queueTime_fail (fn t rc) : queueTime (fail s fn t rc) = queueTime s := by simp [fail]
@[simp] theorem queueTime_begin_ (fn t) : queueTime (begin_ s fn t) = queueTime s := by simp [begin_]
@[simp] theorem queueTime_startChange (fn t a payload) :
    queueTime (startChange s fn t a payload) = queueTime s := by simp [startChange]

/-! ## Chain ports -/

@[simp] theorem queueTime_transmit (port bytes) : queueTime (transmit s port bytes) = queueTime s := by simp [transmit]
@[simp] theorem queueTime_countPort (port i tag n) : queueTime (countPort s port i tag n) = queueTime s := by simp [countPort]
@[simp] theorem queueTime_sendAck (port ty) : queueTime (sendAck s port ty) = queueTime s := by simp [sendAck]
@[simp] theorem queueTime_sendNak (port) : queueTime (sendNak s port) = queueTime s := by simp [sendNak]
@[simp] theorem queueTime_ackAtBound (port) : queueTime (ackAtBound s port) = queueTime s := by simp [ackAtBound]

@[simp] theorem queueTime_frameDone (id) : queueTime (frameDone s id) = queueTime s := by
  unfold frameDone
  split <;> simp

@[simp] theorem queueTime_takeAck (port a) : queueTime (takeAck s port a) = queueTime s := by
  unfold takeAck
  dsimp only
  split
  · rfl
  · split
    · rfl
    · rw [queueTime_foldl]
      · simp
      · intro s f
        split <;> simp

@[simp] theorem queueTime_retransmitAll (port) : queueTime (retransmitAll s port) = queueTime s := by simp [retransmitAll]

@[simp] theorem queueTime_copyLost (port id) : queueTime (copyLost port s id) = queueTime s := by
  unfold copyLost
  split <;> simp

@[simp] theorem queueTime_portDown (port st) : queueTime (portDown s port st) = queueTime s := by simp [portDown]
@[simp] theorem queueTime_failPort (port cond) : queueTime (failPort s port cond) = queueTime s := by simp [failPort]
@[simp] theorem queueTime_sendProbe (port init) : queueTime (sendProbe s port init) = queueTime s := by simp [sendProbe]
@[simp] theorem queueTime_becomeUp (port) : queueTime (becomeUp s port) = queueTime s := by simp [becomeUp]
@[simp] theorem queueTime_refuse (port f err) : queueTime (refuse s port f err) = queueTime s := by simp [refuse]
@[simp] theorem queueTime_applyWrite (port f) : queueTime (applyWrite s port f) = queueTime s := by simp [applyWrite]

@[simp] theorem queueTime_applyRead (port f) : queueTime (applyRead s port f) = queueTime s := by
  unfold applyRead
  dsimp only
  split
  · simp
  · split <;> rename_i h <;> simp [queueTime_snd h]

@[simp] theorem queueTime_deliver (d r bytes) : queueTime (deliver s d r bytes).2 = queueTime s := by
  unfold deliver
  dsimp only
  split
  · split <;> simp
  · split <;> rename_i h <;> simp [queueTime_snd h]

@[simp] theorem queueTime_applyResp (port f) : queueTime (applyResp s port f) = queueTime s := by
  unfold applyResp
  dsimp only
  split
  · rfl
  · split
    · simp
    · split
      · simp
      · rw [queueTime_ite, queueTime_frameDone, ite_self]
        split <;> simp

@[simp] theorem queueTime_applyError (port f) : queueTime (applyError s port f) = queueTime s := by
  unfold applyError
  split
  · simp
  · split <;> simp

@[simp] theorem queueTime_heard (port f) : queueTime (heard s port f) = queueTime s := by simp [heard]

@[simp] theorem queueTime_sequenced (port f) {effect : State → State} (h : ∀ s, queueTime (effect s) = queueTime s) :
    queueTime (sequenced s port f effect) = queueTime s := by simp [sequenced, h]

@[simp] theorem queueTime_sendFrame (port x) : queueTime (sendFrame s port x) = queueTime s := by simp [sendFrame]
@[simp] theorem queueTime_sendNew (port x) : queueTime (sendNew s port x) = queueTime s := by simp [sendNew]

/-! ## Dispatches -/

@[simp] theorem queueTime_refuseDisp (id f) : queueTime (refuseDisp s id f) = queueTime s := by simp [refuseDisp]
@[simp] theorem queueTime_launchBatch (d bd) : queueTime (launchBatch s d bd) = queueTime s := by simp [launchBatch]

@[simp] theorem queueTime_startBatch (d) : queueTime (startBatch s d) = queueTime s := by
  unfold startBatch
  dsimp only
  split
  next h => split <;> simp [queueTime_snd h]
  next h => simp [queueTime_snd h]
  next h => simp [queueTime_snd h]

theorem queueTime_readProg {rd : State → Nat → Nat → Span × State} (h : ∀ s a n, queueTime (rd s a n).2 = queueTime s) (a) :
    queueTime (readProg rd s a).2 = queueTime s := by
  unfold readProg
  split
  next e =>
    split
    next e' => simp [h, queueTime_snd e', queueTime_snd e]
    next => simp [h, queueTime_snd e]
  next => exact h s a 32

@[simp] theorem queueTime_enqueueEmber (site en) : queueTime (enqueueEmber s site en) = queueTime s := by simp [enqueueEmber]
@[simp] theorem queueTime_startRun (d r prog) : queueTime (startRun s d r prog) = queueTime s := by simp [startRun]
@[simp] theorem queueTime_copyRead (t kind a n) : queueTime (copyRead s t kind a n).2 = queueTime s := by simp [copyRead]

@[simp] theorem queueTime_copyWrite (t kind a bs) : queueTime (copyWrite s t kind a bs).2 = queueTime s := by
  unfold copyWrite
  split
  · split <;> simp
  · split <;> rename_i h <;> simp [queueTime_snd h]

@[simp] theorem queueTime_copyWords (t sk src dk dst n) : queueTime (copyWords t sk src dk dst n s).2 = queueTime s := by
  induction n generalizing s src dst with
  | zero => rfl
  | succ n ih =>
    simp only [copyWords]
    split
    next h =>
      split
      next h' => simp [ih, queueTime_snd h', queueTime_snd h]
      next => simp [queueTime_snd h]
    next h => simp [queueTime_snd h]
    next h => simp [queueTime_snd h]

@[simp] theorem queueTime_endCopy (id st) : queueTime (endCopy s id st) = queueTime s := by simp [endCopy]
@[simp] theorem queueTime_sendCopy (id b data port) : queueTime (sendCopy s id b data port) = queueTime s := by simp [sendCopy]

@[simp] theorem queueTime_chainCopy (id t b) : queueTime (chainCopy s id t b) = queueTime s := by
  unfold chainCopy
  split
  · simp
  · split
    · simp
    · split
      · split <;> rename_i h <;> simp [queueTime_snd h]
      · simp

@[simp] theorem queueTime_startCopy (d) : queueTime (startCopy s d) = queueTime s := by simp [startCopy]
@[simp] theorem queueTime_startFill (d) : queueTime (startFill s d) = queueTime s := by simp [startFill]
@[simp] theorem queueTime_startWork (d) : queueTime (startWork s d) = queueTime s := by simp [startWork]

@[simp] theorem queueTime_startOrWait (id) : queueTime (startOrWait s id) = queueTime s := by
  unfold startOrWait
  split <;> simp

@[simp] theorem queueTime_startWaiting (t q) : queueTime (startWaiting s t q) = queueTime s := by
  refine queueTime_foldl (fun s id => ?_) _ _
  split <;> simp

@[simp] theorem queueTime_claimTokens (d) : queueTime (claimTokens s d) = queueTime s := by
  unfold claimTokens
  dsimp only
  have prog (a) := queueTime_readProg s (rd := fun s a n => readSpan s d.tenant a n 4) (fun _ _ _ => by simp) a
  split
  · simp
  · split
    · simp
    · split
      · simp
      · split
        next h => split <;> simp [queueTime_snd h, prog]
        next h => simp [queueTime_snd h, prog]
        next h => simp [queueTime_snd h, prog]

/-! ## Issued items -/

@[simp] theorem queueTime_failItem (site q num st det) :
    queueTime (failItem s site q num st det) = queueTime s := by simp [failItem]

@[simp] theorem queueTime_issueEmber (site num b) : queueTime (issueEmber s site num b) = queueTime s := by
  unfold issueEmber
  dsimp only
  have prog (t a) := queueTime_readProg s (rd := fun s a n => readShare s t site a n 4) (fun _ _ _ => by simp) a
  split
  · simp
  · split
    next h => simp [queueTime_snd h, prog]
    next h => simp [queueTime_snd h, prog]
    next h =>
      split
      · simp [queueTime_snd h, prog]
      · split
        · simp [queueTime_snd h, prog]
        · split <;> rename_i h' <;> simp [queueTime_snd h', queueTime_snd h, prog]

@[simp] theorem queueTime_issueAndiron (site num b) : queueTime (issueAndiron s site num b) = queueTime s := by
  unfold issueAndiron
  dsimp only
  split
  next h => simp [queueTime_snd h]
  next h => simp [queueTime_snd h]
  next h => split <;> simp [queueTime_snd h]

@[simp] theorem queueTime_queueItem (site q num b) : queueTime (queueItem s site q num b) = queueTime s := by simp [queueItem]
@[simp] theorem queueTime_issueItem (site q b) : queueTime (issueItem s site q b) = queueTime s := by simp [issueItem]

/-! ## Environments -/

@[simp] theorem queueTime_beginLaunch (site l) : queueTime (beginLaunch s site l) = queueTime s := by simp [beginLaunch]
@[simp] theorem queueTime_placeEnv (site lane e) : queueTime (placeEnv s site lane e) = queueTime s := by simp [placeEnv]

@[simp] theorem queueTime_fetchInput (site l i) : queueTime (fetchInput s site l i).2 = queueTime s := by
  unfold fetchInput
  have input := queueTime_amid s (f := fun s =>
    readSpan s l.tenant (Batch.inBase l.desc + i * Batch.inStride l.desc) (inSize l.image) (laneReq site l))
    (fun _ => by simp) site 4 l.item
  split
  · rfl
  · split <;> rename_i h <;> simp [queueTime_snd h, input]

@[simp] theorem queueTime_reportLaunch (site l) : queueTime (reportLaunch s site l) = queueTime s := by
  unfold reportLaunch
  split <;> simp

/-! ## Apertures -/

@[simp] theorem queueTime_protRecord (fn off write) : queueTime (protRecord s fn off write) = queueTime s := by simp [protRecord]
@[simp] theorem queueTime_answerBar2 (bytes poisoned) :
    queueTime (answerBar2 s bytes poisoned) = queueTime s := by simp [answerBar2]

/-! ## Ash rings -/

@[simp] theorem queueTime_loseEvent (fn ty n) : queueTime (loseEvent s fn ty n) = queueTime s := by simp [loseEvent]

@[simp] theorem queueTime_postAsh (fn e alert) : queueTime (postAsh s fn e alert).2 = queueTime s := by
  unfold postAsh
  dsimp only
  split <;> rename_i h <;> simp [queueTime_snd h]

@[simp] theorem queueTime_reportLost (fn) : queueTime (reportLost s fn) = queueTime s := by
  unfold reportLost
  split <;> rename_i h <;> simp [queueTime_snd h]

@[simp] theorem queueTime_deliverAsh (e fn) : queueTime (deliverAsh s e fn) = queueTime s := by
  unfold deliverAsh
  dsimp only
  split
  · simp
  · split <;> rename_i h <;> simp [queueTime_snd h]

/-! ## Training and boot -/

@[simp] theorem queueTime_revokeSlots (i) : queueTime (revokeSlots s i) = queueTime s := by simp [revokeSlots]
@[simp] theorem queueTime_securityTests (found) : queueTime (securityTests s found) = queueTime s := by simp [securityTests]
@[simp] theorem queueTime_foundChanges (l) : queueTime (foundChanges s l) = queueTime s := by simp [foundChanges]

@[simp] theorem queueTime_publishAll (n) : queueTime (publishAll n s) = queueTime s := by
  induction n generalizing s with
  | zero => rfl
  | succ n ih => simp [publishAll, ih]

@[simp] theorem queueTime_firstRoutes : queueTime (firstRoutes s) = queueTime s := by simp [firstRoutes]

@[simp] theorem queueTime_loadJournal : queueTime (loadJournal s) = queueTime s := by
  unfold loadJournal
  split <;> simp

@[simp] theorem queueTime_startCycle (fb) : queueTime (startCycle s fb) = queueTime s := by
  unfold startCycle
  split <;> simp

@[simp] theorem queueTime_startDraught (power) : queueTime (startDraught s power) = queueTime s := by simp [startDraught]

@[simp] theorem queueTime_finalState (power) : queueTime (finalState s power) = queueTime s := by
  unfold finalState
  split <;> simp

@[simp] theorem queueTime_trainLinks (t lanes) : queueTime (trainLinks s t lanes) = queueTime s := by simp [trainLinks]
@[simp] theorem queueTime_train (b t i found) : queueTime (train s b t i found) = queueTime s := by simp [train]
@[simp] theorem queueTime_failBoot : queueTime (failBoot s) = queueTime s := by simp [failBoot]
@[simp] theorem queueTime_setRecord (b r) : queueTime (setRecord s b r) = queueTime s := by simp [setRecord]

/-! ## Tenant and queue commands -/

@[simp] theorem queueTime_drainQueue (n q) : queueTime (drainQueue s n q) = queueTime s := by simp [drainQueue]
@[simp] theorem queueTime_finishDrain (fn t n q) : queueTime (finishDrain s fn t n q) = queueTime s := by simp [finishDrain]

/-! ## Power-up and the tray -/

@[simp] theorem queueTime_enterBoot (katOk) : queueTime (enterBoot s katOk) = queueTime s := by
  unfold enterBoot
  dsimp only
  split
  · rfl
  · split
    · simp
    · split <;> simp

@[simp] theorem queueTime_abandonPowerUp : queueTime (abandonPowerUp s) = queueTime s := by simp [abandonPowerUp]
@[simp] theorem queueTime_packageReset : queueTime (packageReset s) = queueTime s := by simp [packageReset]
@[simp] theorem queueTime_resetFor1ms : queueTime (resetFor1ms s) = queueTime s := by simp [resetFor1ms]
@[simp] theorem queueTime_coolantChange (event was is) :
    queueTime (coolantChange s event was is) = queueTime s := by simp [coolantChange]
@[simp] theorem queueTime_trayConditions : queueTime (trayConditions s) = queueTime s := by simp [trayConditions]
@[simp] theorem queueTime_discardTray : queueTime (discardTray s) = queueTime s := by simp [discardTray]

/-! ## Draught and security commands -/

@[simp] theorem queueTime_zeroise : queueTime (zeroise s) = queueTime s := by simp [zeroise]

/-! ## Engine commands -/

@[simp] theorem queueTime_readBlob (n msg) : queueTime (readBlob s n msg).2 = queueTime s := by simp [readBlob]
@[simp] theorem queueTime_loadTable (n owned k b) : queueTime (loadTable s n owned k b) = queueTime s := by simp [loadTable]

/-! ## Region commands -/

@[simp] theorem queueTime_drawKey : queueTime (drawKey s) = queueTime s := by simp [drawKey]

@[simp] theorem queueTime_runRegionDefine (fn t) : queueTime (runRegionDefine fn t s) = queueTime s := by
  unfold runRegionDefine
  simp only [queueTime_ite, queueTime_arg, queueTime_fail, ite_eq_left_iff]
  intros
  split <;> simp

/-! ## System commands -/

@[simp] theorem queueTime_runFwUpdate (fn t) : queueTime (runFwUpdate fn t s) = queueTime s := by simp [runFwUpdate]

/-! ## Islands and tokens -/

@[simp] theorem queueTime_tokenPeriod (f) : queueTime (tokenPeriod s f) = queueTime s := by simp [tokenPeriod]

/-! ## Thermal cycles -/

@[simp] theorem queueTime_cycleStep (fb) : queueTime (cycleStep s fb) = queueTime s := by simp [cycleStep]

/-! ## Ember micro-operations -/

@[simp] theorem queueTime_fixTables (site en) :
    queueTime (fixTables s site en) = queueTime s := queueTime_foldl (fun _ _ => queueTime_modHearth _ _ _) _ _
@[simp] theorem queueTime_emberSkip (site ember id st det) :
    queueTime (emberSkip s site ember id st det) = queueTime s := by simp [emberSkip]
@[simp] theorem queueTime_setRun (site ember r) : queueTime (setRun s site ember r) = queueTime s := by simp [setRun]
@[simp] theorem queueTime_emberSees (p d) : queueTime (emberSees s p d).2 = queueTime s := by simp [emberSees]

/-! ## Matrix items -/

@[simp] theorem queueTime_startItem (site q num quad) : queueTime (startItem s site q num quad) = queueTime s := by simp [startItem]

/-! ## Sequencer instructions -/

@[simp] theorem queueTime_noteFetch (site) : queueTime (noteFetch s site) = queueTime s := by
  unfold noteFetch
  split <;> simp

@[simp] theorem queueTime_retireTo (site pc f) : queueTime (retireTo s site pc f) = queueTime s := by simp [retireTo]
@[simp] theorem queueTime_retire (site f) : queueTime (retire s site f) = queueTime s := by simp [retire]
@[simp] theorem queueTime_illegalOp (site) : queueTime (illegalOp s site) = queueTime s := by simp [illegalOp]

theorem queueTime_seqAmid {α : Type} {f : State → α × State} (h : ∀ s, queueTime (f s).2 = queueTime s) (site) :
    queueTime (seqAmid s site f).2 = queueTime s := queueTime_amid s h _ _ _

@[simp] theorem queueTime_loadStaging (size site w a) : queueTime (loadStaging size site s w a) = queueTime s := by
  unfold loadStaging
  have load := queueTime_seqAmid s (f := fun s => stRead s site a size (bySequencer site)) (fun _ => by simp) site
  split <;> rename_i h <;> simp [queueTime_snd h, load]

@[simp] theorem queueTime_storeStaging (size site w a) :
    queueTime (storeStaging size site s w a) = queueTime s := by simp [storeStaging]

@[simp] theorem queueTime_loadRegion (size site w a) : queueTime (loadRegion size site s w a) = queueTime s := by
  unfold loadRegion
  have load := queueTime_seqAmid s (f := fun s => readSpan s (hearth s site).tenant a size (bySequencer site)) (fun _ => by simp) site
  split <;> rename_i h <;> simp [queueTime_snd h, load]

@[simp] theorem queueTime_storeRegion (size site w a) : queueTime (storeRegion size site s w a) = queueTime s := by
  unfold storeRegion
  split <;> rename_i h <;> simp [queueTime_snd h]

@[simp] theorem queueTime_issueBlock (site q rd b) : queueTime (issueBlock s site q rd b) = queueTime s := by simp [issueBlock]

/-! ## SMBus -/

@[simp] theorem queueTime_smbRow (pec) {run : State → State} (h : ∀ s, queueTime (run s) = queueTime s) :
    queueTime (smbRow s pec run) = queueTime s := by simp [smbRow, h]

@[simp] theorem queueTime_smbAnswer (bytes) : queueTime (smbAnswer s bytes) = queueTime s := by simp [smbAnswer]
@[simp] theorem queueTime_smbReject : queueTime (smbReject s) = queueTime s := by simp [smbReject]

/-! ## Transfers and streams -/

@[simp] theorem queueTime_haltChannel (site ch) : queueTime (haltChannel s site ch) = queueTime s := by simp [haltChannel]

/-! ## Sweep -/

@[simp] theorem queueTime_setTracker (k l) : queueTime (setTracker s k l) = queueTime s := by simp [setTracker]

@[simp] theorem queueTime_feedTracker (site bank sub u d value addr synd) :
    queueTime (feedTracker s site bank sub u d value addr synd) = queueTime s := by
  unfold feedTracker
  dsimp only
  split <;> simp

@[simp] theorem queueTime_countSweep (p event) : queueTime (countSweep s p event) = queueTime s := by simp [countSweep]

@[simp] theorem queueTime_sweepCorrected (p h w flips) : queueTime (sweepCorrected s p h w flips) = queueTime s := by
  unfold sweepCorrected
  dsimp only
  split <;> simp

@[simp] theorem queueTime_sweepWord (hbm unit addr) : queueTime (sweepWord s hbm unit addr) = queueTime s := by
  unfold sweepWord
  dsimp only
  split
  · rfl
  · split
    · simp
    · split
      · simp
      · simp
      · split <;> simp
      · simp
      · simp

@[simp] theorem queueTime_visitUnit (u n) : queueTime (visitUnit s u n) = queueTime s := by
  cases u <;> simp [visitUnit]

@[simp] theorem queueTime_sweepAdvance (u) : queueTime (sweepAdvance s u) = queueTime s := by simp [sweepAdvance]

end Sys2Proof.Machine
end

section
/-! Every row of the table completes when its operands are in range and faults when they are not (log entry 8), and leaves the queue
and the master devtime alone, but for the rows that move VAUX and the request that is refused (R1). -/

namespace Sys2Proof.Machine

/-- An outcome that completes where `ok` and faults elsewhere, and leaves the queue and devtime of `s` alone. -/
def Steady (ok : Bool) (s : State) (o : Out) : Prop := ∃ f t, o = guarded ok f t ∧ queueTime t = queueTime s

section
variable {s t : State} {ok : Bool}

theorem steady_guarded (f : Fault) (h : queueTime t = queueTime s) : Steady ok s (guarded ok f t) := ⟨f, t, rfl, h⟩

theorem steady_next (h : queueTime t = queueTime s) : Steady true s (.next t) := ⟨.noSuchUnit, t, rfl, h⟩

end

variable (s : State)

/-! ## The shared rows -/

theorem steady_mailRow {run : Taken → State → State} (h : ∀ t s, queueTime (run t s) = queueTime s) (fn slot op) :
    Steady (fnOk fn) s (mailRow fn slot op s run) := by
  refine steady_guarded _ ?_
  split
  · rfl
  · split
    · rfl
    · split <;> simp [h]

theorem steady_chainRow {effect : State → State} (h : ∀ s, queueTime (effect s) = queueTime s) (port ty f) :
    Steady (portOk port) s (chainRow port ty f s effect) := steady_guarded _ (by simp [h])

theorem steady_plainRow {effect : State → State} (h : ∀ s, queueTime (effect s) = queueTime s) (port ty f) :
    Steady (portOk port) s (plainRow port ty f s effect) := steady_guarded _ (by simp [h])

theorem steady_takeClaimed (t q op checks) : Steady (queueOk t q) s (takeClaimed t q op checks s) := by
  refine steady_guarded _ (queueTime_takeDesc _ _ _ _ fun s id b => ?_)
  split <;> simp

theorem steady_takeStarted (t q op checks) : Steady (queueOk t q) s (takeStarted t q op checks s) := by
  refine steady_guarded _ (queueTime_takeDesc _ _ _ _ fun s id b => ?_)
  split <;> simp

/-- The meaning of a micro-operation sees the state with the operation counted and, where it waits, gives back the one before. -/
theorem steady_microRow {run : State → EmberEntry → EmberRun → MicroOp → State} (opc site ember)
    (h : ∀ t en r u, queueTime t = queueTime s → queueTime (run t en r u) = queueTime s) :
    Steady (inSite site ember 32) s (microRow opc site ember s run) := by
  refine steady_guarded _ ?_
  split
  · rfl
  · split <;> simp [h]

theorem steady_laneRow (opc site ember val) : Steady (inSite site ember 32) s (laneRow opc site ember s val) :=
  steady_microRow s _ _ _ fun t en r u h => by simp [h]

theorem steady_seqRow {run : State → Nat → State} (h : ∀ s w, queueTime (run s w) = queueTime s) (site isOp fieldsOk) :
    Steady (siteOk site) s (seqRow site isOp fieldsOk s run) := by
  refine steady_guarded _ ?_
  split <;> simp [h]

theorem steady_opRow {run : State → Nat → State} (h : ∀ s w, queueTime (run s w) = queueTime s) (op site fieldsOk) :
    Steady (siteOk site) s (opRow op site fieldsOk s run) := steady_seqRow s h _ _ _

theorem steady_rdRow (op site fieldsOk val) : Steady (siteOk site) s (rdRow op site fieldsOk s val) :=
  steady_opRow s (fun _ _ => queueTime_retire _ _ _) _ _ _

theorem steady_stagingAccess {run : State → Nat → Nat → State} (h : ∀ s w a, queueTime (run s w a) = queueTime s) (op site size) :
    Steady (siteOk site) s (stagingAccess op site size s run) := steady_opRow s (fun s w => by simp [h]) _ _ _

theorem steady_regionAccess {run : State → Nat → Nat → State} (h : ∀ s w a, queueTime (run s w a) = queueTime s) (op site size) :
    Steady (siteOk site) s (regionAccess op site size s run) := steady_opRow s (fun s w => by simp [h]) _ _ _

theorem steady_vectorRow (op site) : Steady (siteOk site) s (vectorRow op site s) := by
  refine steady_guarded _ ?_
  split
  · rfl
  · split <;> rename_i h <;> simp [queueTime_snd h]

theorem steady_streamStart (dir site item) : Steady (siteOk site) s (streamStart dir site item s) := by
  refine steady_guarded _ ?_
  split <;> simp

theorem steady_streamComplete (dir site item) : Steady (siteOk site) s (streamComplete dir site item s) := by
  refine steady_guarded _ ?_
  split
  · simp
  · split
    · rfl
    · split
      · rfl
      · split
        · rfl
        · split
          · simp
          · split <;> rename_i h <;> simp [queueTime_snd h]

/-! ## Counters and entropy -/

theorem steady_execCounterSnapshot : Steady true s (execCounterSnapshot s) := steady_next (by simp)
theorem steady_execEntropyHealthFail : Steady true s (execEntropyHealthFail s) := steady_next (by simp)
theorem steady_execEntropyRerunDone (pass) : Steady true s (execEntropyRerunDone pass s) := steady_next (by simp)
theorem steady_execDrbgReseed : Steady true s (execDrbgReseed s) := steady_next (by simp)

/-! ## Publications -/

theorem steady_execUnitFenced (u) : Steady (Instr.wellFormed (.unitFenced u)) s (execUnitFenced u s) := steady_guarded _ (by simp)
theorem steady_execFptPublish : Steady true s (execFptPublish s) := steady_next (by simp)

theorem steady_execFptPersist (firstOk secondOk) : Steady true s (execFptPersist firstOk secondOk s) := by
  refine steady_next ?_
  split <;> simp

/-! ## Die links -/

theorem steady_execLinkDataReceive (link far group flit) :
    Steady (Instr.wellFormed (.linkDataReceive link far group flit)) s (execLinkDataReceive link far group flit s) :=
  steady_guarded _ (by simp)
theorem steady_execLinkCtrlReceive (link far group flit) :
    Steady (Instr.wellFormed (.linkCtrlReceive link far group flit)) s (execLinkCtrlReceive link far group flit s) :=
  steady_guarded _ (by simp)

theorem steady_execLinkFlitSend (link far) :
    Steady (Instr.wellFormed (.linkFlitSend link far)) s (execLinkFlitSend link far s) := by
  refine steady_guarded _ ?_
  dsimp only
  split
  · simp
  · split
    · rfl
    · split
      · simp
      · split <;> simp

theorem steady_execCtrlSend (link far) :
    Steady (Instr.wellFormed (.ctrlSend link far)) s (execCtrlSend link far s) := steady_guarded _ (by simp)
theorem steady_execReplayTimeout (link far) :
    Steady (Instr.wellFormed (.replayTimeout link far)) s (execReplayTimeout link far s) := steady_guarded _ (by simp)
theorem steady_execGroupSuspect (link far group) :
    Steady (Instr.wellFormed (.groupSuspect link far group)) s (execGroupSuspect link far group s) := steady_guarded _ (by simp)
theorem steady_execRetryStorm (link far) :
    Steady (Instr.wellFormed (.retryStorm link far)) s (execRetryStorm link far s) := steady_guarded _ (by simp)
theorem steady_execRetrainStart (link found) :
    Steady (Instr.wellFormed (.retrainStart link found)) s (execRetrainStart link found s) := steady_guarded _ (by simp)
theorem steady_execRetrainBoundMiss (link confirmed) :
    Steady (Instr.wellFormed (.retrainBoundMiss link confirmed)) s (execRetrainBoundMiss link confirmed s) := steady_guarded _ (by simp)
theorem steady_execDetourBeginReceive (far firstSeq count) :
    Steady true s (execDetourBeginReceive far firstSeq count s) := steady_next (by simp)
theorem steady_execRelayedFlitReceive (far) : Steady true s (execRelayedFlitReceive far s) := steady_next (by simp)
theorem steady_execDetourRetry (locked found) :
    Steady (Instr.wellFormed (.detourRetry locked found)) s (execDetourRetry locked found s) := steady_guarded _ (by simp)

/-! ## Epoch changes and the mesh -/

theorem steady_execRoutingGeneration : Steady true s (execRoutingGeneration s) := by
  refine steady_next ?_
  split <;> simp

theorem steady_execEpochChange : Steady true s (execEpochChange s) := by
  refine steady_next ?_
  split
  · simp
  · split <;> simp

theorem steady_execEscapeMove (flit) : Steady true s (execEscapeMove flit s) := by
  refine steady_next ?_
  split
  · rfl
  · split <;> simp

theorem steady_execFlitAged (flit) : Steady true s (execFlitAged flit s) := by
  refine steady_next ?_
  split <;> simp

theorem steady_execRetiredHearthRequest (flit) : Steady true s (execRetiredHearthRequest flit s) := by
  refine steady_next ?_
  split <;> simp

theorem steady_execDevtimeSync : Steady true s (execDevtimeSync s) := steady_next (by simp)
theorem steady_execOutputPortGrant (node port) :
    Steady (nodePortOk node port) s (execOutputPortGrant node port s) := steady_guarded _ (by simp)

/-! ## Configuration space -/

theorem steady_execPerstNAssert : Steady true s (execPerstNAssert s) := steady_next (by simp)
theorem steady_execPerstNRelease : Steady true s (execPerstNRelease s) := steady_next (by simp)

theorem steady_execConfigRequest (req) : Steady (Instr.wellFormed (.configRequest req)) s (execConfigRequest req s) := by
  refine steady_guarded _ ?_
  split
  · simp
  · simp only [queueTime_ite, queueTime_countU, queueTime_modPcie]
    split
    · rfl
    · split
      · rfl
      · split <;> simp

theorem steady_execVfDisable (numVfs vfEnable) :
    Steady (Instr.wellFormed (.vfDisable numVfs vfEnable)) s (execVfDisable numVfs vfEnable s) := steady_guarded _ (by simp)
theorem steady_execBusMasterEnableSet (fn on) :
    Steady (Instr.wellFormed (.busMasterEnableSet fn on)) s (execBusMasterEnableSet fn on s) := steady_guarded _ (by simp)
theorem steady_execMsixUnmask (fn what) :
    Steady (Instr.wellFormed (.msixUnmask fn what)) s (execMsixUnmask fn what s) := steady_guarded _ (by simp)
theorem steady_execFunctionLevelReset (fn) :
    Steady (Instr.wellFormed (.functionLevelReset fn)) s (execFunctionLevelReset fn s) := steady_guarded _ (by simp)

/-! ## Registers -/

theorem steady_execRegisterWrite (fn offset width value) :
    Steady (Instr.wellFormed (.registerWrite fn offset width value)) s (execRegisterWrite fn offset width value s) :=
  steady_guarded _ (by simp)
theorem steady_execLowHalfRead (fn read) :
    Steady (Instr.wellFormed (.lowHalfRead fn read)) s (execLowHalfRead fn read s) := steady_guarded _ (by simp)
theorem steady_execMbxReqPiWrite (fn value) :
    Steady (Instr.wellFormed (.mbxReqPiWrite fn value)) s (execMbxReqPiWrite fn value s) := steady_guarded _ (by simp)
theorem steady_execMbxRspCiWrite (fn value) :
    Steady (Instr.wellFormed (.mbxRspCiWrite fn value)) s (execMbxRspCiWrite fn value s) := steady_guarded _ (by simp)
theorem steady_execMailboxReset (fn) :
    Steady (Instr.wellFormed (.mailboxReset fn)) s (execMailboxReset fn s) := steady_guarded _ (by simp)
theorem steady_execMailboxResetDone (fn) :
    Steady (Instr.wellFormed (.mailboxResetDone fn)) s (execMailboxResetDone fn s) := steady_guarded _ (by simp)
theorem steady_execUrgentGo (fn) : Steady (Instr.wellFormed (.urgentGo fn)) s (execUrgentGo fn s) := steady_guarded _ (by simp)
theorem steady_execDblSqTailWrite (fn queue value) :
    Steady (Instr.wellFormed (.dblSqTailWrite fn queue value)) s (execDblSqTailWrite fn queue value s) := steady_guarded _ (by simp)
theorem steady_execDblCqHeadWrite (fn queue value) :
    Steady (Instr.wellFormed (.dblCqHeadWrite fn queue value)) s (execDblCqHeadWrite fn queue value s) := steady_guarded _ (by simp)
theorem steady_execDblSignalWrite (fn signal value) :
    Steady (Instr.wellFormed (.dblSignalWrite fn signal value)) s (execDblSignalWrite fn signal value s) := steady_guarded _ (by simp)
theorem steady_execAshCiWrite (fn value) :
    Steady (Instr.wellFormed (.ashCiWrite fn value)) s (execAshCiWrite fn value s) := steady_guarded _ (by simp)

/-! ## Chain ports -/

theorem steady_execChainPortConfig (fn slot) :
    Steady (fnOk fn) s (execChainPortConfig fn slot s) := steady_mailRow s (fun t s => by simp) _ _ _
theorem steady_execChainDomainBind (fn slot) :
    Steady (fnOk fn) s (execChainDomainBind fn slot s) := steady_mailRow s (fun t s => by simp) _ _ _

theorem steady_execChainDomainExport (fn slot) : Steady (fnOk fn) s (execChainDomainExport fn slot s) := by
  refine steady_mailRow s (fun t s => ?_) _ _ _
  dsimp only
  split <;> simp

theorem steady_execChainDomainUnbind (fn slot) :
    Steady (fnOk fn) s (execChainDomainUnbind fn slot s) := steady_mailRow s (fun t s => by simp) _ _ _
theorem steady_execChainWrite (port frame) :
    Steady (portOk port) s (execChainWrite port frame s) := steady_chainRow s (fun s => by simp) _ _ _
theorem steady_execChainReadReq (port frame) :
    Steady (portOk port) s (execChainReadReq port frame s) := steady_chainRow s (fun s => by simp) _ _ _
theorem steady_execChainReadResp (port frame) :
    Steady (portOk port) s (execChainReadResp port frame s) := steady_chainRow s (fun s => by simp) _ _ _
theorem steady_execChainErrorResp (port frame) :
    Steady (portOk port) s (execChainErrorResp port frame s) := steady_chainRow s (fun s => by simp) _ _ _
theorem steady_execChainAck (port frame) :
    Steady (portOk port) s (execChainAck port frame s) := steady_plainRow s (fun s => by simp) _ _ _
theorem steady_execChainNak (port frame) :
    Steady (portOk port) s (execChainNak port frame s) := steady_plainRow s (fun s => by simp) _ _ _
theorem steady_execChainProbe (port frame) : Steady (portOk port) s (execChainProbe port frame s) := steady_guarded _ (by simp)
theorem steady_execFrameDiscard (port frame) : Steady (portOk port) s (execFrameDiscard port frame s) := steady_guarded _ (by simp)

theorem steady_execChainFrameSend (port) : Steady (portOk port) s (execChainFrameSend port s) := by
  refine steady_guarded _ ?_
  dsimp only
  split
  · rfl
  · split
    · simp
    · split
      · rfl
      · split <;> simp

theorem steady_execChainAckDue (port) : Steady (portOk port) s (execChainAckDue port s) := steady_guarded _ (by simp)
theorem steady_execChainRetransmit (port) : Steady (portOk port) s (execChainRetransmit port s) := steady_guarded _ (by simp)
theorem steady_execPcsLock (port) : Steady (portOk port) s (execPcsLock port s) := steady_guarded _ (by simp)
theorem steady_execInitProbe (port) : Steady (portOk port) s (execInitProbe port s) := steady_guarded _ (by simp)
theorem steady_execChainPortUp (port) : Steady (portOk port) s (execChainPortUp port s) := steady_guarded _ (by simp)
theorem steady_execIdleProbe (port) : Steady (portOk port) s (execIdleProbe port s) := steady_guarded _ (by simp)
theorem steady_execChainPortFail (port) : Steady (portOk port) s (execChainPortFail port s) := steady_guarded _ (by simp)
theorem steady_execChainPortRetry (port) : Steady (portOk port) s (execChainPortRetry port s) := steady_guarded _ (by simp)

theorem steady_execChainReadTimeout (port tag) : Steady (portOk port) s (execChainReadTimeout port tag s) := by
  refine steady_guarded _ ?_
  split <;> simp

theorem steady_execPcsLockLoss (port) : Steady (portOk port) s (execPcsLockLoss port s) := steady_guarded _ (by simp)

/-! ## Dispatches -/

theorem steady_execRunRecipe (tenant queue) :
    Steady (queueOk tenant queue) s (execRunRecipe tenant queue s) := steady_takeClaimed s _ _ _ _
theorem steady_execAndironBatch (tenant queue) :
    Steady (queueOk tenant queue) s (execAndironBatch tenant queue s) := steady_takeStarted s _ _ _ _
theorem steady_execEmberRun (tenant queue) :
    Steady (queueOk tenant queue) s (execEmberRun tenant queue s) := steady_takeClaimed s _ _ _ _
theorem steady_execCopy (tenant queue) : Steady (queueOk tenant queue) s (execCopy tenant queue s) := steady_takeStarted s _ _ _ _
theorem steady_execFill (tenant queue) : Steady (queueOk tenant queue) s (execFill tenant queue s) := steady_takeStarted s _ _ _ _

theorem steady_execFence (tenant queue) : Steady (queueOk tenant queue) s (execFence tenant queue s) := by
  refine steady_guarded _ (queueTime_takeDesc _ _ _ _ fun s id b => ?_)
  split <;> simp

theorem steady_execSignal (tenant queue) : Steady (queueOk tenant queue) s (execSignal tenant queue s) := by
  refine steady_guarded _ (queueTime_takeDesc _ _ _ _ fun s id b => ?_)
  split <;> simp

theorem steady_execWait (tenant queue) : Steady (queueOk tenant queue) s (execWait tenant queue s) := by
  refine steady_guarded _ (queueTime_takeDesc _ _ _ _ fun s id b => ?_)
  split <;> simp

theorem steady_execTurnover (tenant queue) : Steady (queueOk tenant queue) s (execTurnover tenant queue s) := by
  refine steady_guarded _ (queueTime_takeDesc _ _ _ _ fun s id b => ?_)
  split <;> simp

theorem steady_execWaitTimeout (disp) : Steady true s (execWaitTimeout disp s) := by
  refine steady_next ?_
  split <;> simp

theorem steady_execTurnoverDrained (disp) : Steady true s (execTurnoverDrained disp s) := by
  refine steady_next ?_
  split
  · rfl
  · split
    · rfl
    · dsimp only
      split <;> simp

theorem steady_execRecipeClaim (disp) : Steady true s (execRecipeClaim disp s) := by
  refine steady_next ?_
  split <;> simp

theorem steady_execDispatchComplete (disp) : Steady true s (execDispatchComplete disp s) := by
  refine steady_next ?_
  split <;> simp

theorem steady_execRecipeSiteEnd (site) : Steady (siteOk site) s (execRecipeSiteEnd site s) := steady_guarded _ (by simp)

theorem steady_execIbufFill (site) : Steady (siteOk site) s (execIbufFill site s) := by
  refine steady_guarded _ ?_
  simp only [queueTime_ite, queueTime_endSite, queueTime_countAt, ite_eq_left_iff]
  intros
  split <;> rename_i h <;> simp [queueTime_snd h]

theorem steady_execEmberTokenClaim (disp) : Steady true s (execEmberTokenClaim disp s) := by
  refine steady_next ?_
  split <;> simp

theorem steady_execUndefinedDescriptorOpcode (tenant queue) :
    Steady (queueOk tenant queue) s (execUndefinedDescriptorOpcode tenant queue s) := steady_guarded _ (by simp)

/-! ## Environments -/

theorem steady_execAndironLaunchStart (site) : Steady (siteOk site) s (execAndironLaunchStart site s) := by
  refine steady_guarded _ ?_
  split <;> simp

theorem steady_execEnvironmentStart (site lane) : Steady (inSite site lane 16) s (execEnvironmentStart site lane s) := by
  refine steady_guarded _ ?_
  split
  · rfl
  · split
    · rfl
    · split <;> simp

theorem steady_execAndironIteration (site lane) : Steady (inSite site lane 16) s (execAndironIteration site lane s) := by
  refine steady_guarded _ ?_
  split <;> simp

theorem steady_execEnvironmentEnd (site lane) : Steady (inSite site lane 16) s (execEnvironmentEnd site lane s) := by
  refine steady_guarded _ ?_
  split <;> simp

theorem steady_execLaunchComplete (site) : Steady (siteOk site) s (execLaunchComplete site s) := by
  refine steady_guarded _ ?_
  split <;> simp

/-! ## Apertures -/

theorem steady_execApertureRead (fn offset len) :
    Steady (Instr.wellFormed (.apertureRead fn offset len)) s (execApertureRead fn offset len s) := by
  refine steady_guarded _ ?_
  dsimp only
  split
  · rfl
  · split
    · simp
    · split
      · simp
      · split <;> rename_i h <;> simp [queueTime_snd h]

theorem steady_execApertureWrite (fn offset bytes) :
    Steady (Instr.wellFormed (.apertureWrite fn offset bytes)) s (execApertureWrite fn offset bytes s) := by
  refine steady_guarded _ ?_
  dsimp only
  split
  · rfl
  · split <;> simp

/-! ## Ash rings -/

theorem steady_execAshEventArrive : Steady true s (execAshEventArrive s) := by
  refine steady_next ?_
  split <;> simp

theorem steady_execAshRecordWrite : Steady true s (execAshRecordWrite s) := by
  refine steady_next ?_
  split <;> simp

theorem steady_execLost (fn) : Steady (fnOk fn) s (execLost fn s) := steady_guarded _ (by simp)

/-! ## Training and boot -/

theorem steady_execStokerStart (found) : Steady (Instr.wellFormed (.stokerStart found)) s (execStokerStart found s) := by
  refine steady_guarded _ ?_
  split
  · rfl
  · split
    · simp
    · split
      · dsimp only
        split <;> simp
      · rfl

theorem steady_execBootTimeout : Steady true s (execBootTimeout s) := steady_next (by simp)

theorem steady_execTrainingRecordWrite (firstOk secondOk) : Steady true s (execTrainingRecordWrite firstOk secondOk s) := by
  refine steady_next ?_
  split <;> simp

/-! ## Tenant and queue commands -/

theorem steady_execTenantCreate (fn slot) :
    Steady (fnOk fn) s (execTenantCreate fn slot s) := steady_mailRow s (fun t s => by simp) _ _ _
theorem steady_execTenantDestroy (fn slot) :
    Steady (fnOk fn) s (execTenantDestroy fn slot s) := steady_mailRow s (fun t s => by simp) _ _ _

theorem steady_execTenantAssign (fn slot) : Steady (fnOk fn) s (execTenantAssign fn slot s) := by
  refine steady_mailRow s (fun t s => ?_) _ _ _
  split <;> simp

theorem steady_execTenantRelease (fn slot) : Steady (fnOk fn) s (execTenantRelease fn slot s) := by
  refine steady_mailRow s (fun t s => ?_) _ _ _
  dsimp only
  split <;> simp

theorem steady_execTenantReset (fn slot) :
    Steady (fnOk fn) s (execTenantReset fn slot s) := steady_mailRow s (fun t s => by simp) _ _ _
theorem steady_execTenantHalt (fn slot) :
    Steady (fnOk fn) s (execTenantHalt fn slot s) := steady_mailRow s (fun t s => by simp) _ _ _
theorem steady_execTenantResume (fn slot) :
    Steady (fnOk fn) s (execTenantResume fn slot s) := steady_mailRow s (fun t s => by simp) _ _ _
theorem steady_execTenantNotify (fn slot) :
    Steady (fnOk fn) s (execTenantNotify fn slot s) := steady_mailRow s (fun t s => by simp) _ _ _
theorem steady_execQueueCreate (fn slot) :
    Steady (fnOk fn) s (execQueueCreate fn slot s) := steady_mailRow s (fun t s => by simp) _ _ _

theorem steady_execQueueDestroy (fn slot) : Steady (fnOk fn) s (execQueueDestroy fn slot s) := by
  unfold execQueueDestroy
  cases hf : fnOk fn with
  | false => exact ⟨.noSuchFunction, s, rfl, rfl⟩
  | true =>
    simp only [Bool.not_true, Bool.false_eq_true, if_false]
    split
    · exact steady_next (by simp)
    · rw [← hf]
      exact steady_mailRow s (fun t s => by simp) _ _ _

/-! ## Power-up and the tray -/

theorem steady_execDrivePwrEn : Steady true s (execDrivePwrEn s) := steady_next (by simp)
theorem steady_execPwrGoodRise (katOk) : Steady true s (execPwrGoodRise katOk s) := steady_next (by simp)
theorem steady_execPwrGoodTimeout : Steady true s (execPwrGoodTimeout s) := steady_next (by simp)
theorem steady_execPwrGoodFall : Steady true s (execPwrGoodFall s) := steady_next (by simp)
theorem steady_execPkgResetAssert (lowNs katOk) : Steady true s (execPkgResetAssert lowNs katOk s) := steady_next (by simp)
theorem steady_execPkgResetRelease (katOk) : Steady true s (execPkgResetRelease katOk s) := steady_next (by simp)
theorem steady_execPowerUpRerun : Steady true s (execPowerUpRerun s) := steady_next (by simp)
theorem steady_execCoolOkChange (level) : Steady true s (execCoolOkChange level s) := steady_next (by simp)
theorem steady_execSensorSample (readings) :
    Steady (Instr.wellFormed (.sensorSample readings)) s (execSensorSample readings s) := steady_guarded _ (by simp)
theorem steady_execHardwareTrip : Steady true s (execHardwareTrip s) := steady_next (by simp)

theorem steady_execTrayRead (bytes) : Steady true s (execTrayRead bytes s) := by
  refine steady_next ?_
  split
  · rfl
  · split <;> simp

theorem steady_execTraySensorLost : Steady true s (execTraySensorLost s) := steady_next (by simp)

/-! ## Draught and security commands -/

theorem steady_execDraughtCapSet (fn slot) :
    Steady (fnOk fn) s (execDraughtCapSet fn slot s) := steady_mailRow s (fun t s => by simp) _ _ _
theorem steady_execDraughtRampSet (fn slot) :
    Steady (fnOk fn) s (execDraughtRampSet fn slot s) := steady_mailRow s (fun t s => by simp) _ _ _
theorem steady_execDraughtStatus (fn slot) :
    Steady (fnOk fn) s (execDraughtStatus fn slot s) := steady_mailRow s (fun t s => by simp) _ _ _
theorem steady_execDraughtTripTest (fn slot) :
    Steady (fnOk fn) s (execDraughtTripTest fn slot s) := steady_mailRow s (fun t s => by simp) _ _ _

theorem steady_execAttestReport (fn slot) : Steady (fnOk fn) s (execAttestReport fn slot s) := by
  refine steady_mailRow s (fun t s => ?_) _ _ _
  split <;> simp

theorem steady_execSecurityZeroise (fn slot) :
    Steady (fnOk fn) s (execSecurityZeroise fn slot s) := steady_mailRow s (fun t s => by simp) _ _ _

/-! ## Engine commands -/

theorem steady_execAndironModelLoad (fn slot) : Steady (fnOk fn) s (execAndironModelLoad fn slot s) := by
  refine steady_mailRow s (fun t s => ?_) _ _ _
  dsimp only
  split
  · simp
  · split
    next h =>
      split
      · simp [queueTime_snd h]
      · split
        · simp [queueTime_snd h]
        · split <;> simp [queueTime_snd h]
    next h => simp [queueTime_snd h]

theorem steady_execAndironModelUnload (fn slot) :
    Steady (fnOk fn) s (execAndironModelUnload fn slot s) := steady_mailRow s (fun t s => by simp) _ _ _

theorem steady_execEmberActLoad (fn slot) : Steady (fnOk fn) s (execEmberActLoad fn slot s) := by
  refine steady_mailRow s (fun t s => ?_) _ _ _
  simp only [queueTime_ite, queueTime_arg, queueTime_fail, ite_eq_left_iff]
  intros
  split <;> rename_i h <;> simp [queueTime_snd h]

theorem steady_execCounterWindowSet (fn slot) :
    Steady (fnOk fn) s (execCounterWindowSet fn slot s) := steady_mailRow s (fun t s => by simp) _ _ _
theorem steady_execAshRingConfig (fn slot) :
    Steady (fnOk fn) s (execAshRingConfig fn slot s) := steady_mailRow s (fun t s => by simp) _ _ _
theorem steady_execAshBucketConfig (fn slot) :
    Steady (fnOk fn) s (execAshBucketConfig fn slot s) := steady_mailRow s (fun t s => by simp) _ _ _
theorem steady_execSweepConfig (fn slot) :
    Steady (fnOk fn) s (execSweepConfig fn slot s) := steady_mailRow s (fun t s => by simp) _ _ _

theorem steady_execFloorplanRead (fn slot) : Steady (fnOk fn) s (execFloorplanRead fn slot s) := by
  refine steady_mailRow s (fun t s => ?_) _ _ _
  split <;> simp

/-! ## Region commands -/

theorem steady_execRegionDefine (fn slot) :
    Steady (fnOk fn) s (execRegionDefine fn slot s) := steady_mailRow s (fun t s => by simp) _ _ _
theorem steady_execRegionDelete (fn slot) :
    Steady (fnOk fn) s (execRegionDelete fn slot s) := steady_mailRow s (fun t s => by simp) _ _ _
theorem steady_execRegionFill (fn slot) :
    Steady (fnOk fn) s (execRegionFill fn slot s) := steady_mailRow s (fun t s => by simp) _ _ _

theorem steady_execRegionQuery (fn slot) : Steady (fnOk fn) s (execRegionQuery fn slot s) := by
  refine steady_mailRow s (fun t s => ?_) _ _ _
  split <;> simp

theorem steady_execApertureMap (fn slot) : Steady (fnOk fn) s (execApertureMap fn slot s) := by
  refine steady_mailRow s (fun t s => ?_) _ _ _
  dsimp only
  split <;> simp

theorem steady_execApertureUnmap (fn slot) :
    Steady (fnOk fn) s (execApertureUnmap fn slot s) := steady_mailRow s (fun t s => by simp) _ _ _

/-! ## System commands -/

theorem steady_execSysHello (fn slot) : Steady (fnOk fn) s (execSysHello fn slot s) := by
  refine steady_mailRow s (fun t s => ?_) _ _ _
  split
  · simp
  · split <;> simp

theorem steady_execSysStatus (fn slot) : Steady (fnOk fn) s (execSysStatus fn slot s) := steady_mailRow s (fun t s => by simp) _ _ _
theorem steady_execFwUpdate (fn slot) : Steady (fnOk fn) s (execFwUpdate fn slot s) := steady_mailRow s (fun t s => by simp) _ _ _
theorem steady_execTrainingPolicy (fn slot) :
    Steady (fnOk fn) s (execTrainingPolicy fn slot s) := steady_mailRow s (fun t s => by simp) _ _ _

/-! ## Islands and tokens -/

theorem steady_execDroop (island) : Steady (islandOk island) s (execDroop island s) := steady_guarded _ (by simp)
theorem steady_execIslandDvfsPeriod (island estimate) :
    Steady (islandOk island) s (execIslandDvfsPeriod island estimate s) := steady_guarded _ (by simp)
theorem steady_execPowerTokenPeriod (figures) : Steady true s (execPowerTokenPeriod figures s) := steady_next (by simp)

/-! ## Thermal cycles -/

theorem steady_execREstUpdate (powerW) : Steady true s (execREstUpdate powerW s) := steady_next (by simp)
theorem steady_execCapLoopPeriod : Steady true s (execCapLoopPeriod s) := steady_next (by simp)
theorem steady_execHeatBalanceCheck (powerW) : Steady true s (execHeatBalanceCheck powerW s) := steady_next (by simp)

theorem steady_execDramOver (site layer) : Steady (inSite site layer 8) s (execDramOver site layer s) := by
  refine steady_guarded _ ?_
  dsimp only
  split <;> simp

theorem steady_execLogicOver (site island) : Steady (siteOk site && islandOk island) s (execLogicOver site island s) := by
  refine steady_guarded _ ?_
  dsimp only
  split
  · rfl
  · split <;> simp

theorem steady_execHbmHot (stack temp) : Steady (stack < 8) s (execHbmHot stack temp s) := steady_guarded _ (by simp)
theorem steady_execThermalCycleSample : Steady true s (execThermalCycleSample s) := steady_next (by simp)
theorem steady_execJournalAppend (ok) : Steady true s (execJournalAppend ok s) := steady_next (by simp)
theorem steady_execLayerMapRefresh : Steady true s (execLayerMapRefresh s) := steady_next (by simp)

/-! ## Ember micro-operations -/

theorem steady_execEmberProgramStart (site ember) : Steady (inSite site ember 32) s (execEmberProgramStart site ember s) := by
  refine steady_guarded _ ?_
  dsimp only
  split
  · rfl
  · split
    · rfl
    · split
      · simp
      · split <;> simp

theorem steady_execEmberEnd (site ember) : Steady (inSite site ember 32) s (execEmberEnd site ember s) := by
  refine steady_microRow s _ _ _ fun t en r u h => ?_
  dsimp only
  split
  · split
    · rfl
    · split <;> rename_i h' <;> simp [queueTime_snd h', h]
  · split <;> rename_i h' <;> simp [queueTime_snd h', h]

theorem steady_execEmberLoad (site ember) : Steady (inSite site ember 32) s (execEmberLoad site ember s) := by
  refine steady_microRow s _ _ _ fun t en r u h => ?_
  dsimp only
  split
  · simp [h]
  · split <;> rename_i h' <;> simp [queueTime_snd h', h]

theorem steady_execEmberStore (site ember) : Steady (inSite site ember 32) s (execEmberStore site ember s) := by
  refine steady_microRow s _ _ _ fun t en r u h => ?_
  dsimp only
  split
  · simp [h]
  · split
    · split <;> rename_i h' <;> simp [queueTime_snd h', h]
    · split
      · simp [h]
      · split <;> rename_i h' <;> simp [queueTime_snd h', h]

theorem steady_execEmberAdd (site ember) : Steady (inSite site ember 32) s (execEmberAdd site ember s) := steady_laneRow s _ _ _ _
theorem steady_execEmberSub (site ember) : Steady (inSite site ember 32) s (execEmberSub site ember s) := steady_laneRow s _ _ _ _
theorem steady_execEmberMul (site ember) : Steady (inSite site ember 32) s (execEmberMul site ember s) := steady_laneRow s _ _ _ _
theorem steady_execEmberScale (site ember) :
    Steady (inSite site ember 32) s (execEmberScale site ember s) := steady_laneRow s _ _ _ _
theorem steady_execEmberAct (site ember) : Steady (inSite site ember 32) s (execEmberAct site ember s) := steady_laneRow s _ _ _ _
theorem steady_execEmberCvt (site ember) : Steady (inSite site ember 32) s (execEmberCvt site ember s) := steady_laneRow s _ _ _ _
theorem steady_execEmberMov (site ember) : Steady (inSite site ember 32) s (execEmberMov site ember s) := steady_laneRow s _ _ _ _

theorem steady_execEmberLoop (site ember) : Steady (inSite site ember 32) s (execEmberLoop site ember s) := by
  refine steady_microRow s _ _ _ fun t en r u h => ?_
  simp [h]

theorem steady_execEmberProgramEnd (site entry) : Steady (siteOk site) s (execEmberProgramEnd site entry s) := by
  refine steady_guarded _ ?_
  split
  · rfl
  · split
    · rfl
    · dsimp only
      split <;> simp

/-! ## Layers and refresh -/

theorem steady_execLayerThrottle (site layer) :
    Steady (inSite site layer 8) s (execLayerThrottle site layer s) := steady_guarded _ (by simp)
theorem steady_execLayerUnthrottle (site layer) :
    Steady (inSite site layer 8) s (execLayerUnthrottle site layer s) := steady_guarded _ (by simp)
theorem steady_execRefreshIntervalShorten (site layer) :
    Steady (inSite site layer 8) s (execRefreshIntervalShorten site layer s) := steady_guarded _ (by simp)
theorem steady_execRefreshIntervalLengthen (site layer) :
    Steady (inSite site layer 8) s (execRefreshIntervalLengthen site layer s) := steady_guarded _ (by simp)
theorem steady_execRowRefresh (site bank row) :
    Steady (inSite site bank 128 && row < 6240) s (execRowRefresh site bank row s) := steady_guarded _ (by simp)

/-! ## Matrix items -/

theorem steady_execTileStart (site item) : Steady (siteOk site) s (execTileStart site item s) := by
  refine steady_guarded _ ?_
  split
  · rfl
  · dsimp only
    split
    · rfl
    · split
      · simp
      · split
        · simp
        · split <;> simp

theorem steady_execTileComplete (site item) : Steady (siteOk site) s (execTileComplete site item s) := by
  refine steady_guarded _ ?_
  split
  · rfl
  · split
    · rfl
    · split <;> rename_i h <;> simp [queueTime_snd h]

theorem steady_execQuadrantRotation : Steady true s (execQuadrantRotation s) := steady_next (by simp)

/-! ## Sequencer instructions -/

theorem steady_execIllegal (site) : Steady (siteOk site) s (execIllegal site s) := steady_seqRow s (fun s w => by simp) _ _ _
theorem steady_execAlu (site) : Steady (siteOk site) s (execAlu site s) := steady_rdRow s _ _ _ _
theorem steady_execAddi (site) : Steady (siteOk site) s (execAddi site s) := steady_rdRow s _ _ _ _
theorem steady_execAndi (site) : Steady (siteOk site) s (execAndi site s) := steady_rdRow s _ _ _ _
theorem steady_execOri (site) : Steady (siteOk site) s (execOri site s) := steady_rdRow s _ _ _ _
theorem steady_execXori (site) : Steady (siteOk site) s (execXori site s) := steady_rdRow s _ _ _ _
theorem steady_execSlli (site) : Steady (siteOk site) s (execSlli site s) := steady_rdRow s _ _ _ _
theorem steady_execSrli (site) : Steady (siteOk site) s (execSrli site s) := steady_rdRow s _ _ _ _
theorem steady_execSrai (site) : Steady (siteOk site) s (execSrai site s) := steady_rdRow s _ _ _ _
theorem steady_execMovi (site) : Steady (siteOk site) s (execMovi site s) := steady_rdRow s _ _ _ _
theorem steady_execMovk0 (site) : Steady (siteOk site) s (execMovk0 site s) := steady_rdRow s _ _ _ _
theorem steady_execMovk1 (site) : Steady (siteOk site) s (execMovk1 site s) := steady_rdRow s _ _ _ _
theorem steady_execMovk2 (site) : Steady (siteOk site) s (execMovk2 site s) := steady_rdRow s _ _ _ _
theorem steady_execMovk3 (site) : Steady (siteOk site) s (execMovk3 site s) := steady_rdRow s _ _ _ _
theorem steady_execCmp (site) : Steady (siteOk site) s (execCmp site s) := steady_opRow s (fun s w => by simp) _ _ _
theorem steady_execCmpi (site) : Steady (siteOk site) s (execCmpi site s) := steady_opRow s (fun s w => by simp) _ _ _
theorem steady_execPlog (site) : Steady (siteOk site) s (execPlog site s) := steady_opRow s (fun s w => by simp) _ _ _
theorem steady_execLds (site) : Steady (siteOk site) s (execLds site s) := steady_stagingAccess s (fun s w a => by simp) _ _ _
theorem steady_execLws (site) : Steady (siteOk site) s (execLws site s) := steady_stagingAccess s (fun s w a => by simp) _ _ _
theorem steady_execSts (site) : Steady (siteOk site) s (execSts site s) := steady_stagingAccess s (fun s w a => by simp) _ _ _
theorem steady_execSws (site) : Steady (siteOk site) s (execSws site s) := steady_stagingAccess s (fun s w a => by simp) _ _ _
theorem steady_execLdr (site) : Steady (siteOk site) s (execLdr site s) := steady_regionAccess s (fun s w a => by simp) _ _ _
theorem steady_execLwr (site) : Steady (siteOk site) s (execLwr site s) := steady_regionAccess s (fun s w a => by simp) _ _ _
theorem steady_execStr (site) : Steady (siteOk site) s (execStr site s) := steady_regionAccess s (fun s w a => by simp) _ _ _
theorem steady_execSwr (site) : Steady (siteOk site) s (execSwr site s) := steady_regionAccess s (fun s w a => by simp) _ _ _
theorem steady_execBr (site) : Steady (siteOk site) s (execBr site s) := steady_opRow s (fun s w => by simp) _ _ _
theorem steady_execCall (site) : Steady (siteOk site) s (execCall site s) := steady_opRow s (fun s w => by simp) _ _ _
theorem steady_execJr (site) : Steady (siteOk site) s (execJr site s) := steady_opRow s (fun s w => by simp) _ _ _

theorem steady_execIssue (site) : Steady (siteOk site) s (execIssue site s) := by
  refine steady_opRow s (fun s w => ?_) _ _ _
  have block (a) := queueTime_seqAmid s (f := fun s => stRead s site a 32 (bySequencer site)) (fun _ => by simp) site
  dsimp only
  split
  · simp
  · split
    · simp
    · split
      next h => simp [queueTime_snd h, block]
      next h =>
        split
        · simp [queueTime_snd h, block]
        · split
          · simp [queueTime_snd h, block]
          · simp [queueTime_snd h, block]
          · split <;> simp [queueTime_snd h, block]

theorem steady_execWaitq (site) : Steady (siteOk site) s (execWaitq site s) := steady_opRow s (fun s w => by simp) _ _ _
theorem steady_execRdq (site) : Steady (siteOk site) s (execRdq site s) := steady_opRow s (fun s w => by simp) _ _ _
theorem steady_execWaitf (site) : Steady (siteOk site) s (execWaitf site s) := steady_opRow s (fun s w => by simp) _ _ _
theorem steady_execRdf (site) : Steady (siteOk site) s (execRdf site s) := steady_rdRow s _ _ _ _
theorem steady_execMfs (site) : Steady (siteOk site) s (execMfs site s) := steady_opRow s (fun s w => by simp) _ _ _
theorem steady_execMts (site) : Steady (siteOk site) s (execMts site s) := steady_opRow s (fun s w => by simp) _ _ _
theorem steady_execIflush (site) : Steady (siteOk site) s (execIflush site s) := steady_opRow s (fun s w => by simp) _ _ _
theorem steady_execTrap (site) : Steady (siteOk site) s (execTrap site s) := steady_opRow s (fun s w => by simp) _ _ _
theorem steady_execRte (site) : Steady (siteOk site) s (execRte site s) := steady_opRow s (fun s w => by simp) _ _ _
theorem steady_execNop (site) : Steady (siteOk site) s (execNop site s) := steady_opRow s (fun s w => by simp) _ _ _
theorem steady_execEndRecipe (site) : Steady (siteOk site) s (execEndRecipe site s) := steady_opRow s (fun s w => by simp) _ _ _

/-! ## SMBus -/

theorem steady_execSmbStatus (pec) : Steady true s (execSmbStatus pec s) := steady_next (by simp)
theorem steady_execSmbPkgPower (pec) : Steady true s (execSmbPkgPower pec s) := steady_next (by simp)
theorem steady_execSmbTemps (pec) : Steady true s (execSmbTemps pec s) := steady_next (by simp)
theorem steady_execSmbTray (pec) : Steady true s (execSmbTray pec s) := steady_next (by simp)

theorem steady_execSmbBoardCap (write pec) : Steady true s (execSmbBoardCap write pec s) := by
  refine steady_next ?_
  split <;> simp

theorem steady_execSmbThermalCycles (pec) : Steady true s (execSmbThermalCycles pec s) := steady_next (by simp)
theorem steady_execSmbFwLevel (pec) : Steady true s (execSmbFwLevel pec s) := steady_next (by simp)
theorem steady_execSmbTripCause (pec) : Steady true s (execSmbTripCause pec s) := steady_next (by simp)
theorem steady_execSmbResetReq (value pec katOk) : Steady true s (execSmbResetReq value pec katOk s) := steady_next (by simp)
theorem steady_execAlertResponseAddress : Steady true s (execAlertResponseAddress s) := steady_next (by simp)

/-! ## Vector items -/

theorem steady_execVectorAdd (site) : Steady (siteOk site) s (execVectorAdd site s) := steady_vectorRow s _ _
theorem steady_execVectorSub (site) : Steady (siteOk site) s (execVectorSub site s) := steady_vectorRow s _ _
theorem steady_execVectorMul (site) : Steady (siteOk site) s (execVectorMul site s) := steady_vectorRow s _ _
theorem steady_execVectorMax (site) : Steady (siteOk site) s (execVectorMax site s) := steady_vectorRow s _ _
theorem steady_execVectorMin (site) : Steady (siteOk site) s (execVectorMin site s) := steady_vectorRow s _ _
theorem steady_execVectorFma (site) : Steady (siteOk site) s (execVectorFma site s) := steady_vectorRow s _ _
theorem steady_execVectorScale (site) : Steady (siteOk site) s (execVectorScale site s) := steady_vectorRow s _ _
theorem steady_execRowscale (site) : Steady (siteOk site) s (execRowscale site s) := steady_vectorRow s _ _
theorem steady_execColscale (site) : Steady (siteOk site) s (execColscale site s) := steady_vectorRow s _ _
theorem steady_execVectorAct (site) : Steady (siteOk site) s (execVectorAct site s) := steady_vectorRow s _ _
theorem steady_execRsqrt (site) : Steady (siteOk site) s (execRsqrt site s) := steady_vectorRow s _ _
theorem steady_execRsum (site) : Steady (siteOk site) s (execRsum site s) := steady_vectorRow s _ _
theorem steady_execRmax (site) : Steady (siteOk site) s (execRmax site s) := steady_vectorRow s _ _
theorem steady_execVectorCvt (site) : Steady (siteOk site) s (execVectorCvt site s) := steady_vectorRow s _ _
theorem steady_execCvti (site) : Steady (siteOk site) s (execCvti site s) := steady_vectorRow s _ _

theorem steady_execVectorOpComplete (site) : Steady (siteOk site) s (execVectorOpComplete site s) := by
  refine steady_guarded _ ?_
  split <;> simp

/-! ## Transfers and streams -/

theorem steady_execDmaTransferStart (site channel) : Steady (inSite site channel 8) s (execDmaTransferStart site channel s) := by
  refine steady_guarded _ ?_
  split <;> simp

theorem steady_execDmaTransferComplete (site channel) :
    Steady (inSite site channel 8) s (execDmaTransferComplete site channel s) := by
  refine steady_guarded _ ?_
  split
  · simp
  · split
    · rfl
    · split
      · rfl
      · split <;> rename_i h <;> simp [queueTime_snd h]

theorem steady_execPush (site item) : Steady (siteOk site) s (execPush site item s) := steady_streamStart s _ _ _
theorem steady_execPushComplete (site item) : Steady (siteOk site) s (execPushComplete site item s) := steady_streamComplete s _ _ _
theorem steady_execPull (site item) : Steady (siteOk site) s (execPull site item s) := steady_streamStart s _ _ _
theorem steady_execPullComplete (site item) : Steady (siteOk site) s (execPullComplete site item s) := steady_streamComplete s _ _ _

/-! ## Sweep -/

theorem steady_execSweepVisit (u) : Steady u.ok s (execSweepVisit u s) := steady_guarded _ (by simp)

theorem steady_execErasureMark : Steady true s (execErasureMark s) := by
  refine steady_next ?_
  split
  · rfl
  · simp only [queueTime_ite, queueTime_lineRecord, queueTime_modMem, ite_self]

theorem steady_execSpareColumnRepair (site bank) : Steady (inSite site bank 128) s (execSpareColumnRepair site bank s) := by
  refine steady_guarded _ ?_
  split <;> simp

theorem steady_execBucketLeak (b) : Steady b.ok s (execBucketLeak b s) := steady_guarded _ (by simp)

/-! ## All rows -/

/-- Every row is steady, but for the two that move VAUX and the request that may be refused. -/
theorem steady_exec (c : Instr) (hup : ∀ strap, c ≠ .vauxUp strap) (hloss : c ≠ .vauxLoss)
    (htake : ∀ fn, c ≠ .mbxTakeRequest fn) : Steady c.wellFormed s (exec c s) := by
  cases c with
  | vauxUp strap => exact absurd rfl (hup strap)
  | drivePwrEn => exact steady_execDrivePwrEn s
  | pwrGoodRise katOk => exact steady_execPwrGoodRise s _
  | pwrGoodTimeout => exact steady_execPwrGoodTimeout s
  | pwrGoodFall => exact steady_execPwrGoodFall s
  | pkgResetAssert lowNs katOk => exact steady_execPkgResetAssert s _ _
  | pkgResetRelease katOk => exact steady_execPkgResetRelease s _
  | powerUpRerun => exact steady_execPowerUpRerun s
  | coolOkChange level => exact steady_execCoolOkChange s _
  | sensorSample readings => exact steady_execSensorSample s _
  | hardwareTrip => exact steady_execHardwareTrip s
  | perstNAssert => exact steady_execPerstNAssert s
  | perstNRelease => exact steady_execPerstNRelease s
  | configRequest req => exact steady_execConfigRequest s _
  | vfDisable numVfs vfEnable => exact steady_execVfDisable s _ _
  | busMasterEnableSet fn on => exact steady_execBusMasterEnableSet s _ _
  | msixUnmask fn what => exact steady_execMsixUnmask s _ _
  | functionLevelReset fn => exact steady_execFunctionLevelReset s _
  | stokerStart found => exact steady_execStokerStart s _
  | bootTimeout => exact steady_execBootTimeout s
  | trainingRecordWrite firstOk secondOk => exact steady_execTrainingRecordWrite s _ _
  | unitFenced u => exact steady_execUnitFenced s _
  | fptPublish => exact steady_execFptPublish s
  | fptPersist firstOk secondOk => exact steady_execFptPersist s _ _
  | trayRead bytes => exact steady_execTrayRead s _
  | traySensorLost => exact steady_execTraySensorLost s
  | linkDataReceive link far group flit => exact steady_execLinkDataReceive s _ _ _ _
  | linkCtrlReceive link far group flit => exact steady_execLinkCtrlReceive s _ _ _ _
  | linkFlitSend link far => exact steady_execLinkFlitSend s _ _
  | ctrlSend link far => exact steady_execCtrlSend s _ _
  | replayTimeout link far => exact steady_execReplayTimeout s _ _
  | groupSuspect link far group => exact steady_execGroupSuspect s _ _ _
  | retryStorm link far => exact steady_execRetryStorm s _ _
  | retrainStart link found => exact steady_execRetrainStart s _ _
  | retrainBoundMiss link confirmed => exact steady_execRetrainBoundMiss s _ _
  | detourBeginReceive far firstSeq count => exact steady_execDetourBeginReceive s _ _ _
  | relayedFlitReceive far => exact steady_execRelayedFlitReceive s _
  | detourRetry locked found => exact steady_execDetourRetry s _ _
  | routingGeneration => exact steady_execRoutingGeneration s
  | epochChange => exact steady_execEpochChange s
  | escapeMove flit => exact steady_execEscapeMove s _
  | flitAged flit => exact steady_execFlitAged s _
  | retiredHearthRequest flit => exact steady_execRetiredHearthRequest s _
  | devtimeSync => exact steady_execDevtimeSync s
  | registerWrite fn offset width value => exact steady_execRegisterWrite s _ _ _ _
  | lowHalfRead fn read => exact steady_execLowHalfRead s _ _
  | mbxReqPiWrite fn value => exact steady_execMbxReqPiWrite s _ _
  | mbxRspCiWrite fn value => exact steady_execMbxRspCiWrite s _ _
  | mbxTakeRequest fn => exact absurd rfl (htake fn)
  | mailboxReset fn => exact steady_execMailboxReset s _
  | mailboxResetDone fn => exact steady_execMailboxResetDone s _
  | urgentGo fn => exact steady_execUrgentGo s _
  | sysHello fn slot => exact steady_execSysHello s _ _
  | sysStatus fn slot => exact steady_execSysStatus s _ _
  | fwUpdate fn slot => exact steady_execFwUpdate s _ _
  | trainingPolicy fn slot => exact steady_execTrainingPolicy s _ _
  | tenantCreate fn slot => exact steady_execTenantCreate s _ _
  | tenantDestroy fn slot => exact steady_execTenantDestroy s _ _
  | tenantAssign fn slot => exact steady_execTenantAssign s _ _
  | tenantRelease fn slot => exact steady_execTenantRelease s _ _
  | tenantReset fn slot => exact steady_execTenantReset s _ _
  | tenantHalt fn slot => exact steady_execTenantHalt s _ _
  | tenantResume fn slot => exact steady_execTenantResume s _ _
  | tenantNotify fn slot => exact steady_execTenantNotify s _ _
  | queueCreate fn slot => exact steady_execQueueCreate s _ _
  | queueDestroy fn slot => exact steady_execQueueDestroy s _ _
  | regionDefine fn slot => exact steady_execRegionDefine s _ _
  | regionDelete fn slot => exact steady_execRegionDelete s _ _
  | regionFill fn slot => exact steady_execRegionFill s _ _
  | regionQuery fn slot => exact steady_execRegionQuery s _ _
  | apertureMap fn slot => exact steady_execApertureMap s _ _
  | apertureUnmap fn slot => exact steady_execApertureUnmap s _ _
  | andironModelLoad fn slot => exact steady_execAndironModelLoad s _ _
  | andironModelUnload fn slot => exact steady_execAndironModelUnload s _ _
  | emberActLoad fn slot => exact steady_execEmberActLoad s _ _
  | counterWindowSet fn slot => exact steady_execCounterWindowSet s _ _
  | ashRingConfig fn slot => exact steady_execAshRingConfig s _ _
  | ashBucketConfig fn slot => exact steady_execAshBucketConfig s _ _
  | sweepConfig fn slot => exact steady_execSweepConfig s _ _
  | floorplanRead fn slot => exact steady_execFloorplanRead s _ _
  | draughtCapSet fn slot => exact steady_execDraughtCapSet s _ _
  | draughtRampSet fn slot => exact steady_execDraughtRampSet s _ _
  | draughtStatus fn slot => exact steady_execDraughtStatus s _ _
  | draughtTripTest fn slot => exact steady_execDraughtTripTest s _ _
  | chainPortConfig fn slot => exact steady_execChainPortConfig s _ _
  | chainDomainBind fn slot => exact steady_execChainDomainBind s _ _
  | chainDomainExport fn slot => exact steady_execChainDomainExport s _ _
  | chainDomainUnbind fn slot => exact steady_execChainDomainUnbind s _ _
  | attestReport fn slot => exact steady_execAttestReport s _ _
  | securityZeroise fn slot => exact steady_execSecurityZeroise s _ _
  | smbStatus pec => exact steady_execSmbStatus s _
  | smbPkgPower pec => exact steady_execSmbPkgPower s _
  | smbTemps pec => exact steady_execSmbTemps s _
  | smbTray pec => exact steady_execSmbTray s _
  | smbBoardCap write pec => exact steady_execSmbBoardCap s _ _
  | smbThermalCycles pec => exact steady_execSmbThermalCycles s _
  | smbFwLevel pec => exact steady_execSmbFwLevel s _
  | smbTripCause pec => exact steady_execSmbTripCause s _
  | smbResetReq value pec katOk => exact steady_execSmbResetReq s _ _ _
  | alertResponseAddress => exact steady_execAlertResponseAddress s
  | dblSqTailWrite fn queue value => exact steady_execDblSqTailWrite s _ _ _
  | dblCqHeadWrite fn queue value => exact steady_execDblCqHeadWrite s _ _ _
  | dblSignalWrite fn signal value => exact steady_execDblSignalWrite s _ _ _
  | apertureRead fn offset len => exact steady_execApertureRead s _ _ _
  | apertureWrite fn offset bytes => exact steady_execApertureWrite s _ _ _
  | runRecipe tenant queue => exact steady_execRunRecipe s _ _
  | andironBatch tenant queue => exact steady_execAndironBatch s _ _
  | emberRun tenant queue => exact steady_execEmberRun s _ _
  | copy tenant queue => exact steady_execCopy s _ _
  | fill tenant queue => exact steady_execFill s _ _
  | fence tenant queue => exact steady_execFence s _ _
  | signal tenant queue => exact steady_execSignal s _ _
  | wait tenant queue => exact steady_execWait s _ _
  | turnover tenant queue => exact steady_execTurnover s _ _
  | waitTimeout disp => exact steady_execWaitTimeout s _
  | turnoverDrained disp => exact steady_execTurnoverDrained s _
  | recipeClaim disp => exact steady_execRecipeClaim s _
  | dispatchComplete disp => exact steady_execDispatchComplete s _
  | recipeSiteEnd site => exact steady_execRecipeSiteEnd s _
  | ibufFill site => exact steady_execIbufFill s _
  | illegal site => exact steady_execIllegal s _
  | alu site => exact steady_execAlu s _
  | addi site => exact steady_execAddi s _
  | andi site => exact steady_execAndi s _
  | ori site => exact steady_execOri s _
  | xori site => exact steady_execXori s _
  | slli site => exact steady_execSlli s _
  | srli site => exact steady_execSrli s _
  | srai site => exact steady_execSrai s _
  | movi site => exact steady_execMovi s _
  | movk0 site => exact steady_execMovk0 s _
  | movk1 site => exact steady_execMovk1 s _
  | movk2 site => exact steady_execMovk2 s _
  | movk3 site => exact steady_execMovk3 s _
  | cmp site => exact steady_execCmp s _
  | cmpi site => exact steady_execCmpi s _
  | plog site => exact steady_execPlog s _
  | lds site => exact steady_execLds s _
  | lws site => exact steady_execLws s _
  | sts site => exact steady_execSts s _
  | sws site => exact steady_execSws s _
  | ldr site => exact steady_execLdr s _
  | lwr site => exact steady_execLwr s _
  | str site => exact steady_execStr s _
  | swr site => exact steady_execSwr s _
  | br site => exact steady_execBr s _
  | call site => exact steady_execCall s _
  | jr site => exact steady_execJr s _
  | issue site => exact steady_execIssue s _
  | waitq site => exact steady_execWaitq s _
  | rdq site => exact steady_execRdq s _
  | waitf site => exact steady_execWaitf s _
  | rdf site => exact steady_execRdf s _
  | mfs site => exact steady_execMfs s _
  | mts site => exact steady_execMts s _
  | iflush site => exact steady_execIflush s _
  | trap site => exact steady_execTrap s _
  | rte site => exact steady_execRte s _
  | nop site => exact steady_execNop s _
  | endRecipe site => exact steady_execEndRecipe s _
  | tileStart site item => exact steady_execTileStart s _ _
  | tileComplete site item => exact steady_execTileComplete s _ _
  | quadrantRotation => exact steady_execQuadrantRotation s
  | vectorAdd site => exact steady_execVectorAdd s _
  | vectorSub site => exact steady_execVectorSub s _
  | vectorMul site => exact steady_execVectorMul s _
  | vectorMax site => exact steady_execVectorMax s _
  | vectorMin site => exact steady_execVectorMin s _
  | vectorFma site => exact steady_execVectorFma s _
  | vectorScale site => exact steady_execVectorScale s _
  | rowscale site => exact steady_execRowscale s _
  | colscale site => exact steady_execColscale s _
  | vectorAct site => exact steady_execVectorAct s _
  | rsqrt site => exact steady_execRsqrt s _
  | rsum site => exact steady_execRsum s _
  | rmax site => exact steady_execRmax s _
  | vectorCvt site => exact steady_execVectorCvt s _
  | cvti site => exact steady_execCvti s _
  | vectorOpComplete site => exact steady_execVectorOpComplete s _
  | dmaTransferStart site channel => exact steady_execDmaTransferStart s _ _
  | dmaTransferComplete site channel => exact steady_execDmaTransferComplete s _ _
  | push site item => exact steady_execPush s _ _
  | pushComplete site item => exact steady_execPushComplete s _ _
  | pull site item => exact steady_execPull s _ _
  | pullComplete site item => exact steady_execPullComplete s _ _
  | emberTokenClaim disp => exact steady_execEmberTokenClaim s _
  | emberProgramStart site ember => exact steady_execEmberProgramStart s _ _
  | emberEnd site ember => exact steady_execEmberEnd s _ _
  | emberLoad site ember => exact steady_execEmberLoad s _ _
  | emberStore site ember => exact steady_execEmberStore s _ _
  | emberAdd site ember => exact steady_execEmberAdd s _ _
  | emberSub site ember => exact steady_execEmberSub s _ _
  | emberMul site ember => exact steady_execEmberMul s _ _
  | emberScale site ember => exact steady_execEmberScale s _ _
  | emberAct site ember => exact steady_execEmberAct s _ _
  | emberCvt site ember => exact steady_execEmberCvt s _ _
  | emberMov site ember => exact steady_execEmberMov s _ _
  | emberLoop site ember => exact steady_execEmberLoop s _ _
  | emberProgramEnd site entry => exact steady_execEmberProgramEnd s _ _
  | layerThrottle site layer => exact steady_execLayerThrottle s _ _
  | layerUnthrottle site layer => exact steady_execLayerUnthrottle s _ _
  | refreshIntervalShorten site layer => exact steady_execRefreshIntervalShorten s _ _
  | refreshIntervalLengthen site layer => exact steady_execRefreshIntervalLengthen s _ _
  | rowRefresh site bank row => exact steady_execRowRefresh s _ _ _
  | andironLaunchStart site => exact steady_execAndironLaunchStart s _
  | environmentStart site lane => exact steady_execEnvironmentStart s _ _
  | andironIteration site lane => exact steady_execAndironIteration s _ _
  | environmentEnd site lane => exact steady_execEnvironmentEnd s _ _
  | launchComplete site => exact steady_execLaunchComplete s _
  | chainWrite port frame => exact steady_execChainWrite s _ _
  | chainReadReq port frame => exact steady_execChainReadReq s _ _
  | chainReadResp port frame => exact steady_execChainReadResp s _ _
  | chainErrorResp port frame => exact steady_execChainErrorResp s _ _
  | chainAck port frame => exact steady_execChainAck s _ _
  | chainNak port frame => exact steady_execChainNak s _ _
  | chainProbe port frame => exact steady_execChainProbe s _ _
  | frameDiscard port frame => exact steady_execFrameDiscard s _ _
  | chainFrameSend port => exact steady_execChainFrameSend s _
  | chainAckDue port => exact steady_execChainAckDue s _
  | chainRetransmit port => exact steady_execChainRetransmit s _
  | pcsLock port => exact steady_execPcsLock s _
  | initProbe port => exact steady_execInitProbe s _
  | chainPortUp port => exact steady_execChainPortUp s _
  | idleProbe port => exact steady_execIdleProbe s _
  | chainPortFail port => exact steady_execChainPortFail s _
  | chainPortRetry port => exact steady_execChainPortRetry s _
  | chainReadTimeout port tag => exact steady_execChainReadTimeout s _ _
  | sweepVisit u => exact steady_execSweepVisit s _
  | erasureMark => exact steady_execErasureMark s
  | spareColumnRepair site bank => exact steady_execSpareColumnRepair s _ _
  | bucketLeak b => exact steady_execBucketLeak s _
  | ashEventArrive => exact steady_execAshEventArrive s
  | ashRecordWrite => exact steady_execAshRecordWrite s
  | lost fn => exact steady_execLost s _
  | ashCiWrite fn value => exact steady_execAshCiWrite s _ _
  | droop island => exact steady_execDroop s _
  | islandDvfsPeriod island estimate => exact steady_execIslandDvfsPeriod s _ _
  | powerTokenPeriod figures => exact steady_execPowerTokenPeriod s _
  | rEstUpdate powerW => exact steady_execREstUpdate s _
  | capLoopPeriod => exact steady_execCapLoopPeriod s
  | heatBalanceCheck powerW => exact steady_execHeatBalanceCheck s _
  | dramOver site layer => exact steady_execDramOver s _ _
  | logicOver site island => exact steady_execLogicOver s _ _
  | hbmHot stack temp => exact steady_execHbmHot s _ _
  | thermalCycleSample => exact steady_execThermalCycleSample s
  | journalAppend ok => exact steady_execJournalAppend s _
  | layerMapRefresh => exact steady_execLayerMapRefresh s
  | counterSnapshot => exact steady_execCounterSnapshot s
  | entropyHealthFail => exact steady_execEntropyHealthFail s
  | entropyRerunDone pass => exact steady_execEntropyRerunDone s _
  | drbgReseed => exact steady_execDrbgReseed s
  | vauxLoss => exact absurd rfl hloss
  | pcsLockLoss port => exact steady_execPcsLockLoss s _
  | outputPortGrant node port => exact steady_execOutputPortGrant s _ _
  | undefinedDescriptorOpcode tenant queue => exact steady_execUndefinedDescriptorOpcode s _ _

end Sys2Proof.Machine
end

section
/-! The step (R25, log entries 1 and 2), what reset leaves, and the queue and devtime over every command. -/

namespace Sys2Proof.Machine

/-! ## The step -/

theorem step_of_pending_cons {s : State} {c : Instr} {rest : List Instr} (h : s.pending = c :: rest) :
    step s = exec c { s with pending := rest } := by
  unfold step
  rw [h]

theorem step_of_pending_nil {s : State} (h : s.pending = []) : step s = .next (tick s) := by
  unfold step
  rw [h]

/-- The tick counts devtime modulo 2^64 while VAUX is up (R25). -/
theorem tick_devtime (s : State) :
    (tick s).ao.devtime = if s.ao.vauxOk then (s.ao.devtime + 1) % 2 ^ 64 else s.ao.devtime := by
  unfold tick
  split <;> rfl

theorem tick_only (s : State) : tick s = { s with ao := { s.ao with devtime := (tick s).ao.devtime } } := by
  unfold tick
  split <;> rfl

/-- Settles O1: a step is the front command's meaning, or the tick. -/
theorem stepTakesTheFrontCommand : Obligations.StepTakesTheFrontCommand :=
  ⟨fun _ _ _ h => step_of_pending_cons h, fun s h => ⟨tick s, step_of_pending_nil h, tick_devtime s, tick_only s⟩⟩

/-! ## Reset -/

theorem mbx_reset (fn : Nat) : mbx State.reset fn = .reset := rfl

theorem queue_reset (t q : Nat) : queue State.reset t q = .reset := rfl

theorem chainPort_reset (p : Nat) : chainPort State.reset p = .reset := rfl

/-- No dispatch is in flight at reset. -/
theorem freshIds_reset : FreshIds State.reset := by
  unfold FreshIds
  decide

/-- Settles O56: the reset value of each record, and the two invariants there. -/
theorem resetValues : Obligations.ResetValues := by
  refine ⟨rfl, rfl, rfl, rfl, rfl, rfl, rfl, fun fn => ?mailbox, fun t q => ?queue, fun p => ?port, rfl, rfl, rfl, rfl,
    reset_mem_wf, freshIds_reset⟩
  case mailbox =>
    rw [mbx_reset]
    exact ⟨rfl, rfl, rfl, rfl⟩
  case queue =>
    rw [queue_reset]
    exact ⟨rfl, rfl⟩
  case port =>
    rw [chainPort_reset]
    exact ⟨rfl, rfl⟩

/-! ## The rows that move VAUX, and the request -/

variable {s t : State} {c : Instr}

theorem pending_of_queueTime (h : queueTime t = queueTime s) : t.pending = s.pending := congrArg Prod.fst h

theorem devtime_of_queueTime (h : queueTime t = queueTime s) : t.ao.devtime = s.ao.devtime := congrArg Prod.snd h

theorem enterOff_pending (s : State) : (enterOff s).pending = s.pending := pending_of_queueTime (queueTime_enterOff s)

/-- VAUX rising sets devtime to 0 and leaves the queue (R109). -/
theorem exec_vauxUp_guarded (strap : Nat) (s : State) :
    ∃ t, exec (.vauxUp strap) s = guarded (Instr.wellFormed (.vauxUp strap)) .noSuchUnit t ∧ t.pending = s.pending := by
  refine ⟨_, rfl, ?_⟩
  split <;> rfl

/-- VAUX falling clears the always-on domain, devtime with it, and leaves the queue (R58, R109). -/
theorem exec_vauxLoss_next (s : State) : ∃ t, exec .vauxLoss s = .next t ∧ t.pending = s.pending := by
  refine ⟨_, rfl, ?_⟩
  split
  · exact enterOff_pending s
  · rfl

/-- A function that exists gives up its turn, is refused under level 3 (R1, R139), or has its request taken. -/
theorem exec_mbxTakeRequest (s : State) {fn : Nat} (hfn : fn ≤ 16) :
    exec (.mbxTakeRequest fn) s =
      if turn 17 s.work.lastMbx (mayTake s) ≠ some fn then .next s
      else if undescribed (mbx s fn).level (nextRequest s fn) then .refused .undescribedLevel
      else .next (takeRequest s fn) :=
  if_neg (by simp [fnOk, hfn])

theorem exec_mbxTakeRequest_absent (s : State) {fn : Nat} (hfn : fnOk fn = false) :
    exec (.mbxTakeRequest fn) s = .fault .noSuchFunction :=
  if_pos (by simp [hfn])

theorem exec_mbxTakeRequest_queueTime {fn : Nat} (h : exec (.mbxTakeRequest fn) s = .next t) : queueTime t = queueTime s := by
  change execMbxTakeRequest fn s = .next t at h
  unfold execMbxTakeRequest at h
  split at h
  · cases h
  · split at h
    · cases h
      rfl
    · split at h
      · cases h
      · cases h
        exact queueTime_takeRequest s fn

/-! ## Every command -/

/-- All but the taking of a request complete with operands in range, fault otherwise, and leave the queue. -/
theorem exec_guarded (c : Instr) (s : State) (htake : ∀ fn, c ≠ .mbxTakeRequest fn) :
    ∃ f t, exec c s = guarded c.wellFormed f t ∧ t.pending = s.pending := by
  by_cases hup : ∃ strap, c = .vauxUp strap
  · obtain ⟨strap, rfl⟩ := hup
    exact ⟨_, exec_vauxUp_guarded strap s⟩
  by_cases hloss : c = .vauxLoss
  · subst hloss
    exact ⟨.noSuchUnit, exec_vauxLoss_next s⟩
  obtain ⟨f, t, e, h⟩ := steady_exec s c (fun strap e => hup ⟨strap, e⟩) hloss htake
  exact ⟨f, t, e, pending_of_queueTime h⟩

/-- What a guarded outcome leaves is the state it guards. -/
theorem guarded_next {ok : Bool} {f : Fault} {u : State} (h : guarded ok f u = .next t) : u = t := by
  cases ok with
  | false => cases h
  | true => cases h; rfl

/-- Operands in range (R70, R149, R151, R11): the command completes. -/
theorem exec_completes (hwf : c.wellFormed = true) (htake : ∀ fn, c ≠ .mbxTakeRequest fn) : ∃ t, exec c s = .next t := by
  obtain ⟨f, t, e, -⟩ := exec_guarded c s htake
  rw [hwf] at e
  exact ⟨t, e⟩

/-- Any other command faults (log entry 8). -/
theorem exec_faults (hwf : c.wellFormed = false) : ∃ f, exec c s = .fault f := by
  by_cases htake : ∃ fn, c = .mbxTakeRequest fn
  · obtain ⟨fn, rfl⟩ := htake
    exact ⟨_, exec_mbxTakeRequest_absent s hwf⟩
  obtain ⟨f, t, e, -⟩ := exec_guarded c s fun fn e => htake ⟨fn, e⟩
  rw [hwf] at e
  exact ⟨f, e⟩

/-- No command puts a command into the queue (log entry 1). -/
theorem exec_pending (h : exec c s = .next t) : t.pending = s.pending := by
  by_cases htake : ∃ fn, c = .mbxTakeRequest fn
  · obtain ⟨fn, rfl⟩ := htake
    exact pending_of_queueTime (exec_mbxTakeRequest_queueTime h)
  obtain ⟨f, u, e, k⟩ := exec_guarded c s fun fn e => htake ⟨fn, e⟩
  rw [e] at h
  rwa [guarded_next h] at k

/-- Only the rows that move VAUX touch devtime; time passes in the tick alone (log entry 2). -/
theorem exec_devtime (h : exec c s = .next t) (hup : ∀ strap, c ≠ .vauxUp strap) (hloss : c ≠ .vauxLoss) :
    t.ao.devtime = s.ao.devtime := by
  by_cases htake : ∃ fn, c = .mbxTakeRequest fn
  · obtain ⟨fn, rfl⟩ := htake
    exact devtime_of_queueTime (exec_mbxTakeRequest_queueTime h)
  obtain ⟨f, u, e, k⟩ := steady_exec s c hup hloss fun fn e => htake ⟨fn, e⟩
  rw [e] at h
  rw [guarded_next h] at k
  exact devtime_of_queueTime k

/-- A request is taken, or it is not the function's turn. -/
theorem exec_mbxTakeRequest_completes {fn : Nat} (hfn : fn ≤ 16)
    (h : turn 17 s.work.lastMbx (mayTake s) ≠ some fn ∨ undescribed (mbx s fn).level (nextRequest s fn) = false) :
    ∃ t, exec (.mbxTakeRequest fn) s = .next t := by
  rw [exec_mbxTakeRequest s hfn]
  split
  · exact ⟨s, rfl⟩
  next hturn =>
    have described := h.resolve_left hturn
    simp [described]

/-- A request under level 3 is refused (R1, R139). -/
theorem exec_mbxTakeRequest_refused {fn : Nat} (hfn : fn ≤ 16) (hturn : turn 17 s.work.lastMbx (mayTake s) = some fn)
    (h : undescribed (mbx s fn).level (nextRequest s fn) = true) :
    exec (.mbxTakeRequest fn) s = .refused .undescribedLevel := by
  rw [exec_mbxTakeRequest s hfn, if_neg (not_not_intro hturn), if_pos h]

/-- Settles O60: every row is a guarded state that keeps the queue and devtime, but for the request and the two rows that move VAUX. -/
theorem commandsLeaveTimeAndQueue : Obligations.CommandsLeaveTimeAndQueue :=
  ⟨fun _ _ hwf htake => exec_completes hwf htake,
    fun _ _ hfn => ⟨exec_mbxTakeRequest_completes hfn, exec_mbxTakeRequest_refused hfn⟩,
    fun _ _ hwf => exec_faults hwf,
    fun _ _ _ h => exec_pending h,
    fun _ _ _ h hup hloss => exec_devtime h hup hloss⟩

end Sys2Proof.Machine
end

section
/-! What the work of the part never moves: whatever runs, ends or stops on the sites leaves everything but the dispatches, the hearths,
memory, ash events, counters and the count of free values as it was (R49, R167, R194, R255, R281). Where `queueTime` keeps two fields
over every command, this keeps whole groups over the operations that end work. -/

namespace Sys2Proof.Machine

/-- The state without the groups that work and its end may change. What an operation leaves of it is stated once, as an equation that
`simp` then uses for the operations built from it. -/
def standing (s : State) : State :=
  { s with free := 0, work := .reset, hearths := [], mem := .reset, ash := .reset, counters := .reset }

section
variable {s t : State}

theorem standing_of_writes (h : Writes s t) : standing t = standing s := by rw [show t = _ from h]; rfl

theorem standing_of_reads (h : Reads s t) : standing t = standing s := standing_of_writes h.writes

theorem ao_of_standing (h : standing t = standing s) : t.ao = s.ao := (congrArg State.ao h :)
theorem dev_of_standing (h : standing t = standing s) : t.dev = s.dev := (congrArg State.dev h :)
theorem sec_of_standing (h : standing t = standing s) : t.sec = s.sec := (congrArg State.sec h :)
theorem fpt_of_standing (h : standing t = standing s) : t.fpt = s.fpt := (congrArg State.fpt h :)

/-- An answer taken apart into its value and its state. -/
theorem standing_snd {α : Type} {p : α × State} {x : α} (h : p = (x, t)) : standing t = standing p.2 := by rw [h]

end

@[simp] theorem standing_ite (c : Prop) [Decidable c] (s t : State) :
    standing (if c then s else t) = if c then standing s else standing t := apply_ite standing c s t

@[simp] theorem standing_snd_ite {α : Type} (c : Prop) [Decidable c] (p q : α × State) :
    standing (if c then p else q).2 = if c then standing p.2 else standing q.2 := apply_ite (standing ·.2) c p q

/-- A fold whose every step leaves the state that it carries standing. -/
theorem standing_foldl_of {α β : Type} {g : α → State} {f : α → β → α} (h : ∀ a b, standing (g (f a b)) = standing (g a))
    (l : List β) (a : α) : standing (g (l.foldl f a)) = standing (g a) := by
  induction l generalizing a with
  | nil => rfl
  | cons b l ih => rw [List.foldl_cons, ih, h]

@[simp] theorem standing_foldl {β : Type} {f : State → β → State} (h : ∀ s b, standing (f s b) = standing s) (l : List β)
    (s : State) : standing (l.foldl f s) = standing s := standing_foldl_of (g := id) h l s

variable (s : State)

/-! ## Parts of the state, memory words, dispatches -/

@[simp] theorem standing_modHearth (site f) : standing (modHearth s site f) = standing s := (rfl)
@[simp] theorem standing_setHearth (site h) : standing (setHearth s site h) = standing s := (rfl)
@[simp] theorem standing_modMem (f) : standing (modMem s f) = standing s := (rfl)
@[simp] theorem standing_bumpFree : standing (bumpFree s) = standing s := (rfl)
@[simp] theorem standing_countAt (event site n) : standing (countAt s event site n) = standing s := (rfl)
@[simp] theorem standing_raiseAsh (ty source tag reason det dests alerts) :
    standing (raiseAsh s ty source tag reason det dests alerts) = standing s := (rfl)
@[simp] theorem standing_storeWord (p w) : standing (storeWord s p w) = standing s := (rfl)
@[simp] theorem standing_forgetRaces (site) : standing (forgetRaces s site) = standing s := (rfl)
@[simp] theorem standing_endDisp (id rs) : standing (endDisp s id rs) = standing s := (rfl)
@[simp] theorem standing_endUnit (id unit r) : standing (endUnit s id unit r) = standing s := (rfl)
@[simp] theorem standing_readPlace (p r tag regionAddr) :
    standing (readPlace s p r tag regionAddr).2 = standing s := standing_of_reads (reads_readPlace _ _ _ _ _)
@[simp] theorem standing_writePart (p off bs r tag regionAddr) :
    standing (writePart s p off bs r tag regionAddr).2 = standing s := standing_of_writes (writes_writePart _ _ _ _ _ _ _)
@[simp] theorem standing_readSpan (t a len req) :
    standing (readSpan s t a len req).2 = standing s := standing_of_reads (reads_readSpan _ _ _ _ _)
@[simp] theorem standing_writeSpan (t a bs req) :
    standing (writeSpan s t a bs req).2 = standing s := standing_of_writes (writes_writeSpan _ _ _ _ _)
@[simp] theorem standing_stRead (site a n r) :
    standing (stRead s site a n r).2 = standing s := standing_of_reads (reads_stRead _ _ _ _ _)
@[simp] theorem standing_stWrite (site a bs r) : standing (stWrite s site a bs r) = standing s := (rfl)

/-! ## Tiles, transfers, streams -/

@[simp] theorem standing_readShare (t site a len req) : standing (readShare s t site a len req).2 = standing s := by
  unfold readShare
  split
  · rfl
  · split <;> simp

/-- The words of a page, each read and stored in turn. -/
theorem standing_refillPage_go (site wp r l a) : standing (refillPage.go site wp r s a l).2 = standing s := by
  induction l generalizing s a with
  | nil => rfl
  | cons w l ih =>
    simp only [refillPage.go]
    split
    next h => simp [standing_snd h]
    next h => simp [ih, standing_snd h]

@[simp] theorem standing_refillPage (site p wp r) : standing (refillPage s site p wp r).2 = standing s := by
  unfold refillPage
  have page := standing_refillPage_go s site wp r wp.words (4096 * p)
  split
  next h => simpa [standing_snd h] using page
  next => exact page

@[simp] theorem standing_refillPages (site r l) : standing (refillPages s site r l).2 = standing s := by
  induction l generalizing s with
  | nil => rfl
  | cons p l ih =>
    simp only [refillPages]
    split
    · rw [standing_snd_ite, ih]
      split
      · rfl
      · split
        next h => simp [ih, standing_snd h]
        next => simp
    · exact ih s

@[simp] theorem standing_tileWeights (site tn t r) : standing (tileWeights s site tn t r).2 = standing s := by
  unfold tileWeights
  split
  · split
    next h => simp [standing_snd h]
    next h => split <;> rename_i h' <;> simp [standing_snd h', standing_snd h]
  · simp

@[simp] theorem standing_tileRows (site t a w c0 q) :
    standing (tileRows s site t a w c0 q).1 = standing s := standing_foldl_of (g := Prod.fst) (fun _ _ => by simp) _ _

@[simp] theorem standing_tileC0 (site t r n) : standing (tileC0 s site t r n).2 = standing s := by
  induction n with
  | zero => rfl
  | succ n ih =>
    simp only [tileC0]
    split
    next h => simp [standing_snd h, ih]
    next h => split <;> rename_i h' <;> simp [standing_snd h', standing_snd h, ih]

@[simp] theorem standing_tileEffect (site tn it) : standing (tileEffect s site tn it).2 = standing s := by
  unfold tileEffect
  dsimp only
  split
  next h => simp [standing_snd h]
  next h => simp [standing_snd h]
  next w t h =>
    have weights : standing t = standing s := by simp [standing_snd h]
    split
    next h => simp [standing_snd h, weights]
    next a t' h =>
      have rows : standing t' = standing s := by simp [standing_snd h, weights]
      split
      next h => simp [standing_snd h, rows]
      next c0 u h =>
        have sums : standing u = standing s := by simp [standing_snd h, rows]
        simp only [standing_countAt, standing_ite, standing_modHearth, standing_stWrite, ite_self]
        split
        · split
          · simp [sums]
          · split <;> simp [sums]
        · simp [sums]

@[simp] theorem standing_dmaSide (site tn kind a n req) : standing (dmaSide s site tn kind a n req).2 = standing s := by
  unfold dmaSide
  split
  · split <;> rename_i h <;> simp [standing_snd h]
  · simp

@[simp] theorem standing_dmaWords (site tn it r n o) : standing (dmaWords site tn it r n s o).2 = standing s := by
  induction n generalizing s o with
  | zero => rfl
  | succ n ih =>
    simp only [dmaWords]
    split
    next h =>
      split
      · simp [ih, standing_snd h]
      · split <;> rename_i h' <;> simp [ih, standing_snd h', standing_snd h]
    next h => simp [standing_snd h]

@[simp] theorem standing_dmaEffect (site tn ch it) : standing (dmaEffect s site tn ch it).2 = standing s := by simp [dmaEffect]

@[simp] theorem standing_streamEffect (site other it) : standing (streamEffect s site other it).2 = standing s := by
  unfold streamEffect
  dsimp only
  split
  next h => simp [standing_snd h]
  next h => split <;> simp [standing_snd h]

@[simp] theorem standing_foresee (site e) : standing (foresee site s e) = standing s := (rfl)
@[simp] theorem standing_unforesee (site e) : standing (unforesee site s e) = standing s := (rfl)

/-- What is carried out amid overtaken work leaves standing what it leaves alone. -/
theorem standing_amid {α : Type} {f : State → α × State} (h : ∀ s, standing (f s).2 = standing s) (site q num) :
    standing (amid s site q num f).2 = standing s := by
  unfold amid
  split <;> simp [h]

@[simp] theorem standing_runTile (site it) :
    standing (runTile s site it).2 = standing s := standing_amid _ (fun _ => standing_tileEffect _ _ _ _) _ _ _
@[simp] theorem standing_runStream (site other it) :
    standing (runStream s site other it).2 = standing s := standing_amid _ (fun _ => standing_streamEffect _ _ _ _) _ _ _
@[simp] theorem standing_runDma (site ch it) :
    standing (runDma s site ch it).2 = standing s := standing_amid _ (fun _ => standing_dmaEffect _ _ _ _ _) _ _ _

/-! ## Ember programs and Andiron launches -/

@[simp] theorem standing_flushMerge (site en run) : standing (flushMerge s site en run).2 = standing s := by
  refine standing_foldl_of (g := Prod.snd) (fun x p => ?_) _ _
  split
  · rfl
  · dsimp only
    split <;> rename_i h <;> simp [standing_snd h]

@[simp] theorem standing_settleContest (site run) : standing (settleContest s site run) = standing s := by
  unfold settleContest
  dsimp only
  split <;> simp

@[simp] theorem standing_emberDone (site ember st det) : standing (emberDone s site ember st det) = standing s := by
  unfold emberDone
  split <;> simp

@[simp] theorem standing_emberAbort (site ember st det) : standing (emberAbort s site ember st det) = standing s := by
  unfold emberAbort
  split
  · rfl
  · split <;> simp

@[simp] theorem standing_writeResult (site l i bs) : standing (writeResult s site l i bs) = standing s := by simp [writeResult]
@[simp] theorem standing_finishEnv (site lane l e) : standing (finishEnv s site lane l e) = standing s := by simp [finishEnv]
@[simp] theorem standing_stopRunning (site l) : standing (stopRunning s site l) = standing s := by simp [stopRunning]
@[simp] theorem standing_stopLaunches (site disp) : standing (stopLaunches s site disp) = standing s := by simp [stopLaunches]

/-! ## Stops and traps -/

@[simp] theorem standing_settleStreams (site) : standing (settleStreams s site) = standing s := by
  refine standing_foldl (fun s it => ?_) _ _
  split <;> simp

@[simp] theorem standing_settleStarted (site) : standing (settleStarted s site) = standing s := by simp [settleStarted]
@[simp] theorem standing_stopItemEmbers (site disp) :
    standing (stopItemEmbers s site disp) = standing s := by simp [stopItemEmbers]
@[simp] theorem standing_stopSequencer (site) : standing (stopSequencer s site) = standing s := (rfl)
@[simp] theorem standing_stopRecipe (site) : standing (stopRecipe s site) = standing s := by simp [stopRecipe]
@[simp] theorem standing_stopDispOn (id site) : standing (stopDispOn s id site) = standing s := by simp [stopDispOn]

@[simp] theorem standing_stopSiblings (id) : standing (stopSiblings s id) = standing s := by
  unfold stopSiblings
  split <;> simp

@[simp] theorem standing_endSite (site st det) : standing (endSite s site st det) = standing s := by
  unfold endSite
  split <;> simp

@[simp] theorem standing_endWorkOn (sites st det) : standing (endWorkOn s sites st det) = standing s := by simp [endWorkOn]
@[simp] theorem standing_endUnclaimed (sites st det) : standing (endUnclaimed s sites st det) = standing s := by simp [endUnclaimed]
@[simp] theorem standing_retireSites (sites) : standing (retireSites s sites) = standing s := by simp [retireSites]
@[simp] theorem standing_siteTrap (site code val) : standing (siteTrap s site code val) = standing s := by simp [siteTrap]
@[simp] theorem standing_mapQueue (site q f) : standing (mapQueue s site q f) = standing s := (rfl)
@[simp] theorem standing_itemDone (site q num) : standing (itemDone s site q num) = standing s := (rfl)
@[simp] theorem standing_tileAbsent (site num) : standing (tileAbsent s site num) = standing s := by simp [tileAbsent]
@[simp] theorem standing_loseQuad (site q) : standing (loseQuad s site q) = standing s := by simp [loseQuad]

@[simp] theorem standing_endNoLane (site) : standing (endNoLane s site) = standing s := by
  unfold endNoLane
  split
  · rfl
  · split <;> simp

@[simp] theorem standing_loseLane (site lane) : standing (loseLane s site lane) = standing s := by
  unfold loseLane
  split <;> simp

/-- The work of a unit that leaves service ends, and nothing but work changes (R194, R255, R281). -/
@[simp] theorem standing_unitLost (u) : standing (unitLost s u) = standing s := by
  cases u <;> simp [unitLost]

@[simp] theorem standing_loseFlueRequests (fb) : standing (loseFlueRequests s fb) = standing s := by simp [loseFlueRequests]

end Sys2Proof.Machine
end

section
/-! A unit leaves service (R49 step 1): its change waits for its publication, and the units stop counting it. -/

namespace Sys2Proof.Machine

/-- Whether a unit is in service is read from what stands while work ends. -/
theorem inService_of_standing {s t : State} (h : standing t = standing s) (u : FieldUnit) : inService t u = inService s u := by
  have blind (x : State) : inService x u = inService (standing x) u := by cases u <;> rfl
  rw [blind t, h, ← blind]

variable (s : State) (u : FieldUnit)

theorem fenceUnit_fpt : (fenceUnit s u).fpt =
    { s.fpt with waiting := s.fpt.waiting ++ [{ unit := u, selfTest := false, at_ := s.ao.devtime }] } := rfl

/-- A unit that was fenced off is among the fenced ones. -/
theorem fenced_fenceUnit_self : fenced (fenceUnit s u) (· == u) = true := by
  simp [fenced, fenceUnit_fpt]

theorem getLsbD_setBit_false {w : Nat} (v : BitVec w) (i : Nat) : (setBit v i false).getLsbD i = false := by
  simp [setBit]
  omega

/-- The link as it runs leaves out the group of a change that waits (R353 step 4). -/
theorem linkNow_fenceUnit_linkNarrow (l g : Nat) : (linkNow (fenceUnit s (.linkNarrow l g)) l).groupMask.getLsbD g = false := by
  unfold linkNow
  split
  · simp
  · simp [fenceUnit_fpt, LinkRec.apply, getLsbD_setBit_false]

/-- A fenced unit is out of service; a spare lane has no service of its own. -/
theorem inService_fenceUnit (h : ∀ l g n, u ≠ .linkSpare l g n) : inService (fenceUnit s u) u = false := by
  have gone := fenced_fenceUnit_self s u
  cases u with
  | hearth site => simp [inService, siteLive, gone]
  | quadrant site q => simp [inService, quadLive, gone]
  | lane site l => simp [inService, laneLive, gone]
  | ember site e => simp [inService, gone]
  | bank site b => simp [inService, bankLive, gone]
  | hbmChannel p => simp [inService, channelLive, gone]
  | linkSpare l g n => exact absurd rfl (h l g n)
  | linkNarrow l g => exact linkNow_fenceUnit_linkNarrow s l g

variable {s u}

/-- A fenced unit leaves service at once, and its work ends there. -/
theorem exec_unitFenced (hok : u.ok = true) (hlive : live s = true) (hin : inService s u = true) :
    exec (.unitFenced u) s = .next (unitLost (fenceUnit s u) u) := by
  show guarded u.ok _ _ = _
  rw [hok, hlive, hin]
  rfl

/-- Settles O9: fencing adds the change, and the end of the unit's work leaves the floor plan as the fence left it. -/
theorem fencedUnitLeavesService : Obligations.FencedUnitLeavesService := by
  intro s u hok hlive hin
  have stands := standing_unitLost (fenceUnit s u) u
  have plan := (fpt_of_standing stands).trans (fenceUnit_fpt s u)
  refine ⟨_, exec_unitFenced hok hlive hin, ?_, fun h => ?_, ?_, (ao_of_standing stands :), (sec_of_standing stands :),
    (dev_of_standing stands :)⟩
  · simp [plan]
  · rw [inService_of_standing stands, inService_fenceUnit s u h]
  · rw [plan]

end Sys2Proof.Machine
end

section
/-! What publications, notices and the draught controller never move, and the publication of one change (R49, R50, R108). -/

namespace Sys2Proof.Machine

/-- The state without the work, the die links, the notices to the host and the draught controller: what is left governs the part. -/
def governing (s : State) : State :=
  { standing s with pcie := .reset, fabric := .reset, draught := .reset }

section
variable {s t : State}

theorem governing_of_standing (h : standing t = standing s) : governing t = governing s := by unfold governing; rw [h]

theorem ao_of_governing (h : governing t = governing s) : t.ao = s.ao := (congrArg State.ao h :)
theorem dev_of_governing (h : governing t = governing s) : t.dev = s.dev := (congrArg State.dev h :)
theorem sec_of_governing (h : governing t = governing s) : t.sec = s.sec := (congrArg State.sec h :)
theorem fpt_of_governing (h : governing t = governing s) : t.fpt = s.fpt := (congrArg State.fpt h :)
theorem epoch_of_governing (h : governing t = governing s) : t.epoch = s.epoch := (congrArg State.epoch h :)

end

@[simp] theorem governing_ite (c : Prop) [Decidable c] (s t : State) :
    governing (if c then s else t) = if c then governing s else governing t := apply_ite governing c s t

variable (s : State)

@[simp] theorem governing_foldl {β : Type} {f : State → β → State} (h : ∀ s b, governing (f s b) = governing s) (l : List β) :
    governing (l.foldl f s) = governing s := by
  induction l generalizing s with
  | nil => rfl
  | cons b l ih => rw [List.foldl_cons, ih, h]

@[simp] theorem governing_modAo (f) : governing (modAo s f) = modAo (governing s) f := (rfl)
@[simp] theorem governing_modDev (f) : governing (modDev s f) = modDev (governing s) f := (rfl)
@[simp] theorem governing_modSec (f) : governing (modSec s f) = modSec (governing s) f := (rfl)
@[simp] theorem governing_modFpt (f) : governing (modFpt s f) = modFpt (governing s) f := (rfl)
@[simp] theorem governing_modEpoch (f) : governing (modEpoch s f) = modEpoch (governing s) f := (rfl)
@[simp] theorem governing_modFabric (f) : governing (modFabric s f) = governing s := (rfl)
@[simp] theorem governing_modDraught (f) : governing (modDraught s f) = governing s := (rfl)
@[simp] theorem governing_bumpFree : governing (bumpFree s) = governing s := (rfl)
@[simp] theorem governing_countU (event n) : governing (countU s event n) = governing s := (rfl)

@[simp] theorem governing_raiseAsh (ty source tag reason det dests alerts) :
    governing (raiseAsh s ty source tag reason det dests alerts) = governing s := (rfl)

@[simp] theorem governing_raiseVector (fn v) : governing (raiseVector s fn v) = governing s := by
  rw [raiseVector_only]
  rfl

@[simp] theorem governing_setDevState (st cause) :
    governing (setDevState s st cause) = setDevState (governing s) st cause := by
  unfold setDevState
  exact apply_ite governing _ _ _

@[simp] theorem governing_retireSites (sites) : governing (retireSites s sites) = governing s :=
  governing_of_standing (standing_retireSites s sites)

@[simp] theorem governing_loseFlueRequests (fb) : governing (loseFlueRequests s fb) = governing s :=
  governing_of_standing (standing_loseFlueRequests s fb)

@[simp] theorem governing_settleLink (l down) : governing (settleLink s l down) = governing s := by simp [settleLink]

theorem live_of_governing {s t : State} (h : governing t = governing s) : live t = live s := by
  unfold live
  rw [dev_of_governing h]

/-! ## The device state -/

@[simp] theorem setDevState_state (st cause) : (setDevState s st cause).dev.state = st := by
  unfold setDevState
  split
  · assumption
  · rfl

/-- An entry into another state leaves everything but the device group alone. -/
theorem setDevState_of_ne {s : State} {st : DevState} (h : s.dev.state ≠ st) (cause : Nat) :
    setDevState s st cause = { s with dev := { s.dev with state := st, cause := cause, changedAt := s.ao.devtime } } := if_neg h

theorem setDevState_only (st cause) : setDevState s st cause = { s with dev := (setDevState s st cause).dev } := by
  unfold setDevState
  split <;> rfl

/-- The state after a publication: the device group and the notices of its change (R108, R124). -/
theorem settleState_only (t : FptTable) : settleState s t =
    { s with dev := (settleState s t).dev, pcie := (settleState s t).pcie, counters := (settleState s t).counters } := by
  have entry (st : DevState) (cause : Nat) : raiseVector (setDevState s st cause) 0 2 =
      { s with dev := (raiseVector (setDevState s st cause) 0 2).dev, pcie := (raiseVector (setDevState s st cause) 0 2).pcie,
               counters := (raiseVector (setDevState s st cause) 0 2).counters } := by
    rw [raiseVector_only, setDevState_only]
  unfold settleState
  split
  · rfl
  split
  · exact entry _ _
  split
  · exact entry _ _
  · rfl

theorem settleState_of_not_live {s : State} (h : live s = false) (t : FptTable) : settleState s t = s := by
  unfold settleState
  rw [h]
  rfl

/-! ## Publication -/

@[simp] theorem raiseVector_ash (fn v : Nat) : (raiseVector s fn v).ash = s.ash := by rw [raiseVector_only]

theorem raiseVectors_ash (l : List Nat) (v : Nat) : (l.foldl (fun s n => raiseVector s n v) s).ash = s.ash := by
  induction l generalizing s with
  | nil => rfl
  | cons n l ih => rw [List.foldl_cons, ih, raiseVector_only]

/-- Bytes overwritten behind a field leave the field as it was. -/
theorem fld_splice_of_le (bs new : List Byte) (off n at_ : Nat) (h : off + n ≤ at_) (hat : at_ ≤ bs.length) :
    fld (splice bs at_ new) off n = fld bs off n := by
  have below : off + n ≤ (bs.take at_).length := by rw [List.length_take]; omega
  calc fld (splice bs at_ new) off n = fld (bs.take at_) off n := by
        rw [splice, List.append_assoc, fld_append_of_le _ _ _ _ below]
    _ = fld (bs.take at_ ++ bs.drop at_) off n := (fld_append_of_le _ _ _ _ below).symm
    _ = fld bs off n := by rw [List.take_append_drop]

@[simp] theorem length_splice (bs new : List Byte) (at_ : Nat) :
    (splice bs at_ new).length = min at_ bs.length + new.length + (bs.length - (at_ + new.length)) := by
  simp [splice, Nat.add_assoc]

/-- The first field of a DETAIL, when the others lie behind it (R391). -/
theorem fld_detail_head (v cause site : Nat) : fld (detail [(0, 8, v), (8, 1, cause), (10, 2, site)]) 0 8 = v % 2 ^ 64 := by
  simp only [detail, List.foldl_cons, List.foldl_nil]
  rw [fld_splice_of_le _ _ _ _ _ (by decide) (by simp), fld_splice_of_le _ _ _ _ _ (by decide) (by simp)]
  have head := fld_append_of_le (leBytes 8 v) ((List.replicate 32 0#8).drop 8) 0 8 (by simp)
  rw [splice, List.take_zero, List.nil_append, length_leBytes, head, fld_leBytes, show (256 : Nat) ^ 8 = 2 ^ 64 by norm_num]

/-- The table that a publication puts in force: the capability it leaves, under a new header (R49 step 2). -/
def stamped (s : State) (t t' : FptTable) (site cause : Nat) : FptTable :=
  { t' with generation := (t.generation + 1) % 2 ^ 64, publishedAt := s.ao.devtime, lastCause := cause, lastSite := site }

/-- The floor plan after a publication (R49 step 2, R53). -/
def Fpt.withTable (f : Fpt) (t : FptTable) : Fpt :=
  { f with table := some t, published := true, changed := true, persistPending := true, persistDue := true }

/-- The notices of a publication: vector 2 of each function concerned, and vector 4 for a change of a link (R49 step 3). -/
def publicationVectors (s : State) (fns : List Nat) (cause : Nat) : State :=
  let s := if live s then fns.foldl (fun s n => raiseVector s n 2) s else s
  if cause = 8 ∨ cause = 9 then raiseVector s 0 4 else s

@[simp] theorem governing_publicationVectors (fns cause) : governing (publicationVectors s fns cause) = governing s := by
  simp [publicationVectors]

theorem publicationVectors_ash (fns : List Nat) (cause : Nat) : (publicationVectors s fns cause).ash = s.ash := by
  simp only [publicationVectors, apply_ite State.ash, raiseVector_ash, raiseVectors_ash, ite_self]

/-- The steps of a publication in their order: the state `u` of the new floor plan, FPT_CHANGE, the vectors, the device state. -/
theorem publishTable_eq (t t' : FptTable) (site cause : Nat) : ∃ u tag fns,
    publishTable s t t' site cause = settleState (publicationVectors (raiseAsh u 0x20 0x400 tag 0
        (detail [(0, 8, (t.generation + 1) % 2 ^ 64), (8, 1, cause), (10, 2, site)]) fns []) fns cause) (stamped s t t' site cause) ∧
      governing u = governing (modFpt s (·.withTable (stamped s t t' site cause))) := by
  refine ⟨_, _, _, rfl, ?_⟩
  simp only [governing_settleLink, governing_retireSites]
  rfl

/-- FPT_CHANGE of a new generation, raised at a time, is on its way to the ash collector (R49 step 3). -/
def ChangeRaised (a : Ash) (gen at_ : Nat) : Prop :=
  ∃ e ∈ a.flying, e.type_ = 0x20 ∧ e.source = 0x400 ∧ e.at_ = at_ ∧ fld e.detail 0 8 = gen

theorem changeRaised_raiseAsh (tag gen cause site : Nat) (fns : List Nat) :
    ChangeRaised (raiseAsh s 0x20 0x400 tag 0 (detail [(0, 8, gen % 2 ^ 64), (8, 1, cause), (10, 2, site)]) fns []).ash
      (gen % 2 ^ 64) s.ao.devtime := by
  refine ⟨_, List.mem_append_right _ (List.mem_singleton_self _), rfl, rfl, rfl, ?_⟩
  rw [fld_detail_head, Nat.mod_mod]

/-- What a publication does: the floor plan changes and FPT_CHANGE flies; the device state settles last (R49, R108). -/
theorem publishTable_cases (t t' : FptTable) (site cause : Nat) : ∃ u,
    publishTable s t t' site cause = settleState u (stamped s t t' site cause) ∧
      governing u = governing (modFpt s (·.withTable (stamped s t t' site cause))) ∧
      ChangeRaised u.ash ((t.generation + 1) % 2 ^ 64) s.ao.devtime := by
  obtain ⟨u, tag, fns, heq, hu⟩ := publishTable_eq s t t' site cause
  refine ⟨_, heq, by simp [hu], ?_⟩
  rw [publicationVectors_ash, show s.ao = u.ao from (ao_of_governing hu).symm]
  exact changeRaised_raiseAsh _ _ _ _ _ _

section
variable {s} {t t' : FptTable} {site cause : Nat}

/-- Of what governs the part, a publication changes the floor plan and the device state. -/
theorem governing_publishTable : governing (publishTable s t t' site cause) =
    governing { modFpt s (·.withTable (stamped s t t' site cause)) with dev := (publishTable s t t' site cause).dev } := by
  obtain ⟨u, heq, hu, -⟩ := publishTable_cases s t t' site cause
  have settled : governing (settleState u (stamped s t t' site cause)) =
      { governing u with dev := (settleState u (stamped s t t' site cause)).dev } := by
    rw [settleState_only]
    rfl
  rw [heq, settled, hu]
  rfl

theorem publishTable_changeRaised :
    ChangeRaised (publishTable s t t' site cause).ash ((t.generation + 1) % 2 ^ 64) s.ao.devtime := by
  obtain ⟨u, heq, -, raised⟩ := publishTable_cases s t t' site cause
  rw [heq, settleState_only]
  exact raised

/-- Before READY a publication changes the floor plan and nothing else that governs the part: step 13 decides (R108, R113). -/
theorem governing_publishTable_of_not_live (h : live s = false) : governing (publishTable s t t' site cause) =
    governing (modFpt s (·.withTable (stamped s t t' site cause))) := by
  obtain ⟨u, heq, hu, -⟩ := publishTable_cases s t t' site cause
  have rest : live u = false := (live_of_governing hu).trans h
  rw [heq, settleState_of_not_live rest, hu]

end

/-! ## The changes that wait (R50) -/

/-- No waiting change is stale while each still alters the table. -/
theorem dropStale_of_changes {s : State} {t : FptTable} (h : ∀ c ∈ s.fpt.waiting, changes t c.unit = true) : dropStale s t = s := by
  show { s with fpt := { s.fpt with waiting := s.fpt.waiting.filter fun c => changes t c.unit } } = s
  rw [List.filter_eq_self.2 h]

/-- The one change that waits is the one published. -/
theorem publishNext_of_single {s : State} {t : FptTable} {c : FptChange} (ht : s.fpt.table = some t) (hw : s.fpt.waiting = [c])
    (hc : changes t c.unit = true) : publishNext s = publish s t c := by
  have kept : dropStale s t = s := dropStale_of_changes (by simp [hw, hc])
  unfold publishNext
  rw [ht]
  dsimp only
  rw [kept, hw]
  rfl

section
variable {s} (t : FptTable) (c : FptChange)

/-- The floor plan after the publication of one change: it waits no more, and the table without its unit is in force (R49). -/
def planAfter (s : State) (t : FptTable) (c : FptChange) : Fpt :=
  { s.fpt with waiting := s.fpt.waiting.filter (· != c) }.withTable
    (stamped s t (tableAfter s t c.unit) (unitSite c.unit) (causeCode t (tableAfter s t c.unit) c.selfTest c.unit))

/-- Of what governs the part, the publication of a change changes the floor plan and the device state. -/
theorem governing_publish :
    governing (publish s t c) = governing { s with fpt := planAfter s t c, dev := (publish s t c).dev } :=
  governing_publishTable

theorem governing_publish_of_not_live (h : live s = false) :
    governing (publish s t c) = governing { s with fpt := planAfter s t c } :=
  governing_publishTable_of_not_live h

theorem publish_changeRaised : ChangeRaised (publish s t c).ash ((t.generation + 1) % 2 ^ 64) s.ao.devtime :=
  publishTable_changeRaised

end

end Sys2Proof.Machine
end

section
/-! Publications and their persistence (R49, R50, R51, R53). -/

namespace Sys2Proof.Machine

variable {s : State} {tbl : FptTable}

/-! ## Publication -/

theorem exec_fptPublish (h : live s = true) : exec .fptPublish s = .next (publishNext s) := by
  show Host.Outcome.next (if live s then publishNext s else s) = _
  rw [if_pos h]

/-! ## Persistence (R49 step 4, R51) -/

theorem flashOf_setFlash_same (s : State) (b : Bool) (t : Option FptTable) : flashOf (setFlash s b t).fpt b = t := by
  cases b <;> rfl

theorem flashOf_setFlash_other (s : State) (b : Bool) (t : Option FptTable) :
    flashOf (setFlash s b t).fpt (!b) = flashOf s.fpt (!b) := by
  cases b <;> rfl

/-- A write of a copy fails: it is left as it was, or invalid (log entry 14). -/
def failWrite (s : State) (b : Bool) : State := bumpFree (setFlash s b (failedCopy s (flashOf s.fpt b)))

/-- After a failed write each copy that is valid is as it was. -/
theorem flashOf_of_failWrite {b c : Bool} {x : FptTable} (h : flashOf (failWrite s b).fpt c = some x) :
    flashOf s.fpt c = some x := by
  have same : flashOf (failWrite s b).fpt b = failedCopy s (flashOf s.fpt b) := flashOf_setFlash_same _ _ _
  have other : flashOf (failWrite s b).fpt (!b) = flashOf s.fpt (!b) := flashOf_setFlash_other _ _ _
  by_cases hc : c = b
  · subst hc
    rw [same, failedCopy] at h
    split at h
    · exact h
    · cases h
  · rw [Bool.eq_not.2 hc] at h ⊢
    rwa [other] at h

/-- Both copies stay as they are: PERSIST_FAIL, and FPT_PERSIST_FAIL flies (R51). -/
def persistFailed (s : State) (t : FptTable) : State :=
  raiseAsh (modFpt s fun f => { f with persistFail := true, persistDue := false }) 0x21 0x400 0xFF 0
    (detail [(0, 8, t.generation)]) [0] [0]

section
variable (htbl : s.fpt.table = some tbl) (hdue : s.fpt.persistDue = true) (hstate : live s = true ∨ s.dev.state = .failed)
include htbl hdue hstate

/-- A write that is due, by the outcomes of the writes of the two copies. -/
theorem exec_fptPersist (ok1 ok2 : Bool) : exec (.fptPersist ok1 ok2) s = .next (
    if ok1 then persisted (setFlash s (persistTarget s.fpt) (some tbl))
    else if ok2 then persisted (setFlash (failWrite s (persistTarget s.fpt)) (!persistTarget s.fpt) (some tbl))
    else persistFailed (failWrite (failWrite s (persistTarget s.fpt)) (!persistTarget s.fpt)) tbl) := by
  have writes : (!(s.fpt.persistDue && (live s || s.dev.state == .failed))) = false := by
    rcases hstate with h | h <;> simp [hdue, h]
  show execFptPersist ok1 ok2 s = _
  unfold execFptPersist
  rw [htbl]
  dsimp only
  rw [writes]
  rfl

end

/-- Settles O10: the one waiting change is published, and the table in force is written to the flash. -/
theorem publicationsRaiseGenerationAndPersist : Obligations.PublicationsRaiseGenerationAndPersist := by
  constructor
  · intro s tbl c hlive htbl hw hc
    refine ⟨publish s tbl c, by rw [exec_fptPublish hlive, publishNext_of_single htbl hw hc], ?_⟩
    dsimp only
    rw [fpt_of_governing (governing_publish tbl c), ao_of_governing (governing_publish tbl c),
      sec_of_governing (governing_publish tbl c)]
    refine ⟨⟨_, rfl, rfl, rfl, rfl, rfl⟩, rfl, rfl, rfl, rfl, ?_, rfl, rfl, publish_changeRaised tbl c, rfl, rfl⟩
    simp [planAfter, Fpt.withTable, hw]
  · intro s tbl ok1 ok2 htbl hdue hstate
    refine ⟨_, exec_fptPersist htbl hdue hstate ok1 ok2, ?_⟩
    generalize persistTarget s.fpt = b
    cases ok1 with
    | true =>
      refine ⟨rfl, fun _ => ⟨flashOf_setFlash_same _ _ _, flashOf_setFlash_other _ _ _⟩, nofun, fun _ => ⟨rfl, rfl, rfl⟩,
        nofun, ?_⟩
      cases b <;> rfl
    | false =>
      cases ok2 with
      | true =>
        refine ⟨rfl, nofun, fun _ _ => flashOf_setFlash_same _ _ _, fun _ => ⟨rfl, rfl, rfl⟩, nofun, ?_⟩
        cases b <;> rfl
      | false =>
        refine ⟨rfl, nofun, nofun, nofun, fun _ _ => ⟨rfl, ?_, fun c x h => ?_, _, rfl, rfl, rfl⟩, ?_⟩
        · cases b <;> rfl
        · exact flashOf_of_failWrite (flashOf_of_failWrite h)
        · cases b <;> rfl

end Sys2Proof.Machine
end

section
/-! Training: what the steps of TRAIN leave of the state that governs the part, and what the draught controller starts with (R113,
R116, R402, R410, R458). -/

namespace Sys2Proof.Machine

variable (s : State)

/-! ## The changes found in TRAIN (R113 step 12, R116) -/

/-- Publications before READY: the floor plan alone moves, a table stays in force, and the flash copy selected stays so. -/
def PlanMoved (s t : State) : Prop :=
  ∃ f : Fpt, governing t = governing { s with fpt := f } ∧ f.selectedB = s.fpt.selectedB ∧ f.table.isSome = true

section
variable {s t u : State}

theorem PlanMoved.refl (h : s.fpt.table.isSome = true) : PlanMoved s s := ⟨s.fpt, rfl, rfl, h⟩

theorem PlanMoved.trans (h : PlanMoved s t) (k : PlanMoved t u) : PlanMoved s u := by
  obtain ⟨f, hf, hsel, -⟩ := h
  obtain ⟨g, hg, ksel, ktab⟩ := k
  have moved : governing { t with fpt := g } = governing { s with fpt := g } := congrArg (fun x : State => { x with fpt := g }) hf
  have sel : t.fpt.selectedB = f.selectedB := by rw [fpt_of_governing hf]
  exact ⟨g, hg.trans moved, by rw [ksel, sel, hsel], ktab⟩

theorem PlanMoved.tableIsSome (h : PlanMoved s t) : t.fpt.table.isSome = true := by
  obtain ⟨f, hf, -, htab⟩ := h
  rw [fpt_of_governing hf]
  exact htab

theorem PlanMoved.live (h : PlanMoved s t) : live t = live s := by
  obtain ⟨f, hf, -, -⟩ := h
  exact (live_of_governing hf :)

theorem planMoved_publishNext (hlive : Machine.live s = false) (htab : s.fpt.table.isSome = true) : PlanMoved s (publishNext s) := by
  obtain ⟨t, ht⟩ := Option.isSome_iff_exists.1 htab
  unfold publishNext
  rw [ht]
  dsimp only
  split
  · exact ⟨_, rfl, rfl, htab⟩
  · exact ⟨_, governing_publish_of_not_live t _ hlive, rfl, rfl⟩

theorem planMoved_publishAll (n : Nat) (hlive : Machine.live s = false) (htab : s.fpt.table.isSome = true) :
    PlanMoved s (publishAll n s) := by
  induction n generalizing s with
  | zero => exact .refl htab
  | succ n ih =>
    unfold publishAll
    split
    · exact .refl htab
    · have first := planMoved_publishNext hlive htab
      exact first.trans (ih (first.live.trans hlive) first.tableIsSome)

end

/-- With no change found nothing is published. -/
theorem publishAll_of_none {s : State} (h : s.fpt.waiting = []) (n : Nat) : publishAll n s = s := by
  cases n <;> simp [publishAll, h]

/-! ## The draught controller's start (R402, R410, R415) -/

@[simp] theorem governing_setCycle (fb c) : governing (setCycle s fb c) = governing s := (rfl)
@[simp] theorem governing_countHalf (a) : governing (countHalf s a) = governing s := by simp [countHalf]

@[simp] theorem governing_startCycle (fb) : governing (startCycle s fb) = governing s := by
  unfold startCycle
  split <;> simp

@[simp] theorem governing_draughtRecord (event began site temp) :
    governing (draughtRecord s event began site temp) = governing s := by simp [draughtRecord]

@[simp] theorem governing_setLimit (l) : governing (setLimit s l) = governing s := by simp [setLimit]
@[simp] theorem governing_capLoop : governing (capLoop s) = governing s := by simp [capLoop]
@[simp] theorem governing_startDraught (power) : governing (startDraught s power) = governing s := by simp [startDraught]

@[simp] theorem draughtRecord_draught (event : Nat) (began : Bool) (site temp : Nat) :
    (draughtRecord s event began site temp).draught = s.draught := by
  rw [draughtRecord, raiseVector_only]
  rfl

/-- Setting L_th moves the limit, the cap in force and its flag (R402, R421). -/
theorem setLimit_draught (l : Nat) : (setLimit s l).draught =
    { s.draught with lTh := l, cap := min (configuredCap s) l, thermalLimit := decide (l < configuredCap s) } := by
  unfold setLimit
  dsimp only
  split
  · rfl
  · exact draughtRecord_draught _ _ _ _ _

/-- The cap loop sets L_th within the clamp of R402. -/
theorem capLoop_draught : (capLoop s).draught = { s.draught with
    lTh := limitNow s, cap := min (configuredCap s) (limitNow s), thermalLimit := decide (limitNow s < configuredCap s) } := by
  unfold capLoop
  split <;> exact setLimit_draught _ _

theorem configuredCap_capLoop : configuredCap (capLoop s) = configuredCap s := by
  unfold configuredCap
  rw [capLoop_draught, ao_of_governing (governing_capLoop s)]

/-- L_th is at most the configured cap, and at least 900 W where the cap allows it (R402). -/
theorem limitNow_le : limitNow s ≤ configuredCap s := Nat.min_le_left _ _

theorem le_limitNow (h : 900 ≤ configuredCap s) : 900 ≤ limitNow s := Nat.le_min.2 ⟨h, Nat.le_max_left _ _⟩

/-- The values of R402 and R410 as the part leaves TRAIN, and L_th within its clamp (log entry 12). -/
def DraughtStarted (power : Nat) (t : State) : Prop :=
  t.draught.rEst = 0x3D23D70A#32 ∧ t.draught.ak = power ∧ t.draught.lTh ≤ configuredCap t ∧
    (900 ≤ configuredCap t → 900 ≤ t.draught.lTh)

theorem draughtStarted_startDraught (power : Nat) : DraughtStarted power (startDraught s power) := by
  unfold startDraught DraughtStarted
  rw [configuredCap_capLoop, capLoop_draught]
  exact ⟨rfl, rfl, limitNow_le _, le_limitNow _⟩

/-! ## Step 13 (R113) -/

/-- The state that step 13 enters, with its CAUSE: FAILED with LINKS when both flue links are DOWN (R108, R113). -/
def finalOutcome (t : FptTable) : DevState × Nat :=
  if t.flue0.down && t.flue1.down then (.failed, 3) else (if degradedBy t then .degraded else .ready, 0)

theorem finalOutcome_cases (t : FptTable) :
    finalOutcome t = (.ready, 0) ∨ finalOutcome t = (.degraded, 0) ∨ finalOutcome t = (.failed, 3) := by
  unfold finalOutcome
  split
  · exact .inr (.inr rfl)
  split
  · exact .inr (.inl rfl)
  · exact .inl rfl

/-- Step 13 enters a state that is not TRAIN. -/
theorem finalOutcome_ne_train (t : FptTable) : DevState.train ≠ (finalOutcome t).1 := by
  rcases finalOutcome_cases t with h | h | h <;> rw [h] <;> decide

/-- Of what governs the part, step 13 changes the device state. -/
theorem governing_finalState {s : State} {t : FptTable} (htab : s.fpt.table = some t) (hstate : s.dev.state = .train)
    (power : Nat) : governing (finalState s power) = governing { s with dev :=
      { s.dev with step := 13, state := (finalOutcome t).1, cause := (finalOutcome t).2, changedAt := s.ao.devtime } } := by
  have entry : finalState s power = (let u := raiseVector (setDevState (modDev s fun d => { d with step := 13 })
      (finalOutcome t).1 (finalOutcome t).2) 0 2
      if t.flue0.down && t.flue1.down then u else startDraught u power) := by
    unfold finalState finalOutcome
    rw [htab]
    dsimp only
    split <;> rfl
  have moves : (modDev s fun d => { d with step := 13 }).dev.state ≠ (finalOutcome t).1 := by
    rw [modDev_dev, hstate]
    exact finalOutcome_ne_train t
  rw [entry, governing_ite, governing_startDraught, ite_self, governing_raiseVector, setDevState_of_ne moves]
  rfl

theorem draughtStarted_finalState {s : State} {t : FptTable} (h : s.fpt.table = some t) (power : Nat)
    (hup : (finalOutcome t).1 ≠ .failed) : DraughtStarted power (finalState s power) := by
  unfold finalState
  unfold finalOutcome at hup
  rw [h]
  dsimp only
  split at hup
  · exact absurd rfl hup
  next links =>
    rw [if_neg links]
    exact draughtStarted_startDraught _ _

end Sys2Proof.Machine
end

section
/-! The Stoker's start (R29, R108, R110, R111, R113, R116, R125, R440, R442). -/

namespace Sys2Proof.Machine

variable (s : State)

/-! ## The steps of TRAIN up to step 13 -/

@[simp] theorem governing_loadJournal : governing (loadJournal s) = governing s := by
  unfold loadJournal
  split <;> rfl

@[simp] theorem governing_trainLinks (t lanes) : governing (trainLinks s t lanes) = governing s := (rfl)

theorem governing_securityTests (found) : governing (securityTests s found) = securityTests (governing s) found := rfl
theorem governing_foundChanges (l) : governing (foundChanges s l) = foundChanges (governing s) l := rfl

/-- What governs the part when steps 5 to 11 have found their changes (R113, R116, R125). -/
def surveyed (b : Bool) (t : FptTable) (found : TrainFindings) : State :=
  { s with dev := { (setDevState s .train 0).dev with step := 4 },
           ao := { s.ao with fullNext := false, deadSensors := found.deadSensors },
           sec := (securityTests s found).sec,
           fpt := { s.fpt with
             table := some { t with publishedAt := 0 }, selectedB := b, published := false, trainDue := none,
             waiting := found.failing.map fun u => { unit := u, selfTest := true, at_ := s.ao.devtime } } }

theorem live_surveyed (b : Bool) (t : FptTable) (found : TrainFindings) : live (surveyed s b t found) = false := by
  simp [live, surveyed]

/-- After the publications: the first tables with generation 1, the table published, and what was reused noted (R119, R458). -/
def routed (s : State) (used : Option Bool) (due : Option TrainRec) (fast : Bool) : State :=
  let s := modFpt (firstRoutes s) fun f => { f with published := true, trainUsed := used, trainDue := due }
  modDev (if fast then s else bumpFree s) fun d => { d with fast := fast }

theorem governing_firstRoutes :
    governing (firstRoutes s) = modEpoch (governing s) fun e => { e with generation := 1 } := by
  simp only [firstRoutes, governing_countU, governing_modEpoch, governing_modFabric]

theorem governing_routed (used due fast) : governing (routed s used due fast) =
    governing { s with fpt := { s.fpt with published := true, trainUsed := used, trainDue := due },
                       epoch := { s.epoch with generation := 1 }, dev := { s.dev with fast := fast } } := by
  simp only [routed, governing_modDev, governing_ite, governing_bumpFree, ite_self, governing_modFpt, governing_firstRoutes]
  rfl

/-- TRAIN publishes the changes found, installs the first tables, and enters its final state (R113). -/
theorem train_cases (b : Bool) (t : FptTable) (i : Image) (found : TrainFindings) : ∃ x used due fast,
    train s b t i found = finalState (routed (publishAll (found.failing.length + 1) x) used due fast) found.power ∧
      governing x = governing (surveyed s b t found) := by
  refine ⟨_, _, _, _, rfl, ?_⟩
  simp only [governing_foundChanges, governing_securityTests, governing_trainLinks, governing_modAo, governing_loadJournal,
    governing_modFpt, governing_modDev]
  rw [setDevState_only]
  rfl

/-- What the part is like when step 13 begins: in TRAIN with a published table and the first tables installed (R113, R458). -/
structure Trained (s : State) (b : Bool) (t : FptTable) (found : TrainFindings) (y : State) : Prop where
  state : y.dev.state = .train
  ao : y.ao = { s.ao with fullNext := false, deadSensors := found.deadSensors }
  sec : y.sec = (securityTests s found).sec
  published : y.fpt.published = true
  selectedB : y.fpt.selectedB = b
  generation : y.epoch.generation = 1
  hasTable : y.fpt.table.isSome = true
  untouched : found.failing = [] → y.fpt.table = some { t with publishedAt := 0 }

/-- TRAIN ends with step 13 of a trained part. -/
theorem train_eq_finalState (b : Bool) (t : FptTable) (i : Image) (found : TrainFindings) :
    ∃ y, train s b t i found = finalState y found.power ∧ Trained s b t found y := by
  obtain ⟨x, used, due, fast, heq, hx⟩ := train_cases s b t i found
  have table : x.fpt.table = some { t with publishedAt := 0 } := by rw [fpt_of_governing hx]; rfl
  have unready : live x = false := (live_of_governing hx).trans (live_surveyed s b t found)
  obtain ⟨f, hf, sel, inForce⟩ := planMoved_publishAll (found.failing.length + 1) unready (by rw [table]; rfl)
  have plan := fpt_of_governing hf
  have hy := governing_routed (publishAll (found.failing.length + 1) x) used due fast
  refine ⟨_, heq, ?_, ?_, ?_, ?_, ?_, ?_, ?_, fun noChange => ?_⟩
  · rw [dev_of_governing hy, dev_of_governing hf, dev_of_governing hx]
    exact setDevState_state _ _ _
  · rw [ao_of_governing hy]
    exact (ao_of_governing hf).trans (ao_of_governing hx)
  · rw [sec_of_governing hy]
    exact (sec_of_governing hf).trans (sec_of_governing hx :)
  · rw [fpt_of_governing hy]
  · rw [fpt_of_governing hy, plan]
    exact sel.trans (by rw [fpt_of_governing hx]; rfl)
  · rw [epoch_of_governing hy]
  · rw [fpt_of_governing hy, plan]
    exact inForce
  · have still : x.fpt.waiting = [] := by rw [fpt_of_governing hx, surveyed, noChange]; rfl
    rw [fpt_of_governing hy, publishAll_of_none still]
    exact table

/-! ## Boot step 4 -/

theorem failBoot_of_boot {s : State} (h : s.dev.state = .boot) :
    (failBoot s).dev = { s.dev with state := .failed, cause := 4, changedAt := s.ao.devtime } ∧
      failBoot s = { s with dev := (failBoot s).dev, pcie := (failBoot s).pcie, counters := (failBoot s).counters } := by
  have moves : s.dev.state ≠ .failed := by rw [h]; decide
  unfold failBoot
  rw [setDevState_of_ne moves, raiseVector_only]
  exact ⟨rfl, rfl⟩

section
variable {s} {i : Image} {found : TrainFindings} (hwf : Instr.wellFormed (.stokerStart found) = true)
include hwf

/-- A start that comes after the bound of step 4 fails as the missed bound does (R8, R108). -/
theorem exec_stokerStart_late (himage : s.dev.image.isSome = true) (hstate : s.dev.state = .boot)
    (hlate : s.dev.bootAt + bootBound s < s.ao.devtime) : exec (.stokerStart found) s = .next (failBoot s) := by
  obtain ⟨i, hi⟩ := Option.isSome_iff_exists.1 himage
  show execStokerStart found s = _
  unfold execStokerStart
  rw [hwf, hi]
  dsimp only
  rw [if_pos ⟨hstate, hlate⟩]
  rfl

section
variable (himage : s.dev.image = some i) (hstate : s.dev.state = .boot) (htime : s.ao.devtime ≤ s.dev.bootAt + bootBound s)
include himage hstate htime

theorem exec_stokerStart_of_selected {b : Bool} {t : FptTable} (hsel : selectFlash s.fpt = some (b, t)) :
    exec (.stokerStart found) s = .next (train (revokeSlots s i) b t i found) := by
  show execStokerStart found s = _
  unfold execStokerStart
  rw [hwf, himage]
  dsimp only
  rw [if_neg fun h => absurd h.2 (Nat.not_lt.2 htime), if_pos hstate, show (revokeSlots s i).fpt = s.fpt from rfl, hsel]
  rfl

theorem exec_stokerStart_of_none (hsel : selectFlash s.fpt = none) :
    exec (.stokerStart found) s = .next (raiseVector (setDevState (revokeSlots s i) .failed 2) 0 2) := by
  show execStokerStart found s = _
  unfold execStokerStart
  rw [hwf, himage]
  dsimp only
  rw [if_neg fun h => absurd h.2 (Nat.not_lt.2 htime), if_pos hstate, show (revokeSlots s i).fpt = s.fpt from rfl, hsel]
  rfl

end

end

theorem exec_bootTimeout {s : State} (hstate : s.dev.state = .boot) (himage : s.dev.image.isSome = true)
    (hdue : s.dev.bootAt + bootBound s ≤ s.ao.devtime) : exec .bootTimeout s = .next (failBoot s) :=
  congrArg Host.Outcome.next (if_pos ⟨hstate, himage, decide_eq_true hdue⟩)

/-- Of two valid copies the newer is selected, of equals copy A (R29). -/
theorem selectFlash_of_both {f : Fpt} {a b : FptTable} (ha : f.flashA = some a) (hb : f.flashB = some b) :
    selectFlash f = if a.generation < b.generation then some (true, b) else some (false, a) := by
  unfold selectFlash
  rw [ha, hb]

theorem selectFlash_of_neither {f : Fpt} (ha : f.flashA = none) (hb : f.flashB = none) : selectFlash f = none := by
  unfold selectFlash
  rw [ha, hb]

/-- Settles O7: a start in time trains to step 13 from the copy selected; without a valid copy, or too late, the part fails. -/
theorem startSelectsAndTrains : Obligations.StartSelectsAndTrains := by
  refine ⟨⟨?selected, ?noTable, ?timeout, ?late⟩, fun f a b => selectFlash_of_both⟩
  case selected =>
    intro s i b tbl found hwf himage hstate htime hsel
    obtain ⟨y, heq, trained⟩ := train_eq_finalState (revokeSlots s i) b tbl i found
    obtain ⟨n, htab⟩ := Option.isSome_iff_exists.1 trained.hasTable
    have last := governing_finalState htab trained.state found.power
    refine ⟨_, (exec_stokerStart_of_selected hwf himage hstate htime hsel).trans (congrArg _ heq), ?_⟩
    dsimp only
    rw [dev_of_governing last, fpt_of_governing last, epoch_of_governing last, sec_of_governing last, ao_of_governing last]
    dsimp only
    rw [trained.ao, trained.sec]
    refine ⟨?_, rfl, trained.published, trained.selectedB, trained.generation, trained.untouched, rfl, rfl, rfl, rfl, rfl, rfl, rfl,
      draughtStarted_finalState htab found.power⟩
    rcases finalOutcome_cases n with h | h | h <;> simp [h]
  case noTable =>
    intro s i found hwf himage hstate htime ha hb
    have moves : (revokeSlots s i).dev.state ≠ .failed := by
      show s.dev.state ≠ _
      rw [hstate]
      decide
    refine ⟨_, exec_stokerStart_of_none hwf himage hstate htime (selectFlash_of_neither ha hb), ?_⟩
    dsimp only
    rw [setDevState_of_ne moves, raiseVector_only]
    exact ⟨rfl, rfl, rfl⟩
  case timeout =>
    intro s hstate himage hdue
    exact ⟨_, exec_bootTimeout hstate himage hdue, failBoot_of_boot hstate⟩
  case late =>
    intro s found hwf himage hstate hlate
    exact ⟨_, exec_stokerStart_late hwf himage hstate hlate, failBoot_of_boot hstate⟩

end Sys2Proof.Machine
end

section
/-! Power-up and the entry into BOOT: SMB_ALERT_N, the look at the trip conditions, and what the boot ROM does (R61-R66, R77, R109, R110,
R112, R418, R439). -/

namespace Sys2Proof.Machine

variable {s t : State}

theorem modAo_modAo (s : State) (f g : Ao → Ao) : modAo (modAo s f) g = modAo s fun a => g (f a) := rfl

/-! ## SMB_ALERT_N (R77) -/

theorem alertOn_only (s t : State) : alertOn s t = modAo t fun a => { a with smbAlert := (alertOn s t).ao.smbAlert } := by
  unfold alertOn
  split <;> rfl

/-- STATUS bits [6:3] are the trip, COOL_OK, PWR_GOOD and the rejected write (R78). -/
theorem statusByte_alertBits (s : State) : statusByte s / 8 % 16 =
    b2n s.ao.tripLatched + 2 * b2n s.ao.coolOk + 4 * b2n s.ao.pwrGood + 8 * b2n s.ao.writeRejected := by
  have code : s.dev.state.code < 8 := by cases s.dev.state <;> decide
  have bit (b : Bool) : b2n b ≤ 1 := by cases b <;> decide
  have := bit s.ao.tripLatched
  have := bit s.ao.coolOk
  have := bit s.ao.pwrGood
  have := bit s.ao.writeRejected
  simp only [statusByte, pack, List.foldl_cons, List.foldl_nil]
  omega

/-- A change of the four bits drives SMB_ALERT_N low. -/
theorem alertOn_of_ne (h : statusByte s / 8 % 16 ≠ statusByte t / 8 % 16) :
    alertOn s t = modAo t fun a => { a with smbAlert := true } := if_neg h

/-! ## The trip conditions (R64, R418) -/

/-- The trip comparator looks at the sensors, their last two samples and the count of low flow alone. -/
theorem tripCauses_congr (sensors : t.ao.sensors = s.ao.sensors) (before : t.ao.sensorsBefore = s.ao.sensorsBefore)
    (dead : t.ao.deadSensors = s.ao.deadSensors) (low : t.ao.lowFlowReads = s.ao.lowFlowReads) :
    tripCauses t = tripCauses s := by
  unfold tripCauses twiceHot sensorOk reading readingBefore
  rw [sensors, before, dead, low]

/-- The time since which PKG_RESET_N has been low with no trip condition, as a look at the conditions leaves it. -/
def quietSince (s : State) : Option Nat :=
  if !s.ao.pkgResetN && tripCauses s == 0 then some (s.ao.tripQuietAt.getD s.ao.devtime) else none

theorem trackTrip_eq (s : State) : trackTrip s = modAo s fun a => { a with tripQuietAt := quietSince s } := rfl

/-- The latched trip goes once its conditions have been gone for 1 ms of the low level. -/
theorem settleTrip_eq (s : State) : settleTrip s =
    match quietSince s with
    | some at_ => if due s at_ 1000000 then clearTrip (trackTrip s) else trackTrip s
    | none => trackTrip s := rfl

theorem clearTrip_of_unlatched (h : s.ao.tripLatched = false) : clearTrip s = s := by
  unfold clearTrip
  rw [h]
  rfl

theorem clearTrip_ao_only (s : State) : clearTrip s = { s with ao := { s.ao with
    tripLatched := false, tripCause := (clearTrip s).ao.tripCause, smbAlert := (clearTrip s).ao.smbAlert } } := by
  cases h : s.ao.tripLatched with
  | false => rw [clearTrip_of_unlatched h, ← h]
  | true =>
    unfold clearTrip
    rw [if_pos h, alertOn_only]
    rfl

theorem settleTrip_of_unlatched (h : s.ao.tripLatched = false) : settleTrip s = trackTrip s := by
  have same : clearTrip (trackTrip s) = trackTrip s := clearTrip_of_unlatched h
  rw [settleTrip_eq]
  split
  · rw [same, ite_self]
  · rfl

theorem settleTrip_of_high (h : s.ao.pkgResetN = true) : settleTrip s = modAo s fun a => { a with tripQuietAt := none } := by
  have never : quietSince s = none := by simp [quietSince, h]
  rw [settleTrip_eq, trackTrip_eq, never]

theorem settleTrip_only (s : State) : settleTrip s = { s with ao := { s.ao with
    tripQuietAt := (settleTrip s).ao.tripQuietAt, tripLatched := (settleTrip s).ao.tripLatched,
    tripCause := (settleTrip s).ao.tripCause, smbAlert := (settleTrip s).ao.smbAlert } } := by
  rw [settleTrip_eq]
  split
  · split
    · rw [clearTrip_ao_only]
      rfl
    · rfl
  · rfl

theorem tripSettled_settleTrip (s : State) : TripSettled s.ao (settleTrip s).ao := by
  refine ⟨?_, fun h => ?_, fun h => ?_⟩
  · exact congrArg State.ao (settleTrip_only s)
  · rw [settleTrip_of_high h]
    rfl
  · rw [settleTrip_of_unlatched h]
    rfl

/-! ## The entry into BOOT (R110, R112, R439) -/

/-- Whether an image verifies depends on the firmware flash and the revocation bits alone. -/
theorem verifyImage_congr (flash : t.dev.fwFlash = s.dev.fwFlash) (erased : t.dev.fwErased = s.dev.fwErased)
    (revoked : t.sec.revoked = s.sec.revoked) (b : Bool) : verifyImage t b = verifyImage s b := by
  have bytes : fwBytes t.dev = fwBytes s.dev := by
    funext a n
    unfold fwBytes fwByte
    rw [flash, erased]
  unfold verifyImage
  rw [bytes, revoked]

/-- The image the boot ROM takes: none when the known-answer tests fail (R439), the preferred slot's first. -/
def bootImage (s : State) (katOk : Bool) : Option Image :=
  if katOk then (verifyImage s s.dev.preferB).or (verifyImage s (!s.dev.preferB)) else none

theorem enterBoot_of_not_ready (h : bootReady s = false) (katOk : Bool) : enterBoot s katOk = s := by
  unfold enterBoot
  rw [h]
  rfl

/-- The part entered BOOT from a state that differs from `s` in the AO domain alone, at the same devtime: an image runs, or the part
is FAILED with CAUSE NO_FIRMWARE. -/
def Boots (s t : State) (katOk : Bool) : Prop :=
  t.dev.bootAt = s.ao.devtime ∧ t.pcie.linkUp = !s.pcie.perst ∧ t.dev.image = bootImage s katOk ∧
    (t.dev.image.isSome = true → t.dev.state = .boot ∧ t.dev.step = 3 ∧
      t.dev.slotB = (if (verifyImage s s.dev.preferB).isSome then s.dev.preferB else !s.dev.preferB)) ∧
    (t.dev.image = none → t.dev.state = .failed ∧ t.dev.cause = 1) ∧
    t.dev.changedAt = s.ao.devtime ∧ t.ash = { s.ash with leakBase := s.ao.devtime } ∧
    t = { s with ao := t.ao, dev := t.dev, pcie := t.pcie, ash := t.ash, counters := t.counters }

/-- The state in which the boot ROM verifies the images (R110 steps 1 and 2). -/
def romRuns (s : State) : State :=
  { s with ao := { s.ao with seeking := false, retrying := false }, pcie := { s.pcie with linkUp := !s.pcie.perst },
           dev := { s.dev with state := .boot, cause := 0, changedAt := s.ao.devtime, bootAt := s.ao.devtime, step := 2, image := none },
           ash := { s.ash with leakBase := s.ao.devtime } }

/-- An image runs (R110 step 3). -/
def runImage (s : State) (i : Image) (slotB : Bool) : State := modDev s fun d => { d with image := some i, slotB := slotB, step := 3 }

theorem enterBoot_of_ready (h : bootReady s = true) (katOk : Bool) : enterBoot s katOk =
    match (if katOk then verifyImage s s.dev.preferB else none) with
    | some i => runImage (romRuns s) i s.dev.preferB
    | none =>
      match (if katOk then verifyImage s (!s.dev.preferB) else none) with
      | some i => runImage (romRuns s) i (!s.dev.preferB)
      | none => raiseVector (setDevState (romRuns s) .failed 1) 0 2 := by
  have off : s.dev.state = .off := by
    simp only [bootReady, Bool.and_eq_true, beq_iff_eq] at h
    exact h.1.1.1.1.2
  have entry : setDevState s .boot 0 = { s with dev := { s.dev with state := .boot, cause := 0, changedAt := s.ao.devtime } } :=
    setDevState_of_ne (by rw [off]; decide) 0
  unfold enterBoot
  rw [h, entry]
  dsimp only
  have same (b : Bool) := verifyImage_congr (s := s) (t := romRuns s) rfl rfl rfl b
  rw [← same, ← same]
  rfl

theorem boots_runImage {i : Image} {b : Bool} {katOk : Bool} (himage : bootImage s katOk = some i)
    (hslot : b = if (verifyImage s s.dev.preferB).isSome then s.dev.preferB else !s.dev.preferB) :
    Boots s (runImage (romRuns s) i b) katOk :=
  ⟨rfl, rfl, himage.symm, fun _ => ⟨rfl, rfl, hslot⟩, nofun, rfl, rfl, rfl⟩

theorem boots_failed {katOk : Bool} (himage : bootImage s katOk = none) :
    Boots s (raiseVector (setDevState (romRuns s) .failed 1) 0 2) katOk := by
  have fails : setDevState (romRuns s) .failed 1 = { romRuns s with dev :=
      { (romRuns s).dev with state := .failed, cause := 1, changedAt := s.ao.devtime } } := 
    setDevState_of_ne (show DevState.boot ≠ .failed by decide) 1
  have up (u : State) : (raiseVector u 0 2).pcie.linkUp = u.pcie.linkUp := by
    unfold raiseVector
    split
    · rfl
    · split <;> rfl
  unfold Boots
  rw [fails, up, raiseVector_only, himage]
  exact ⟨rfl, rfl, rfl, nofun, fun _ => ⟨rfl, rfl⟩, rfl, rfl, rfl⟩

theorem boots_enterBoot_self (h : bootReady s = true) (katOk : Bool) : Boots s (enterBoot s katOk) katOk := by
  rw [enterBoot_of_ready h]
  cases katOk with
  | false => exact boots_failed rfl
  | true =>
    cases first : verifyImage s s.dev.preferB with
    | some i => exact boots_runImage (by simp [bootImage, first]) (by simp [first])
    | none =>
      cases second : verifyImage s (!s.dev.preferB) with
      | some i => exact boots_runImage (by simp [bootImage, first, second]) (by simp [first])
      | none => exact boots_failed (by simp [bootImage, first, second])

/-- The entry into BOOT after changes of the AO domain that leave its conditions met and the time as it is. -/
theorem boots_enterBoot {f : Ao → Ao} (hnow : (f s.ao).devtime = s.ao.devtime) (hready : bootReady (modAo s f) = true)
    (katOk : Bool) : Boots s (enterBoot (modAo s f) katOk) katOk := by
  have h := boots_enterBoot_self hready katOk
  have verify (b : Bool) : verifyImage (modAo s f) b = verifyImage s b := verifyImage_congr rfl rfl rfl b
  have image : bootImage (modAo s f) katOk = bootImage s katOk := by
    unfold bootImage
    rw [verify, verify]
    rfl
  unfold Boots at *
  simp only [modAo_ao, modAo_dev, modAo_pcie, modAo_ash, hnow, verify, image] at h
  exact h

end Sys2Proof.Machine
end

section
/-! Power-up and the entry into BOOT, row by row (R61, R62, R65, R66, R109, R110, R112, R439). -/

namespace Sys2Proof.Machine

variable {s : State}

/-! ## The rows up to PWR_EN -/

theorem exec_vauxUp {strap : Nat} (hstrap : strap < 8) (hvaux : s.ao.vauxOk = false) : exec (.vauxUp strap) s =
    .next { s with ao := { Ao.reset with vauxOk := true, addrStrap := BitVec.ofNat 3 strap, pwrGood := s.ao.pwrGood,
                                         pkgResetN := s.ao.pkgResetN, coolOk := s.ao.coolOk, seeking := true } } := by
  have hwf : Instr.wellFormed (.vauxUp strap) = true := decide_eq_true hstrap
  show execVauxUp strap s = _
  unfold execVauxUp
  rw [hwf, hvaux]
  rfl

/-- Step 2 of R61 while it is sought: PWR_EN rises, or the wait becomes a retry at t0 + 50 ms. -/
theorem exec_drivePwrEn (hvaux : s.ao.vauxOk = true) (hseek : s.ao.seeking = true) (htrip : s.ao.tripLatched = false) :
    exec .drivePwrEn s = .next (
      if 3 ≤ s.ao.goodTrayReads ∧ s.ao.coolOk = true then
        modAo s fun a => { a with pwrEn := true, pwrEnRoseAt := a.devtime, seeking := false }
      else if due s s.ao.seekAt 50000000 then modAo s fun a => { a with retrying := true } else s) := by
  refine congrArg Host.Outcome.next (if_neg ?_)
  simp [hvaux, hseek, htrip]

theorem drivePwrEn_idles (htrip : s.ao.tripLatched = true) : Idles .drivePwrEn s := by
  show execDrivePwrEn s = _
  unfold execDrivePwrEn
  rw [htrip, Bool.not_true, Bool.and_false]
  rfl

/-- The main rails go off, and step 2 is retried (R62). -/
theorem abandonPowerUp_eq (hen : s.ao.pwrEn = true) : abandonPowerUp s =
    { s with ao := { s.ao with pwrEn := false, pwrEnFellAt := some s.ao.devtime, retrying := true } } := by
  unfold abandonPowerUp dropPwrEn
  rw [if_pos hen]
  rfl

theorem exec_pwrGoodTimeout (hvaux : s.ao.vauxOk = true) (hen : s.ao.pwrEn = true) (hgood : s.ao.pwrGood = false)
    (hdue : s.ao.pwrEnRoseAt + 65000000 ≤ s.ao.devtime) : exec .pwrGoodTimeout s = .next (abandonPowerUp s) := by
  have bound : due s s.ao.pwrEnRoseAt 65000000 = true := decide_eq_true hdue
  show execPwrGoodTimeout s = _
  unfold execPwrGoodTimeout
  rw [hvaux, hen, hgood, bound]
  rfl

theorem exec_powerUpRerun (hvaux : s.ao.vauxOk = true) (hoff : s.dev.state = .off) (hen : s.ao.pwrEn = false)
    (hhigh : s.ao.pkgResetN = true) (htrip : s.ao.tripLatched = false) (hseek : s.ao.seeking = false)
    (hwait : ∀ at_, s.ao.pwrEnFellAt = some at_ → at_ + 1000000000 ≤ s.ao.devtime) : exec .powerUpRerun s =
    .next (modAo s fun a => { a with seeking := true, seekAt := a.devtime, retrying := true, goodTrayReads := 0 }) := by
  refine congrArg Host.Outcome.next (if_pos ?_)
  cases fell : s.ao.pwrEnFellAt with
  | none => simp [hvaux, hoff, hen, hhigh, htrip, hseek]
  | some at_ => simp [hvaux, hoff, hen, hhigh, htrip, hseek, due, now, hwait at_ fell]

/-! ## PWR_GOOD and PKG_RESET_N -/

/-- A rise of PWR_GOOD within the bound of R62 lets the part enter BOOT (R61 steps 4 and 5). -/
theorem exec_pwrGoodRise_in_time (htime : s.ao.devtime ≤ s.ao.pwrEnRoseAt + 65000000) (katOk : Bool) :
    exec (.pwrGoodRise katOk) s = .next (enterBoot (alertOn s (modAo s fun a => { a with pwrGood := true })) katOk) := by
  have early : pwrGoodLate s = false := by
    simp only [pwrGoodLate, now, Nat.not_lt.2 htime, decide_false, Bool.and_false]
  show execPwrGoodRise katOk s = _
  unfold execPwrGoodRise
  rw [early]
  rfl

/-- A later rise finds PWR_EN low: the missed bound comes first (R8, R62). -/
theorem exec_pwrGoodRise_late (hvaux : s.ao.vauxOk = true) (hen : s.ao.pwrEn = true) (hgood : s.ao.pwrGood = false)
    (hlate : s.ao.pwrEnRoseAt + 65000000 < s.ao.devtime) (katOk : Bool) : exec (.pwrGoodRise katOk) s =
    .next { s with ao := { s.ao with pwrGood := true, pwrEn := false, pwrEnFellAt := some s.ao.devtime, retrying := true,
                                     smbAlert := true } } := by
  have late : pwrGoodLate s = true := by simp [pwrGoodLate, now, hvaux, hen, hgood, hlate]
  have alerts (u : State) (h : u.ao.pwrGood = false) : alertOn u (modAo u fun a => { a with pwrGood := true }) =
      modAo u fun a => { a with pwrGood := true, smbAlert := true } := by
    refine alertOn_of_ne ?_
    rw [statusByte_alertBits, statusByte_alertBits, modAo_ao, h]
    simp [b2n]
  show execPwrGoodRise katOk s = _
  unfold execPwrGoodRise
  rw [late]
  dsimp only
  rw [if_pos rfl, alerts _ (by rw [abandonPowerUp_eq hen]; exact hgood), abandonPowerUp_eq hen, enterBoot_of_not_ready]
  · rfl
  · simp [bootReady]

/-- PKG_RESET_N rises (R64-R66). -/
theorem exec_pkgResetRelease (hlow : s.ao.pkgResetN = false) (katOk : Bool) : exec (.pkgResetRelease katOk) s =
    .next (enterBoot (modAo (settleTrip s) fun a => { a with pkgResetN := true, tripQuietAt := none }) katOk) := by
  show execPkgResetRelease katOk s = _
  unfold execPkgResetRelease
  rw [hlow]
  rfl

/-- The entry into BOOT moves no pin. -/
theorem enterBoot_pins (u : State) (katOk : Bool) : (enterBoot u katOk).ao =
    { u.ao with seeking := (enterBoot u katOk).ao.seeking, retrying := (enterBoot u katOk).ao.retrying } := by
  cases ready : bootReady u with
  | false => rw [enterBoot_of_not_ready ready]
  | true =>
    rw [enterBoot_of_ready ready]
    split
    · rfl
    · split
      · rfl
      · rw [raiseVector_only, setDevState_only]
        rfl

/-- What the entry into BOOT, or the wait for its conditions, leaves of the part. -/
theorem enterBoot_only (u : State) (katOk : Bool) : enterBoot u katOk =
    { u with ao := (enterBoot u katOk).ao, dev := (enterBoot u katOk).dev, pcie := (enterBoot u katOk).pcie,
             ash := (enterBoot u katOk).ash, counters := (enterBoot u katOk).counters } := by
  cases ready : bootReady u with
  | false => rw [enterBoot_of_not_ready ready]
  | true =>
    obtain ⟨-, -, -, -, -, -, -, frame⟩ := boots_enterBoot_self ready katOk
    exact frame

/-- Settles O2: the rows up to PWR_EN change the AO domain alone; with the rails good the boot ROM takes an image or fails. -/
theorem powerUpAndBoot : Obligations.PowerUpAndBoot := by
  refine ⟨⟨?up, ?drive, fun s => drivePwrEn_idles, ?timeout, ?rerun⟩, ?rise, ?late, ?release⟩
  case up =>
    intro strap s hstrap hvaux
    refine ⟨_, exec_vauxUp hstrap hvaux, rfl, rfl, ?_, rfl, rfl, rfl, rfl, rfl, rfl, rfl, rfl, rfl, rfl, rfl⟩
    exact (BitVec.toNat_ofNat _ _).trans (Nat.mod_eq_of_lt hstrap)
  case drive =>
    intro s hvaux hseek htrip
    refine ⟨_, exec_drivePwrEn hvaux hseek htrip, fun h => ?_, fun h hdue => ?_, fun h hearly => ?_, ?_⟩
    · rw [if_pos h]
      rfl
    · rw [if_neg h, if_pos (show due s _ _ = true from decide_eq_true hdue)]
      rfl
    · rw [if_neg h, if_neg (show ¬ due s _ _ = true from fun hd => absurd (of_decide_eq_true hd) (Nat.not_le.2 hearly))]
    · split
      · rfl
      · split <;> rfl
  case timeout =>
    intro s hvaux hen hgood hdue
    exact ⟨_, exec_pwrGoodTimeout hvaux hen hgood hdue, abandonPowerUp_eq hen⟩
  case rerun =>
    intro s hvaux hoff hen hhigh htrip hseek hwait
    exact ⟨_, exec_powerUpRerun hvaux hoff hen hhigh htrip hseek hwait, rfl⟩
  case rise =>
    intro s katOk hvaux hoff hhigh hen htrip htime
    refine ⟨_, exec_pwrGoodRise_in_time htime katOk, ?_⟩
    rw [alertOn_only, modAo_modAo]
    refine ⟨by rw [enterBoot_pins]; rfl, boots_enterBoot rfl ?_ katOk⟩
    simp [bootReady, hvaux, hoff, hhigh, hen, htrip]
  case late =>
    intro s katOk hvaux hen hgood hlate
    exact ⟨_, exec_pwrGoodRise_late hvaux hen hgood hlate katOk, rfl⟩
  case release =>
    intro s katOk hvaux hoff hlow hen hgood htrip
    refine ⟨_, exec_pkgResetRelease hlow katOk, ?_⟩
    rw [settleTrip_of_unlatched htrip, trackTrip_eq, modAo_modAo]
    refine ⟨by rw [enterBoot_pins]; rfl, boots_enterBoot rfl ?_ katOk⟩
    simp [bootReady, hvaux, hoff, hen, hgood, htrip]

end Sys2Proof.Machine
end

section
/-! The ways into OFF: what an entry leaves of the part, and what each row does to the AO domain (R58, R63-R66, R418). -/

namespace Sys2Proof.Machine

variable {s t : State}

/-! ## The entry -/

theorem cold_enterOff (s : State) : Cold s (enterOff s) := by
  unfold enterOff
  dsimp only
  unfold setDevState
  split
  next off => exact ⟨rfl, by simpa [Dev.reset] using off, rfl, rfl⟩
  next => exact ⟨rfl, rfl, rfl, rfl⟩

@[simp] theorem enterOff_ao (s : State) : (enterOff s).ao = s.ao := by
  unfold enterOff
  dsimp only
  rw [setDevState_only]

/-- What is left of the part in OFF is said without the AO domain. -/
theorem Cold.withAo (h : Cold s t) (a : Ao) : Cold s { t with ao := a } := by
  obtain ⟨rest, hdev, hsec, hfpt⟩ := h
  exact ⟨by rw [rest], hdev, hsec, hfpt⟩

theorem Cold.modAo (h : Cold s t) (f : Ao → Ao) : Cold s (Machine.modAo t f) := h.withAo (f t.ao)

/-- An entry into OFF after changes of the AO domain. -/
theorem cold_enterOff_modAo (s : State) (f : Ao → Ao) : Cold s (enterOff (modAo s f)) := (cold_enterOff (modAo s f) :)

theorem Cold.alertOn (h : Cold s t) (u : State) : Cold s (alertOn u t) := by
  rw [alertOn_only]
  exact h.modAo _

theorem Cold.clearTrip (h : Cold s t) : Cold s (clearTrip t) := by
  rw [clearTrip_ao_only]
  exact h.withAo _

/-! ## PWR_EN and the trip -/

/-- PWR_EN goes low, at this devtime if it was high. -/
theorem dropPwrEn_eq (s : State) : dropPwrEn s = modAo s fun a =>
    { a with pwrEn := false, pwrEnFellAt := if a.pwrEn then some a.devtime else a.pwrEnFellAt } := by
  unfold dropPwrEn
  split
  next high => simp [modAo, high]
  next low =>
    have off : false = s.ao.pwrEn := (Bool.eq_false_iff.2 low).symm
    simp only [modAo, if_neg low]
    rw [off]

theorem exec_pwrGoodFall (hvaux : s.ao.vauxOk = true) (hen : s.ao.pwrEn = true) : exec .pwrGoodFall s =
    .next (enterOff (dropPwrEn (alertOn s (modAo s fun a => { a with pwrGood := false })))) := by
  refine congrArg Host.Outcome.next (if_pos ?_)
  rw [hvaux, hen]
  rfl

theorem exec_hardwareTrip (hvaux : s.ao.vauxOk = true) (htrip : s.ao.tripLatched = false) (hcause : tripCauses s ≠ 0) :
    exec .hardwareTrip s = .next (fireTrip s (tripCauses s)) := by
  have causes : (tripCauses s != 0) = true := bne_iff_ne.2 hcause
  refine congrArg Host.Outcome.next (if_pos ?_)
  rw [hvaux, htrip, causes]
  rfl

/-- The trip as it fires: of the AO domain the latch, its cause, PWR_EN and the wait for a power-up change, and the part is in OFF. -/
theorem fireTrip_eq (s : State) (cause : BitVec 8) : fireTrip s cause = alertOn s (enterOff (modAo s fun a =>
    { a with tripLatched := true, tripCause := cause, tripQuietAt := none, seeking := false, pwrEn := false,
             pwrEnFellAt := if a.pwrEn then some a.devtime else a.pwrEnFellAt })) := by
  unfold fireTrip
  rw [dropPwrEn_eq, modAo_modAo]

theorem exec_vauxLoss (hvaux : s.ao.vauxOk = true) : exec .vauxLoss s =
    .next { enterOff s with ao := { Ao.reset with pwrGood := s.ao.pwrGood, pkgResetN := s.ao.pkgResetN, coolOk := s.ao.coolOk } } :=
  congrArg Host.Outcome.next (if_pos hvaux)

/-! ## PKG_RESET_N low for 1 ms (R64, R65) -/

/-- The reset of R65 for the whole millisecond: the part enters OFF, and a latched trip without conditions is cleared. -/
theorem resetFor1ms_eq (hvaux : s.ao.vauxOk = true) : resetFor1ms s =
    if tripCauses s = 0 then clearTrip (enterOff (modAo s fun a => { a with seeking := false }))
    else enterOff (modAo s fun a => { a with seeking := false }) := by
  have entered : packageReset s = enterOff (modAo s fun a => { a with seeking := false }) := if_pos hvaux
  have ao : (enterOff (modAo s fun a => { a with seeking := false })).ao = { s.ao with seeking := false } := enterOff_ao _
  have causes : tripCauses (enterOff (modAo s fun a => { a with seeking := false })) = tripCauses s :=
    tripCauses_congr (by rw [ao]) (by rw [ao]) (by rw [ao]) (by rw [ao])
  unfold resetFor1ms
  rw [entered]
  dsimp only
  rw [ao, hvaux, causes]
  simp

/-- What the reset of R65 leaves of the AO domain. -/
theorem resetFor1ms_ao (hvaux : s.ao.vauxOk = true) : (resetFor1ms s).ao =
    { s.ao with seeking := false, tripLatched := s.ao.tripLatched && tripCauses s != 0,
                tripCause := (resetFor1ms s).ao.tripCause, smbAlert := (resetFor1ms s).ao.smbAlert } := by
  rw [resetFor1ms_eq hvaux]
  split
  next quiet =>
    rw [clearTrip_ao_only]
    simp [quiet]
  next causes =>
    have latched : (tripCauses s != 0) = true := bne_iff_ne.2 causes
    rw [enterOff_ao, latched, Bool.and_true]
    rfl

theorem cold_resetFor1ms (hvaux : s.ao.vauxOk = true) : Cold s (resetFor1ms s) := by
  rw [resetFor1ms_eq hvaux]
  split
  · exact (cold_enterOff_modAo s _).clearTrip
  · exact cold_enterOff_modAo s _

theorem exec_pkgResetAssert_long {lowNs : Nat} (hlow : 1000000 ≤ lowNs) (katOk : Bool) : exec (.pkgResetAssert lowNs katOk) s =
    .next (trackTrip (resetFor1ms (modAo s fun a => { a with pkgResetN := false }))) :=
  congrArg Host.Outcome.next ((if_neg (show ¬ lowNs < 1000 by omega)).trans (if_neg (show ¬ lowNs < 1000000 by omega)))

theorem pkgResetAssert_short_idles {lowNs : Nat} (hlow : lowNs < 1000) (katOk : Bool) : Idles (.pkgResetAssert lowNs katOk) s :=
  congrArg Host.Outcome.next (if_pos hlow)

/-! ## The end of a latched trip (R64) -/

theorem clearTrip_latch (h : s.ao.tripLatched = true) : (clearTrip s).ao.tripLatched = false ∧ (clearTrip s).ao.tripCause = 0 := by
  unfold clearTrip
  rw [if_pos h, alertOn_only]
  exact ⟨rfl, rfl⟩

theorem quietSince_of_low (hlow : s.ao.pkgResetN = false) (hcause : tripCauses s = 0) :
    quietSince s = some (s.ao.tripQuietAt.getD s.ao.devtime) :=
  if_pos (by rw [hlow, hcause]; rfl)

theorem quietSince_of_causes (hcause : tripCauses s ≠ 0) : quietSince s = none := by
  have causes : (tripCauses s == 0) = false := beq_eq_false_iff_ne.2 hcause
  unfold quietSince
  rw [causes, Bool.and_false]
  rfl

/-- With its conditions gone for 1 ms of the low level the trip goes. -/
theorem settleTrip_clears {at_ : Nat} (hlow : s.ao.pkgResetN = false) (htrip : s.ao.tripLatched = true)
    (hquiet : s.ao.tripQuietAt = some at_) (hcause : tripCauses s = 0) (hdue : at_ + 1000000 ≤ s.ao.devtime) :
    (settleTrip s).ao.tripLatched = false ∧ (settleTrip s).ao.tripCause = 0 := by
  have since : quietSince s = some at_ := by rw [quietSince_of_low hlow hcause, hquiet, Option.getD_some]
  have gone : due s at_ 1000000 = true := decide_eq_true hdue
  have clears : settleTrip s = clearTrip (trackTrip s) := by rw [settleTrip_eq, since]; exact if_pos gone
  rw [clears]
  exact clearTrip_latch htrip

/-- Until then it stays as it is. -/
theorem settleTrip_waits (hlow : s.ao.pkgResetN = false)
    (h : tripCauses s ≠ 0 ∨ s.ao.devtime < s.ao.tripQuietAt.getD s.ao.devtime + 1000000) : settleTrip s = trackTrip s := by
  by_cases hcause : tripCauses s = 0
  · have early : due s (s.ao.tripQuietAt.getD s.ao.devtime) 1000000 = false :=
      decide_eq_false (Nat.not_le.2 (h.resolve_left (not_not_intro hcause)))
    rw [settleTrip_eq, quietSince_of_low hlow hcause]
    dsimp only
    rw [early]
    rfl
  · rw [settleTrip_eq, quietSince_of_causes hcause]

/-- The part stays in OFF while PWR_EN is low. -/
theorem exec_pkgResetRelease_off (hlow : s.ao.pkgResetN = false) (hen : s.ao.pwrEn = false) (katOk : Bool) :
    exec (.pkgResetRelease katOk) s =
      .next (modAo (settleTrip s) fun a => { a with pkgResetN := true, tripQuietAt := none }) := by
  have off : (settleTrip s).ao.pwrEn = false := by rw [settleTrip_only]; exact hen
  rw [exec_pkgResetRelease hlow, enterBoot_of_not_ready]
  simp [bootReady, off]

/-- Settles O3: each way in ends in the entry into OFF with changes of the AO domain around it. -/
theorem entryIntoOffLosesEverythingButAo : Obligations.EntryIntoOffLosesEverythingButAo := by
  refine ⟨?fall, ?trip, ?vaux, ?reset, ?release, fun s lowNs katOk hlow => pkgResetAssert_short_idles hlow katOk⟩
  case fall =>
    intro s hvaux hen
    refine ⟨_, exec_pwrGoodFall hvaux hen, ?_⟩
    rw [alertOn_only, modAo_modAo, dropPwrEn_eq, modAo_modAo]
    refine ⟨cold_enterOff_modAo s _, ?_⟩
    rw [enterOff_ao]
    simp [hen]
  case trip =>
    intro s hvaux htrip hcause
    refine ⟨_, exec_hardwareTrip hvaux htrip hcause, ?_⟩
    dsimp only
    rw [fireTrip_eq]
    refine ⟨(cold_enterOff_modAo s _).alertOn s, ?_⟩
    rw [alertOn_only, modAo_ao, enterOff_ao]
    exact ⟨rfl, rfl, rfl, rfl, rfl, rfl⟩
  case vaux =>
    intro s hvaux
    exact ⟨_, exec_vauxLoss hvaux, (cold_enterOff s).withAo _, rfl⟩
  case reset =>
    intro s lowNs katOk hvaux hlow
    have vaux : (modAo s fun a => { a with pkgResetN := false }).ao.vauxOk = true := hvaux
    have causes : tripCauses (modAo s fun a => { a with pkgResetN := false }) = tripCauses s := tripCauses_congr rfl rfl rfl rfl
    refine ⟨_, exec_pkgResetAssert_long hlow katOk, (cold_resetFor1ms vaux).modAo _, ?_⟩
    rw [trackTrip_eq, modAo_ao, resetFor1ms_ao vaux, causes]
    refine ⟨rfl, rfl, rfl, rfl, fun quiet => ?_, fun hot => ?_⟩
    · show (s.ao.tripLatched && tripCauses s != 0) = false
      rw [quiet]
      exact Bool.and_false _
    · show (s.ao.tripLatched && tripCauses s != 0) = s.ao.tripLatched
      rw [bne_iff_ne.2 hot, Bool.and_true]
  case release =>
    intro s katOk hlow htrip hen
    refine ⟨_, exec_pkgResetRelease_off hlow hen katOk, rfl, fun at_ hquiet hcause hdue => ?_, fun h => ?_,
      fun at_ hquiet hearly => ?_, ?_⟩
    · exact settleTrip_clears hlow htrip hquiet hcause hdue
    · have kept : settleTrip s = trackTrip s := settleTrip_waits hlow (h.imp_right fun never => by rw [never]; simp)
      rw [kept]
      exact ⟨htrip, rfl⟩
    · have kept : settleTrip s = trackTrip s := settleTrip_waits hlow (.inr (by rw [hquiet]; exact hearly))
      rw [kept]
      exact htrip
    · rw [settleTrip_only]
      rfl

end Sys2Proof.Machine
end

section
/-! Bytes of a DETAIL, and what a record of the draught controller and a change of L_th leave of the state (R391, R402, R403, R421). -/

namespace Sys2Proof.Machine

/-! ## Fields of a DETAIL (R391) -/

theorem fld_splice_self (bs : List Byte) {at_ : Nat} (n v : Nat) (h : at_ ≤ bs.length) :
    fld (splice bs at_ (leBytes n v)) at_ n = v % 256 ^ n := by
  have before : (bs.take at_).length = at_ := List.length_take_of_le h
  have head := fld_append_right (bs.take at_) (leBytes n v ++ bs.drop (at_ + n)) 0 n
  rw [before, Nat.add_zero] at head
  rw [splice, length_leBytes, List.append_assoc, head, fld_append_of_le _ _ _ _ (by simp), fld_leBytes]

/-- Fields that lie behind a field leave it as it is. -/
theorem fld_foldl_splice_of_le (fs : List (Nat × Nat × Nat)) (bs : List Byte) (off n : Nat)
    (h : ∀ f ∈ fs, off + n ≤ f.1 ∧ f.1 ≤ bs.length) :
    fld (fs.foldl (fun d f => splice d f.1 (leBytes f.2.1 f.2.2)) bs) off n = fld bs off n := by
  induction fs generalizing bs with
  | nil => rfl
  | cons f fs ih =>
    obtain ⟨behind, within⟩ := h f List.mem_cons_self
    rw [List.foldl_cons, ih, fld_splice_of_le _ _ _ _ _ behind within]
    intro g hg
    have rest := h g (List.mem_cons_of_mem _ hg)
    rw [length_splice]
    omega

/-- A byte of a string is its field of one byte. -/
theorem fld_one (bs : List Byte) (i : Nat) : fld bs i 1 = (bs.getD i 0).toNat := by
  unfold fld slice
  dsimp only
  rcases Nat.lt_or_ge i bs.length with h | h
  · rw [List.drop_eq_getElem_cons h, List.take_succ_cons, List.take_zero]
    simp [leNat, h]
  · rw [List.drop_eq_nil_of_le h]
    simp [leNat, h]

/-! ## Records of the draught controller (R403, R421) -/

variable (s : State) (event : Nat) (began : Bool) (site temp : Nat)

theorem draughtRecord_only : draughtRecord s event began site temp =
    { s with ash := (draughtRecord s event began site temp).ash, pcie := (draughtRecord s event began site temp).pcie,
             counters := (draughtRecord s event began site temp).counters } := by
  unfold draughtRecord
  rw [raiseVector_only]
  rfl

/-- The record of an event carries it and whether it began. -/
theorem raised_draughtRecord (h : event < 256) :
    Raised s (draughtRecord s event began site temp) 0x30 0x402 event (if began then 1 else 0) := by
  have bit : (if began then 1 else 0) = b2n began := rfl
  unfold draughtRecord
  refine ⟨_, by rw [raiseVector_ash]; exact raiseAsh_flying _ _ _ _ _ _ _ _, rfl, rfl, rfl, ?_, ?_⟩
  · rw [← fld_one]
    unfold detail
    rw [List.foldl_cons, fld_foldl_splice_of_le _ _ _ _ (by simp), fld_splice_self _ _ _ (by simp)]
    exact Nat.mod_eq_of_lt h
  · rw [← fld_one, bit]
    unfold detail
    rw [List.foldl_cons, List.foldl_cons, fld_foldl_splice_of_le _ _ _ _ (by simp), fld_splice_self _ _ _ (by simp)]
    cases began <;> rfl

/-! ## L_th (R402, R421) -/

theorem setLimit_only (l : Nat) : setLimit s l =
    { s with draught := (setLimit s l).draught, ash := (setLimit s l).ash, pcie := (setLimit s l).pcie,
             counters := (setLimit s l).counters } := by
  unfold setLimit
  dsimp only
  split
  · rfl
  · rw [draughtRecord_only]
    rfl

end Sys2Proof.Machine
end

section
/-! The SMBus endpoint: its reads, a wrong packet error code, and its two writable registers (R65, R77-R79). -/

namespace Sys2Proof.Machine

variable {s : State}

/-! ## Transactions (R77) -/

/-- With the right packet error code the endpoint carries the transaction out. -/
theorem smbRow_right (hvaux : s.ao.vauxOk = true) (run : State → State) : smbRow s true run = run s := by
  unfold smbRow
  rw [hvaux]
  rfl

/-- With a wrong one it is not answered and has no effect. -/
theorem smbRow_wrong (hvaux : s.ao.vauxOk = true) (run : State → State) :
    smbRow s false run = { s with ao := { s.ao with smbReply := none } } := by
  unfold smbRow
  rw [hvaux]
  rfl

theorem exec_of_right {c : Instr} {run : State → State} (hvaux : s.ao.vauxOk = true) (row : exec c s = .next (smbRow s true run)) :
    exec c s = .next (run s) := row.trans (congrArg _ (smbRow_right hvaux run))

/-- A rejected write sets STATUS bit 6, and changes the AO domain alone (R79). -/
theorem smbReject_eq (s : State) : smbReject s = { s with ao :=
    { s.ao with writeRejected := true, smbReply := some [], smbAlert := (smbReject s).ao.smbAlert } } := by
  unfold smbReject
  rw [alertOn_only]
  rfl

/-! ## Reads (R78) -/

theorem smbFwLevel_running {i : Image} (hvaux : s.ao.vauxOk = true) (himage : s.dev.image = some i) (hboot : s.dev.state ≠ .boot) :
    exec (.smbFwLevel true) s =
      .next (smbAnswer s (leBytes 1 i.level ++ leBytes 1 i.major ++ leBytes 1 i.minor ++ leBytes 1 i.patch)) := by
  refine (exec_of_right hvaux rfl).trans (congrArg _ ?_)
  rw [himage]
  dsimp only
  rw [if_neg hboot]

theorem smbFwLevel_zero (hvaux : s.ao.vauxOk = true) (h : s.dev.image = none ∨ s.dev.state = .boot) :
    exec (.smbFwLevel true) s = .next (smbAnswer s (leBytes 4 0)) := by
  refine (exec_of_right hvaux rfl).trans (congrArg _ ?_)
  split
  next image =>
    rw [if_pos (h.resolve_left (by simp [image]))]
  next => rfl

theorem smbPkgPower_reads (hvaux : s.ao.vauxOk = true) : exec (.smbPkgPower true) s =
    .next (smbAnswer s (leBytes 2 (if s.ao.pwrEn = true ∧ s.ao.pwrGood = true then s.draught.measured / 1000 else 0))) := by
  refine (exec_of_right hvaux rfl).trans (congrArg _ ?_)
  simp only [railsOn, Bool.and_eq_true]

/-- The alert response address is answered while SMB_ALERT_N is driven low (R77). -/
theorem alertResponseAddress_reads (hvaux : s.ao.vauxOk = true) : exec .alertResponseAddress s = .next { s with ao := { s.ao with
    smbReply := if s.ao.smbAlert then some [BitVec.ofNat 8 (2 * (0x60 + s.ao.addrStrap.toNat))] else none } } := by
  refine (exec_of_right hvaux rfl).trans (congrArg _ ?_)
  dsimp only
  split <;> rfl

/-! ## BOARD_CAP and RESET_REQ (R65, R79) -/

/-- A value in range takes effect at once, and the cap in force follows while the part is live. -/
theorem smbBoardCap_accepted {v : BitVec 16} (hvaux : s.ao.vauxOk = true) (hlo : 900 ≤ v.toNat) (hhi : v.toNat ≤ 2200) :
    exec (.smbBoardCap (some v) true) s =
      .next (let u := modAo s fun a => { a with boardCap := v.toNat, smbReply := some [] }
             if live s then applyCaps u else u) := by
  refine (exec_of_right hvaux rfl).trans (congrArg _ ?_)
  exact if_neg (by omega)

theorem smbBoardCap_rejected {v : BitVec 16} (hvaux : s.ao.vauxOk = true) (h : v.toNat < 900 ∨ 2200 < v.toNat) :
    exec (.smbBoardCap (some v) true) s = .next (smbReject s) := by
  refine (exec_of_right hvaux rfl).trans (congrArg _ ?_)
  exact if_pos h

theorem smbResetReq_resets (hvaux : s.ao.vauxOk = true) (katOk : Bool) : exec (.smbResetReq 0xA5 true katOk) s =
    .next (enterBoot (resetFor1ms (modAo s fun a => { a with smbReply := some [] })) katOk) := by
  refine (exec_of_right hvaux rfl).trans (congrArg _ ?_)
  exact if_pos rfl

theorem smbResetReq_rejected {v : Byte} (hvaux : s.ao.vauxOk = true) (hv : v ≠ 0xA5) (katOk : Bool) :
    exec (.smbResetReq v true katOk) s = .next (smbReject s) :=
  (exec_of_right hvaux rfl).trans (congrArg _ (if_neg hv))

/-- A part in OFF that tries to enter BOOT: what OFF emptied stays empty, and what it kept is kept. -/
theorem Cold.enterBoot {u : State} (h : Cold s u) (katOk : Bool) : let t := Machine.enterBoot u katOk
    t.mbx = [] ∧ t.work = .reset ∧ t.hearths = [] ∧ t.chain = .reset ∧ t.draught = .reset ∧ t.mem.slice = [] ∧ t.mem.hbm = [] ∧
      t.mem.host = s.mem.host ∧ t.sec.revoked = s.sec.revoked ∧ t.sec.lotKeyBlown = s.sec.lotKeyBlown := by
  obtain ⟨rest, -, hsec, -⟩ := h
  dsimp only
  rw [enterBoot_only]
  dsimp only
  rw [hsec, rest]
  exact ⟨rfl, rfl, rfl, rfl, rfl, rfl, rfl, rfl, rfl, rfl⟩

/-- Settles O26, register by register. -/
theorem smbusEndpoint : Obligations.SmbusEndpoint := by
  refine ⟨⟨?reads, ?wrong⟩, ?boardCap, ?reset, ?rejected⟩
  case reads =>
    intro s hvaux
    refine ⟨⟨_, exec_of_right hvaux rfl, rfl⟩, ⟨_, smbPkgPower_reads hvaux, rfl⟩,
      ⟨_, exec_of_right hvaux rfl, rfl⟩, ⟨_, exec_of_right hvaux rfl, rfl⟩,
      ⟨_, exec_of_right hvaux rfl, rfl⟩, ⟨_, exec_of_right hvaux rfl, rfl⟩,
      fun i himage hboot => ⟨_, smbFwLevel_running hvaux himage hboot, rfl⟩, fun h => ⟨_, smbFwLevel_zero hvaux h, rfl⟩,
      ⟨_, exec_of_right hvaux rfl, rfl⟩, ⟨_, alertResponseAddress_reads hvaux, rfl⟩⟩
  case wrong =>
    intro s w v katOk c hvaux hc
    simp only [List.mem_cons, List.not_mem_nil, or_false] at hc
    rcases hc with rfl | rfl | rfl | rfl | rfl | rfl | rfl | rfl | rfl
    all_goals exact ⟨_, congrArg Host.Outcome.next (smbRow_wrong hvaux _), rfl⟩
  case boardCap =>
    intro s v hvaux
    by_cases h : v.toNat < 900 ∨ 2200 < v.toNat
    · refine ⟨_, smbBoardCap_rejected hvaux h, fun hlo hhi => by omega, fun _ => ?_, ?_⟩
      all_goals rw [smbReject_eq]
      exact ⟨rfl, rfl, rfl⟩
    · refine ⟨_, smbBoardCap_accepted hvaux (by omega) (by omega), fun _ _ => ⟨?_, fun hlive => ?_⟩, fun k => absurd k h, ?_⟩
      · dsimp only
        split
        · exact ao_of_governing (governing_setLimit _ _)
        · rfl
      · dsimp only
        rw [if_pos hlive, applyCaps, setLimit_draught]
        rfl
      · dsimp only
        split
        · rw [applyCaps, setLimit_only]
          rfl
        · rfl
  case reset =>
    intro s katOk hvaux
    have vaux : (modAo s fun a => { a with smbReply := some [] }).ao.vauxOk = true := hvaux
    have cold : Cold s (resetFor1ms (modAo s fun a => { a with smbReply := some [] })) := cold_resetFor1ms vaux
    have ao := resetFor1ms_ao vaux
    refine ⟨_, smbResetReq_resets hvaux katOk, ?_⟩
    generalize resetFor1ms (modAo s fun a => { a with smbReply := some [] }) = u at cold ao
    obtain ⟨mbx, work, hearths, chain, draught, slice, hbm, host, revoked, lotKey⟩ := cold.enterBoot katOk
    have off : u.dev.state = .off := by rw [cold.2.1]; rfl
    refine ⟨mbx, work, hearths, chain, draught, slice, hbm, host, ?_, ?_, revoked, lotKey, fun hgood hhigh hen htrip => ?_,
      fun hgood => ?_⟩
    · rw [enterBoot_pins, ao]
      rfl
    · rw [enterBoot_pins, ao]
      rfl
    · have ready : bootReady u = true := by
        unfold bootReady
        rw [off, ao]
        simp [hvaux, hgood, hhigh, hen, htrip]
      obtain ⟨-, -, -, image, none, -, -, -⟩ := boots_enterBoot_self ready katOk
      exact ⟨fun h => (image h).1, none⟩
    · have unready : bootReady u = false := by
        unfold bootReady
        rw [off, ao]
        simp [hgood]
      rw [enterBoot_of_not_ready unready, off]
  case rejected =>
    intro s v katOk hvaux hv
    refine ⟨_, smbResetReq_rejected hvaux hv katOk, ?_⟩
    rw [smbReject_eq]
    exact ⟨rfl, rfl⟩

end Sys2Proof.Machine
end

section
/-! COOL_OK, the samples of the sensors and the reads of the tray (R64, R67, R81, R83, R395, R398, R399, R421). -/

namespace Sys2Proof.Machine

variable {s t : State}

/-! ## COOL_OK (R67) -/

/-- A change while the part is live drives SMB_ALERT_N low and is recorded. -/
theorem exec_coolOkChange {level : Bool} (hne : s.ao.coolOk ≠ level) (hlive : live s = true) : exec (.coolOkChange level) s =
    .next (draughtRecord (modAo s fun a => { a with coolOk := level, smbAlert := true }) (if level then 7 else 6) (!level)
      0xFFFF 0) := by
  have alerts : alertOn s (modAo s fun a => { a with coolOk := level }) =
      modAo s fun a => { a with coolOk := level, smbAlert := true } := by
    refine alertOn_of_ne ?_
    have bit : b2n s.ao.coolOk ≠ b2n level := by
      rw [Bool.eq_not.2 hne]
      cases level <;> decide
    rw [statusByte_alertBits, statusByte_alertBits, modAo_ao]
    dsimp only
    omega
  show execCoolOkChange level s = _
  unfold execCoolOkChange
  rw [if_neg hne, alerts]
  exact congrArg Host.Outcome.next (if_pos hlive)

/-! ## Samples (R395) -/

/-- The readings of a sample over those that stand. -/
def sampled (m : SMap (BitVec 16)) (rs : List Reading) : SMap (BitVec 16) := rs.foldl (fun m r => putD 0 m r.sensor r.value) m

/-- A sensor that is not listed reads as it did. -/
theorem lookD_sampled_other (m : SMap (BitVec 16)) {rs : List Reading} {i : Nat} (h : ∀ r ∈ rs, r.sensor ≠ i) :
    lookD 0 (sampled m rs) i = lookD 0 m i := by
  induction rs generalizing m with
  | nil => rfl
  | cons r rs ih =>
    have rest := ih (putD 0 m r.sensor r.value) fun x hx => h x (List.mem_cons_of_mem _ hx)
    exact rest.trans (lookD_putD_other _ _ _ (h r List.mem_cons_self).symm)

/-- A sensor that is listed once reads as listed. -/
theorem lookD_sampled_self (m : SMap (BitVec 16)) {rs : List Reading} {r : Reading} (hr : r ∈ rs) (h : (rs.map (·.sensor)).Nodup) :
    lookD 0 (sampled m rs) r.sensor = r.value := by
  induction rs generalizing m with
  | nil => cases hr
  | cons x rs ih =>
    rw [List.map_cons, List.nodup_cons] at h
    obtain ⟨once, rest⟩ := h
    rcases List.mem_cons.1 hr with rfl | later
    · have others : ∀ y ∈ rs, y.sensor ≠ r.sensor := fun y hy same => once (List.mem_map.2 ⟨y, hy, same⟩)
      exact (lookD_sampled_other _ others).trans (lookD_putD_self _ _ _ _)
    · exact ih _ later rest

/-- What a sample means for the layers is when each began to be cool or hot (R240, R257, R408). -/
theorem trackLayers_only (s : State) (sensors : List Nat) : trackLayers s sensors =
    { s with mem := { s.mem with coolSince := (trackLayers s sensors).mem.coolSince },
             draught := { s.draught with layerHot := (trackLayers s sensors).draught.layerHot } } := by
  unfold trackLayers
  generalize sensors.filter _ = l
  induction l generalizing s with
  | nil => rfl
  | cons i l ih => exact (ih _).trans rfl

theorem exec_sensorSample {rs : List Reading} (hvaux : s.ao.vauxOk = true) (hrs : ∀ r ∈ rs, r.sensor < 6408) :
    exec (.sensorSample rs) s = .next (trackLayers (settleTrip (modAo s fun a =>
      { a with sensorsBefore := a.sensors, sensors := sampled a.sensors rs })) (rs.map (·.sensor))) := by
  have hwf : Instr.wellFormed (.sensorSample rs) = true := List.all_eq_true.2 fun r hr => decide_eq_true (hrs r hr)
  show execSensorSample rs s = _
  unfold execSensorSample
  rw [hwf]
  exact congrArg Host.Outcome.next (if_pos hvaux)

theorem due_iff (s : State) (since ns : Nat) : due s since ns = true ↔ since + ns ≤ s.ao.devtime := decide_eq_true_iff

/-! ## Tray reads (R81, R83, R398) -/

/-- SEQ is as it was, and has not changed for 100 ms (R83). -/
def trayStale (s : State) (b : List Byte) : Bool := s.ao.traySeq == some (b.getD 3 0) && due s s.ao.traySeqAt 100000000

/-- A valid read fit for step 2 of R61. -/
def trayFit (b : List Byte) : Bool :=
  1500 ≤ fld b 8 2 && decide (deg 15 ≤ s16 (BitVec.ofNat 16 (fld b 4 2))) && decide (s16 (BitVec.ofNat 16 (fld b 4 2)) ≤ deg 40)

/-- The AO domain as a valid read leaves it for the look at the trip conditions. -/
def trayAo (s : State) (b : List Byte) : Ao :=
  { s.ao with
    inlet := BitVec.ofNat 16 (fld b 4 2), outlet := BitVec.ofNat 16 (fld b 6 2), flow := BitVec.ofNat 16 (fld b 8 2),
    traySeq := some (b.getD 3 0), trayValidAt := s.ao.devtime,
    traySeqAt := if s.ao.traySeq == some (b.getD 3 0) then s.ao.traySeqAt else s.ao.devtime,
    goodTrayReads := if trayFit b then s.ao.goodTrayReads + 1 else 0,
    lowFlowReads := if trayStale s b || decide (fld b 8 2 < 800) then s.ao.lowFlowReads + 1 else 0 }

theorem coolantChange_only (s : State) (event : Nat) (was is : Bool) : coolantChange s event was is =
    { s with ash := (coolantChange s event was is).ash, pcie := (coolantChange s event was is).pcie,
             counters := (coolantChange s event was is).counters } := by
  unfold coolantChange
  split
  · rfl
  · exact draughtRecord_only _ _ _ _ _

/-- The draught controller's view of a read, with its records. -/
theorem trayConditions_only (s : State) : trayConditions s =
    { s with draught := (trayConditions s).draught, ash := (trayConditions s).ash, pcie := (trayConditions s).pcie,
             counters := (trayConditions s).counters } := by
  unfold trayConditions
  split
  · rfl
  · dsimp only
    rw [coolantChange_only, coolantChange_only (modDraught s _)]
    rfl

/-- A valid read as it is stored, with a look at the trip conditions. -/
def trayStored (s : State) (b : List Byte) : State := settleTrip (countU (modAo s fun _ => trayAo s b) 0xE06 1)

/-- A valid read with the draught controller's view of it. -/
def trayTaken (s : State) (b : List Byte) : State :=
  trayConditions (if (trayStored s b).draught.trayLost && !trayStale s b then
    draughtRecord (modDraught (trayStored s b) fun d => { d with trayLost := false }) 2 false 0xFFFF 0 else trayStored s b)

theorem exec_trayRead_valid {b : List Byte} (hvaux : s.ao.vauxOk = true) (hvalid : trayValid b = true) :
    exec (.trayRead (some b)) s = .next (trayTaken s b) := by
  refine congrArg Host.Outcome.next ((if_neg ?_).trans (if_pos hvalid))
  rw [hvaux]
  decide

theorem trayTaken_only (s : State) (b : List Byte) : trayTaken s b =
    { s with ao := (trayStored s b).ao, draught := (trayTaken s b).draught, ash := (trayTaken s b).ash,
             pcie := (trayTaken s b).pcie, counters := (trayTaken s b).counters } := by
  unfold trayTaken
  rw [trayConditions_only]
  split
  · rw [draughtRecord_only, trayStored, settleTrip_only]
    rfl
  · rw [trayStored, settleTrip_only]
    rfl

/-- A read that is not valid (R83). -/
theorem exec_trayRead_discarded {b : Option (List Byte)} (hvaux : s.ao.vauxOk = true) (hbad : ∀ x, b = some x → trayValid x = false) :
    exec (.trayRead b) s = .next (discardTray s) := by
  have up : ¬ (!s.ao.vauxOk) = true := by rw [hvaux]; decide
  cases b with
  | none => exact congrArg Host.Outcome.next (if_neg up)
  | some x =>
    refine congrArg Host.Outcome.next ((if_neg up).trans (if_neg ?_))
    rw [hbad x rfl]
    decide

theorem exec_traySensorLost (hlive : live s = true) (hlost : s.draught.trayLost = false)
    (hdue : s.ao.trayValidAt + 200000000 ≤ s.ao.devtime ∨ s.ao.traySeqAt + 100000000 ≤ s.ao.devtime) :
    exec .traySensorLost s =
      .next (setLimit (draughtRecord (modDraught s fun d => { d with trayLost := true }) 1 true 0xFFFF 0) 900) := by
  have late : (due s s.ao.trayValidAt 200000000 || due s s.ao.traySeqAt 100000000) = true := by
    rwa [Bool.or_eq_true, due_iff, due_iff]
  refine congrArg Host.Outcome.next (if_pos ?_)
  rw [hlive, hlost, late]
  rfl

/-- A field of two bytes is a 16-bit value. -/
theorem toNat_ofNat_fld (b : List Byte) (off : Nat) : (BitVec.ofNat 16 (fld b off 2)).toNat = fld b off 2 := by
  have small := leNat_lt (slice b off 2)
  rw [length_slice] at small
  exact (BitVec.toNat_ofNat _ _).trans (Nat.mod_eq_of_lt small)

/-- Settles O4, input by input. -/
theorem coolingInputs : Obligations.CoolingInputs := by
  refine ⟨⟨?cool, ?sample⟩, ?valid, ?discarded, ?lost⟩
  case cool =>
    intro s level hne hlive
    have raised := raised_draughtRecord (modAo s fun a => { a with coolOk := level, smbAlert := true }) (if level then 7 else 6)
      (!level) 0xFFFF 0 (by split <;> decide)
    refine ⟨_, exec_coolOkChange hne hlive, ?_⟩
    dsimp only
    rw [draughtRecord_only]
    refine ⟨rfl, rfl, ?_, rfl⟩
    cases level <;> exact raised
  case sample =>
    intro s rs hvaux hrs hnodup
    refine ⟨_, exec_sensorSample hvaux hrs, ?_⟩
    have settled := tripSettled_settleTrip (modAo s fun a => { a with sensorsBefore := a.sensors, sensors := sampled a.sensors rs })
    have sensors := congrArg Ao.sensors settled.1
    dsimp only
    rw [trackLayers_only]
    dsimp only
    rw [sensors]
    refine ⟨fun r hr => lookD_sampled_self _ hr hnodup, fun i hi => lookD_sampled_other _ hi, settled, ?_⟩
    rw [settleTrip_only]
    rfl
  case valid =>
    intro s b hvaux hvalid
    refine ⟨_, exec_trayRead_valid hvaux hvalid, ?_⟩
    have ao : (trayStored s b).ao = _ := (tripSettled_settleTrip (countU (modAo s fun _ => trayAo s b) 0xE06 1)).1
    dsimp only
    rw [trayTaken_only]
    dsimp only
    rw [ao]
    refine ⟨toNat_ofNat_fld _ _, toNat_ofNat_fld _ _, toNat_ofNat_fld _ _, rfl, rfl, ?_, ?_, ?_, rfl⟩
    · simp [trayAo]
    · simp [trayAo, trayFit, and_assoc]
    · simp [trayAo, trayStale, due_iff]
  case discarded =>
    intro s b hvaux hbad
    refine ⟨_, exec_trayRead_discarded hvaux hbad, tripSettled_settleTrip (countU (modAo s _) 0xE07 1), ?_⟩
    unfold discardTray
    rw [settleTrip_only]
    rfl
  case lost =>
    intro s hlive hlost hdue
    refine ⟨_, exec_traySensorLost hlive hlost hdue, ?_⟩
    dsimp only
    rw [setLimit_only, setLimit_draught, draughtRecord_draught, draughtRecord_only]
    exact ⟨rfl, rfl, rfl, rfl, rfl⟩

end Sys2Proof.Machine
end

section
/-! Writes of spans of memory words: what a write leaves of the words it does not name, and what a whole word then reads as (R178, R223,
R234, R254). -/

namespace Sys2Proof.Machine

variable {s : State}

/-! ## One word -/

/-- The places of two words differ. -/
def Place.Apart (p q : Place) : Prop := p.hbm ≠ q.hbm ∨ p.index ≠ q.index

/-- Host memory and the words of some places are as they were. -/
def WordsKept (Q : Place → Prop) (s t : State) : Prop := (∀ q, Q q → stored? t q = stored? s q) ∧ t.mem.host = s.mem.host

theorem WordsKept.refl (Q : Place → Prop) (s : State) : WordsKept Q s s := ⟨fun _ _ => rfl, rfl⟩

theorem WordsKept.trans {Q : Place → Prop} {t u : State} (h : WordsKept Q s t) (k : WordsKept Q t u) : WordsKept Q s u :=
  ⟨fun q hq => (k.1 q hq).trans (h.1 q hq), k.2.trans h.2⟩

theorem Reads.wordsKept {t : State} (h : Reads s t) (Q : Place → Prop) : WordsKept Q s t :=
  ⟨fun q _ => h.stored? q, by rw [h.mem]⟩

theorem wordsKept_logWrite (Q : Place → Prop) (s : State) (p : Place) (r : Req) : WordsKept Q s (logWrite s p r) := by
  unfold logWrite
  split
  · split
    · exact .refl Q s
    · exact ⟨fun _ _ => rfl, rfl⟩
  · exact .refl Q s

section
variable {Q : Place → Prop} {p : Place} (apart : ∀ q, Q q → q.Apart p)
include apart

theorem wordsKept_storeWord (s : State) (w : StoredWord) : WordsKept Q s (storeWord s p w) := by
  refine ⟨fun q hq => ?_, ?_⟩
  · have differ := apart q hq
    unfold stored?
    rw [storeWord_mem]
    cases hp : p.hbm <;> cases hq : q.hbm <;> simp_all [Place.Apart, look_put_other]
  · rw [storeWord_mem]
    split <;> rfl

theorem wordsKept_writePlace (s : State) (d : Line) : WordsKept Q s (writePlace s p d) := by
  refine ⟨fun q hq => stored?_writePlace_other p q d (apart q hq), ?_⟩
  cases out : placeOut s p with
  | true => rw [writePlace_out p d out]
  | false =>
    rw [writePlace_mem p d out]
    split <;> rfl

theorem wordsKept_contest (s : State) (r : Req) : WordsKept Q s (contest s p r) := by
  have either (b : Bool) {t : State} (h : WordsKept Q s t) : WordsKept Q s (if b then s else t) := by
    cases b
    · exact h
    · exact .refl Q s
  exact either _ (t := modMem (bumpFree (storeWord s p _)) _) (wordsKept_storeWord apart s _)

theorem wordsKept_writeWord (s : State) (d : Line) (r : Req) : WordsKept Q s (writeWord s p d r) :=
  ((wordsKept_logWrite Q s p r).trans (wordsKept_writePlace apart _ d)).trans (wordsKept_contest apart _ r)

theorem wordsKept_writePart (s : State) (off : Nat) (bs : List Byte) (r : Req) (tag ra : Nat) :
    WordsKept Q s (writePart s p off bs r tag ra).2 := by
  have noted := (reads_noteRead s p r tag ra).wordsKept Q
  unfold writePart
  split
  · dsimp only
    split
    · exact noted
    · exact wordsKept_writeWord apart s _ r
  · split
    · refine WordsKept.trans ?_ (wordsKept_writeWord apart _ _ r)
      split
      · exact noted
      · exact noted.trans ((reads_countAt _ _ _ _).wordsKept Q)
    · exact noted

end

/-! ## Spans -/

/-- A span write keeps every word that no offset of the span names. -/
theorem wordsKept_writeChunks {Q : Place → Prop} (t rn : Nat) (r : Region) (req : Req) (n o : Nat) (bs : List Byte) (e : Option Nat)
    (h : ∀ x p, o ≤ x → x < o + bs.length → regionPlace r x = some p → ∀ q, Q q → q.Apart p) :
    WordsKept Q s (writeChunks t rn r req n s o bs e).2 := by
  induction n generalizing s o bs e with
  | zero => exact .refl Q s
  | succ n ih =>
    simp only [writeChunks]
    split
    · exact .refl Q s
    next more =>
      have nonempty : 0 < bs.length := List.length_pos_iff.2 fun none => more (by rw [none]; rfl)
      split
      · exact .refl Q s
      next p hp =>
        have first := wordsKept_writePart (h o p (Nat.le_refl o) (by omega) hp) s (o % 32)
          (bs.take (min (32 - o % 32) bs.length)) req t (2 ^ 48 * rn + o)
        have rest : ∀ x p, o + min (32 - o % 32) bs.length ≤ x →
            x < o + min (32 - o % 32) bs.length + (bs.drop (min (32 - o % 32) bs.length)).length →
            regionPlace r x = some p → ∀ q, Q q → q.Apart p := by
          intro x p hlo hhi
          rw [List.length_drop] at hhi
          exact h x p (by omega) (by omega)
        split
        all_goals
          rename_i eq
          rw [eq] at first
          exact first.trans (ih _ _ _ rest)

/-- No offset of a span of a region names the place's word. -/
def Place.Outside (q : Place) (r : Region) (o n : Nat) : Prop :=
  ∀ x p, o ≤ x → x < o + n → regionPlace r x = some p → q.Apart p

theorem wordsKept_writeSpan {t a : Nat} {bs : List Byte} {r : Region} (req : Req) (hr : region? s t (regionOf a) = some r) :
    WordsKept (·.Outside r (offsetOf a) bs.length) s (writeSpan s t a bs req).2 := by
  have chunks := wordsKept_writeChunks (s := s) (Q := (·.Outside r (offsetOf a) bs.length)) t (regionOf a) r req (bs.length + 1)
    (offsetOf a) bs none fun x p hlo hhi hp q hq => hq x p hlo hhi hp
  unfold writeSpan
  rw [hr]
  dsimp only
  split
  · split
    all_goals
      rename_i eq
      rwa [eq] at chunks
  · exact .refl _ s

section
variable {p : Place}

/-- A span of one whole word is one write of it. -/
theorem writeSpan_word {t a : Nat} {bs : List Byte} {r : Region} (req : Req) (hr : region? s t (regionOf a) = some r)
    (hsize : offsetOf a + bs.length ≤ r.size) (hlen : bs.length = 32) (halign : offsetOf a % 32 = 0)
    (hp : regionPlace r (offsetOf a) = some p) (hin : placeOut s p = false) :
    (writeSpan s t a bs req).2 = writeWord s p (bytesLine bs) req := by
  have nonempty : bs.isEmpty = false := by
    cases bs with
    | nil => cases hlen
    | cons b bs => rfl
  have all : bs.take 32 = bs := List.take_of_length_le (Nat.le_of_eq hlen)
  have done : bs.drop 32 = [] := List.drop_eq_nil_of_le (Nat.le_of_eq hlen)
  have chunk : writeChunks t (regionOf a) r req (bs.length + 1) s (offsetOf a) bs none =
      (none, writeWord s p (bytesLine bs) req) := by
    rw [writeChunks, nonempty, hp, halign, hlen]
    simp [writePart, all, done, hlen, hin, writeChunks]
  unfold writeSpan
  rw [hr]
  dsimp only
  rw [if_pos hsize, chunk]

/-- A whole word in service that no running ember program touches reads back as written (R234). -/
theorem peek_writeWord_self (d : Line) (r : Req) (hin : placeOut s p = false) (hfree : touched s p = false) :
    peek (writeWord s p d r) p = .data d := by
  have inService : placeOut (logWrite s p r) p = false := ((writes_logWrite s p r).placeOut p).trans hin
  have writes : Writes s (writePlace (logWrite s p r) p d) := (writes_logWrite s p r).trans (writes_writePlace _ _ _)
  have untouched : touched (writePlace (logWrite s p r) p d) p = false := by
    unfold touched hearth
    rw [writes.hearths]
    exact hfree
  have plain : writeWord s p d r = writePlace (logWrite s p r) p d := by
    unfold writeWord contest
    rw [untouched]
    simp
  have stands : storedOr (writePlace (logWrite s p r) p d) p = encode (p.seal d) p.cover := by
    unfold storedOr
    rw [stored?_writePlace_self p d inService]
    rfl
  rw [plain]
  unfold peek placeClass
  rw [writes.placeOut p, hin, stands]
  dsimp only
  rw [syndrome_encode, classify_zero]
  exact congrArg Got.data (Place.unseal_seal p d)

end

end Sys2Proof.Machine
end

section
/-! Accesses to BAR2: which of them a mapping backs, and what each leaves (R74, R223, R234, R382, R391, log entry 30). -/

namespace Sys2Proof.Machine

variable {s : State} {fn off : Nat}

/-! ## An access that no region backs (R391) -/

/-- The PROT record of an access that no region backs flies to the function's own ring. -/
theorem protRecord_flies (s : State) (fn off : Nat) (write : Bool) : ∃ e, (protRecord s fn off write).ash.flying = s.ash.flying ++ [e] ∧
    e.type_ = 0x40 ∧ e.tenant = fn ∧ e.dests = [fn] ∧ fld e.detail 8 1 = if write then 1 else 0 := by
  refine ⟨_, rfl, rfl, rfl, rfl, ?_⟩
  dsimp only
  unfold detail
  rw [List.foldl_cons, List.foldl_cons, fld_foldl_splice_of_le _ _ _ _ (by simp), fld_splice_self _ _ _ (by simp)]
  cases write <;> rfl

theorem reads_protRecord (s : State) (fn off : Nat) (write : Bool) : Reads s (protRecord s fn off write) :=
  (reads_countT _ _ _ _).trans (reads_raiseAsh _ _ _ _ _ _ _ _)

/-! ## Reads -/

/-- What a backed read answers: the bytes of the span, or all ones as a poisoned completion (R382). -/
def bar2Answer (n : Nat) : Span × State → State
  | (.bytes b, s) => answerBar2 s b false
  | (_, s) => answerBar2 (countU s 0xC07 1) (allOnes n) true

section
variable {n : Nat} (hfn : fn ≤ 16) (hbar : inBar2 s fn off n = true)
include hfn hbar

/-- Before the part is live a read returns all ones (R124). -/
theorem exec_apertureRead_dead (hlive : live s = false) :
    exec (.apertureRead fn off n) s = .next (answerBar2 s (allOnes n) false) := by
  have hwf : Instr.wellFormed (.apertureRead fn off n) = true := decide_eq_true hfn
  show execApertureRead fn off n s = _
  unfold execApertureRead
  rw [hwf, hbar, hlive]
  rfl

theorem exec_apertureRead_unbacked (hlive : live s = true) (hback : backing s fn off n = none) :
    exec (.apertureRead fn off n) s =
      .next (answerBar2 (protRecord (countT s 0xC02 fn 1) fn off false) (allOnes n) false) := by
  have hwf : Instr.wellFormed (.apertureRead fn off n) = true := decide_eq_true hfn
  have same : backing (countT s 0xC02 fn 1) fn off n = none := hback
  show execApertureRead fn off n s = _
  unfold execApertureRead
  rw [hwf, hbar, hlive]
  dsimp only
  rw [same]
  rfl

theorem exec_apertureRead_backed {a : Nat} (hlive : live s = true) (hback : backing s fn off n = some a) :
    exec (.apertureRead fn off n) s = .next (bar2Answer n (readSpan (countT s 0xC02 fn 1) fn a n 8)) := by
  have hwf : Instr.wellFormed (.apertureRead fn off n) = true := decide_eq_true hfn
  have same : backing (countT s 0xC02 fn 1) fn off n = some a := hback
  show execApertureRead fn off n s = _
  unfold execApertureRead
  rw [hwf, hbar, hlive]
  dsimp only
  rw [same]
  dsimp only
  generalize readSpan (countT s 0xC02 fn 1) fn a n 8 = r
  obtain ⟨_ | _ | _, u⟩ := r <;> rfl

end

/-- An answer changes the data last returned, beside what a read changes. -/
theorem answerBar2_frame {u : State} (h : Reads s u) (bytes : List Byte) (poisoned : Bool) :
    (answerBar2 u bytes poisoned).mem = s.mem ∧ (answerBar2 u bytes poisoned).hearths = s.hearths ∧
      (answerBar2 u bytes poisoned).work = s.work := ⟨h.mem, h.hearths, h.work⟩

theorem bar2Answer_frame {r : Span × State} (h : Reads s r.2) (n : Nat) :
    (bar2Answer n r).mem = s.mem ∧ (bar2Answer n r).hearths = s.hearths ∧ (bar2Answer n r).work = s.work := by
  have bad := answerBar2_frame (h.trans (reads_countU r.2 0xC07 1)) (allOnes n) true
  obtain ⟨_ | _ | _, u⟩ := r
  · exact answerBar2_frame h _ _
  · exact bad
  · exact bad

/-! ## Writes -/

section
variable {bs : List Byte} (hfn : fn ≤ 16) (hbar : inBar2 s fn off bs.length = true) (hlive : live s = true)
include hfn hbar hlive

theorem exec_apertureWrite_unbacked (hback : backing s fn off bs.length = none) :
    exec (.apertureWrite fn off bs) s = .next (protRecord (countT s 0xC03 fn 1) fn off true) := by
  have hwf : Instr.wellFormed (.apertureWrite fn off bs) = true := decide_eq_true hfn
  have same : backing (countT s 0xC03 fn 1) fn off bs.length = none := hback
  show execApertureWrite fn off bs s = _
  unfold execApertureWrite
  rw [hwf, hbar, hlive]
  dsimp only
  rw [same]
  rfl

theorem exec_apertureWrite_backed {a : Nat} (hback : backing s fn off bs.length = some a) :
    exec (.apertureWrite fn off bs) s = .next (writeSpan (countT s 0xC03 fn 1) fn a bs 9).2 := by
  have hwf : Instr.wellFormed (.apertureWrite fn off bs) = true := decide_eq_true hfn
  have same : backing (countT s 0xC03 fn 1) fn off bs.length = some a := hback
  show execApertureWrite fn off bs s = _
  unfold execApertureWrite
  rw [hwf, hbar, hlive]
  dsimp only
  rw [same]
  rfl

end

/-- Settles O28: a read by what backs it, a write by the words of its span. -/
theorem aperturesMoveData : Obligations.AperturesMoveData := by
  refine ⟨?read, ?write, ?unbacked⟩
  case read =>
    intro s fn off n hfn hbar
    cases hlive : live s with
    | false =>
      exact ⟨_, exec_apertureRead_dead hfn hbar hlive, fun _ => ⟨rfl, rfl, rfl⟩,
        fun h => absurd h Bool.false_ne_true, fun _ _ _ h => absurd h Bool.false_ne_true,
        fun _ _ _ h => absurd h Bool.false_ne_true, rfl, rfl, rfl, rfl, rfl⟩
    | true =>
      cases hback : backing s fn off n with
      | none =>
        have flies := protRecord_flies (countT s 0xC02 fn 1) fn off false
        have reads : Reads s (protRecord (countT s 0xC02 fn 1) fn off false) := (reads_countT _ _ _ _).trans (reads_protRecord _ _ _ _)
        obtain ⟨mem, hearths, work⟩ := answerBar2_frame reads (allOnes n) false
        exact ⟨_, exec_apertureRead_unbacked hfn hbar hlive hback, fun h => absurd h.symm Bool.false_ne_true,
          fun _ _ => ⟨rfl, rfl, flies⟩, fun _ _ _ _ h => absurd h (Option.some_ne_none _).symm,
          fun _ _ _ _ h => absurd h (Option.some_ne_none _).symm, by rw [mem], by rw [mem], by rw [mem], hearths, work⟩
      | some a =>
        have reads : Reads s (readSpan (countT s 0xC02 fn 1) fn a n 8).2 := (reads_countT _ _ _ _).trans (reads_readSpan _ _ _ _ _)
        obtain ⟨mem, hearths, work⟩ := bar2Answer_frame reads n
        refine ⟨_, exec_apertureRead_backed hfn hbar hlive hback, fun h => absurd h.symm Bool.false_ne_true,
          fun _ h => absurd h (Option.some_ne_none _), fun a' b s' _ same hread => ?_,
          fun a' k s' _ same hread => ?_, by rw [mem], by rw [mem], by rw [mem], hearths, work⟩
        all_goals
          rw [Option.some.injEq] at same
          subst same
          rw [hread]
          exact ⟨rfl, rfl⟩
  case write =>
    intro s fn off a bs r hfn hbar hlive hback hr hsize
    have region : region? (countT s 0xC03 fn 1) fn (regionOf a) = some r := hr
    have writes : Writes s (writeSpan (countT s 0xC03 fn 1) fn a bs 9).2 :=
      (reads_countT _ _ _ _).writes.trans (writes_writeSpan _ _ _ _ _)
    have kept := wordsKept_writeSpan (bs := bs) 9 region
    refine ⟨_, exec_apertureWrite_backed hfn hbar hlive hback, fun q h => kept.1 q fun x p hlo hhi hp => ?_,
      fun p hlen halign hp hin hfree => ?_, kept.2, writes.hearths, writes.work⟩
    · by_cases same : q.hbm = p.hbm
      · exact .inr fun index => h x p hlo hhi hp ⟨same.symm, index.symm⟩
      · exact .inl same
    · rw [writeSpan_word 9 region hsize hlen halign hp hin]
      exact peek_writeWord_self _ _ hin hfree
  case unbacked =>
    intro s fn off bs hfn hbar hlive hback
    have reads : Reads s (protRecord (countT s 0xC03 fn 1) fn off true) := (reads_countT _ _ _ _).trans (reads_protRecord _ _ _ _)
    exact ⟨_, exec_apertureWrite_unbacked hfn hbar hlive hback, reads.mem, protRecord_flies (countT s 0xC03 fn 1) fn off true⟩

end Sys2Proof.Machine
end

section
/-! What the end of work leaves of the tenants: they, their sites and their queues outlast whatever runs, ends or stops on the sites
(R49, R167, R194, R255, R281). `standing` leaves out all of the work's records; this keeps them but for the dispatches themselves. -/

namespace Sys2Proof.Machine

/-- The state without what the end of work may change: the dispatches, the hearths, memory, ash events, counters and the count of free
values. -/
def lasting (s : State) : State :=
  { s with free := 0, work := { s.work with disps := [] }, hearths := [], mem := .reset, ash := .reset, counters := .reset }

section
variable {s t : State}

theorem lasting_of_writes (h : Writes s t) : lasting t = lasting s := by rw [show t = _ from h]; rfl

theorem lasting_of_reads (h : Reads s t) : lasting t = lasting s := lasting_of_writes h.writes

theorem pcie_of_lasting (h : lasting t = lasting s) : t.pcie = s.pcie := (congrArg State.pcie h :)

/-- An answer taken apart into its value and its state. -/
theorem lasting_snd {α : Type} {p : α × State} {x : α} (h : p = (x, t)) : lasting t = lasting p.2 := by rw [h]

end

@[simp] theorem lasting_ite (c : Prop) [Decidable c] (s t : State) :
    lasting (if c then s else t) = if c then lasting s else lasting t := apply_ite lasting c s t

@[simp] theorem lasting_snd_ite {α : Type} (c : Prop) [Decidable c] (p q : α × State) :
    lasting (if c then p else q).2 = if c then lasting p.2 else lasting q.2 := apply_ite (lasting ·.2) c p q

/-- A fold whose every step leaves what lasts of the state that it carries. -/
theorem lasting_foldl_of {α β : Type} {g : α → State} {f : α → β → α} (h : ∀ a b, lasting (g (f a b)) = lasting (g a))
    (l : List β) (a : α) : lasting (g (l.foldl f a)) = lasting (g a) := by
  induction l generalizing a with
  | nil => rfl
  | cons b l ih => rw [List.foldl_cons, ih, h]

@[simp] theorem lasting_foldl {β : Type} {f : State → β → State} (h : ∀ s b, lasting (f s b) = lasting s) (l : List β)
    (s : State) : lasting (l.foldl f s) = lasting s := lasting_foldl_of (g := id) h l s

variable (s : State)

/-! ## Parts of the state, memory words, dispatches -/

@[simp] theorem lasting_modHearth (site f) : lasting (modHearth s site f) = lasting s := (rfl)
@[simp] theorem lasting_setHearth (site h) : lasting (setHearth s site h) = lasting s := (rfl)
@[simp] theorem lasting_modMem (f) : lasting (modMem s f) = lasting s := (rfl)
@[simp] theorem lasting_bumpFree : lasting (bumpFree s) = lasting s := (rfl)
@[simp] theorem lasting_countAt (event site n) : lasting (countAt s event site n) = lasting s := (rfl)
@[simp] theorem lasting_raiseAsh (ty source tag reason det dests alerts) :
    lasting (raiseAsh s ty source tag reason det dests alerts) = lasting s := (rfl)
@[simp] theorem lasting_storeWord (p w) : lasting (storeWord s p w) = lasting s := (rfl)
@[simp] theorem lasting_forgetRaces (site) : lasting (forgetRaces s site) = lasting s := (rfl)
@[simp] theorem lasting_endDisp (id rs) : lasting (endDisp s id rs) = lasting s := (rfl)
@[simp] theorem lasting_endUnit (id unit r) : lasting (endUnit s id unit r) = lasting s := (rfl)
@[simp] theorem lasting_readPlace (p r tag regionAddr) :
    lasting (readPlace s p r tag regionAddr).2 = lasting s := lasting_of_reads (reads_readPlace _ _ _ _ _)
@[simp] theorem lasting_writePart (p off bs r tag regionAddr) :
    lasting (writePart s p off bs r tag regionAddr).2 = lasting s := lasting_of_writes (writes_writePart _ _ _ _ _ _ _)
@[simp] theorem lasting_readSpan (t a len req) :
    lasting (readSpan s t a len req).2 = lasting s := lasting_of_reads (reads_readSpan _ _ _ _ _)
@[simp] theorem lasting_writeSpan (t a bs req) :
    lasting (writeSpan s t a bs req).2 = lasting s := lasting_of_writes (writes_writeSpan _ _ _ _ _)
@[simp] theorem lasting_stRead (site a n r) :
    lasting (stRead s site a n r).2 = lasting s := lasting_of_reads (reads_stRead _ _ _ _ _)
@[simp] theorem lasting_stWrite (site a bs r) : lasting (stWrite s site a bs r) = lasting s := (rfl)

/-! ## Tiles, transfers, streams -/

@[simp] theorem lasting_readShare (t site a len req) : lasting (readShare s t site a len req).2 = lasting s := by
  unfold readShare
  split
  · rfl
  · split <;> simp

/-- The words of a page, each read and stored in turn. -/
theorem lasting_refillPage_go (site wp r l a) : lasting (refillPage.go site wp r s a l).2 = lasting s := by
  induction l generalizing s a with
  | nil => rfl
  | cons w l ih =>
    simp only [refillPage.go]
    split
    next h => simp [lasting_snd h]
    next h => simp [ih, lasting_snd h]

@[simp] theorem lasting_refillPage (site p wp r) : lasting (refillPage s site p wp r).2 = lasting s := by
  unfold refillPage
  have page := lasting_refillPage_go s site wp r wp.words (4096 * p)
  split
  next h => simpa [lasting_snd h] using page
  next => exact page

@[simp] theorem lasting_refillPages (site r l) : lasting (refillPages s site r l).2 = lasting s := by
  induction l generalizing s with
  | nil => rfl
  | cons p l ih =>
    simp only [refillPages]
    split
    · rw [lasting_snd_ite, ih]
      split
      · rfl
      · split
        next h => simp [ih, lasting_snd h]
        next => simp
    · exact ih s

@[simp] theorem lasting_tileWeights (site tn t r) : lasting (tileWeights s site tn t r).2 = lasting s := by
  unfold tileWeights
  split
  · split
    next h => simp [lasting_snd h]
    next h => split <;> rename_i h' <;> simp [lasting_snd h', lasting_snd h]
  · simp

@[simp] theorem lasting_tileRows (site t a w c0 q) :
    lasting (tileRows s site t a w c0 q).1 = lasting s := lasting_foldl_of (g := Prod.fst) (fun _ _ => by simp) _ _

@[simp] theorem lasting_tileC0 (site t r n) : lasting (tileC0 s site t r n).2 = lasting s := by
  induction n with
  | zero => rfl
  | succ n ih =>
    simp only [tileC0]
    split
    next h => simp [lasting_snd h, ih]
    next h => split <;> rename_i h' <;> simp [lasting_snd h', lasting_snd h, ih]

@[simp] theorem lasting_tileEffect (site tn it) : lasting (tileEffect s site tn it).2 = lasting s := by
  unfold tileEffect
  dsimp only
  split
  next h => simp [lasting_snd h]
  next h => simp [lasting_snd h]
  next w t h =>
    have weights : lasting t = lasting s := by simp [lasting_snd h]
    split
    next h => simp [lasting_snd h, weights]
    next a t' h =>
      have rows : lasting t' = lasting s := by simp [lasting_snd h, weights]
      split
      next h => simp [lasting_snd h, rows]
      next c0 u h =>
        have sums : lasting u = lasting s := by simp [lasting_snd h, rows]
        simp only [lasting_countAt, lasting_ite, lasting_modHearth, lasting_stWrite, ite_self]
        split
        · split
          · simp [sums]
          · split <;> simp [sums]
        · simp [sums]

@[simp] theorem lasting_dmaSide (site tn kind a n req) : lasting (dmaSide s site tn kind a n req).2 = lasting s := by
  unfold dmaSide
  split
  · split <;> rename_i h <;> simp [lasting_snd h]
  · simp

@[simp] theorem lasting_dmaWords (site tn it r n o) : lasting (dmaWords site tn it r n s o).2 = lasting s := by
  induction n generalizing s o with
  | zero => rfl
  | succ n ih =>
    simp only [dmaWords]
    split
    next h =>
      split
      · simp [ih, lasting_snd h]
      · split <;> rename_i h' <;> simp [ih, lasting_snd h', lasting_snd h]
    next h => simp [lasting_snd h]

@[simp] theorem lasting_dmaEffect (site tn ch it) : lasting (dmaEffect s site tn ch it).2 = lasting s := by simp [dmaEffect]

@[simp] theorem lasting_streamEffect (site other it) : lasting (streamEffect s site other it).2 = lasting s := by
  unfold streamEffect
  dsimp only
  split
  next h => simp [lasting_snd h]
  next h => split <;> simp [lasting_snd h]

@[simp] theorem lasting_foresee (site e) : lasting (foresee site s e) = lasting s := (rfl)
@[simp] theorem lasting_unforesee (site e) : lasting (unforesee site s e) = lasting s := (rfl)

/-- Overtaken work around an effect changes nothing that lasts either. -/
theorem lasting_amid {α : Type} {f : State → α × State} (h : ∀ s, lasting (f s).2 = lasting s) (site q num) :
    lasting (amid s site q num f).2 = lasting s := by
  unfold amid
  split <;> simp [h]

@[simp] theorem lasting_runTile (site it) :
    lasting (runTile s site it).2 = lasting s := lasting_amid _ (fun _ => lasting_tileEffect _ _ _ _) _ _ _
@[simp] theorem lasting_runStream (site other it) :
    lasting (runStream s site other it).2 = lasting s := lasting_amid _ (fun _ => lasting_streamEffect _ _ _ _) _ _ _
@[simp] theorem lasting_runDma (site ch it) :
    lasting (runDma s site ch it).2 = lasting s := lasting_amid _ (fun _ => lasting_dmaEffect _ _ _ _ _) _ _ _

/-! ## Ember programs and Andiron launches -/

@[simp] theorem lasting_flushMerge (site en run) : lasting (flushMerge s site en run).2 = lasting s := by
  refine lasting_foldl_of (g := Prod.snd) (fun x p => ?_) _ _
  split
  · rfl
  · dsimp only
    split <;> rename_i h <;> simp [lasting_snd h]

@[simp] theorem lasting_settleContest (site run) : lasting (settleContest s site run) = lasting s := by
  unfold settleContest
  dsimp only
  split <;> simp

@[simp] theorem lasting_emberDone (site ember st det) : lasting (emberDone s site ember st det) = lasting s := by
  unfold emberDone
  split <;> simp

@[simp] theorem lasting_emberAbort (site ember st det) : lasting (emberAbort s site ember st det) = lasting s := by
  unfold emberAbort
  split
  · rfl
  · split <;> simp

@[simp] theorem lasting_writeResult (site l i bs) : lasting (writeResult s site l i bs) = lasting s := by simp [writeResult]
@[simp] theorem lasting_finishEnv (site lane l e) : lasting (finishEnv s site lane l e) = lasting s := by simp [finishEnv]
@[simp] theorem lasting_stopRunning (site l) : lasting (stopRunning s site l) = lasting s := by simp [stopRunning]
@[simp] theorem lasting_stopLaunches (site disp) : lasting (stopLaunches s site disp) = lasting s := by simp [stopLaunches]

/-! ## Stops and traps -/

@[simp] theorem lasting_settleStreams (site) : lasting (settleStreams s site) = lasting s := by
  refine lasting_foldl (fun s it => ?_) _ _
  split <;> simp

@[simp] theorem lasting_settleStarted (site) : lasting (settleStarted s site) = lasting s := by simp [settleStarted]
@[simp] theorem lasting_stopItemEmbers (site disp) :
    lasting (stopItemEmbers s site disp) = lasting s := by simp [stopItemEmbers]
@[simp] theorem lasting_stopSequencer (site) : lasting (stopSequencer s site) = lasting s := (rfl)
@[simp] theorem lasting_stopRecipe (site) : lasting (stopRecipe s site) = lasting s := by simp [stopRecipe]
@[simp] theorem lasting_stopDispOn (id site) : lasting (stopDispOn s id site) = lasting s := by simp [stopDispOn]

@[simp] theorem lasting_stopSiblings (id) : lasting (stopSiblings s id) = lasting s := by
  unfold stopSiblings
  split <;> simp

@[simp] theorem lasting_endWorkOn (sites st det) : lasting (endWorkOn s sites st det) = lasting s := by simp [endWorkOn]
@[simp] theorem lasting_endUnclaimed (sites st det) : lasting (endUnclaimed s sites st det) = lasting s := by simp [endUnclaimed]

end Sys2Proof.Machine
end

section
/-! What resets and the end of a tenant leave of the host's side (R71, R76, R173): a tenant's seat, and the functions' records. -/

namespace Sys2Proof.Machine

/-! ## The functions' records -/

/-- From `s` to `t` vectors were raised at most: messages are sent, pending bits set, and none while PERST_N is asserted (R76). -/
structure Notified (s t : State) : Prop where
  perst : s.pcie.perst = true → t.pcie = s.pcie
  port : t.pcie = { s.pcie with fns := t.pcie.fns, sent := t.pcie.sent }
  record (fn : Nat) : pcieFn t fn = { pcieFn s fn with pending := (pcieFn t fn).pending }
  pending (fn : Nat) : (pcieFn s fn).pending ⊆ (pcieFn t fn).pending

section
variable {s t u : State}

theorem Notified.of_pcie (h : t.pcie = s.pcie) : Notified s t := by
  have fns (fn : Nat) : pcieFn t fn = pcieFn s fn := by simp only [pcieFn, h]
  exact ⟨fun _ => h, by rw [h], fun fn => by rw [fns], fun fn => by rw [fns]; exact List.Subset.refl _⟩

theorem Notified.trans (h : Notified s t) (k : Notified t u) : Notified s u where
  perst hp := by rw [k.perst (by rw [h.perst hp, hp]), h.perst hp]
  port := by rw [k.port, h.port]
  record fn := by rw [k.record, h.record]
  pending fn := List.Subset.trans (h.pending fn) (k.pending fn)

end

/-- A function's pending bits only gain. -/
theorem notified_modPcieFn {s : State} {f : PcieFn → PcieFn} (fn : Nat) (off : s.pcie.perst = false)
    (same : ∀ x, f x = { x with pending := (f x).pending }) (grows : ∀ x, x.pending ⊆ (f x).pending) :
    Notified s (modPcieFn s fn f) where
  perst on := absurd (off.symm.trans on) Bool.false_ne_true
  port := rfl
  record g := by
    by_cases hg : g = fn
    · subst hg
      rw [pcieFn_modPcieFn_self]
      exact same _
    · rw [pcieFn_modPcieFn_other _ _ _ hg]
  pending g := by
    by_cases hg : g = fn
    · subst hg
      rw [pcieFn_modPcieFn_self]
      exact grows _
    · rw [pcieFn_modPcieFn_other _ _ _ hg]
      exact List.Subset.refl _

/-- A pending bit that is set stays set. -/
theorem pending_subset_of_added (l : List Nat) (v : Nat) : l ⊆ if l.contains v then l else l ++ [v] := by
  split
  · exact List.Subset.refl _
  · exact List.subset_append_left _ _

theorem notified_raiseVector (s : State) (fn v : Nat) : Notified s (raiseVector s fn v) := by
  unfold raiseVector
  split
  · exact .of_pcie rfl
  next h =>
    have off : s.pcie.perst = false := by simp_all
    split
    · exact ⟨fun on => absurd (off.symm.trans on) Bool.false_ne_true, rfl, fun _ => rfl, fun _ => List.Subset.refl _⟩
    · exact notified_modPcieFn fn off (fun _ => rfl) fun x => pending_subset_of_added x.pending v

/-! ## A tenant's seat -/

/-- What a reset keeps of the part, and which tenants there are. -/
structure Roll where
  dev : Dev
  sec : Sec
  mbx : SMap Mbx
  table : Option FptTable
  owner : SMap Nat
  alive : Nat → Bool

def roll (s : State) : Roll :=
  { dev := s.dev, sec := s.sec, mbx := s.mbx, table := s.fpt.table, owner := s.work.owner, alive := fun n => (tenant s n).alive }

/-- The roll, and the signals and PHASE of each tenant, which a reset clears in the end. -/
structure Seat where
  roll : Roll
  signals : Nat → SMap Word
  phase : Nat → Nat

def seat (s : State) : Seat :=
  { roll := roll s, signals := fun n => (tenant s n).signals, phase := fun n => (tenant s n).phase }

/-- From `s` to `t` the seats stayed and vectors were raised at most. -/
structure Seated (s t : State) : Prop where
  seat : seat t = seat s
  notified : Notified s t

section
variable {s t u : State}

theorem Seated.of_lasting (h : lasting t = lasting s) : Seated s t where
  seat := (congrArg Machine.seat h :)
  notified := .of_pcie (pcie_of_lasting h)

theorem Seated.roll (h : Seated s t) : roll t = Machine.roll s := congrArg Seat.roll h.seat

theorem Seated.signals (h : Seated s t) (n : Nat) : (tenant t n).signals = (tenant s n).signals :=
  congrFun (congrArg Seat.signals h.seat) n

theorem Seated.phase (h : Seated s t) (n : Nat) : (tenant t n).phase = (tenant s n).phase :=
  congrFun (congrArg Seat.phase h.seat) n

theorem alive_of_roll (h : Machine.roll t = Machine.roll s) (n : Nat) : (tenant t n).alive = (tenant s n).alive :=
  congrFun (congrArg Roll.alive h) n

theorem Seated.trans (h : Seated s t) (k : Seated t u) : Seated s u :=
  ⟨k.seat.trans h.seat, h.notified.trans k.notified⟩

theorem Seated.refl (s : State) : Seated s s := .of_lasting rfl

theorem Seated.ite {c : Prop} [Decidable c] (h : Seated s t) (k : Seated s u) : Seated s (if c then t else u) := by
  split
  · exact h
  · exact k

theorem Seated.foldl {β : Type} {f : State → β → State} (h : ∀ s b, Seated s (f s b)) (l : List β) (s : State) :
    Seated s (l.foldl f s) := by
  induction l generalizing s with
  | nil => exact .refl s
  | cons b l ih => exact (h s b).trans (ih (f s b))

end

variable (s : State)

/-- A change of a tenant that leaves its seat. -/
theorem seated_modTenant {f : Tenant → Tenant} (h : ∀ x, (f x).alive = x.alive ∧ (f x).signals = x.signals ∧ (f x).phase = x.phase)
    (t : Nat) : Seated s (modTenant s t f) where
  notified := .of_pcie rfl
  seat := by
    have same (n : Nat) : (tenant (modTenant s t f) n).alive = (tenant s n).alive ∧
        (tenant (modTenant s t f) n).signals = (tenant s n).signals ∧ (tenant (modTenant s t f) n).phase = (tenant s n).phase := by
      by_cases hn : n = t
      · subst hn
        rw [tenant_modTenant_self]
        exact h (tenant s n)
      · rw [tenant_modTenant_other _ _ _ hn]
        exact ⟨rfl, rfl, rfl⟩
    simp only [seat, roll, same]
    rfl

theorem seated_modQueue (t q : Nat) (f : Queue → Queue) : Seated s (modQueue s t q f) :=
  seated_modTenant s (f := fun x => { x with queues := putD .reset x.queues q (f (queue s t q)) }) (fun _ => ⟨rfl, rfl, rfl⟩) t

theorem seated_raiseVector (fn v : Nat) : Seated s (raiseVector s fn v) :=
  ⟨by rw [raiseVector_only]; rfl, notified_raiseVector s fn v⟩

theorem seated_leaveInflight (d : Disp) : Seated s (leaveInflight s d) :=
  (seated_modQueue s d.tenant d.queue fun q => { q with inflight := q.inflight - 1 }).trans (.of_lasting rfl)

theorem seated_writeRecord (d : Disp) : Seated s (writeRecord s d) := by
  refine .ite (seated_leaveInflight s d) ?_
  refine .trans ?_ (.ite (seated_raiseVector _ _ _) (.refl _))
  refine .trans ?_ (seated_leaveInflight _ d)
  refine .trans ?_ (seated_modQueue _ _ _ _)
  exact .trans (.of_lasting (lasting_of_writes (writes_ringPost _ _ _ _ _ _))) (.of_lasting (lasting_of_reads (reads_countT _ _ _ _)))

theorem seated_dropFrames (ids : List Nat) : Seated s (dropFrames s ids) := by
  refine .foldl (fun s p => ?_) _ s
  exact ⟨rfl, .of_pcie rfl⟩

theorem seated_closeDomains (t : Nat) : Seated s (closeDomains s t) := ⟨rfl, .of_pcie rfl⟩

theorem seated_resetDispatches (t : Nat) (silent : Bool) : Seated s (resetDispatches s t silent) :=
  .foldl (fun s _ => .ite (seated_leaveInflight s _) (seated_writeRecord s _)) _ s

/-! ## Repairs -/

@[simp] theorem lasting_raiseBucket (p owner a req y) : lasting (raiseBucket s p owner a req y) = lasting s :=
  lasting_of_reads (reads_raiseBucket _ _ _ _ _ _)

@[simp] theorem lasting_repairRow (f row) : lasting (repairRow s f row).1 = lasting s := by
  unfold repairRow
  dsimp only
  split
  · rfl
  · split <;> simp

@[simp] theorem lasting_poisonPlace (p h) : lasting (poisonPlace s p h) = lasting s := by
  unfold poisonPlace
  split
  · rfl
  · simp

@[simp] theorem lasting_lineRecord (ty f notMarked noSpare alerts) :
    lasting (lineRecord s ty f notMarked noSpare alerts) = lasting s := (rfl)

theorem seated_fenceUnit (u : FieldUnit) : Seated s (fenceUnit s u) := ⟨rfl, .of_pcie rfl⟩

/-- A repair without a spare left fences the bank; any other moves nothing but words and records (R379). -/
theorem seated_repairOne (f : LineFault) : Seated s (repairOne s f) := by
  unfold repairOne
  dsimp only
  split
  · exact (Seated.of_lasting (by simp)).trans (seated_fenceUnit _ _)
  · refine .of_lasting ?_
    rw [lasting_lineRecord, lasting_foldl (by simp), lasting_modMem, lasting_foldl_of (g := Prod.fst) (by simp), lasting_modMem]

theorem seated_repairSite (site limit : Nat) : Seated s (repairSite s site limit) :=
  .foldl (fun s _ => .foldl (fun s f => .ite (seated_repairOne s f) (.refl s)) _ s) _ s

/-! ## Hearths -/

theorem seated_resetHearth (site : Nat) : Seated s (resetHearth s site) := .of_lasting rfl

theorem seated_stopEmbers (site : Nat) : Seated s (stopEmbers s site) := .of_lasting (by simp [stopEmbers])

end Sys2Proof.Machine
end

section
/-! A tenant reset (R173): the tenant stays, its signals and PHASE are cleared. -/

namespace Sys2Proof.Machine

/-- The signals and PHASE of tenant `n` are as after a reset. -/
def Cleared (s : State) (n : Nat) : Prop := (tenant s n).signals = [] ∧ (tenant s n).phase = 0

def clearSignals (s : State) (t : Nat) : State := modTenant s t fun x => { x with signals := [], phase := 0 }

variable {s : State}

theorem Cleared.of_seated {t : State} {n : Nat} (h : Seated s t) (hc : Cleared s n) : Cleared t n :=
  ⟨(h.signals n).trans hc.1, (h.phase n).trans hc.2⟩

theorem tenantReset_of_dead {t : Nat} (h : (tenant s t).alive = false) (silent : Bool) : tenantReset s t silent = s :=
  if_pos (by rw [h]; rfl)

/-- All that a reset does before it clears the signals leaves every seat. -/
theorem tenantReset_of_alive {t : Nat} (h : (tenant s t).alive = true) (silent : Bool) :
    ∃ u, Seated s u ∧ tenantReset s t silent = closeDomains (clearSignals u t) t := by
  unfold tenantReset
  rw [if_neg (by simp [h])]
  refine ⟨_, ?_, rfl⟩
  refine .trans ?_ (.foldl seated_resetHearth _ _)
  refine .trans ?_ (.foldl (fun s x => seated_repairSite s x 12) _ _)
  refine .trans ?_ (seated_modTenant _ ?queues t)
  case queues => exact fun _ => ⟨rfl, rfl, rfl⟩
  refine .trans ?_ (seated_resetDispatches _ t silent)
  exact (seated_dropFrames s _).trans (.foldl seated_stopEmbers _ _)

/-! ## Signals and PHASE -/

theorem roll_clearSignals (t : Nat) : roll (clearSignals s t) = roll s := by
  have same (n : Nat) : (tenant (clearSignals s t) n).alive = (tenant s n).alive := by
    by_cases hn : n = t
    · subst hn
      rw [clearSignals, tenant_modTenant_self]
    · rw [clearSignals, tenant_modTenant_other _ _ _ hn]
  simp only [roll, same]
  rfl

theorem cleared_clearSignals_self (t : Nat) : Cleared (clearSignals s t) t := by
  rw [Cleared, clearSignals, tenant_modTenant_self]
  exact ⟨rfl, rfl⟩

theorem Cleared.clearSignals {n : Nat} (h : Cleared s n) (t : Nat) : Cleared (clearSignals s t) n := by
  by_cases hn : n = t
  · subst hn
    exact cleared_clearSignals_self n
  · rw [Cleared, Machine.clearSignals, tenant_modTenant_other _ _ _ hn]
    exact h

/-! ## The reset -/

variable (s)

theorem roll_tenantReset (t : Nat) (silent : Bool) : roll (tenantReset s t silent) = roll s := by
  cases halive : (tenant s t).alive with
  | false => rw [tenantReset_of_dead halive]
  | true =>
    obtain ⟨u, hu, e⟩ := tenantReset_of_alive halive silent
    rw [e, (seated_closeDomains _ t).roll, roll_clearSignals, hu.roll]

theorem notified_tenantReset (t : Nat) (silent : Bool) : Notified s (tenantReset s t silent) := by
  cases halive : (tenant s t).alive with
  | false => rw [tenantReset_of_dead halive]; exact .of_pcie rfl
  | true =>
    obtain ⟨u, hu, e⟩ := tenantReset_of_alive halive silent
    rw [e]
    exact hu.notified.trans (.of_pcie rfl)

variable {s}

/-- A tenant that is there has no signals and PHASE 0 after its reset (R173). -/
theorem cleared_tenantReset_self {t : Nat} (h : (tenant s t).alive = true) (silent : Bool) : Cleared (tenantReset s t silent) t := by
  obtain ⟨u, -, e⟩ := tenantReset_of_alive h silent
  rw [e]
  exact (cleared_clearSignals_self t).of_seated (seated_closeDomains _ t)

theorem Cleared.tenantReset {n : Nat} (h : Cleared s n) (t : Nat) (silent : Bool) : Cleared (tenantReset s t silent) n := by
  cases halive : (tenant s t).alive with
  | false => rwa [tenantReset_of_dead halive]
  | true =>
    obtain ⟨u, hu, e⟩ := tenantReset_of_alive halive silent
    rw [e]
    exact ((h.of_seated hu).clearSignals t).of_seated (seated_closeDomains _ t)

end Sys2Proof.Machine
end

section
/-! PERST_N and configuration requests (R69, R70, R72-R74, R122, R133, R467). -/

namespace Sys2Proof.Machine

/-! ## A fold over numbered units -/

/-- What a step brings about for its own number, and keeps for the others, holds after a fold for each number of the list. -/
theorem foldl_establishes {f : State → Nat → State} {P : State → Nat → Prop} (own : ∀ s n, P (f s n) n)
    (keep : ∀ s m n, P s n → P (f s m) n) (l : List Nat) (s : State) : ∀ n ∈ l, P (l.foldl f s) n := by
  have kept (n : Nat) (l : List Nat) (s : State) (h : P s n) : P (l.foldl f s) n := by
    induction l generalizing s with
    | nil => exact h
    | cons m l ih => exact ih (f s m) (keep s m n h)
  induction l generalizing s with
  | nil => nofun
  | cons m l ih =>
    intro n hn
    rcases List.mem_cons.mp hn with rfl | hn
    · exact kept n l (f s n) (own s n)
    · exact ih (f s m) n hn

/-! ## Mailbox reset -/

/-- A mailbox as a reset leaves it: indices and LEVEL 0, and what was taken runs on (R133). -/
def Emptied (m : Mbx) : Prop :=
  m.reqPi = 0 ∧ m.reqCi = 0 ∧ m.rspPi = 0 ∧ m.rspCi = 0 ∧ m.level = 0 ∧ m.resetting = true

section
variable (s : State)

theorem resetMailbox_only (fn : Nat) : resetMailbox s fn = { s with mbx := (resetMailbox s fn).mbx } := rfl

theorem resetMailbox_pcie (fn : Nat) : (resetMailbox s fn).pcie = s.pcie := rfl

theorem tenant_resetMailbox (fn n : Nat) : tenant (resetMailbox s fn) n = tenant s n := rfl

theorem emptied_resetMailbox_self (fn : Nat) : Emptied (mbx (resetMailbox s fn) fn) := by
  rw [resetMailbox, mbx_modMbx_self]
  exact ⟨rfl, rfl, rfl, rfl, rfl, rfl⟩

theorem mbx_resetMailbox_other {fn g : Nat} (h : g ≠ fn) : mbx (resetMailbox s fn) g = mbx s g := mbx_modMbx_other _ _ _ h

theorem emptied_resetMailbox {s : State} {g : Nat} (h : Emptied (mbx s g)) (fn : Nat) : Emptied (mbx (resetMailbox s fn) g) := by
  by_cases hg : g = fn
  · subst hg
    exact emptied_resetMailbox_self s g
  · rwa [mbx_resetMailbox_other s hg]

theorem foldl_resetMailbox_only (l : List Nat) :
    l.foldl resetMailbox s = { s with mbx := (l.foldl resetMailbox s).mbx } := by
  induction l generalizing s with
  | nil => rfl
  | cons fn l ih => rw [List.foldl_cons, ih, resetMailbox_only]

theorem foldl_resetMailbox_pcie (l : List Nat) : (l.foldl resetMailbox s).pcie = s.pcie := by rw [foldl_resetMailbox_only]

theorem tenant_foldl_resetMailbox (l : List Nat) (n : Nat) : tenant (l.foldl resetMailbox s) n = tenant s n := by
  rw [foldl_resetMailbox_only]
  rfl

end

/-! ## Live tenants -/

theorem mem_of_look {α : Type} {m : SMap α} {k : Nat} {v : α} (h : look m k = some v) : (k, v) ∈ m := by
  induction m with
  | nil => cases h
  | cons c m ih =>
    rw [look] at h
    split at h
    next e =>
      cases h
      simp [e]
    next => exact List.mem_cons_of_mem c (ih h)

theorem mem_liveTenants {s : State} {n : Nat} (h : (tenant s n).alive = true) : n ∈ liveTenants s := by
  unfold tenant lookD at h
  cases hlook : look s.work.tenants n with
  | none =>
    rw [hlook] at h
    cases h
  | some x =>
    rw [hlook] at h
    exact List.mem_map.mpr ⟨(n, x), List.mem_filter.mpr ⟨mem_of_look hlook, h⟩, rfl⟩

/-! ## PERST_N asserts -/

/-- PERST_N on the interface: configuration space resets and the link goes down (R72, R122). -/
def perstDown (s : State) : State :=
  modPcie (countU s 0xC0F 1) fun p =>
    { p with perst := true, linkUp := false, vfEnable := false, numVfs := 0, fns := [], latched := [] }

/-- Every tenant resets (R173). -/
def resetTenants (s : State) : State := (liveTenants s).foldl (fun s t => tenantReset s t false) s

theorem roll_resetTenants (s : State) : roll (resetTenants s) = roll s := by
  unfold resetTenants
  generalize liveTenants s = l
  induction l generalizing s with
  | nil => rfl
  | cons t l ih => rw [List.foldl_cons, ih, roll_tenantReset]

theorem notified_resetTenants (s : State) : Notified s (resetTenants s) := by
  unfold resetTenants
  generalize liveTenants s = l
  induction l generalizing s with
  | nil => exact .of_pcie rfl
  | cons t l ih => exact (notified_tenantReset s t false).trans (ih _)

theorem cleared_resetTenants {s : State} {n : Nat} (h : (tenant s n).alive = true) : Cleared (resetTenants s) n := by
  have alive (s : State) (m n : Nat) : (tenant (tenantReset s m false) n).alive = (tenant s n).alive :=
    alive_of_roll (roll_tenantReset s m false) n
  have each := foldl_establishes (f := fun s t => tenantReset s t false)
    (P := fun s n => (tenant s n).alive = true → Cleared s n)
    (fun s n hn => cleared_tenantReset_self ((alive s n n).symm.trans hn) false)
    (fun s m n hs hn => (hs ((alive s m n).symm.trans hn)).tenantReset m false) (liveTenants s) s n (mem_liveTenants h)
  exact each ((alive_of_roll (roll_resetTenants s) n).trans h)

theorem exec_perstNAssert {s : State} (hperst : s.pcie.perst = false) (hdev : s.dev.state ≠ .off) :
    exec .perstNAssert s = .next (allFns.foldl resetMailbox (resetTenants (perstDown s))) := by
  have dev : (resetTenants (perstDown s)).dev = s.dev := congrArg Roll.dev (roll_resetTenants (perstDown s))
  show Host.Outcome.next (ite (s.pcie.perst = true) s _) = _
  rw [if_neg (by rw [hperst]; exact Bool.false_ne_true)]
  refine congrArg Host.Outcome.next (if_neg ?_)
  exact fun off => hdev ((congrArg Dev.state dev).symm.trans off)

/-- A mailbox of the seventeen is emptied when PERST_N asserts (R133). -/
theorem emptied_foldl_allFns (s : State) {fn : Nat} (h : fn ≤ 16) : Emptied (mbx (allFns.foldl resetMailbox s) fn) :=
  foldl_establishes (P := fun s fn => Emptied (mbx s fn)) emptied_resetMailbox_self (fun _ m _ h => emptied_resetMailbox h m) allFns s
    fn (List.mem_range.mpr (by omega))

/-! ## Configuration space -/

theorem sizeIn_iff (v lo hi : Nat) : sizeIn v lo hi = true ↔ ∃ k, lo ≤ k ∧ k ≤ hi ∧ v = 2 ^ k := by
  simp only [sizeIn, List.any_eq_true, List.mem_range, Bool.and_eq_true, decide_eq_true_eq, beq_iff_eq, Nat.lt_succ_iff]
  grind

section
variable (s : State)

theorem foldl_modPcieFn_only (f : PcieFn → PcieFn) (l : List Nat) :
    l.foldl (fun s g => modPcieFn s g f) s =
      { s with pcie := { s.pcie with fns := (l.foldl (fun s g => modPcieFn s g f) s).pcie.fns } } := by
  induction l generalizing s with
  | nil => rfl
  | cons g l ih => rw [List.foldl_cons, ih]; rfl

/-- A configuration write changes the functions' records, nothing else. -/
theorem cfgWrite_only (fn : Nat) (f : CfgField) (v : Nat) :
    cfgWrite s fn f v = { s with pcie := { s.pcie with fns := (cfgWrite s fn f v).pcie.fns } } := by
  have one (ok : Bool) (g : PcieFn → PcieFn) : (if ok then modPcieFn s fn g else s) =
      { s with pcie := { s.pcie with fns := (if ok then modPcieFn s fn g else s).pcie.fns } } := by
    split <;> rfl
  cases f with
  | powerState => exact one _ _
  | maxPayload => exact one _ _
  | maxReadRequest => exact one _ _
  | barSize n => exact one _ _
  | vfBarSize n =>
    unfold cfgWrite
    dsimp only
    split
    · exact foldl_modPcieFn_only s _ _
    · rfl
  | _ => rfl

/-- The size of BAR2 of function 0 (R74). -/
theorem cfgWrite_barSize_two (v : Nat) : cfgWrite s 0 (.barSize 2) v =
    if sizeIn v 28 36 then modPcieFn s 0 fun x => { x with bar2Size := v } else s := rfl

/-- BAR2 of function 0 takes a power of two from 256 MiB to 64 GiB, and keeps its size otherwise. -/
theorem pcieFn_cfgWrite_barSize_two (v : Nat) :
    (∀ g, g ≠ 0 → pcieFn (cfgWrite s 0 (.barSize 2) v) g = pcieFn s g) ∧
      ((∃ k, 28 ≤ k ∧ k ≤ 36 ∧ v = 2 ^ k) → pcieFn (cfgWrite s 0 (.barSize 2) v) 0 = { pcieFn s 0 with bar2Size := v }) ∧
      ((¬ ∃ k, 28 ≤ k ∧ k ≤ 36 ∧ v = 2 ^ k) → pcieFn (cfgWrite s 0 (.barSize 2) v) 0 = pcieFn s 0) := by
  rw [cfgWrite_barSize_two, ← sizeIn_iff]
  split
  next h =>
    exact ⟨fun g hg => pcieFn_modPcieFn_other _ _ _ hg, fun _ => pcieFn_modPcieFn_self _ _ _, fun hn => absurd h hn⟩
  next h => exact ⟨fun _ _ => rfl, fun hv => absurd hv h, fun _ => rfl⟩

end

/-! ## Configuration requests -/

/-- What a configuration request is answered with (R122). -/
def cfgAnswer (s : State) (fn : Nat) : CfgReply :=
  if s.pcie.perst = true ∨ s.pcie.linkUp = false ∨ s.dev.state = .off then .linkDown
  else if s.dev.state = .boot ∧ s.dev.step < 2 then .retry
  else if fn = 0 ∨ (s.pcie.vfEnable = true ∧ fn ≤ s.pcie.numVfs) then .completion else .absent

/-- `t` is `s` after a configuration request of function `fn` that was answered `r`. -/
def CfgAnswered (s : State) (fn : Nat) (a : CfgAccess) (r : CfgReply) (t : State) : Prop :=
  t.pcie.cfgReply = r ∧
    (t.pcie.cfgReply ≠ .completion → t.pcie.cfgData = s.pcie.cfgData ∧ t.pcie.fns = s.pcie.fns) ∧
    (t.pcie.cfgReply = .completion →
      (∀ f, a = .read f → t.pcie.cfgData = cfgValue s fn f ∧ t.pcie.fns = s.pcie.fns) ∧
      (∀ v, a = .write (.barSize 2) v → fn = 0 →
        t.pcie.cfgData = s.pcie.cfgData ∧ (∀ g, g ≠ 0 → pcieFn t g = pcieFn s g) ∧
        ((∃ k, 28 ≤ k ∧ k ≤ 36 ∧ v = 2 ^ k) → pcieFn t 0 = { pcieFn s 0 with bar2Size := v }) ∧
        ((¬ ∃ k, 28 ≤ k ∧ k ≤ 36 ∧ v = 2 ^ k) → pcieFn t 0 = pcieFn s 0))) ∧
    t = { s with pcie := { s.pcie with cfgReply := t.pcie.cfgReply, cfgData := t.pcie.cfgData, fns := t.pcie.fns },
                 counters := t.counters }

section
variable (s : State) (fn : Nat)

/-- A request that gets no completion changes nothing but the answer. -/
theorem cfgAnswered_without_completion {a : CfgAccess} {r : CfgReply} (h : r ≠ .completion) (c : Counters) :
    CfgAnswered s fn a r { s with pcie := { s.pcie with cfgReply := r }, counters := c } :=
  ⟨rfl, fun _ => ⟨rfl, rfl⟩, fun e => absurd e h, rfl⟩

theorem cfgAnswered_read (f : CfgField) (c : Counters) :
    CfgAnswered s fn (.read f) .completion
      { s with pcie := { s.pcie with cfgReply := .completion, cfgData := cfgValue s fn f }, counters := c } :=
  ⟨rfl, fun h => absurd rfl h, fun _ => ⟨fun g e => by cases e; exact ⟨rfl, rfl⟩, nofun⟩, rfl⟩

theorem cfgAnswered_write (f : CfgField) (v : Nat) (c : Counters) :
    CfgAnswered s fn (.write f v) .completion
      (modPcie (cfgWrite { s with counters := c } fn f v) fun p => { p with cfgReply := .completion }) := by
  rw [cfgWrite_only]
  refine ⟨rfl, fun h => absurd rfl h, fun _ => ⟨nofun, fun w e hfn => ?_⟩, rfl⟩
  cases e
  subst hfn
  exact ⟨rfl, pcieFn_cfgWrite_barSize_two { s with counters := c } v⟩

theorem fnReachable_iff {s : State} {fn : Nat} (h : ¬ (s.pcie.perst = true ∨ s.pcie.linkUp = false ∨ s.dev.state = .off)) :
    fnReachable s fn = true ↔ fn = 0 ∨ (s.pcie.vfEnable = true ∧ fn ≤ s.pcie.numVfs) := by
  unfold fnReachable
  simp_all

/-- A configuration request of a function that can exist is answered by the state of the part. -/
theorem exec_configRequest (a : CfgAccess) (hfn : fn ≤ 16) :
    ∃ t, exec (.configRequest ⟨fn, a⟩) s = .next t ∧ CfgAnswered s fn a (cfgAnswer s fn) t := by
  refine ⟨_, if_pos (decide_eq_true hfn), ?_⟩
  unfold cfgAnswer
  have down : (s.pcie.perst || !s.pcie.linkUp || s.dev.state == .off) = true ↔
      s.pcie.perst = true ∨ s.pcie.linkUp = false ∨ s.dev.state = .off := by simp [or_assoc]
  by_cases hdown : s.pcie.perst = true ∨ s.pcie.linkUp = false ∨ s.dev.state = .off
  · rw [if_pos hdown, if_pos (down.mpr hdown)]
    exact cfgAnswered_without_completion s fn (by decide) _
  rw [if_neg hdown, if_neg (mt down.mp hdown)]
  show CfgAnswered s fn a _ (ite (s.dev.state = .boot ∧ s.dev.step < 2) _ _)
  by_cases hboot : s.dev.state = .boot ∧ s.dev.step < 2
  · rw [if_pos hboot, if_pos hboot]
    exact cfgAnswered_without_completion s fn (by decide) _
  rw [if_neg hboot, if_neg hboot]
  show CfgAnswered s fn a _ (ite ((!fnReachable s fn) = true) _ _)
  by_cases hthere : fn = 0 ∨ (s.pcie.vfEnable = true ∧ fn ≤ s.pcie.numVfs)
  · rw [if_pos hthere, if_neg (by simp [(fnReachable_iff hdown).mpr hthere])]
    cases a with
    | read f => exact cfgAnswered_read s fn f _
    | write f v => exact cfgAnswered_write s fn f v _
  · rw [if_neg hthere, if_pos (by simpa using mt (fnReachable_iff hdown).mp hthere)]
    exact cfgAnswered_without_completion s fn (by decide) _

end

/-! ## O5 -/

/-- PERST_N empties the seventeen mailboxes, resets every tenant and takes the link down (R72, R133, R467). -/
theorem perstNAssert_resets {s : State} (hperst : s.pcie.perst = false) (hdev : s.dev.state ≠ .off) :
    ∃ t, exec .perstNAssert s = .next t ∧ t.pcie = (perstDown s).pcie ∧ (∀ fn, fn ≤ 16 → Emptied (mbx t fn)) ∧
      ∀ n, (tenant s n).alive = true → Cleared t n := by
  refine ⟨_, exec_perstNAssert hperst hdev, ?_, fun fn hfn => emptied_foldl_allFns _ hfn, fun n hn => ?_⟩
  · rw [foldl_resetMailbox_pcie]
    exact (notified_resetTenants (perstDown s)).perst rfl
  · rw [Cleared, tenant_foldl_resetMailbox]
    exact cleared_resetTenants (s := perstDown s) hn

theorem exec_perstNRelease (s : State) :
    exec .perstNRelease s = .next { s with pcie := { s.pcie with perst := false, linkUp := s.dev.state != .off } } := rfl

/-- What function 0 shows of itself (R70, R73). -/
theorem cfgValue_of_fn0 (s : State) :
    cfgValue s 0 .vendorId = 0x1F3C ∧ cfgValue s 0 .deviceId = 0x0176 ∧ cfgValue s 0 .classCode = 0x120000 ∧
      cfgValue s 0 .totalVfs = 16 ∧ cfgValue s 0 .vfOffset = 1 ∧ cfgValue s 0 .vfStride = 1 ∧ cfgValue s 0 .vfDeviceId = 0x0177 ∧
      cfgValue s 0 (.barSize 0) = 64 * 2 ^ 20 ∧ cfgValue s 0 (.vfBarSize 0) = 2 ^ 20 := by
  simp [cfgValue, barSize, bar0Size]

/-- Settles O5: PERST_N by the folds over the tenants and the mailboxes, a request by the case of the part it meets. -/
theorem perstAndConfigurationRequests : Obligations.PerstAndConfigurationRequests := by
  refine ⟨fun s hperst hdev => ?assert, fun s => ⟨_, exec_perstNRelease s, rfl⟩,
    fun s fn a hfn => exec_configRequest s fn a hfn, cfgValue_of_fn0⟩
  obtain ⟨t, e, hpcie, hmbx, hcleared⟩ := perstNAssert_resets hperst hdev
  refine ⟨t, e, ?_, ?_, ?_, ?_, ?_, hmbx, hcleared⟩ <;> rw [hpcie] <;> rfl

end Sys2Proof.Machine
end

section
/-! Bus mastering, MSI-X unmasking and function-level reset (R71, R76, R133, R173, R467). -/

namespace Sys2Proof.Machine

/-! ## Bus mastering -/

theorem exec_busMasterEnableSet {s : State} {fn : Nat} (hfn : fn ≤ 16) (h : fnReachable s fn = true) (on : Bool) :
    exec (.busMasterEnableSet fn on) s = .next (modPcieFn s fn fun f => { f with busMaster := on }) := by
  show guarded _ _ (ite (fnReachable s fn = true) _ _) = _
  rw [if_pos h]
  exact if_pos (decide_eq_true hfn)

/-! ## Messages of pending vectors -/

/-- One message for a vector of a function (R75). -/
def sendMessage (s : State) (fn v : Nat) : State :=
  countT (modPcie s fun p => { p with sent := p.sent ++ [(fn, v)] }) 0xC05 fn 1

/-- Messages sent one after the other follow those sent before, in order (R76). -/
theorem foldl_sendMessage (fn : Nat) (l : List Nat) (s : State) : ∃ c,
    l.foldl (fun s v => sendMessage s fn v) s =
      { s with pcie := { s.pcie with sent := s.pcie.sent ++ l.map fun v => (fn, v) }, counters := c } := by
  induction l generalizing s with
  | nil => exact ⟨s.counters, by simp⟩
  | cons v l ih =>
    obtain ⟨c, e⟩ := ih (sendMessage s fn v)
    refine ⟨c, ?_⟩
    rw [List.foldl_cons, e, List.map_cons, List.append_cons]
    rfl

/-- A function's record once its pending vectors have had their turn. -/
def PcieFn.flushed (f : PcieFn) : PcieFn := { f with pending := f.pending.filter fun v => !canSend f v }

/-- Each pending vector that may send does, and the others stay pending. -/
theorem flushPending_eq (s : State) (fn : Nat) : ∃ c,
    flushPending s fn =
      { s with
        pcie := { (setPcieFn s fn (pcieFn s fn).flushed).pcie with
          sent := s.pcie.sent ++ ((pcieFn s fn).pending.filter (canSend (pcieFn s fn))).map fun v => (fn, v) }
        counters := c } :=
  foldl_sendMessage fn _ _

/-! ## Unmasking -/

/-- A function's record once the host has unmasked something of it. -/
def PcieFn.unmask (fn : Nat) (what : Unmask) (f : PcieFn) : PcieFn :=
  match what with
  | .vector v => { f with unmasked := if v < vectors fn ∧ !f.unmasked.contains v then f.unmasked ++ [v] else f.unmasked }
  | .msixEnable => { f with msixEnable := true }
  | .functionMask => { f with functionMask := false }

section
variable {s : State} {fn : Nat}

theorem exec_msixUnmask (what : Unmask) (hwf : (Instr.msixUnmask fn what).wellFormed = true) (h : fnReachable s fn = true) :
    exec (.msixUnmask fn what) s = .next (flushPending (modPcieFn s fn (PcieFn.unmask fn what)) fn) := by
  show guarded _ _ (ite (fnReachable s fn = true) _ _) = _
  rw [if_pos h]
  exact if_pos hwf

/-- The function's record is unmasked and flushed, one message is sent for each vector flushed, and nothing else moves. -/
theorem msixUnmask_gives (what : Unmask) (hwf : (Instr.msixUnmask fn what).wellFormed = true) (h : fnReachable s fn = true) :
    ∃ t, exec (.msixUnmask fn what) s = .next t ∧
      pcieFn t fn = ((pcieFn s fn).unmask fn what).flushed ∧ (∀ g, g ≠ fn → pcieFn t g = pcieFn s g) ∧
      t.pcie.sent = s.pcie.sent ++
        (((pcieFn s fn).unmask fn what).pending.filter (canSend ((pcieFn s fn).unmask fn what))).map (fun x => (fn, x)) ∧
      t = { s with pcie := { s.pcie with fns := t.pcie.fns, sent := t.pcie.sent }, counters := t.counters } := by
  obtain ⟨c, e⟩ := flushPending_eq (modPcieFn s fn (PcieFn.unmask fn what)) fn
  rw [pcieFn_modPcieFn_self] at e
  refine ⟨_, (exec_msixUnmask what hwf h).trans (congrArg _ e), ?_, fun g hg => ?_, rfl, rfl⟩
  · exact pcieFn_setPcieFn_self _ fn _
  · exact (pcieFn_setPcieFn_other _ fn _ hg).trans (pcieFn_modPcieFn_other s fn _ hg)

end

/-! ## Function-level reset -/

/-- Mailbox and tenant of a function reset, before its configuration does (R133, R173). -/
def resetBehind (s : State) (fn : Nat) : State :=
  let s := resetMailbox (countT s 0xC0E fn 1) fn
  if fn = 0 then s else tenantReset s fn false

theorem exec_functionLevelReset {s : State} {fn : Nat} (hfn : fn ≤ 16) (h : fnReachable s fn = true) :
    exec (.functionLevelReset fn) s = .next (modPcieFn (resetBehind s fn) fn fun f =>
      { PcieFn.reset with bar2Size := f.bar2Size, maxPayload := f.maxPayload, pending := f.pending }) := by
  show guarded _ _ (ite (fnReachable s fn = true) _ _) = _
  rw [if_pos h]
  exact if_pos (decide_eq_true hfn)

section
variable (s : State) (fn : Nat)

theorem roll_resetBehind : roll (resetBehind s fn) = roll (resetMailbox (countT s 0xC0E fn 1) fn) := by
  unfold resetBehind
  dsimp only
  split
  · rfl
  · exact roll_tenantReset _ fn false

theorem notified_resetBehind : Notified s (resetBehind s fn) := by
  have mail : Notified s (resetMailbox (countT s 0xC0E fn 1) fn) :=
    .of_pcie ((resetMailbox_pcie _ fn).trans (countT_pcie s _ _ _))
  unfold resetBehind
  dsimp only
  split
  · exact mail
  · exact mail.trans (notified_tenantReset _ fn false)

theorem cleared_resetBehind {s : State} {fn : Nat} (hfn : fn ≠ 0) (h : (tenant s fn).alive = true) : Cleared (resetBehind s fn) fn := by
  have there : (tenant (resetMailbox (countT s 0xC0E fn 1) fn) fn).alive = true := by
    rw [tenant_resetMailbox, tenant, countT_work]
    exact h
  unfold resetBehind
  rw [if_neg hfn]
  exact cleared_tenantReset_self there false

end

end Sys2Proof.Machine
end

section
/-! The end of the tenants whose function goes, and of no other (R71, R174): what ends with a tenant leaves the other tenants there,
and NumVFs and VF Enable as the host wrote them. -/

namespace Sys2Proof.Machine

/-- VF Enable, NumVFs, and which tenants there are. -/
structure Tenancy where
  vfEnable : Bool
  numVfs : Nat
  alive : Nat → Bool

def tenancy (s : State) : Tenancy :=
  { vfEnable := s.pcie.vfEnable, numVfs := s.pcie.numVfs, alive := fun n => (tenant s n).alive }

/-- One tenant gone, and all else as before. -/
def Tenancy.without (x : Tenancy) (t : Nat) : Tenancy := { x with alive := fun n => if n = t then false else x.alive n }

section
variable {s t : State}

theorem tenancy_of_seated (h : Seated s t) : tenancy t = tenancy s := by
  have alive (n : Nat) : (tenant t n).alive = (tenant s n).alive := alive_of_roll h.roll n
  have port := h.notified.port
  simp only [tenancy, alive]
  rw [port]

theorem tenancy_of_lasting (h : lasting t = lasting s) : tenancy t = tenancy s := tenancy_of_seated (.of_lasting h)

end

@[simp] theorem tenancy_ite (c : Prop) [Decidable c] (s t : State) :
    tenancy (if c then s else t) = if c then tenancy s else tenancy t := apply_ite tenancy c s t

@[simp] theorem tenancy_foldl {β : Type} {f : State → β → State} (h : ∀ s b, tenancy (f s b) = tenancy s) (l : List β) (s : State) :
    tenancy (l.foldl f s) = tenancy s := by
  induction l generalizing s with
  | nil => rfl
  | cons b l ih => rw [List.foldl_cons, ih, h]

variable (s : State)

/-! ## Parts of the state -/

@[simp] theorem tenancy_modMem (f) : tenancy (modMem s f) = tenancy s := (rfl)
@[simp] theorem tenancy_modSec (f) : tenancy (modSec s f) = tenancy s := (rfl)
@[simp] theorem tenancy_modChain (f) : tenancy (modChain s f) = tenancy s := (rfl)
@[simp] theorem tenancy_modAshRing (t f) : tenancy (modAshRing s t f) = tenancy s := (rfl)
@[simp] theorem tenancy_bumpFree : tenancy (bumpFree s) = tenancy s := (rfl)
@[simp] theorem tenancy_raiseAsh (ty source tag reason det dests alerts) :
    tenancy (raiseAsh s ty source tag reason det dests alerts) = tenancy s := (rfl)
@[simp] theorem tenancy_setHearth (site h) : tenancy (setHearth s site h) = tenancy s := (rfl)
@[simp] theorem tenancy_forgetRaces (site) : tenancy (forgetRaces s site) = tenancy s := (rfl)
@[simp] theorem tenancy_setOwner (site new) : tenancy (setOwner s site new) = tenancy s := (rfl)
@[simp] theorem tenancy_forgetOwned (site) : tenancy (forgetOwned s site) = tenancy s := (rfl)
@[simp] theorem tenancy_clearWindows (fn) : tenancy (clearWindows s fn) = tenancy s := (rfl)
@[simp] theorem tenancy_endDisp (id rs) : tenancy (endDisp s id rs) = tenancy s := (rfl)
@[simp] theorem tenancy_setPcieFn (fn x) : tenancy (setPcieFn s fn x) = tenancy s := (rfl)
@[simp] theorem tenancy_closeDomains (t) : tenancy (closeDomains s t) = tenancy s := (rfl)
@[simp] theorem tenancy_dropFrames (ids) : tenancy (dropFrames s ids) = tenancy s := tenancy_of_seated (seated_dropFrames s ids)
@[simp] theorem tenancy_writeRecord (d) : tenancy (writeRecord s d) = tenancy s := tenancy_of_seated (seated_writeRecord s d)
@[simp] theorem tenancy_endWorkOn (sites st det) : tenancy (endWorkOn s sites st det) = tenancy s := tenancy_of_lasting (by simp)
@[simp] theorem tenancy_endUnclaimed (sites st det) :
    tenancy (endUnclaimed s sites st det) = tenancy s := tenancy_of_lasting (by simp)
@[simp] theorem tenancy_repairSite (site limit) :
    tenancy (repairSite s site limit) = tenancy s := tenancy_of_seated (seated_repairSite s site limit)

/-- A tenant that stays there, or stays away, whatever else it holds. -/
theorem tenancy_setTenant (t : Nat) (x : Tenant) (h : x.alive = (tenant s t).alive) : tenancy (setTenant s t x) = tenancy s := by
  have alive (n : Nat) : (tenant (setTenant s t x) n).alive = (tenant s n).alive := by
    by_cases hn : n = t
    · subst hn
      rw [tenant_setTenant_self, h]
    · rw [tenant_setTenant_other _ _ _ hn]
  simp only [tenancy, alive]
  rfl

@[simp] theorem tenancy_modTenant (t : Nat) (f : Tenant → Tenant) (h : ∀ x, (f x).alive = x.alive) :
    tenancy (modTenant s t f) = tenancy s := tenancy_setTenant s t _ (h _)

/-! ## Regions and sites that go -/

@[simp] theorem tenancy_dropQueue (t q) : tenancy (dropQueue s t q) = tenancy s :=
  tenancy_modTenant (modWork s fun w =>
    { w with disps := w.disps.map fun d => if d.tenant = t ∧ d.queue = q then { d with orphan := true } else d }) t
    (fun x => { x with queues := putD .reset x.queues q { Queue.reset with inflight := (queue s t q).inflight } }) fun _ => rfl

@[simp] theorem tenancy_objectRemoved (t kind number) : tenancy (objectRemoved s t kind number) = tenancy s := by simp [objectRemoved]
@[simp] theorem tenancy_dropDependents (t rn) : tenancy (dropDependents s t rn) = tenancy s := by simp [dropDependents]
@[simp] theorem tenancy_removeRegion (t rn) : tenancy (removeRegion s t rn) = tenancy s := by simp [removeRegion]
@[simp] theorem tenancy_forgetWords (r) : tenancy (forgetWords s r) = tenancy s := (rfl)
@[simp] theorem tenancy_zeroHbm (r) : tenancy (zeroHbm s r) = tenancy s := (rfl)
@[simp] theorem tenancy_sanitiseRegion (t p) : tenancy (sanitiseRegion s t p) = tenancy s := by simp [sanitiseRegion]

@[simp] theorem tenancy_advanceGeneration : tenancy (advanceGeneration s) = tenancy s := by
  have flip : tenancy (flipGeneration s) = tenancy s := by
    unfold flipGeneration flipBanks
    rfl
  rw [advanceGeneration, tenancy_of_seated (seated_raiseVector _ 0 5), flip]

@[simp] theorem tenancy_deleteRegions (t doomed) : tenancy (deleteRegions s t doomed) = tenancy s := by simp [deleteRegions]
@[simp] theorem tenancy_zeroSite (site) : tenancy (zeroSite s site) = tenancy s := by simp [zeroSite]
@[simp] theorem tenancy_sanitiseSites (t sites) : tenancy (sanitiseSites s t sites) = tenancy s := by simp [sanitiseSites]
@[simp] theorem tenancy_unbindDomain (dom) : tenancy (unbindDomain s dom) = tenancy s := by simp [unbindDomain]

@[simp] theorem tenancy_tenantReset (t silent) : tenancy (tenantReset s t silent) = tenancy s := by
  have alive (n : Nat) := alive_of_roll (roll_tenantReset s t silent) n
  simp only [tenancy, alive]
  rw [(notified_tenantReset s t silent).port]

/-! ## The end of a tenant -/

theorem tenancy_setTenant_reset (t : Nat) : tenancy (setTenant s t .reset) = (tenancy s).without t := by
  have alive (n : Nat) : (tenant (setTenant s t .reset) n).alive = if n = t then false else (tenant s n).alive := by
    split
    next hn =>
      subst hn
      rw [tenant_setTenant_self]
      rfl
    next hn => rw [tenant_setTenant_other _ _ _ hn]
  simp only [tenancy, alive, Tenancy.without]
  rfl

theorem tenancy_destroyTenant (t : Nat) : tenancy (destroyTenant s t) = (tenancy s).without t := by
  unfold destroyTenant
  rw [tenancy_clearWindows, tenancy_setTenant_reset]
  simp

/-- The end of a tenant takes that tenant away, and no other. -/
theorem tenancy_endTenant (t : Nat) : tenancy (endTenant s t) = (tenancy s).without t := by
  unfold endTenant
  split
  next h =>
    have dead : (tenant s t).alive = false := by simpa using h
    have alive (n : Nat) : (if n = t then false else (tenant s n).alive) = (tenant s n).alive := by
      split
      next hn => rw [hn, dead]
      next => rfl
    simp only [tenancy, Tenancy.without, alive]
  next =>
    rw [tenancy_raiseAsh, tenancy_destroyTenant]
    simp

end Sys2Proof.Machine
end

section
/-! A write of the SR-IOV capability (R71), and the commands a host gives a function (R72, R76, R133, R173, R467). -/

namespace Sys2Proof.Machine

section
variable (s : State)

theorem vfEnable_of_tenancy {s t : State} (h : tenancy t = tenancy s) : t.pcie.vfEnable = s.pcie.vfEnable := congrArg Tenancy.vfEnable h

theorem numVfs_of_tenancy {s t : State} (h : tenancy t = tenancy s) : t.pcie.numVfs = s.pcie.numVfs := congrArg Tenancy.numVfs h

theorem alive_of_tenancy {s t : State} (h : tenancy t = tenancy s) (n : Nat) : (tenant t n).alive = (tenant s n).alive :=
  congrFun (congrArg Tenancy.alive h) n

/-- Tenants ended one after the other are gone, and no other. -/
theorem foldl_endTenant (l : List Nat) :
    (l.foldl endTenant s).pcie.vfEnable = s.pcie.vfEnable ∧ (l.foldl endTenant s).pcie.numVfs = s.pcie.numVfs ∧
      ∀ n, (tenant (l.foldl endTenant s) n).alive = if n ∈ l then false else (tenant s n).alive := by
  induction l generalizing s with
  | nil => exact ⟨rfl, rfl, fun n => by simp⟩
  | cons t l ih =>
    have ended := tenancy_endTenant s t
    have enable : (endTenant s t).pcie.vfEnable = s.pcie.vfEnable := congrArg Tenancy.vfEnable ended
    have count : (endTenant s t).pcie.numVfs = s.pcie.numVfs := congrArg Tenancy.numVfs ended
    have alive (n : Nat) : (tenant (endTenant s t) n).alive = if n = t then false else (tenant s n).alive :=
      congrFun (congrArg Tenancy.alive ended) n
    obtain ⟨henable, hcount, halive⟩ := ih (endTenant s t)
    refine ⟨henable.trans enable, hcount.trans count, fun n => ?_⟩
    rw [List.foldl_cons, halive, alive]
    by_cases hn : n = t <;> simp [hn]

end

/-! ## Virtual functions that go -/

/-- The records of functions set to their reset values. -/
def resetFns (s : State) (l : List Nat) : State := l.foldl (fun s f => setPcieFn s f .reset) s

theorem tenancy_resetFns (s : State) (l : List Nat) : tenancy (resetFns s l) = tenancy s := by simp [resetFns]

theorem pcieFn_resetFns {l : List Nat} {f : Nat} (s : State) (h : f ∈ l) : pcieFn (resetFns s l) f = .reset :=
  foldl_establishes (f := fun s f => setPcieFn s f .reset) (P := fun s f => pcieFn s f = .reset)
    (fun s f => pcieFn_setPcieFn_self s f .reset)
    (fun s m f hf => by
      by_cases hm : f = m
      · subst hm
        exact pcieFn_setPcieFn_self s f .reset
      · exact (pcieFn_setPcieFn_other s m .reset hm).trans hf) l s f h

theorem vfGoes_iff (p : Pcie) (n : Nat) (on : Bool) (f : Nat) :
    vfGoes p n on f = true ↔ (p.vfEnable = true ∧ on = false) ∨ (n < f ∧ f ≤ p.numVfs) := by simp [vfGoes]

/-- Virtual functions that a write of the SR-IOV capability takes away, and the tenants that go with them (R71). -/
def lostFns (s : State) (n : Nat) (on : Bool) : List Nat := (allFns.drop 1).filter (vfGoes s.pcie n on)
def goneTenants (s : State) (n : Nat) (on : Bool) : List Nat := (liveTenants s).filter (vfGoes s.pcie n on)

theorem mem_lostFns {s : State} {n : Nat} {on : Bool} {f : Nat} (h : vfGoes s.pcie n on f = true) (hlo : 1 ≤ f) (hhi : f ≤ 16) :
    f ∈ lostFns s n on := by
  have virtual : allFns.drop 1 = List.range' 1 16 := rfl
  rw [lostFns, List.mem_filter, virtual, List.mem_range'_1]
  exact ⟨⟨hlo, by omega⟩, h⟩

/-- The registers as the host writes them, and the part once what went with them is gone. -/
def vfSet (s : State) (n : Nat) (on : Bool) : State := modPcie s fun p => { p with vfEnable := on, numVfs := n }
def vfWritten (s : State) (n : Nat) (on : Bool) : State :=
  resetFns ((goneTenants s n on).foldl endTenant (resetFns (vfSet s n on) (lostFns s n on))) (lostFns s n on)

theorem exec_vfDisable {s : State} {n : Nat} (hn : n ≤ 16) (h : fnReachable s 0 = true) (on : Bool) :
    exec (.vfDisable n on) s = .next (vfWritten s n on) := by
  show guarded _ _ (ite ((!fnReachable s 0) = true) _ _) = _
  rw [if_neg (by simp [h])]
  exact if_pos (decide_eq_true hn)

/-- What the host wrote is in force, and a tenant is there unless its function went. -/
theorem vfWritten_tenancy (s : State) (n : Nat) (on : Bool) :
    (vfWritten s n on).pcie.vfEnable = on ∧ (vfWritten s n on).pcie.numVfs = n ∧
      ∀ f, (tenant (vfWritten s n on) f).alive = if f ∈ goneTenants s n on then false else (tenant s f).alive := by
  have before := tenancy_resetFns (vfSet s n on) (lostFns s n on)
  have after := tenancy_resetFns ((goneTenants s n on).foldl endTenant (resetFns (vfSet s n on) (lostFns s n on))) (lostFns s n on)
  obtain ⟨henable, hcount, halive⟩ := foldl_endTenant (resetFns (vfSet s n on) (lostFns s n on)) (goneTenants s n on)
  refine ⟨(vfEnable_of_tenancy after).trans (henable.trans (vfEnable_of_tenancy before)),
    (numVfs_of_tenancy after).trans (hcount.trans (numVfs_of_tenancy before)), fun f => ?_⟩
  rw [vfWritten, alive_of_tenancy after, halive, alive_of_tenancy before]
  rfl

/-- The tenant of a function that went is gone (R71). -/
theorem alive_vfWritten_of_goes {s : State} {n : Nat} {on : Bool} {f : Nat} (h : vfGoes s.pcie n on f = true) :
    (tenant (vfWritten s n on) f).alive = false := by
  rw [(vfWritten_tenancy s n on).2.2]
  split
  · rfl
  next hkept =>
    refine Bool.eq_false_iff.mpr fun halive => hkept ?_
    exact List.mem_filter.mpr ⟨mem_liveTenants halive, h⟩

/-- The tenant of a function that stays, stays. -/
theorem alive_vfWritten_of_stays {s : State} {n : Nat} {on : Bool} {f : Nat} (h : vfGoes s.pcie n on f ≠ true) :
    (tenant (vfWritten s n on) f).alive = (tenant s f).alive := by
  rw [(vfWritten_tenancy s n on).2.2]
  exact if_neg fun hgone => h (List.mem_filter.mp hgone).2

/-! ## The commands -/

section
variable {s : State} {fn : Nat}

theorem busMasterEnableSet_gives (hfn : fn ≤ 16) (h : fnReachable s fn = true) (on : Bool) :
    Gives (.busMasterEnableSet fn on) s fun t =>
      pcieFn t fn = { pcieFn s fn with busMaster := on } ∧ (∀ g, g ≠ fn → pcieFn t g = pcieFn s g) ∧
        t = { s with pcie := { s.pcie with fns := t.pcie.fns } } :=
  ⟨_, exec_busMasterEnableSet hfn h on, pcieFn_modPcieFn_self s fn _, fun _ hg => pcieFn_modPcieFn_other s fn _ hg, rfl⟩

/-- A vector that the function has is unmasked by its own unmasking. -/
theorem mem_unmasked_unmask {v : Nat} (hv : v < vectors fn) (f : PcieFn) : v ∈ (f.unmask fn (.vector v)).unmasked := by
  show v ∈ if v < vectors fn ∧ (!f.unmasked.contains v) = true then f.unmasked ++ [v] else f.unmasked
  split
  · simp
  next h => simpa [hv] using h

theorem msixUnmask_vector_gives {v : Nat} (hfn : fn ≤ 16) (h : fnReachable s fn = true) (hv : v < vectors fn) :
    Gives (.msixUnmask fn (.vector v)) s fun t =>
      v ∈ (pcieFn t fn).unmasked ∧
        t.pcie.sent = s.pcie.sent ++ ((pcieFn s fn).pending.filter (canSend (pcieFn t fn))).map (fun x => (fn, x)) ∧
        (pcieFn t fn).pending = (pcieFn s fn).pending.filter (fun x => !canSend (pcieFn t fn) x) ∧
        (∀ g, g ≠ fn → pcieFn t g = pcieFn s g) ∧
        t = { s with pcie := { s.pcie with fns := t.pcie.fns, sent := t.pcie.sent }, counters := t.counters } := by
  obtain ⟨t, e, hself, hother, hsent, honly⟩ := msixUnmask_gives (s := s) (fn := fn) (.vector v)
    (decide_eq_true hfn) h
  refine ⟨t, e, ?_, ?_, ?_, hother, honly⟩
  · rw [hself]
    exact mem_unmasked_unmask hv _
  · rw [hsent, hself]
    rfl
  · rw [hself]
    rfl

theorem functionLevelReset_gives (hfn : fn ≤ 16) (h : fnReachable s fn = true) :
    Gives (.functionLevelReset fn) s fun t =>
      pcieFn t fn = { PcieFn.reset with bar2Size := (pcieFn s fn).bar2Size, maxPayload := (pcieFn s fn).maxPayload,
                                        pending := (pcieFn t fn).pending } ∧
        (∀ v ∈ (pcieFn s fn).pending, v ∈ (pcieFn t fn).pending) ∧
        (mbx t fn).reqPi = 0 ∧ (mbx t fn).reqCi = 0 ∧ (mbx t fn).rspPi = 0 ∧ (mbx t fn).rspCi = 0 ∧ (mbx t fn).level = 0 ∧
        (mbx t fn).resetting = true ∧ (∀ g, g ≠ fn → mbx t g = mbx s g) ∧
        (fn ≠ 0 → (tenant s fn).alive = true → (tenant t fn).signals = [] ∧ (tenant t fn).phase = 0) ∧
        t.work.owner = s.work.owner ∧ t.sec = s.sec ∧ t.fpt.table = s.fpt.table := by
  have kept := roll_resetBehind s fn
  have told := notified_resetBehind s fn
  have mail (g : Nat) : mbx (resetBehind s fn) g = mbx (resetMailbox (countT s 0xC0E fn 1) fn) g :=
    (congrArg (fun x => lookD Mbx.reset x.mbx g) kept :)
  have emptied : Emptied (mbx (resetBehind s fn) fn) := mail fn ▸ emptied_resetMailbox_self _ fn
  obtain ⟨hreqPi, hreqCi, hrspPi, hrspCi, hlevel, hresetting⟩ := emptied
  refine ⟨_, exec_functionLevelReset hfn h, ?config, fun v hv => ?pending, hreqPi, hreqCi, hrspPi, hrspCi, hlevel, hresetting,
    fun g hg => (mail g).trans (mbx_resetMailbox_other _ hg), fun hne halive => cleared_resetBehind hne halive,
    congrArg Roll.owner kept, congrArg Roll.sec kept, congrArg Roll.table kept⟩
  case config =>
    rw [pcieFn_modPcieFn_self, told.record fn]
  case pending =>
    rw [pcieFn_modPcieFn_self]
    exact told.pending fn hv

theorem vfDisable_gives {n : Nat} (hn : n ≤ 16) (h : fnReachable s 0 = true) (on : Bool) :
    Gives (.vfDisable n on) s fun t =>
      t.pcie.vfEnable = on ∧ t.pcie.numVfs = n ∧
        (∀ f, 1 ≤ f → f ≤ 16 → ((s.pcie.vfEnable = true ∧ on = false) ∨ (n < f ∧ f ≤ s.pcie.numVfs)) →
          pcieFn t f = .reset ∧ (tenant t f).alive = false) ∧
        (∀ f, ¬ (s.pcie.vfEnable = true ∧ on = false) → ¬ (n < f ∧ f ≤ s.pcie.numVfs) → (tenant t f).alive = (tenant s f).alive) := by
  obtain ⟨henable, hcount, -⟩ := vfWritten_tenancy s n on
  refine ⟨_, exec_vfDisable hn h on, henable, hcount, fun f hlo hhi hgoes => ?_, fun f hon hcut => ?_⟩
  · have goes := (vfGoes_iff s.pcie n on f).mpr hgoes
    exact ⟨pcieFn_resetFns _ (mem_lostFns goes hlo hhi), alive_vfWritten_of_goes goes⟩
  · exact alive_vfWritten_of_stays fun goes => ((vfGoes_iff s.pcie n on f).mp goes).elim hon hcut

end

/-- Settles O6: each command by what it does to the functions' records, the mailbox and the tenants. -/
theorem functionControl : Obligations.FunctionControl := by
  refine ⟨fun s fn on hfn h => busMasterEnableSet_gives hfn h on, fun s fn v hfn h hv => msixUnmask_vector_gives hfn h hv,
    fun s fn hfn h => ⟨?enable, ?mask⟩, fun s fn hfn h => functionLevelReset_gives hfn h,
    fun s n on hn h => vfDisable_gives hn h on⟩
  case enable =>
    obtain ⟨t, e, hself, -⟩ := msixUnmask_gives (s := s) (fn := fn) .msixEnable (decide_eq_true hfn) h
    exact ⟨t, e, congrArg PcieFn.msixEnable hself⟩
  case mask =>
    obtain ⟨t, e, hself, -⟩ := msixUnmask_gives (s := s) (fn := fn) .functionMask (decide_eq_true hfn) h
    exact ⟨t, e, congrArg PcieFn.functionMask hself⟩

end Sys2Proof.Machine
end
section
/-! Fields of a chain frame as a port builds it (R92-R95): what a receiver reads of the type, INIT, SEQ and ACK. -/

namespace Sys2Proof.Machine

/-! ## Fields most significant byte first (R93) -/

@[simp] theorem length_beBytes (n v : Nat) : (beBytes n v).length = n := by
  rw [beBytes, List.length_reverse, length_leBytes]

theorem beNat_beBytes (n v : Nat) : beNat (beBytes n v) = v % 256 ^ n := by
  rw [beNat, beBytes, List.reverse_reverse, leNat_leBytes]

/-- Fields of given sizes, one behind the other. -/
def beFields (fs : List (Nat × Nat)) : List Byte := fs.flatMap fun f => beBytes f.1 f.2

theorem length_beFields (fs : List (Nat × Nat)) : (beFields fs).length = (fs.map (·.1)).sum := by
  simp [beFields, List.length_flatMap]

/-- A field is read back where the sizes of those before it end. -/
theorem slice_beFields (before behind : List (Nat × Nat)) (n v : Nat) (rest : List Byte) :
    slice (beFields (before ++ (n, v) :: behind) ++ rest) (before.map (·.1)).sum n = beBytes n v := by
  have split : beFields (before ++ (n, v) :: behind) ++ rest =
      beFields before ++ (beBytes n v ++ (beFields behind ++ rest)) := by simp [beFields]
  have head := slice_append_left (beBytes n v) (beFields behind ++ rest)
  rw [length_beBytes] at head
  rw [split, ← length_beFields, ← Nat.add_zero (beFields before).length, slice_append_right, head]

/-! ## The header -/

variable (p : ChainPort) (x : ChainFrame) (ack : Option (BitVec 16)) (init : Bool)

/-- The addresses, and the header up to the ACK field. -/
def headFields : List (Nat × Nat) :=
  [(6, p.dst.toNat), (6, p.src.toNat), (2, p.etherType.toNat), (1, 16 + x.type_),
   (1, 128 * b2n ack.isSome + 64 * b2n init + 16 * x.cls), (2, x.domain), (2, x.seq.toNat), (2, (ack.getD 0).toNat)]

theorem frameBytes_head : ∃ rest, frameBytes p x ack init = beFields (headFields p x ack init) ++ rest := by
  simp only [frameBytes, beFields, headFields, List.flatMap_cons, List.flatMap_nil, List.append_nil, List.append_assoc]
  exact ⟨_, rfl⟩

/-- What the header says at a field's place. -/
theorem hdr_frameBytes {before behind : List (Nat × Nat)} {n v off : Nat}
    (fields : headFields p x ack init = before ++ (n, v) :: behind) (place : (before.map (·.1)).sum = 14 + off) :
    hdr (frameBytes p x ack init) off n = v % 256 ^ n := by
  obtain ⟨rest, head⟩ := frameBytes_head p x ack init
  rw [hdr, head, fields, ← place, slice_beFields, beNat_beBytes]

theorem frameType_frameBytes (h : x.type_ < 16) : frameType (frameBytes p x ack init) = x.type_ := by
  have field : hdr (frameBytes p x ack init) 0 1 = (16 + x.type_) % 256 ^ 1 :=
    hdr_frameBytes p x ack init (before := [(6, p.dst.toNat), (6, p.src.toNat), (2, p.etherType.toNat)]) rfl rfl
  rw [frameType, field]
  omega

theorem frameInit_frameBytes (h : x.cls < 4) : frameInit (frameBytes p x ack init) = init := by
  have field : hdr (frameBytes p x ack init) 1 1 = (128 * b2n ack.isSome + 64 * b2n init + 16 * x.cls) % 256 ^ 1 :=
    hdr_frameBytes p x ack init
      (before := [(6, p.dst.toNat), (6, p.src.toNat), (2, p.etherType.toNat), (1, 16 + x.type_)]) rfl rfl
  have bit : (128 * b2n ack.isSome + 64 * b2n init + 16 * x.cls) % 256 ^ 1 / 64 % 2 = b2n init := by
    have carry : b2n ack.isSome ≤ 1 ∧ b2n init ≤ 1 := by cases ack.isSome <;> cases init <;> decide
    omega
  rw [frameInit, field, bit]
  cases init <;> rfl

theorem frameSeq_frameBytes : frameSeq (frameBytes p x ack init) = x.seq := by
  have field : hdr (frameBytes p x ack init) 4 2 = x.seq.toNat % 256 ^ 2 :=
    hdr_frameBytes p x ack init (before := [(6, p.dst.toNat), (6, p.src.toNat), (2, p.etherType.toNat), (1, 16 + x.type_),
      (1, 128 * b2n ack.isSome + 64 * b2n init + 16 * x.cls), (2, x.domain)]) rfl rfl
  rw [frameSeq, field, pow_256 2 16 rfl, Nat.mod_eq_of_lt x.seq.isLt, BitVec.ofNat_toNat, BitVec.setWidth_eq]

theorem frameAck_frameBytes (a : BitVec 16) : frameAck (frameBytes p x (some a) init) = a := by
  have field : hdr (frameBytes p x (some a) init) 6 2 = a.toNat % 256 ^ 2 :=
    hdr_frameBytes p x (some a) init (before := [(6, p.dst.toNat), (6, p.src.toNat), (2, p.etherType.toNat), (1, 16 + x.type_),
      (1, 128 * b2n (some a).isSome + 64 * b2n init + 16 * x.cls), (2, x.domain), (2, x.seq.toNat)]) rfl rfl
  rw [frameAck, field, pow_256 2 16 rfl, Nat.mod_eq_of_lt a.isLt, BitVec.ofNat_toNat, BitVec.setWidth_eq]

end Sys2Proof.Machine
end

section
/-! What the operations that chain ports share do to the port's record, and what they leave of the rest (R97-R99). -/

namespace Sys2Proof.Machine

theorem gives_of_row {c : Instr} {s t : State} {P : State → Prop} (row : exec c s = .next t) (h : P t) : Gives c s P := ⟨t, row, h⟩

/-- Of the state only the record of one port and the counters may differ. -/
structure PortOnly (port : Nat) (s t : State) : Prop where
  frame : t = { s with chain := { s.chain with ports := t.chain.ports }, counters := t.counters }
  others : ∀ q, q ≠ port → chainPort t q = chainPort s q

section
variable {port : Nat} {s t u : State}

theorem PortOnly.ao (h : PortOnly port s t) : t.ao = s.ao := by rw [h.frame]
theorem PortOnly.free (h : PortOnly port s t) : t.free = s.free := by rw [h.frame]
theorem PortOnly.mem (h : PortOnly port s t) : t.mem = s.mem := by rw [h.frame]
theorem PortOnly.work (h : PortOnly port s t) : t.work = s.work := by rw [h.frame]
theorem PortOnly.pcie (h : PortOnly port s t) : t.pcie = s.pcie := by rw [h.frame]
theorem PortOnly.domains (h : PortOnly port s t) : t.chain.domains = s.chain.domains := by rw [h.frame]

theorem PortOnly.chain_counters (h : PortOnly port s t) : t = { s with chain := t.chain, counters := t.counters } := by
  rw [h.frame]

theorem PortOnly.refl (port : Nat) (s : State) : PortOnly port s s := ⟨rfl, fun _ _ => rfl⟩

theorem PortOnly.trans (h : PortOnly port s t) (k : PortOnly port t u) : PortOnly port s u where
  frame := by rw [k.frame, h.frame]
  others q hq := (k.others q hq).trans (h.others q hq)

theorem PortOnly.ite {c : Prop} [Decidable c] (h : PortOnly port s t) (k : PortOnly port s u) :
    PortOnly port s (if c then t else u) := by
  split
  · exact h
  · exact k

end

variable (port : Nat) (s : State)

/-! ## Counts, frames on the wire -/

theorem countPort_only (i tag n : Nat) : countPort s port i tag n = { s with counters := (countPort s port i tag n).counters } := by
  unfold countPort
  dsimp only
  split <;> rfl

@[simp] theorem chainPort_countPort (i tag n q : Nat) : chainPort (countPort s port i tag n) q = chainPort s q := by
  rw [countPort_only]
  rfl

@[simp] theorem countPort_ao (i tag n : Nat) : (countPort s port i tag n).ao = s.ao := by rw [countPort_only]

theorem portOnly_countPort (i tag n : Nat) : PortOnly port s (countPort s port i tag n) where
  frame := by rw [countPort_only]
  others q _ := chainPort_countPort port s i tag n q

theorem portOnly_modChainPort (f : ChainPort → ChainPort) : PortOnly port s (modChainPort s port f) where
  frame := rfl
  others _ hq := chainPort_modChainPort_other s port f hq

theorem portOnly_transmit (b : List Byte) : PortOnly port s (transmit s port b) := portOnly_modChainPort port s _

theorem portOnly_heard (f : List Byte) : PortOnly port s (heard s port f) := portOnly_modChainPort port s _

theorem chainPort_heard (f : List Byte) : chainPort (heard s port f) port =
    { chainPort s port with rxAt := s.ao.devtime, clearSeen := (chainPort s port).clearSeen || !frameInit f } :=
  chainPort_modChainPort_self s port _

theorem portOnly_sendProbe (init : Bool) : PortOnly port s (sendProbe s port init) := portOnly_transmit port s _

/-- A PROBE goes on the wire. -/
theorem chainPort_sendProbe (init : Bool) : ∃ b, frameType b = 7 ∧ frameInit b = init ∧ chainPort (sendProbe s port init) port =
    { chainPort s port with wire := (chainPort s port).wire ++ [b], txAt := s.ao.devtime } :=
  ⟨_, frameType_frameBytes _ (plainFrame 7) _ _ (by decide), frameInit_frameBytes _ (plainFrame 7) _ _ (by decide),
    chainPort_modChainPort_self s port _⟩

/-! ## ACK and NAK frames (R97, R98, R104) -/

theorem portOnly_sendAck (ty : Nat) : PortOnly port s (sendAck s port ty) :=
  .ite (.refl port s) ((portOnly_transmit port s _).trans (portOnly_modChainPort port _ _))

theorem portOnly_ackAtBound : PortOnly port s (ackAtBound s port) := .ite (portOnly_sendAck port s 5) (.refl port s)

theorem portOnly_sendNak : PortOnly port s (sendNak s port) :=
  .ite (.refl port s)
    (((portOnly_sendAck port s 6).trans (portOnly_countPort port _ 4 31 1)).trans (portOnly_modChainPort port _ _))

section
variable {port s}

theorem sendAck_of_held (h : ackHeld (chainPort s port) = true) (ty : Nat) : sendAck s port ty = s := if_pos h

/-- A frame that acknowledges all that was accepted goes on the wire. -/
theorem chainPort_sendAck (h : ackHeld (chainPort s port) = false) {ty : Nat} (hty : ty < 16) :
    ∃ b, frameType b = ty ∧ frameAck b = (chainPort s port).expect ∧ chainPort (sendAck s port ty) port =
      { chainPort s port with wire := (chainPort s port).wire ++ [b], txAt := s.ao.devtime, unacked := 0 } := by
  refine ⟨frameBytes (chainPort s port) (plainFrame ty) (some (chainPort s port).expect) false,
    frameType_frameBytes _ (plainFrame ty) _ _ hty, frameAck_frameBytes _ (plainFrame ty) _ _, ?_⟩
  have sent : sendAck s port ty = modChainPort (transmit s port
      (frameBytes (chainPort s port) (plainFrame ty) (some (chainPort s port).expect) false)) port
      fun p => { p with unacked := 0 } := if_neg (by simp [h])
  rw [sent, transmit, chainPort_modChainPort_self, chainPort_modChainPort_self]
  rfl

/-- A NAK that is not held, and not within 2 us of the last (R97). -/
theorem chainPort_sendNak (held : ackHeld (chainPort s port) = false)
    (spaced : (chainPort s port).nakAt = none ∨ ∃ x, (chainPort s port).nakAt = some x ∧ x + 2000 ≤ s.ao.devtime) :
    chainPort (sendNak s port) port = { chainPort (sendAck s port 6) port with nakAt := some s.ao.devtime } := by
  have sent : sendNak s port = modChainPort (countPort (sendAck s port 6) port 4 31 1) port
      fun p => { p with nakAt := some (now s) } := by
    rcases spaced with first | ⟨x, last, time⟩
    · simp [sendNak, first, held]
    · simp [sendNak, last, (due_iff s x 2000).2 time, held]
  rw [sent, chainPort_modChainPort_self, chainPort_countPort]
  rfl

theorem ackAtBound_of_few (h : (chainPort s port).unacked < 32) : ackAtBound s port = s := if_neg (by omega)

theorem ackAtBound_of_many (h : 32 ≤ (chainPort s port).unacked) : ackAtBound s port = sendAck s port 5 := if_pos h

end

theorem chainPort_sendAck_only (ty : Nat) : chainPort (sendAck s port ty) port =
    { chainPort s port with wire := (chainPort (sendAck s port ty) port).wire, txAt := (chainPort (sendAck s port ty) port).txAt,
                            unacked := (chainPort (sendAck s port ty) port).unacked } := by
  unfold sendAck
  dsimp only
  split
  · rfl
  · rw [chainPort_modChainPort_self, transmit, chainPort_modChainPort_self]

theorem chainPort_sendNak_only : chainPort (sendNak s port) port =
    { chainPort s port with wire := (chainPort (sendNak s port) port).wire, txAt := (chainPort (sendNak s port) port).txAt,
                            unacked := (chainPort (sendNak s port) port).unacked,
                            nakAt := (chainPort (sendNak s port) port).nakAt } := by
  have sent : sendNak s port = s ∨ sendNak s port =
      modChainPort (countPort (sendAck s port 6) port 4 31 1) port fun p => { p with nakAt := some (now s) } := ite_eq_or_eq _ _ _
  rcases sent with none_ | sent
  · rw [none_]
  · rw [sent, chainPort_modChainPort_self, chainPort_countPort, chainPort_sendAck_only]

/-- The acknowledgement that the bound draws leaves of the record all but what was sent and the count it answers. -/
theorem chainPort_ackAtBound : chainPort (ackAtBound s port) port =
    { chainPort s port with wire := (chainPort (ackAtBound s port) port).wire, txAt := (chainPort (ackAtBound s port) port).txAt,
                            unacked := (chainPort (ackAtBound s port) port).unacked } := by
  unfold ackAtBound
  split
  · rw [chainPort_sendAck_only]
  · rfl

/-! ## Dispatches that the frames of a copy belong to (R103) -/

theorem disp?_modDisp_self {id : Nat} {d : Disp} {f : Disp → Disp} (h : disp? s id = some d) (hid : ∀ e, (f e).id = e.id) :
    disp? (modDisp s id f) id = some (f d) := by
  have found : d.id = id := by simpa using List.find?_some h
  have same : ((fun e : Disp => e.id == id) ∘ fun e => if e.id = id then f e else e) = fun e => e.id == id := by
    funext e
    by_cases he : e.id = id <;> simp [he, hid]
  unfold disp? at h ⊢
  rw [modDisp, modWork_work, List.find?_map, same, h]
  simp [found]

theorem disp?_modDisp_other {id k : Nat} (f : Disp → Disp) (hid : ∀ e, (f e).id = e.id) (hk : k ≠ id) :
    disp? (modDisp s id f) k = disp? s k := by
  have same : ((fun e : Disp => e.id == k) ∘ fun e => if e.id = id then f e else e) = fun e => e.id == k := by
    funext e
    by_cases he : e.id = id <;> simp [he, hid]
  unfold disp?
  rw [modDisp, modWork_work, List.find?_map, same]
  cases found : s.work.disps.find? (·.id == k) with
  | none => rfl
  | some e =>
    have hek : e.id = k := by simpa using List.find?_some found
    rw [Option.map_some, if_neg (by rwa [hek])]

theorem disp?_congr {s t : State} (h : t.work = s.work) (id : Nat) : disp? t id = disp? s id := by
  unfold disp?
  rw [h]

theorem frameDone_only (id : Nat) : frameDone s id = { s with work := (frameDone s id).work } := by
  unfold frameDone
  split
  · rfl
  split
  · rfl
  split
  · exact endDisp_only _ _ _
  · exact modDisp_only _ _ _

theorem frameDone_mem (id : Nat) : (frameDone s id).mem = s.mem := by rw [frameDone_only]

theorem chainPort_frameDone (id q : Nat) : chainPort (frameDone s id) q = chainPort s q := by
  rw [frameDone_only]
  rfl

/-- The dispatch whose frame is done keeps its reports. -/
theorem reports_frameDone {id : Nat} {d : Disp} (h : disp? s id = some d) :
    ∃ d', disp? (frameDone s id) id = some d' ∧ d.reports ⊆ d'.reports := by
  unfold frameDone
  rw [h]
  dsimp only
  split
  · exact ⟨d, h, List.Subset.refl _⟩
  split
  · exact ⟨_, disp?_modDisp_self s h fun _ => rfl, List.subset_append_left _ _⟩
  · exact ⟨_, disp?_modDisp_self s h fun _ => rfl, List.Subset.refl _⟩

/-! ## Taking an acknowledgement -/

/-- A frame that was acknowledged is done with. -/
def frameAcked (s : State) (f : ChainFrame) : State := match f.copy with | some id => frameDone s id | none => s

/-- Frames that an acknowledgement covers are done with. -/
def framesDone (s : State) (gone : List ChainFrame) : State := gone.foldl frameAcked s

theorem frameAcked_only (f : ChainFrame) : frameAcked s f = { s with work := (frameAcked s f).work } := by
  unfold frameAcked
  split
  · exact frameDone_only _ _
  · rfl

theorem framesDone_only (gone : List ChainFrame) : framesDone s gone = { s with work := (framesDone s gone).work } := by
  induction gone generalizing s with
  | nil => rfl
  | cons f gone ih =>
    have step : framesDone s (f :: gone) = framesDone (frameAcked s f) gone := rfl
    rw [step, ih, frameAcked_only]

/-- The frames that an acknowledgement covers leave the window and what is to be sent again. -/
def released (p : ChainPort) (n at_ : Nat) : ChainPort :=
  { p with window := p.window.drop n, resend := p.resend.filter fun f => !(p.window.take n).any (·.seq == f.seq),
           ackAt := at_, idleRounds := 0 }

theorem takeAck_of_covered {x : ChainFrame} {rest : List ChainFrame} {a : BitVec 16} (hw : (chainPort s port).window = x :: rest)
    (hlo : 1 ≤ (a - x.seq).toNat) (hhi : (a - x.seq).toNat ≤ rest.length + 1) :
    takeAck s port a = framesDone (modChainPort s port fun p => released p (a - x.seq).toNat s.ao.devtime)
      ((x :: rest).take (a - x.seq).toNat) := by
  unfold takeAck
  simp only [hw]
  rw [if_neg (by rw [List.length_cons]; omega)]
  refine congrArg (framesDone · _) ?_
  simp only [modChainPort, released, hw]
  rfl

theorem takeAck_cases (a : BitVec 16) : takeAck s port a = s ∨
    ∃ n gone, takeAck s port a = framesDone (modChainPort s port fun p => released p n s.ao.devtime) gone := by
  cases hw : (chainPort s port).window with
  | nil =>
    refine .inl ?_
    unfold takeAck
    simp only [hw]
  | cons x rest =>
    by_cases covers : 1 ≤ (a - x.seq).toNat ∧ (a - x.seq).toNat ≤ rest.length + 1
    · exact .inr ⟨_, _, takeAck_of_covered port s hw covers.1 covers.2⟩
    · refine .inl ?_
      unfold takeAck
      simp only [hw]
      exact if_pos (by rw [List.length_cons]; omega)

theorem chainPort_framesDone (gone : List ChainFrame) (q : Nat) : chainPort (framesDone s gone) q = chainPort s q := by
  rw [framesDone_only]
  rfl

end Sys2Proof.Machine
end

section
/-! A port that goes down, and one that comes up (R105, R106). -/

namespace Sys2Proof.Machine

variable (port : Nat) (s : State)

/-! ## Copies that a failing port ends -/

/-- The copy has ended LINK_LOST, and its record names the port. -/
def LostOn (port : Nat) (d : Disp) : Prop := d.ended = true ∧ ∃ r ∈ d.reports, r.status = .linkLost ∧ r.detail = port

theorem copyLost_only (id : Nat) : copyLost port s id = { s with work := (copyLost port s id).work } := by
  unfold copyLost
  split
  · rfl
  split
  · rfl
  · exact endDisp_only _ _ _

theorem chainPort_copyLost (id q : Nat) : chainPort (copyLost port s id) q = chainPort s q := by
  rw [copyLost_only]
  rfl

theorem foldl_copyLost_only (l : List Nat) :
    l.foldl (copyLost port) s = { s with work := (l.foldl (copyLost port) s).work } := by
  induction l generalizing s with
  | nil => rfl
  | cons id l ih => rw [List.foldl_cons, ih, copyLost_only]

theorem copyLost_open {id : Nat} {d : Disp} (h : disp? s id = some d) (going : d.ended = false) :
    ∃ d', disp? (copyLost port s id) id = some d' ∧ LostOn port d' := by
  have ends : copyLost port s id = endDisp s id [{ site := 0xFFFF, status := .linkLost, detail := port }] := by
    unfold copyLost
    rw [h]
    exact if_neg (by simp [going])
  rw [ends]
  exact ⟨_, disp?_modDisp_self s h fun _ => rfl, rfl, _, List.mem_append_right _ (List.mem_singleton_self _), rfl, rfl⟩

theorem copyLost_ended {id : Nat} {d : Disp} (h : disp? s id = some d) (ended : d.ended = true) : copyLost port s id = s := by
  unfold copyLost
  rw [h]
  exact if_pos ended

theorem disp?_copyLost_other {id k : Nat} (h : k ≠ id) : disp? (copyLost port s id) k = disp? s k := by
  unfold copyLost
  split
  · rfl
  split
  · rfl
  · exact disp?_modDisp_other s _ (fun _ => rfl) h

theorem LostOn.copyLost {s : State} {k : Nat} {d : Disp} (h : disp? s k = some d) (lost : LostOn port d) (id : Nat) :
    disp? (Machine.copyLost port s id) k = some d := by
  by_cases e : k = id
  · subst e
    rwa [copyLost_ended port s h lost.1]
  · rwa [disp?_copyLost_other port s e]

/-- Each copy of the list that was in flight has ended LINK_LOST. -/
theorem foldl_copyLost {id : Nat} {d : Disp} (h : disp? s id = some d) (going : d.ended = false) (l : List Nat) (hid : id ∈ l) :
    ∃ d', disp? (l.foldl (copyLost port) s) id = some d' ∧ LostOn port d' := by
  have kept (l : List Nat) (s : State) (d : Disp) (h : disp? s id = some d) (lost : LostOn port d) :
      disp? (l.foldl (copyLost port) s) id = some d := by
    induction l generalizing s with
    | nil => exact h
    | cons m l ih => exact ih _ (lost.copyLost port h m)
  induction l generalizing s with
  | nil => cases hid
  | cons m l ih =>
    by_cases e : id = m
    · subst e
      obtain ⟨d', there, lost⟩ := copyLost_open port s h going
      exact ⟨d', kept l _ d' there lost, lost⟩
    · exact ih _ (by rwa [disp?_copyLost_other port s e]) ((List.mem_cons.1 hid).resolve_left e)

/-! ## Going down -/

theorem portDown_eq (st : PortState) : portDown s port st =
    modChainPort ((portCopies (chainPort s port)).foldl (copyLost port) s) port fun p => idlePort p st := rfl

theorem portDown_only (st : PortState) : portDown s port st =
    { s with chain := { s.chain with ports := (portDown s port st).chain.ports }, work := (portDown s port st).work } := by
  rw [portDown_eq, foldl_copyLost_only]
  rfl

theorem chainPort_portDown (st : PortState) : chainPort (portDown s port st) port = idlePort (chainPort s port) st := by
  rw [portDown_eq, chainPort_modChainPort_self, foldl_copyLost_only]
  rfl

theorem chainPort_portDown_other (st : PortState) {q : Nat} (h : q ≠ port) :
    chainPort (portDown s port st) q = chainPort s q := by
  rw [portDown_eq, chainPort_modChainPort_other _ _ _ h, foldl_copyLost_only]
  rfl

theorem disp?_portDown (st : PortState) {id : Nat} {d : Disp} (h : disp? s id = some d) (going : d.ended = false)
    (hid : id ∈ portCopies (chainPort s port)) : ∃ d', disp? (portDown s port st) id = some d' ∧ LostOn port d' :=
  foldl_copyLost port s h going _ hid

/-! ## Failure -/

/-- The record of a failing port (R106), with what is free in it. -/
def failDetail (cond v : Nat) : List Byte :=
  detail [(0, 1, 0x10 + port), (1, 1, v), (2, 1, v / 2 ^ 8), (3, 1, v / 2 ^ 16), (4, 1, cond), (8, 4, v / 2 ^ 24), (12, 4, v / 2 ^ 32)]

/-- The port down, with the time of its failure. -/
def failedPort (s : State) (port : Nat) : State :=
  modChainPort (portDown s port .failed) port fun p => { p with failedAt := now s }

theorem failPort_eq (cond : Nat) : failPort s port cond =
    raiseVector (raiseAsh (bumpFree (countPort (failedPort s port) port 7 31 1)) 0x13 (0x310 + port) 0xFF 0
      (failDetail port cond (Config.freeWord s.free).toNat) (0 :: portTenants (failedPort s port) port) []) 0 4 := by
  rw [← show (failedPort s port).free = s.free by rw [failedPort, modChainPort_free, portDown_only]]
  rfl

theorem failPort_chain (cond : Nat) : (failPort s port cond).chain = (failedPort s port).chain := by
  rw [failPort_eq, raiseVector_only, countPort_only]
  rfl

theorem failPort_work (cond : Nat) : (failPort s port cond).work = (portDown s port .failed).work := by
  rw [failPort_eq, raiseVector_only, countPort_only]
  rfl

theorem chainPort_failPort (cond : Nat) : chainPort (failPort s port cond) port =
    { idlePort (chainPort s port) .failed with failedAt := s.ao.devtime } := by
  rw [chainPort, failPort_chain, ← chainPort, failedPort, chainPort_modChainPort_self, chainPort_portDown]
  rfl

/-- The record of a failing port starts with its number and an open LEVEL (R106). -/
theorem raised_failPort {port : Nat} (hport : port < 4) (cond : Nat) :
    Raised s (failPort s port cond) 0x13 (0x310 + port) (0x10 + port) ((Config.freeWord s.free).toNat % 256) := by
  have before : bumpFree (countPort (failedPort s port) port 7 31 1) =
      { s with free := s.free + 1, work := (failedPort s port).work, chain := (failedPort s port).chain,
               counters := (countPort (failedPort s port) port 7 31 1).counters } := by
    rw [countPort_only, failedPort, portDown_only]
    rfl
  rw [failPort_eq, before]
  refine ⟨_, by rw [raiseVector_ash, raiseAsh_flying], rfl, rfl, rfl, ?_, ?_⟩
  · rw [← fld_one]
    unfold failDetail detail
    rw [List.foldl_cons, fld_foldl_splice_of_le _ _ _ _ (by simp), fld_splice_self _ _ _ (by simp)]
    exact Nat.mod_eq_of_lt (show 0x10 + port < 256 by omega)
  · rw [← fld_one]
    unfold failDetail detail
    rw [List.foldl_cons, List.foldl_cons, fld_foldl_splice_of_le _ _ _ _ (by simp), fld_splice_self _ _ _ (by simp)]
    rfl

/-! ## Coming up -/

/-- A port that becomes UP starts both directions at SEQ 0 and sends one PROBE with INIT clear (R105). -/
theorem chainPort_becomeUp : ∃ b, frameType b = 7 ∧ frameInit b = false ∧ chainPort (becomeUp s port) port =
    { idlePort (chainPort s port) .up with rxAt := s.ao.devtime, ackAt := s.ao.devtime, txAt := s.ao.devtime,
                                           wire := (chainPort s port).wire ++ [b] } := by
  obtain ⟨b, ty, init, sent⟩ := chainPort_sendProbe port
    (modChainPort s port fun p => { idlePort p .up with rxAt := now s, ackAt := now s }) false
  refine ⟨b, ty, init, ?_⟩
  rw [becomeUp, sent, chainPort_modChainPort_self]
  rfl

end Sys2Proof.Machine
end

section
/-! Frames without a sequence number: ACK, NAK, PROBE, and those that a port drops (R88, R94, R99, R105, R106). -/

namespace Sys2Proof.Machine

variable {s : State} {port : Nat} {f : List Byte}

/-! ## ACK and NAK -/

/-- An UP port that takes a frame of an unsequenced type. -/
theorem plainRow_hears {ty : Nat} (h : Hears s port f ty) (effect : State → State) :
    plainRow port ty f s effect = .next (effect (heard s port f)) := by
  obtain ⟨hport, hhears, hok, hty, hup⟩ := h
  simp [plainRow, guarded, portOk, hport, hhears, hok, hty, hup]

theorem exec_chainAck (s : State) (port : Nat) (f : List Byte) : exec (.chainAck port f) s =
    plainRow port 5 f s fun s => ackAtBound (if frameAcks f then takeAck s port (frameAck f) else s) port := rfl

theorem exec_chainNak (s : State) (port : Nat) (f : List Byte) : exec (.chainNak port f) s = plainRow port 6 f s fun s =>
    retransmitAll (ackAtBound (if frameAcks f then takeAck s port (frameAck f) else s) port) port := rfl

/-- The port's record after an acknowledgement that covers frames of the window. -/
theorem chainPort_ackTaken (u : State) {x : ChainFrame} {rest : List ChainFrame} {a : BitVec 16}
    (hw : (chainPort u port).window = x :: rest) (hlo : 1 ≤ (a - x.seq).toNat) (hhi : (a - x.seq).toNat ≤ rest.length + 1) :
    let t := ackAtBound (takeAck u port a) port
    (chainPort t port).window = (x :: rest).drop (a - x.seq).toNat ∧ (chainPort t port).idleRounds = 0 ∧
      (chainPort t port).ackAt = u.ao.devtime ∧ ∀ q, q ≠ port → chainPort t q = chainPort u q := by
  have record : chainPort (takeAck u port a) port = released (chainPort u port) (a - x.seq).toNat u.ao.devtime := by
    rw [takeAck_of_covered port u hw hlo hhi, chainPort_framesDone, chainPort_modChainPort_self]
  refine ⟨?_, ?_, ?_, fun q hq => ?_⟩
  · rw [chainPort_ackAtBound, record, released, hw]
  · rw [chainPort_ackAtBound, record, released]
  · rw [chainPort_ackAtBound, record, released]
  · rw [(portOnly_ackAtBound port _).others q hq, takeAck_of_covered port u hw hlo hhi, chainPort_framesDone,
      chainPort_modChainPort_other _ _ _ hq]

/-- A retransmission leaves the window, and sends all of it again (R99). -/
theorem chainPort_retransmitAll (u : State) : chainPort (retransmitAll u port) port =
    if (chainPort u port).window.isEmpty then chainPort u port
    else { chainPort u port with resend := (chainPort u port).window, idleRounds := (chainPort u port).idleRounds + 1,
                                 ackAt := u.ao.devtime } :=
  chainPort_modChainPort_self u port _

theorem retransmitAll_window (u : State) : (chainPort (retransmitAll u port) port).window = (chainPort u port).window := by
  rw [chainPort_retransmitAll]
  split <;> rfl

theorem retransmitAll_resend (u : State) (h : (chainPort u port).window ≠ []) :
    (chainPort (retransmitAll u port) port).resend = (chainPort u port).window := by
  rw [chainPort_retransmitAll, if_neg (by simpa using h)]

section
variable {x : ChainFrame} {rest : List ChainFrame}

theorem chainAck_gives (h : Hears s port f 5) (acks : frameAcks f = true) (hw : (chainPort s port).window = x :: rest)
    (hlo : 1 ≤ (frameAck f - x.seq).toNat) (hhi : (frameAck f - x.seq).toNat ≤ rest.length + 1) :
    Gives (.chainAck port f) s fun t =>
      (chainPort t port).window = (x :: rest).drop (frameAck f - x.seq).toNat ∧ (chainPort t port).idleRounds = 0 ∧
        (chainPort t port).ackAt = s.ao.devtime ∧ ∀ q, q ≠ port → chainPort t q = chainPort s q := by
  have row : exec (.chainAck port f) s = .next (ackAtBound (takeAck (heard s port f) port (frameAck f)) port) := by
    rw [exec_chainAck, plainRow_hears h, if_pos acks]
  obtain ⟨window, idle, at_, others⟩ := chainPort_ackTaken (heard s port f) (by rwa [chainPort_heard]) hlo hhi
  exact ⟨_, row, window, idle, at_, fun q hq => (others q hq).trans ((portOnly_heard port s f).others q hq)⟩

theorem chainNak_gives (h : Hears s port f 6) (acks : frameAcks f = true) (hw : (chainPort s port).window = x :: rest)
    (hlo : 1 ≤ (frameAck f - x.seq).toNat) (hhi : (frameAck f - x.seq).toNat ≤ rest.length + 1) :
    Gives (.chainNak port f) s fun t =>
      (chainPort t port).window = (x :: rest).drop (frameAck f - x.seq).toNat ∧
        ((frameAck f - x.seq).toNat ≤ rest.length → (chainPort t port).resend = (x :: rest).drop (frameAck f - x.seq).toNat) ∧
        ∀ q, q ≠ port → chainPort t q = chainPort s q := by
  have row : exec (.chainNak port f) s =
      .next (retransmitAll (ackAtBound (takeAck (heard s port f) port (frameAck f)) port) port) := by
    rw [exec_chainNak, plainRow_hears h, if_pos acks]
  obtain ⟨window, -, -, others⟩ := chainPort_ackTaken (heard s port f) (by rwa [chainPort_heard]) hlo hhi
  refine ⟨_, row, by rw [retransmitAll_window, window], fun left => ?_, fun q hq => ?_⟩
  · rw [retransmitAll_resend _ (by rw [window, Ne, List.drop_eq_nil_iff, List.length_cons]; omega), window]
  · exact ((portOnly_modChainPort port _ _).others q hq).trans
      ((others q hq).trans ((portOnly_heard port s f).others q hq))

end

/-! ## PROBE (R105, R106) -/

/-- A PROBE that the port takes. -/
def HearsProbe (s : State) (port : Nat) (f : List Byte) : Prop :=
  port < 4 ∧ hears s port = true ∧ frameOk (chainPort s port) f = true ∧ frameType f = 7

section
variable (h : HearsProbe s port f)
include h

theorem exec_chainProbe_probing (state : (chainPort s port).state = .probing) : exec (.chainProbe port f) s = .next (
    if frameInit f then modChainPort s port fun p => { p with rxAt := now s, initRx := initSpell p.initRx (now s) }
    else if (chainPort s port).initRx.isSome then becomeUp s port else s) := by
  obtain ⟨hport, hhears, hok, hty⟩ := h
  simp [exec, execChainProbe, guarded, portOk, hport, hhears, hok, hty, state]

theorem exec_chainProbe_up (state : (chainPort s port).state = .up) : exec (.chainProbe port f) s = .next (
    if frameInit f && (chainPort s port).clearSeen then failPort s port 7
    else ackAtBound (if frameAcks f then takeAck (heard s port f) port (frameAck f) else heard s port f) port) := by
  obtain ⟨hport, hhears, hok, hty⟩ := h
  simp [exec, execChainProbe, guarded, portOk, hport, hhears, hok, hty, state]

/-- A PROBE with INIT is noted as the last one received, the first one of its row too. -/
theorem chainProbe_init_gives (state : (chainPort s port).state = .probing) (init : frameInit f = true) :
    Gives (.chainProbe port f) s fun t => chainPort t port =
      { chainPort s port with rxAt := s.ao.devtime, initRx := initSpell (chainPort s port).initRx s.ao.devtime } :=
  ⟨_, by rw [exec_chainProbe_probing h state, if_pos init], chainPort_modChainPort_self s port _⟩

theorem chainProbe_clear_gives (state : (chainPort s port).state = .probing) (init : frameInit f = false)
    (heardInit : (chainPort s port).initRx.isSome = true) : Gives (.chainProbe port f) s fun t =>
      (chainPort t port).state = .up ∧ (chainPort t port).nextSeq = 0 ∧ (chainPort t port).expect = 0 ∧
        ∃ b, (chainPort t port).wire = (chainPort s port).wire ++ [b] ∧ frameType b = 7 ∧ frameInit b = false := by
  have row : exec (.chainProbe port f) s = .next (becomeUp s port) := by
    rw [exec_chainProbe_probing h state, if_neg (by simp [init]), if_pos heardInit]
  obtain ⟨b, hty, hinit, up⟩ := chainPort_becomeUp port s
  refine gives_of_row row ?_
  rw [up]
  exact ⟨rfl, rfl, rfl, b, rfl, hty, hinit⟩

theorem chainProbe_restart_gives (state : (chainPort s port).state = .up) (init : frameInit f = true)
    (seen : (chainPort s port).clearSeen = true) : Gives (.chainProbe port f) s fun t =>
      (chainPort t port).state = .failed ∧ (chainPort t port).failedAt = s.ao.devtime ∧
        Raised s t 0x13 (0x310 + port) (0x10 + port) ((Config.freeWord s.free).toNat % 256) := by
  have row : exec (.chainProbe port f) s = .next (failPort s port 7) := by
    rw [exec_chainProbe_up h state, if_pos (by simp [init, seen])]
  refine gives_of_row row ?_
  rw [chainPort_failPort]
  exact ⟨rfl, rfl, raised_failPort s h.1 7⟩

theorem chainProbe_idle_gives (state : (chainPort s port).state = .up) (init : frameInit f = false) (acks : frameAcks f = false)
    (few : (chainPort s port).unacked < 32) : Gives (.chainProbe port f) s fun t =>
      chainPort t port = { chainPort s port with rxAt := s.ao.devtime, clearSeen := true } := by
  have row : exec (.chainProbe port f) s = .next (heard s port f) := by
    rw [exec_chainProbe_up h state, if_neg (by simp [init]), if_neg (by simp [acks]),
      ackAtBound_of_few (by rwa [chainPort_heard])]
  refine gives_of_row row ?_
  rw [chainPort_heard, init, Bool.not_false, Bool.or_true]

end

/-! ## O47 -/

theorem frameDiscard_gives (hport : port < 4) (hhears : hears s port = true) (bad : frameOk (chainPort s port) f = false) :
    Gives (.frameDiscard port f) s fun t => t = { s with counters := t.counters } := by
  refine ⟨countPort s port 3 31 1, ?_, countPort_only port s 3 31 1⟩
  simp [exec, execFrameDiscard, guarded, portOk, hport, hhears, bad]

/-- Settles O47: an acknowledgement by the frames it covers, a PROBE by the state of the port it meets. -/
theorem chainControlFrames : Obligations.ChainControlFrames := by
  refine ⟨?acks, fun s port f hport hhears hok hty => ?probe, fun s port f => frameDiscard_gives⟩
  case acks =>
    intro s port f x rest acks hw n hlo hhi
    exact ⟨fun h => chainAck_gives h acks hw hlo hhi, fun h => chainNak_gives h acks hw hlo hhi⟩
  have h : HearsProbe s port f := ⟨hport, hhears, hok, hty⟩
  refine ⟨fun state init => ?_, fun state init heardInit => chainProbe_clear_gives h state init heardInit,
    fun state init seen => chainProbe_restart_gives h state init seen,
    fun state init acks few => chainProbe_idle_gives h state init acks few⟩
  obtain ⟨t, row, record⟩ := chainProbe_init_gives h state init
  exact ⟨t, row, fun first => by rw [record, first]; rfl, fun a b later => by rw [record, later]; rfl⟩

end Sys2Proof.Machine
end

section
/-! What an UP port sends, and the way of a port between its states (R96, R98-R100, R103-R106). -/

namespace Sys2Proof.Machine

variable {s : State} {port : Nat}

theorem guarded_port (h : port < 4) (t : State) : guarded (portOk port) .noSuchUnit t = .next t := if_pos (decide_eq_true h)

/-! ## Sending (R96, R99, R100) -/

/-- A sequenced frame goes on the wire. -/
theorem chainPort_sendFrame (u : State) (x : ChainFrame) : ∃ b n, frameSeq b = x.seq ∧ chainPort (sendFrame u port x) port =
    { chainPort u port with wire := (chainPort u port).wire ++ [b], txAt := u.ao.devtime, unacked := n } := by
  refine ⟨_, if ackValue (chainPort u port) x.seq = (chainPort u port).expect then 0 else (chainPort u port).unacked,
    frameSeq_frameBytes (chainPort u port) x (carriedAck (chainPort u port) x.seq) false, ?_⟩
  rw [sendFrame, chainPort_modChainPort_self, transmit, chainPort_modChainPort_self]
  rfl

theorem portOnly_sendFrame (port : Nat) (u : State) (x : ChainFrame) : PortOnly port u (sendFrame u port x) := by
  unfold sendFrame
  exact (portOnly_transmit port u _).trans (portOnly_modChainPort port _ _)

theorem portOnly_sendNew (port : Nat) (u : State) (x : ChainFrame) : PortOnly port u (sendNew u port x) := by
  unfold sendNew
  exact (((portOnly_modChainPort port u _).trans (portOnly_countPort port _ _ _ _)).trans (portOnly_countPort port _ _ _ _)).trans
    (portOnly_sendFrame port _ _)

/-- A new frame enters the window with the next SEQ. -/
theorem chainPort_sendNew (u : State) (x : ChainFrame) : ∃ y b, y = { x with seq := (chainPort u port).nextSeq, tag := y.tag } ∧
    frameSeq b = (chainPort u port).nextSeq ∧
    (chainPort (sendNew u port x) port).window = (chainPort u port).window ++ [y] ∧
    (chainPort (sendNew u port x) port).nextSeq = (chainPort u port).nextSeq + 1 ∧
    (chainPort (sendNew u port x) port).waiting = (chainPort u port).waiting.erase x ∧
    (chainPort (sendNew u port x) port).wire = (chainPort u port).wire ++ [b] := by
  have row : ∃ y v c d, y = { x with seq := (chainPort u port).nextSeq, tag := y.tag } ∧
      sendNew u port x = sendFrame (countPort (countPort v port 0 c 1) port 6 c d) port y ∧
      (chainPort v port).window = (chainPort u port).window ++ [y] ∧
      (chainPort v port).nextSeq = (chainPort u port).nextSeq + 1 ∧
      (chainPort v port).waiting = (chainPort u port).waiting.erase x ∧
      (chainPort v port).wire = (chainPort u port).wire := by
    refine ⟨_, _, _, _, rfl, rfl, ?_, ?_, ?_, ?_⟩ <;> rw [chainPort_modChainPort_self]
  obtain ⟨y, v, c, d, hy, sends, window, seq, waiting, wire⟩ := row
  obtain ⟨b, n, hb, sent⟩ := chainPort_sendFrame (port := port) (countPort (countPort v port 0 c 1) port 6 c d) y
  rw [chainPort_countPort, chainPort_countPort] at sent
  refine ⟨y, b, hy, hb.trans (by rw [hy]), ?_⟩
  rw [sends, sent]
  exact ⟨window, seq, waiting, by rw [wire]⟩

section
variable (hport : port < 4) (hup : (chainPort s port).state = .up) (locked : (chainPort s port).locked = true)
include hport hup locked

theorem chainFrameSend_again {x : ChainFrame} {rest : List ChainFrame} (h : (chainPort s port).resend = x :: rest) :
    Gives (.chainFrameSend port) s fun t =>
      (chainPort t port).resend = rest ∧ (chainPort t port).window = (chainPort s port).window ∧
        (chainPort t port).nextSeq = (chainPort s port).nextSeq ∧
        ∃ b, (chainPort t port).wire = (chainPort s port).wire ++ [b] ∧ frameSeq b = x.seq := by
  have row : exec (.chainFrameSend port) s = .next (sendFrame (countPort
      (modChainPort s port fun p => { p with resend := rest }) port 2 (domainTag s x.domain) 1) port x) := by
    simp [exec, execChainFrameSend, guarded_port hport, hup, locked, h]
  obtain ⟨b, n, hb, sent⟩ := chainPort_sendFrame (port := port) (countPort
    (modChainPort s port fun p => { p with resend := rest }) port 2 (domainTag s x.domain) 1) x
  rw [chainPort_countPort, chainPort_modChainPort_self] at sent
  refine gives_of_row row ?_
  rw [sent]
  exact ⟨rfl, rfl, rfl, b, rfl, hb⟩

theorem chainFrameSend_new {x : ChainFrame} (h : (chainPort s port).resend = []) (room : (chainPort s port).window.length < 256)
    (next : nextFrame (chainPort s port) = some x) : exec (.chainFrameSend port) s = .next (sendNew s port x) := by
  simp [exec, execChainFrameSend, guarded_port hport, hup, locked, h, next, Nat.not_le.2 room]

theorem chainFrameSend_idles (h : (chainPort s port).resend = [])
    (none_ : 256 ≤ (chainPort s port).window.length ∨ nextFrame (chainPort s port) = none) : Idles (.chainFrameSend port) s := by
  rcases none_ with full | empty
  · simp [Idles, exec, execChainFrameSend, guarded_port hport, hup, locked, h, full]
  · simp [Idles, exec, execChainFrameSend, guarded_port hport, hup, locked, h, empty]

end

/-! ## What is due (R98, R99, R105) -/

section
variable (hport : port < 4) (hup : (chainPort s port).state = .up)
include hport hup

theorem chainAckDue_gives (owed : 0 < (chainPort s port).unacked) (held : ackHeld (chainPort s port) = false) :
    Gives (.chainAckDue port) s fun t => (chainPort t port).unacked = 0 ∧
      ∃ b, (chainPort t port).wire = (chainPort s port).wire ++ [b] ∧ frameType b = 5 ∧
        frameAck b = (chainPort s port).expect := by
  have row : exec (.chainAckDue port) s = .next (sendAck s port 5) := by
    simp [exec, execChainAckDue, guarded_port hport, hup, owed]
  obtain ⟨b, hty, hack, sent⟩ := chainPort_sendAck held (ty := 5) (by decide)
  refine gives_of_row row ?_
  rw [sent]
  exact ⟨rfl, b, rfl, hty, hack⟩

theorem chainRetransmit_gives (some_ : (chainPort s port).window ≠ [])
    (time : (chainPort s port).ackAt + 50000 ≤ s.ao.devtime) : Gives (.chainRetransmit port) s fun t =>
      chainPort t port = { chainPort s port with resend := (chainPort s port).window,
                                                 idleRounds := (chainPort s port).idleRounds + 1, ackAt := s.ao.devtime } := by
  have row : exec (.chainRetransmit port) s = .next (retransmitAll s port) := by
    simp [exec, execChainRetransmit, guarded_port hport, hup, some_, (due_iff s _ _).2 time]
  exact gives_of_row row (by rw [chainPort_retransmitAll, if_neg (by simpa using some_)])

theorem idleProbe_gives (time : (chainPort s port).txAt + 100000 ≤ s.ao.devtime) : Gives (.idleProbe port) s fun t =>
      ∃ b, chainPort t port = { chainPort s port with wire := (chainPort s port).wire ++ [b], txAt := s.ao.devtime } ∧
        frameType b = 7 ∧ frameInit b = false := by
  have row : exec (.idleProbe port) s = .next (sendProbe s port false) := by
    simp [exec, execIdleProbe, guarded_port hport, hup, (due_iff s _ _).2 time]
  obtain ⟨b, hty, hinit, sent⟩ := chainPort_sendProbe port s false
  exact ⟨_, row, b, sent, hty, hinit⟩

/-- Each of the three conditions of R106 that time brings fails the port. -/
theorem exec_chainPortFail (h : ((chainPort s port).locked = false ∧ (chainPort s port).lockLostAt + 10000000 < s.ao.devtime) ∨
      (chainPort s port).rxAt + 1000000 ≤ s.ao.devtime ∨ 16 ≤ (chainPort s port).idleRounds) :
    ∃ cond, exec (.chainPortFail port) s = .next (failPort s port cond) := by
  have lost : ((!(chainPort s port).locked && due s (chainPort s port).lockLostAt 10000001) = true) ↔
      (chainPort s port).locked = false ∧ (chainPort s port).lockLostAt + 10000000 < s.ao.devtime := by
    rw [Bool.and_eq_true, due_iff, Bool.not_eq_true']
    exact and_congr_right fun _ => by omega
  have row : exec (.chainPortFail port) s = .next (
      if !(chainPort s port).locked && due s (chainPort s port).lockLostAt 10000001 then failPort s port 4
      else if due s (chainPort s port).rxAt 1000000 then failPort s port 5
      else if 16 ≤ (chainPort s port).idleRounds then failPort s port 6 else s) := by
    show guarded (portOk port) .noSuchUnit _ = _
    rw [guarded_port hport]
    exact congrArg _ (if_neg (by simp [hup]))
  rw [row]
  by_cases c : (!(chainPort s port).locked && due s (chainPort s port).lockLostAt 10000001) = true
  · exact ⟨4, by rw [if_pos c]⟩
  rw [if_neg c]
  by_cases quiet : due s (chainPort s port).rxAt 1000000 = true
  · exact ⟨5, by rw [if_pos quiet]⟩
  have rounds : 16 ≤ (chainPort s port).idleRounds :=
    (h.resolve_left fun l => c (lost.2 l)).resolve_left fun q => quiet ((due_iff s _ _).2 q)
  exact ⟨6, by rw [if_neg quiet, if_pos rounds]⟩

theorem chainPortFail_gives (h : ((chainPort s port).locked = false ∧ (chainPort s port).lockLostAt + 10000000 < s.ao.devtime) ∨
      (chainPort s port).rxAt + 1000000 ≤ s.ao.devtime ∨ 16 ≤ (chainPort s port).idleRounds) :
    Gives (.chainPortFail port) s fun t => (chainPort t port).state = .failed ∧ (chainPort t port).window = [] ∧
      (chainPort t port).failedAt = s.ao.devtime ∧
      ∀ id d, id ∈ portCopies (chainPort s port) → disp? s id = some d → d.ended = false →
        ∃ d', disp? t id = some d' ∧ LostOn port d' := by
  obtain ⟨cond, row⟩ := exec_chainPortFail hport hup h
  have record := chainPort_failPort port s cond
  refine ⟨_, row, by rw [record]; rfl, by rw [record]; rfl, by rw [record], fun id d hid hd going => ?_⟩
  rw [disp?_congr (failPort_work port s cond)]
  exact disp?_portDown port s .failed hd going hid

end

/-! ## Reads without an answer (R103) -/

theorem dropFrames_only (u : State) (ids : List Nat) :
    dropFrames u ids = { u with chain := { u.chain with ports := (dropFrames u ids).chain.ports } } :=
  foldl_keeps (fun v : State => v = { u with chain := { u.chain with ports := v.chain.ports } }) _ (fun v p h => by
    show modChainPort v p _ = _
    rw [h]
    rfl) _ u rfl

/-- Frames that are dropped leave every port's reads. -/
theorem reads_dropFrames (u : State) (ids : List Nat) (q : Nat) :
    (chainPort (dropFrames u ids) q).reads = (chainPort u q).reads := by
  refine foldl_keeps (fun v : State => (chainPort v q).reads = (chainPort u q).reads) _ (fun v p h => ?_) _ u rfl
  by_cases e : q = p
  · subst e
    rw [chainPort_modChainPort_self]
    exact h
  · rw [chainPort_modChainPort_other _ _ _ e, h]

/-- The read is forgotten, and frames of its copy that have no SEQ yet are dropped. -/
def readForgotten (s : State) (port tag copy : Nat) : State :=
  dropFrames (modChainPort s port fun p => { p with reads := del p.reads tag }) [copy]

theorem readForgotten_work (port tag copy : Nat) : (readForgotten s port tag copy).work = s.work := by
  rw [readForgotten, dropFrames_only]
  rfl

theorem look_reads_readForgotten (port tag copy : Nat) : look (chainPort (readForgotten s port tag copy) port).reads tag = none := by
  rw [readForgotten, reads_dropFrames, chainPort_modChainPort_self, look_del, if_pos rfl]

theorem chainReadTimeout_gives {tag : Nat} {r : ChainRead} {d : Disp} (hport : port < 4)
    (hr : look (chainPort s port).reads tag = some r) (time : r.sentAt + 1000000 ≤ s.ao.devtime)
    (hd : disp? s r.copy = some d) (going : d.ended = false) : Gives (.chainReadTimeout port tag) s fun t =>
      look (chainPort t port).reads tag = none ∧ ∃ d', disp? t r.copy = some d' ∧ LostOn port d' := by
  have row : exec (.chainReadTimeout port tag) s = .next (copyLost port (readForgotten s port tag r.copy) r.copy) := by
    simp [exec, execChainReadTimeout, guarded_port hport, hr, (due_iff s _ _).2 time, readForgotten]
  refine gives_of_row row ⟨?_, copyLost_open port _ (by rw [disp?_congr (readForgotten_work _ _ _), hd]) going⟩
  rw [chainPort_copyLost]
  exact look_reads_readForgotten port tag r.copy

/-! ## Between the states (R105, R106) -/

section
variable (hport : port < 4)
include hport

theorem pcsLock_gives (on : s.dev.state ≠ .off) (noLock : (chainPort s port).state = .noLock) : Gives (.pcsLock port) s fun t =>
    chainPort t port = { chainPort s port with locked := true, state := .probing, initRx := none, initTx := none } ∧
      ∀ q, q ≠ port → chainPort t q = chainPort s q := by
  refine ⟨_, (guarded_port hport _).trans (congrArg _ (if_neg on)), ?_, (portOnly_modChainPort port s _).others⟩
  rw [chainPort_modChainPort_self, if_pos noLock]

theorem pcsLockLoss_gives (locked : (chainPort s port).locked = true) : Gives (.pcsLockLoss port) s fun t =>
    chainPort t port =
      { chainPort s port with locked := false, lockLostAt := s.ao.devtime,
                              state := if (chainPort s port).state = .probing then .noLock else (chainPort s port).state } ∧
      t = { s with chain := t.chain } := by
  refine ⟨_, guarded_port hport _, ?_, rfl⟩
  rw [chainPort_modChainPort_self, if_neg (by simp [locked])]
  rfl

theorem initProbe_gives (probing : (chainPort s port).state = .probing)
    (time : ∀ x, (chainPort s port).initTx = some x → x.2 + 10000 ≤ s.ao.devtime) : Gives (.initProbe port) s fun t =>
    ∃ b x, chainPort t port = { chainPort s port with wire := (chainPort s port).wire ++ [b], txAt := s.ao.devtime, initTx := some x } ∧
      x.2 = s.ao.devtime ∧ (∀ y, (chainPort s port).initTx = some y → x.1 = y.1) ∧ frameType b = 7 ∧ frameInit b = true := by
  obtain ⟨b, hty, hinit, sent⟩ := chainPort_sendProbe port s true
  have now_ : (chainPort s port).state = .probing ∧ ∀ x, (chainPort s port).initTx = some x → due s x.2 10000 = true :=
    ⟨probing, fun x hx => (due_iff s x.2 10000).2 (time x hx)⟩
  refine gives_of_row ((guarded_port hport _).trans (congrArg _ (if_pos now_)))
    ⟨b, (((chainPort s port).initTx.map (·.1)).getD s.ao.devtime, s.ao.devtime), ?_, rfl, fun y hy => ?_, hty, hinit⟩
  · rw [chainPort_modChainPort_self, sent]
    rfl
  · rw [hy]
    rfl

theorem chainPortUp_gives {r x : Nat × Nat} (probing : (chainPort s port).state = .probing)
    (rx : (chainPort s port).initRx = some r) (tx : (chainPort s port).initTx = some x)
    (time : max r.1 x.1 + 100000 ≤ min r.2 x.2) : Gives (.chainPortUp port) s fun t =>
    (chainPort t port).state = .up ∧ (chainPort t port).nextSeq = 0 ∧ (chainPort t port).expect = 0 ∧
      (chainPort t port).window = [] := by
  have done : initDone (chainPort s port) = true := by
    unfold initDone
    rw [rx, tx]
    exact decide_eq_true time
  obtain ⟨b, -, -, up⟩ := chainPort_becomeUp port s
  refine gives_of_row ((guarded_port hport _).trans (congrArg _ (if_pos ⟨probing, done⟩))) ?_
  rw [up]
  exact ⟨rfl, rfl, rfl, rfl⟩

theorem chainPortRetry_gives (failed : (chainPort s port).state = .failed)
    (time : (chainPort s port).failedAt + 1000000000 ≤ s.ao.devtime) : Gives (.chainPortRetry port) s fun t =>
    chainPort t port = { chainPort s port with state := if (chainPort s port).locked then .probing else .noLock,
                                               initRx := none, initTx := none } ∧
      t = { s with chain := t.chain } :=
  ⟨_, (guarded_port hport _).trans (congrArg _ (if_pos ⟨failed, (due_iff s _ _).2 time⟩)),
    chainPort_modChainPort_self s port _, rfl⟩

end

/-! ## O48 -/

/-- Settles O48: what an UP port sends, what makes it fail, and each step between its states. -/
theorem chainPortsSendAndFail : Obligations.ChainPortsSendAndFail := by
  refine ⟨fun s port hport hup locked => ⟨fun x rest h => chainFrameSend_again hport hup locked h, fun x h room next => ?new,
      chainFrameSend_idles hport hup locked⟩,
    fun s port hport hup => ⟨chainAckDue_gives hport hup, chainRetransmit_gives hport hup, idleProbe_gives hport hup, fun h => ?fail⟩,
    fun s port tag r d hport hr time hd going => ?timeout,
    fun s port hport => ⟨pcsLock_gives hport, pcsLockLoss_gives hport, initProbe_gives hport,
      fun r x probing rx tx => chainPortUp_gives hport probing rx tx, chainPortRetry_gives hport⟩⟩
  case new =>
    obtain ⟨y, b, hy, hb, window, seq, waiting, wire⟩ := chainPort_sendNew (port := port) s x
    exact ⟨_, chainFrameSend_new hport hup locked h room next, y, b, hy, window, seq, waiting, wire, hb,
      (portOnly_sendNew port s x).chain_counters⟩
  case fail =>
    obtain ⟨t, row, state, window, at_, copies⟩ := chainPortFail_gives hport hup h
    refine ⟨t, row, state, window, at_, fun id d hid hd going => ?_⟩
    obtain ⟨d', there, ended, r, hr, lost⟩ := copies id d hid hd going
    exact ⟨d', r, there, ended, hr, lost⟩
  case timeout =>
    obtain ⟨t, row, gone, d', there, ended, x, hx, lost⟩ := chainReadTimeout_gives hport hr time hd going
    exact ⟨t, row, gone, d', x, there, ended, hx, lost⟩

end Sys2Proof.Machine
end

section
/-! Sequenced frames: which are accepted, what a port answers, and the effect of each type (R94, R96-R98, R102-R104). -/

namespace Sys2Proof.Machine

variable {s t u : State} {port : Nat} {f : List Byte}

/-! ## What the effect of a frame leaves of a port -/

/-- Of the port only its lists of frames and reads and the time of its last acknowledgement may differ, of the other ports and the
AO domain nothing. -/
structure Received (port : Nat) (s t : State) : Prop where
  ao : t.ao = s.ao
  others : ∀ q, q ≠ port → chainPort t q = chainPort s q
  record : chainPort t port = { chainPort s port with
    window := (chainPort t port).window, resend := (chainPort t port).resend, waiting := (chainPort t port).waiting,
    reads := (chainPort t port).reads, ackAt := (chainPort t port).ackAt, idleRounds := (chainPort t port).idleRounds }

theorem chainPort_congr (h : t.chain = s.chain) (q : Nat) : chainPort t q = chainPort s q := by rw [chainPort, h, ← chainPort]

theorem Received.of_chain (hao : t.ao = s.ao) (h : t.chain = s.chain) : Received port s t :=
  ⟨hao, fun q _ => chainPort_congr h q, by rw [chainPort_congr h port]⟩

theorem Received.refl (port : Nat) (s : State) : Received port s s := .of_chain rfl rfl

theorem Received.trans (h : Received port s t) (k : Received port t u) : Received port s u where
  ao := k.ao.trans h.ao
  others q hq := (k.others q hq).trans (h.others q hq)
  record := by rw [k.record, h.record]

theorem Received.ite {c : Prop} [Decidable c] (h : Received port s t) (k : Received port s u) :
    Received port s (if c then t else u) := by
  split
  · exact h
  · exact k

theorem Reads.received (h : Reads s t) : Received port s t := .of_chain h.ao h.chain
theorem Writes.received (h : Writes s t) : Received port s t := .of_chain h.ao h.chain

theorem received_modChainPort (s : State) {g : ChainPort → ChainPort} (h : ∀ p, g p = { p with
      window := (g p).window, resend := (g p).resend, waiting := (g p).waiting, reads := (g p).reads, ackAt := (g p).ackAt,
      idleRounds := (g p).idleRounds }) : Received port s (modChainPort s port g) where
  ao := rfl
  others _ hq := chainPort_modChainPort_other s port g hq
  record := by
    rw [chainPort_modChainPort_self]
    exact h _

theorem received_frameDone (port : Nat) (s : State) (id : Nat) : Received port s (frameDone s id) :=
  .of_chain (by rw [frameDone_only]) (by rw [frameDone_only])

theorem received_takeAck (port : Nat) (s : State) (a : BitVec 16) : Received port s (takeAck s port a) := by
  rcases takeAck_cases port s a with same | ⟨n, gone, taken⟩
  · rw [same]
    exact .refl port s
  · rw [taken]
    exact (received_modChainPort s fun _ => rfl).trans (.of_chain (by rw [framesDone_only]) (by rw [framesDone_only]))

/-! ## Acceptance (R97, R98) -/

/-- The state with a frame in order accepted, before its effect. -/
def accepted (s : State) (port : Nat) (f : List Byte) : State :=
  modChainPort (countPort (heard s port f) port 1 (domainTag (heard s port f) (hdr f 2 2)) 1) port
    fun p => { p with expect := p.expect + 1, unacked := p.unacked + 1 }

theorem portOnly_accepted (s : State) (port : Nat) (f : List Byte) : PortOnly port s (accepted s port f) :=
  ((portOnly_heard port s f).trans (portOnly_countPort port _ _ _ _)).trans (portOnly_modChainPort port _ _)

theorem chainPort_accepted (s : State) (port : Nat) (f : List Byte) : chainPort (accepted s port f) port =
    { chainPort s port with rxAt := s.ao.devtime, clearSeen := (chainPort s port).clearSeen || !frameInit f,
                            expect := (chainPort s port).expect + 1, unacked := (chainPort s port).unacked + 1 } := by
  rw [accepted, chainPort_modChainPort_self, chainPort_countPort, chainPort_heard]

/-- The effect of a frame in order, and the acknowledgement it brings. -/
def afterEffect (port : Nat) (f : List Byte) (effect : State → State) (u : State) : State :=
  if frameAcks f then takeAck (effect u) port (frameAck f) else effect u

theorem sequenced_expected (h : frameSeq f = (chainPort s port).expect) (effect : State → State) :
    sequenced s port f effect = ackAtBound (afterEffect port f effect (accepted s port f)) port := by
  refine if_pos ?_
  show (frameSeq f - (chainPort (heard s port f) port).expect).toNat = 0
  rw [chainPort_heard, h, BitVec.sub_self]
  rfl

/-- A frame that is not the next one, `d` ahead of it, draws a NAK or an ACK at most (R97). -/
def outOfOrder (u : State) (port d : Nat) : State :=
  if d ≤ 255 then sendNak u port else if 65280 ≤ d then sendAck u port 5 else u

theorem sequenced_unexpected {d : Nat} (hd : (frameSeq f - (chainPort s port).expect).toNat = d) (h : d ≠ 0)
    (effect : State → State) :
    sequenced s port f effect = outOfOrder (countPort (heard s port f) port 3 31 1) port d := by
  subst hd
  refine if_neg (?_ : ¬ (frameSeq f - (chainPort (heard s port f) port).expect).toNat = 0) |>.trans ?_
  · rwa [chainPort_heard]
  · show outOfOrder _ port (frameSeq f - (chainPort (heard s port f) port).expect).toNat = _
    rw [chainPort_heard]

theorem portOnly_outOfOrder (port : Nat) (u : State) (d : Nat) : PortOnly port u (outOfOrder u port d) :=
  .ite (portOnly_sendNak port u) (.ite (portOnly_sendAck port u 5) (.refl port u))

theorem chainPort_outOfOrder (port : Nat) (u : State) (d : Nat) : chainPort (outOfOrder u port d) port =
    { chainPort u port with
      wire := (chainPort (outOfOrder u port d) port).wire, txAt := (chainPort (outOfOrder u port d) port).txAt,
      unacked := (chainPort (outOfOrder u port d) port).unacked, nakAt := (chainPort (outOfOrder u port d) port).nakAt } := by
  unfold outOfOrder
  split
  · rw [chainPort_sendNak_only]
  split
  · rw [chainPort_sendAck_only]
  · rfl

/-- A sequenced frame reaches an UP port. -/
theorem chainRow_hears {ty : Nat} (h : Hears s port f ty) (effect : State → State) :
    chainRow port ty f s effect = .next (sequenced s port f effect) := by
  obtain ⟨hport, hhears, hok, hty, hup⟩ := h
  simp [chainRow, guarded, portOk, hport, hhears, hok, hty, hup]

theorem Hears.frameType {ty : Nat} (h : Hears s port f ty) : Machine.frameType f = ty := by
  obtain ⟨-, -, -, hty, -⟩ := h
  exact hty

/-! ## What an accepted frame and one out of order leave -/

/-- The frame draws a frame of a type with an acknowledgement. -/
def Draws (p q : ChainPort) (ty : Nat) (a : BitVec 16) : Prop :=
  ∃ b, q.wire = p.wire ++ [b] ∧ frameType b = ty ∧ frameAck b = a

section
variable {effect : State → State}

theorem received_afterEffect (keeps : ∀ u, Received port u (effect u)) (u : State) :
    Received port u (afterEffect port f effect u) :=
  .ite ((keeps u).trans (received_takeAck port _ _)) (keeps u)

theorem sequenced_accepts (h : frameSeq f = (chainPort s port).expect) (keeps : ∀ u, Received port u (effect u)) :
    let p := chainPort s port
    let t := sequenced s port f effect
    (chainPort t port).rxAt = s.ao.devtime ∧ (chainPort t port).expect = p.expect + 1 ∧
      (p.unacked < 31 → (chainPort t port).unacked = p.unacked + 1) ∧
      (31 ≤ p.unacked → ackHeld (chainPort t port) = false →
        (chainPort t port).unacked = 0 ∧ Draws p (chainPort t port) 5 (p.expect + 1)) ∧
      ∀ q, q ≠ port → chainPort t q = chainPort s q := by
  intro p t
  have eff := received_afterEffect (f := f) keeps (accepted s port f)
  have before := chainPort_accepted s port f
  have record := eff.record
  rw [before] at record
  have ends : t = ackAtBound (afterEffect port f effect (accepted s port f)) port := sequenced_expected h effect
  have last := chainPort_ackAtBound port (afterEffect port f effect (accepted s port f))
  rw [← ends, record] at last
  refine ⟨by rw [last], by rw [last], fun few => ?_, fun many free => ?_, fun q hq => ?_⟩
  · rw [ends, ackAtBound_of_few (by rw [record]; exact Nat.succ_lt_succ few), record]
  · have free' : ackHeld (chainPort (afterEffect port f effect (accepted s port f)) port) = false := by
      rw [last] at free
      rw [record]
      exact free
    obtain ⟨b, hty, hack, sent⟩ := chainPort_sendAck free' (ty := 5) (by decide)
    rw [ends, ackAtBound_of_many (by rw [record]; exact Nat.succ_le_succ many), sent]
    rw [record] at hack ⊢
    exact ⟨rfl, b, rfl, hty, hack⟩
  · rw [ends, (portOnly_ackAtBound port _).others q hq, eff.others q hq, (portOnly_accepted s port f).others q hq]

theorem sequenced_leaves {d : Nat} (hd : (frameSeq f - (chainPort s port).expect).toNat = d) (h : d ≠ 0) :
    let p := chainPort s port
    let t := sequenced s port f effect
    (chainPort t port).rxAt = s.ao.devtime ∧ (chainPort t port).expect = p.expect ∧
      t = { s with chain := t.chain, counters := t.counters } ∧
      (d ≤ 255 → (p.nakAt = none ∨ ∃ x, p.nakAt = some x ∧ x + 2000 ≤ s.ao.devtime) → ackHeld p = false →
        Draws p (chainPort t port) 6 p.expect) ∧
      (65280 ≤ d → ackHeld p = false → Draws p (chainPort t port) 5 p.expect) ∧
      ∀ q, q ≠ port → chainPort t q = chainPort s q := by
  intro p t
  have counted : chainPort (countPort (heard s port f) port 3 31 1) port =
      { p with rxAt := s.ao.devtime, clearSeen := p.clearSeen || !frameInit f } := by
    rw [chainPort_countPort, chainPort_heard]
  have ends : t = outOfOrder (countPort (heard s port f) port 3 31 1) port d := sequenced_unexpected hd h effect
  have only : PortOnly port s t := by
    rw [ends]
    exact ((portOnly_heard port s f).trans (portOnly_countPort port _ _ _ _)).trans (portOnly_outOfOrder port _ d)
  have last := chainPort_outOfOrder port (countPort (heard s port f) port 3 31 1) d
  rw [← ends, counted] at last
  refine ⟨by rw [last], by rw [last], only.chain_counters, fun near spaced free => ?_, fun behind free => ?_, only.others⟩
  · obtain ⟨b, hty, hack, sent⟩ := chainPort_sendAck (port := port) (s := countPort (heard s port f) port 3 31 1)
      (by rw [counted]; exact free) (ty := 6) (by decide)
    rw [ends, outOfOrder, if_pos near, chainPort_sendNak (by rw [counted]; exact free) (by rw [counted, countPort_ao]; exact spaced), sent]
    rw [counted] at hack ⊢
    exact ⟨b, rfl, hty, hack⟩
  · obtain ⟨b, hty, hack, sent⟩ := chainPort_sendAck (port := port) (s := countPort (heard s port f) port 3 31 1)
      (by rw [counted]; exact free) (ty := 5) (by decide)
    rw [ends, outOfOrder, if_neg (by omega), if_pos behind, sent]
    rw [counted] at hack ⊢
    exact ⟨b, rfl, hty, hack⟩

end

/-! ## Requests and their checks (R102) -/

/-- The checks look at the domains and the tenants' regions. -/
theorem checkFrame_congr (hd : t.chain.domains = s.chain.domains) (hw : t.work = s.work) (write : Bool) :
    checkFrame t port f write = checkFrame s port f write := by
  unfold checkFrame region? tenant
  rw [hd, hw]

theorem checkFrame_accepted (write : Bool) : checkFrame (accepted s port f) port f write = checkFrame s port f write :=
  checkFrame_congr (portOnly_accepted s port f).domains (portOnly_accepted s port f).work write

/-- The ERROR_RESP to a refused frame (R104). -/
def refusal (f : List Byte) (err : Nat) : ChainFrame :=
  { plainFrame 4 with cls := 0, tag := if frameType f = 2 then hdr f 8 2 else 0, domain := hdr f 2 2, region := hdr f 12 2,
                      refSeq := frameSeq f, err := err }

/-- A frame joins those that have no SEQ yet. -/
def enqueue (s : State) (port : Nat) (x : ChainFrame) : State := modChainPort s port fun p => { p with waiting := p.waiting ++ [x] }

theorem received_enqueue (s : State) (x : ChainFrame) : Received port s (enqueue s port x) := received_modChainPort s fun _ => rfl

theorem waiting_enqueue (s : State) (port : Nat) (x : ChainFrame) :
    (chainPort (enqueue s port x) port).waiting = (chainPort s port).waiting ++ [x] := by
  rw [enqueue, chainPort_modChainPort_self]

theorem refuse_eq (s : State) (port : Nat) (f : List Byte) (err : Nat) : refuse s port f err =
    enqueue (countPort s port 5 (domainTag s (hdr f 2 2)) 1) port (refusal f err) := rfl

theorem reads_countPort (s : State) (port i tag n : Nat) : Reads s (countPort s port i tag n) := by
  unfold Reads
  rw [countPort_only]

theorem applyWrite_refused (h : (checkFrame s port f true).1 ≠ 0) :
    applyWrite s port f = refuse s port f (checkFrame s port f true).1 := if_pos h

theorem applyWrite_stores (h : (checkFrame s port f true).1 = 0) : applyWrite s port f =
    (writeSpan s (checkFrame s port f true).2.1 (checkFrame s port f true).2.2 (framePayload f) 10).2 := if_neg (not_not_intro h)

theorem received_applyWrite (s : State) : Received port s (applyWrite s port f) := by
  by_cases h : (checkFrame s port f true).1 = 0
  · rw [applyWrite_stores h]
    exact (writes_writeSpan _ _ _ _ _).received
  · rw [applyWrite_refused h, refuse_eq]
    exact (reads_countPort _ _ _ _ _).received.trans (received_enqueue _ _)

/-- What an answer to a read says: the data if there is any, else why not. -/
def ReadAnswer (s : State) (port : Nat) (f : List Byte) (x : ChainFrame) : Prop :=
  let c := checkFrame s port f false
  x.tag = hdr f 8 2 ∧ x.domain = hdr f 2 2 ∧ (c.1 ≠ 0 → x.type_ = 4 ∧ x.err = c.1 ∧ x.refSeq = frameSeq f) ∧
    (c.1 = 0 → ∀ b, (readSpan s c.2.1 c.2.2 (frameLen f) 10).1 = .bytes b → x.type_ = 3 ∧ x.payload = b)

/-- A read makes one frame wait, whatever the memory gave. -/
theorem applyRead_answers (s : State) (port : Nat) (f : List Byte) : ∃ v x, Reads s v ∧ applyRead s port f = enqueue v port x ∧
    (frameType f = 2 → ReadAnswer s port f x) := by
  have tag (err : Nat) (h : frameType f = 2) : (refusal f err).tag = hdr f 8 2 := if_pos h
  by_cases h : (checkFrame s port f false).1 = 0
  · have span := reads_readSpan s (checkFrame s port f false).2.1 (checkFrame s port f false).2.2 (frameLen f) 10
    have refused (err : Nat) (u : State) (hu : Reads s u) := hu.trans (reads_countPort u port 5 (domainTag u (hdr f 2 2)) 1)
    unfold applyRead
    dsimp only
    rw [if_neg (not_not_intro h)]
    split
    next b v e =>
      rw [e] at span
      refine ⟨v, _, span, rfl, fun _ => ⟨rfl, rfl, fun hne => absurd h hne, fun _ b' hb => ⟨rfl, ?_⟩⟩⟩
      rw [e] at hb
      exact Span.bytes.inj hb
    next v e =>
      rw [e] at span
      refine ⟨_, _, refused 6 v span, refuse_eq v port f 6, fun hty => ⟨tag 6 hty, rfl, fun hne => absurd h hne, fun _ b hb => ?_⟩⟩
      rw [e] at hb
      cases hb
    next r v noBytes _ e =>
      rw [e] at span
      refine ⟨_, _, refused 5 v span, refuse_eq v port f 5, fun hty => ⟨tag 5 hty, rfl, fun hne => absurd h hne, fun _ b hb => ?_⟩⟩
      rw [e] at hb
      exact absurd hb (noBytes b)
  · refine ⟨_, _, reads_countPort s port 5 _ 1, (if_pos h).trans (refuse_eq s port f _), fun hty => ⟨tag _ hty, rfl,
      fun _ => ⟨rfl, rfl, rfl⟩, fun h0 => absurd h0 h⟩⟩

theorem received_applyRead (s : State) : Received port s (applyRead s port f) := by
  obtain ⟨v, x, hv, waits, -⟩ := applyRead_answers s port f
  rw [waits]
  exact hv.received.trans (received_enqueue v x)

end Sys2Proof.Machine
end

section
/-! Responses: data for a copy's destination, and refusals (R102, R103, R382). -/

namespace Sys2Proof.Machine

variable {s t : State} {port : Nat} {f : List Byte}

/-! ## READ_RESP -/

/-- The read has had a frame's bytes, and goes with the last of them. -/
def readAnswered (s : State) (port tag n : Nat) (r : ChainRead) : State :=
  modChainPort s port fun p =>
    { p with reads := if r.length ≤ r.got + n then del p.reads tag else put p.reads tag { r with got := r.got + n } }

theorem look_readAnswered (s : State) (port tag n : Nat) (r : ChainRead) :
    look (chainPort (readAnswered s port tag n r) port).reads tag =
      if r.length ≤ r.got + n then none else some { r with got := r.got + n } := by
  rw [readAnswered, chainPort_modChainPort_self]
  split
  · rw [look_del, if_pos rfl]
  · rw [look_put_self]

/-- The data goes to the destination; what it meets there the copy reports. -/
def readDelivered (s : State) (d : Disp) (r : ChainRead) (bytes : List Byte) : State :=
  match (deliver s d r bytes).1 with
  | none => (deliver s d r bytes).2
  | some st => modDisp (deliver s d r bytes).2 r.copy fun d =>
      { d with reports := d.reports ++ [{ site := 0xFFFF, status := st, detail := if st = .prot then 3 else 0 }] }

theorem writes_deliver (s : State) (d : Disp) (r : ChainRead) (bytes : List Byte) : Writes s (deliver s d r bytes).2 := by
  have span := writes_writeSpan s d.tenant (r.dst.toNat + r.got) bytes 6
  unfold deliver
  dsimp only
  split
  · split
    · exact writes_hostWrite _ _ _ _
    · rfl
  · split
    all_goals
      rename_i e
      rwa [e] at span

theorem received_readDelivered (s : State) (d : Disp) (r : ChainRead) (bytes : List Byte) :
    Received port s (readDelivered s d r bytes) := by
  have written := writes_deliver s d r bytes
  unfold readDelivered
  split
  · exact written.received
  · exact .of_chain written.ao written.chain

theorem hostWrite_mem (s : State) (tag a : Nat) (bs : List Byte) :
    (hostWrite s tag a bs).mem = { s.mem with host := s.mem.host.write a bs } := rfl

theorem chainPort_hostWrite (s : State) (tag a : Nat) (bs : List Byte) (q : Nat) :
    chainPort (hostWrite s tag a bs) q = chainPort s q :=
  chainPort_congr (writes_hostWrite s tag a bs).chain q

/-- Data for a tenant's reachable host memory is written there. -/
theorem readDelivered_host {d : Disp} {r : ChainRead} (kind : r.dstKind = 0) (reach : hostReachable s d.tenant = true)
    (bytes : List Byte) : readDelivered s d r bytes = hostWrite s d.tenant (r.dst.toNat + r.got) bytes := by
  have done : deliver s d r bytes = (none, hostWrite s d.tenant (r.dst.toNat + r.got) bytes) :=
    (if_pos kind).trans (if_pos reach)
  unfold readDelivered
  rw [done]

/-- Without the read, or without its copy, the data goes nowhere. -/
theorem applyResp_cases (s : State) (port : Nat) (f : List Byte) : applyResp s port f = s ∨
    ∃ r u, applyResp s port f = u ∧ (u = readAnswered s port (hdr f 8 2) (frameLen f) r ∨
      ∃ d, u = if r.length ≤ r.got + frameLen f
        then frameDone (readDelivered (readAnswered s port (hdr f 8 2) (frameLen f) r) d r (framePayload f)) r.copy
        else readDelivered (readAnswered s port (hdr f 8 2) (frameLen f) r) d r (framePayload f)) := by
  unfold applyResp
  dsimp only
  split
  · exact .inl rfl
  next r _ =>
    refine .inr ⟨r, _, rfl, ?_⟩
    split
    · exact .inl rfl
    next d _ =>
      split
      · exact .inl rfl
      · exact .inr ⟨d, rfl⟩

theorem received_applyResp (s : State) : Received port s (applyResp s port f) := by
  rcases applyResp_cases s port f with same | ⟨r, u, applied, rfl | ⟨d, rfl⟩⟩
  · rw [same]
    exact .refl port s
  · rw [applied]
    exact received_modChainPort s fun _ => rfl
  · rw [applied]
    have delivered := (received_modChainPort s fun _ => rfl).trans
      (received_readDelivered (port := port) (readAnswered s port (hdr f 8 2) (frameLen f) r) d r (framePayload f))
    exact .ite (delivered.trans (received_frameDone port _ _)) delivered

/-- Data of a copy in flight. -/
theorem applyResp_open {r : ChainRead} {d : Disp} (hr : look (chainPort s port).reads (hdr f 8 2) = some r)
    (hd : disp? s r.copy = some d) (going : d.ended = false) : applyResp s port f =
      if r.length ≤ r.got + frameLen f
      then frameDone (readDelivered (readAnswered s port (hdr f 8 2) (frameLen f) r) d r (framePayload f)) r.copy
      else readDelivered (readAnswered s port (hdr f 8 2) (frameLen f) r) d r (framePayload f) := by
  have hd' : disp? (readAnswered s port (hdr f 8 2) (frameLen f) r) r.copy = some d := hd
  unfold readAnswered at hd'
  unfold applyResp
  simp only [hr, hd', going, Bool.false_eq_true, if_false]
  rfl

/-- Data for host memory: it is written behind what came before, and the read goes on or is done. -/
theorem applyResp_host {r : ChainRead} {d : Disp} (hr : look (chainPort s port).reads (hdr f 8 2) = some r)
    (hd : disp? s r.copy = some d) (going : d.ended = false) (kind : r.dstKind = 0) (reach : hostReachable s d.tenant = true) :
    (applyResp s port f).mem = { s.mem with host := s.mem.host.write (r.dst.toNat + r.got) (framePayload f) } ∧
      look (chainPort (applyResp s port f) port).reads (hdr f 8 2) =
        if r.length ≤ r.got + frameLen f then none else some { r with got := r.got + frameLen f } := by
  have reach' : hostReachable (readAnswered s port (hdr f 8 2) (frameLen f) r) d.tenant = true := reach
  rw [← look_readAnswered s port (hdr f 8 2) (frameLen f) r, applyResp_open hr hd going, readDelivered_host kind reach']
  split
  · rw [frameDone_mem, chainPort_frameDone, chainPort_hostWrite, hostWrite_mem, readAnswered, modChainPort_mem]
    exact ⟨rfl, rfl⟩
  · rw [chainPort_hostWrite, hostWrite_mem, readAnswered, modChainPort_mem]
    exact ⟨rfl, rfl⟩

/-! ## ERROR_RESP (R103) -/

/-- What the copy reports of a refusal. -/
def errorReport (f : List Byte) : Report :=
  if hdr f 24 1 ≤ 4 then { site := 0xFFFF, status := .prot, detail := 5 } else { site := 0xFFFF, status := .poisoned, detail := 0 }

def errorNoted (s : State) (id : Nat) (f : List Byte) : State :=
  modDisp s id fun d => if d.ended then d else { d with reports := d.reports ++ [errorReport f] }

/-- A refused read ends with its frame. -/
def errorTaken (s : State) (port id : Nat) (f : List Byte) (x : ChainFrame) : State :=
  if x.type_ = 2 then frameDone (modChainPort (errorNoted s id f) port fun p => { p with reads := del p.reads x.tag }) id
  else errorNoted s id f

theorem applyError_found {x : ChainFrame} {id : Nat}
    (hx : (chainPort s port).window.find? (fun y => y.seq.toNat == hdr f 14 2) = some x) (hc : x.copy = some id) :
    applyError s port f = errorTaken s port id f x := by
  unfold applyError
  simp only [hx, hc]
  rfl

theorem received_errorTaken (s : State) (port id : Nat) (f : List Byte) (x : ChainFrame) :
    Received port s (errorTaken s port id f x) := by
  have noted : Received port s (errorNoted s id f) := .of_chain rfl rfl
  exact .ite ((noted.trans (received_modChainPort _ fun _ => rfl)).trans (received_frameDone port _ id)) noted

theorem received_applyError (s : State) : Received port s (applyError s port f) := by
  cases hx : (chainPort s port).window.find? (fun y => y.seq.toNat == hdr f 14 2) with
  | none =>
    have same : applyError s port f = s := by
      unfold applyError
      simp only [hx]
    rw [same]
    exact .refl port s
  | some x =>
    cases hc : x.copy with
    | none =>
      have same : applyError s port f = s := by
        unfold applyError
        simp only [hx, hc]
      rw [same]
      exact .refl port s
    | some id =>
      rw [applyError_found hx hc]
      exact received_errorTaken s port id f x

theorem errorTaken_mem (s : State) (port id : Nat) (f : List Byte) (x : ChainFrame) : (errorTaken s port id f x).mem = s.mem := by
  unfold errorTaken
  split
  · rw [frameDone_mem]
    rfl
  · rfl

/-- The copy that owns the refused frame reports the refusal. -/
theorem disp?_errorTaken {id : Nat} {d : Disp} (hd : disp? s id = some d) (going : d.ended = false) (port : Nat) (f : List Byte)
    (x : ChainFrame) : ∃ d', disp? (errorTaken s port id f x) id = some d' ∧ errorReport f ∈ d'.reports := by
  have noted : disp? (errorNoted s id f) id = some { d with reports := d.reports ++ [errorReport f] } := by
    rw [errorNoted, disp?_modDisp_self s hd fun e => by split <;> rfl, if_neg (by simp [going])]
  have reported : errorReport f ∈ d.reports ++ [errorReport f] := by simp
  unfold errorTaken
  split
  · obtain ⟨d', there, kept⟩ := reports_frameDone
      (modChainPort (errorNoted s id f) port fun p => { p with reads := del p.reads x.tag }) noted
    exact ⟨d', there, kept reported⟩
  · exact ⟨_, noted, reported⟩

/-! ## The four rows -/

/-- The rows of the sequenced types, with the effect of each. -/
theorem sequenced_rows {ty : Nat} {c : Nat → List Byte → Instr} (h : (ty, c) ∈
      [(1, Instr.chainWrite), (2, Instr.chainReadReq), (3, Instr.chainReadResp), (4, Instr.chainErrorResp)]) :
    ∃ effect : State → State, (∀ u, Received port u (effect u)) ∧ ∀ s, exec (c port f) s = chainRow port ty f s effect := by
  simp only [List.mem_cons, Prod.mk.injEq, List.not_mem_nil, or_false] at h
  rcases h with ⟨rfl, rfl⟩ | ⟨rfl, rfl⟩ | ⟨rfl, rfl⟩ | ⟨rfl, rfl⟩
  · exact ⟨fun s => applyWrite s port f, received_applyWrite, fun _ => rfl⟩
  · exact ⟨fun s => applyRead s port f, received_applyRead, fun _ => rfl⟩
  · exact ⟨fun s => applyResp s port f, received_applyResp, fun _ => rfl⟩
  · exact ⟨fun s => applyError s port f, received_applyError, fun _ => rfl⟩

/-- An accepted frame without an acknowledgement: its effect, and the answer the bound draws. -/
theorem chainRow_accepts {ty : Nat} (h : Hears s port f ty) (seq : frameSeq f = (chainPort s port).expect) (acks : frameAcks f = false)
    (effect : State → State) : chainRow port ty f s effect = .next (ackAtBound (effect (accepted s port f)) port) := by
  have plain : afterEffect port f effect (accepted s port f) = effect (accepted s port f) := if_neg (by simp [acks])
  rw [chainRow_hears h, sequenced_expected seq, plain]

theorem ackAtBound_mem (port : Nat) (u : State) : (ackAtBound u port).mem = u.mem := (portOnly_ackAtBound port u).mem

theorem ackAtBound_waiting (port : Nat) (u : State) : (chainPort (ackAtBound u port) port).waiting = (chainPort u port).waiting := by
  rw [chainPort_ackAtBound]

theorem ackAtBound_reads (port : Nat) (u : State) : (chainPort (ackAtBound u port) port).reads = (chainPort u port).reads := by
  rw [chainPort_ackAtBound]

section
variable (seq : frameSeq f = (chainPort s port).expect) (acks : frameAcks f = false)
include seq acks

theorem chainWrite_gives (h : Hears s port f 1) : let c := checkFrame s port f true
    Gives (.chainWrite port f) s fun t =>
      (c.1 = 0 → ∃ s1, s1 = { s with chain := s1.chain, counters := s1.counters } ∧
        t.mem = (writeSpan s1 c.2.1 c.2.2 (framePayload f) 10).2.mem) ∧
      (c.1 ≠ 0 → t.mem = s.mem ∧ ∃ x, (chainPort t port).waiting = (chainPort s port).waiting ++ [x] ∧ x.type_ = 4 ∧ x.err = c.1 ∧
        x.refSeq = frameSeq f) := by
  intro c
  have only := portOnly_accepted s port f
  have check : checkFrame (accepted s port f) port f true = c := checkFrame_accepted true
  refine gives_of_row (chainRow_accepts h seq acks fun s => applyWrite s port f) ⟨fun h0 => ?_, fun h0 => ?_⟩
  · refine ⟨accepted s port f, only.chain_counters, ?_⟩
    rw [ackAtBound_mem, applyWrite_stores (check ▸ h0), check]
  · rw [ackAtBound_mem, ackAtBound_waiting, applyWrite_refused (check ▸ h0), check, refuse_eq, waiting_enqueue, chainPort_countPort,
      chainPort_accepted]
    refine ⟨?_, _, rfl, rfl, rfl, rfl⟩
    rw [enqueue, modChainPort_mem, (reads_countPort _ _ _ _ _).mem, only.mem]

theorem chainReadReq_gives (h : Hears s port f 2) : let c := checkFrame s port f false
    Gives (.chainReadReq port f) s fun t => t.mem = s.mem ∧
      ∃ x, (chainPort t port).waiting = (chainPort s port).waiting ++ [x] ∧ x.tag = hdr f 8 2 ∧ x.domain = hdr f 2 2 ∧
        (c.1 ≠ 0 → x.type_ = 4 ∧ x.err = c.1 ∧ x.refSeq = frameSeq f) ∧
        (c.1 = 0 → ∃ s1, s1 = { s with chain := s1.chain, counters := s1.counters } ∧
          ∀ b, (readSpan s1 c.2.1 c.2.2 (frameLen f) 10).1 = .bytes b → x.type_ = 3 ∧ x.payload = b) := by
  intro c
  have only := portOnly_accepted s port f
  obtain ⟨v, x, hv, waits, answer⟩ := applyRead_answers (accepted s port f) port f
  obtain ⟨tag, domain, refused, data⟩ := answer h.frameType
  rw [checkFrame_accepted] at refused data
  refine gives_of_row (chainRow_accepts h seq acks fun s => applyRead s port f)
    ⟨?_, x, ?_, tag, domain, refused, fun h0 => ⟨accepted s port f, only.chain_counters, data h0⟩⟩
  · rw [ackAtBound_mem, waits, enqueue, modChainPort_mem, hv.mem, only.mem]
  · rw [ackAtBound_waiting, waits, waiting_enqueue, chainPort_congr hv.chain, chainPort_accepted]

theorem chainReadResp_gives (h : Hears s port f 3) {r : ChainRead} {d : Disp}
    (hr : look (chainPort s port).reads (hdr f 8 2) = some r) (hd : disp? s r.copy = some d) (going : d.ended = false)
    (kind : r.dstKind = 0) (reach : hostReachable s d.tenant = true) : Gives (.chainReadResp port f) s fun t =>
      (∀ free a, t.mem.host.byte free a = if r.dst.toNat + r.got ≤ a ∧ a < r.dst.toNat + r.got + frameLen f then
        (framePayload f).getD (a - (r.dst.toNat + r.got)) 0 else s.mem.host.byte free a) ∧
      look (chainPort t port).reads (hdr f 8 2) =
        if r.length ≤ r.got + frameLen f then none else some { r with got := r.got + frameLen f } := by
  have only := portOnly_accepted s port f
  have reach' : hostReachable (accepted s port f) d.tenant = true := by
    unfold hostReachable pcieFn at reach ⊢
    rwa [only.pcie]
  obtain ⟨mem, reads⟩ := applyResp_host (s := accepted s port f) (by rwa [chainPort_accepted]) (by rwa [disp?_congr only.work]) going
    kind reach'
  refine gives_of_row (chainRow_accepts h seq acks fun s => applyResp s port f) ⟨fun free a => ?_, ?_⟩
  · rw [ackAtBound_mem, mem, only.mem, Ram.byte_write, framePayload, length_slice]
    rfl
  · rw [ackAtBound_reads, reads]

theorem chainErrorResp_gives (h : Hears s port f 4) {x : ChainFrame} {id : Nat} {d : Disp}
    (hx : (chainPort s port).window.find? (fun y => y.seq.toNat == hdr f 14 2) = some x) (hc : x.copy = some id)
    (hd : disp? s id = some d) (going : d.ended = false) : Gives (.chainErrorResp port f) s fun t =>
      t.mem = s.mem ∧ ∃ d' r, disp? t id = some d' ∧ r ∈ d'.reports ∧
        (hdr f 24 1 ≤ 4 → r.status = .prot ∧ r.detail = 5) ∧ (4 < hdr f 24 1 → r.status = .poisoned) := by
  have only := portOnly_accepted s port f
  have row : exec (.chainErrorResp port f) s = .next (ackAtBound (errorTaken (accepted s port f) port id f x) port) := by
    rw [← applyError_found (by rwa [chainPort_accepted]) hc]
    exact chainRow_accepts h seq acks fun s => applyError s port f
  obtain ⟨d', there, reported⟩ := disp?_errorTaken (s := accepted s port f) (by rwa [disp?_congr only.work]) going port f x
  refine gives_of_row row ⟨by rw [ackAtBound_mem, errorTaken_mem, only.mem], d', _,
    by rwa [disp?_congr (portOnly_ackAtBound port _).work], reported, fun low => ?_, fun high => ?_⟩
  · rw [errorReport, if_pos low]
    exact ⟨rfl, rfl⟩
  · rw [errorReport, if_neg (by omega)]

end

/-! ## O46 -/

theorem eq_of_sub_toNat_eq_zero {a b : BitVec 16} (h : (a - b).toNat = 0) : a = b := by bv_omega

/-- Settles O46: a frame by whether it is the one expected, and the effect of each type on the state with it accepted. -/
theorem chainFramesAreSequenced : Obligations.ChainFramesAreSequenced := by
  refine ⟨?sequence, fun s port f h seq acks => chainWrite_gives seq acks h, fun s port f h seq acks => chainReadReq_gives seq acks h,
    fun s port f r d h seq acks => chainReadResp_gives seq acks h, fun s port id f x d h seq acks => chainErrorResp_gives seq acks h⟩
  intro s port ty f c row h p d nakMay
  obtain ⟨effect, keeps, rowEq⟩ := sequenced_rows (port := port) (f := f) row
  refine gives_of_row ((rowEq s).trans (chainRow_hears h effect)) ?_
  by_cases hd : d = 0
  · have seq : frameSeq f = p.expect := eq_of_sub_toNat_eq_zero hd
    obtain ⟨rx, expect, few, many, others⟩ := sequenced_accepts seq keeps
    exact ⟨rx, fun _ => ⟨expect, few, many⟩, fun h => absurd hd h, fun h => absurd hd (by omega), fun h => absurd hd (by omega), others⟩
  · obtain ⟨rx, expect, frame, near, behind, others⟩ := sequenced_leaves (effect := effect) rfl hd
    exact ⟨rx, fun h => absurd h hd, fun _ => ⟨expect, frame⟩, fun _ h n => near h n.1 n.2, behind, others⟩

end Sys2Proof.Machine
end

section
/-! Mailbox commands: a request whose turn has come, its answer, and the Epoch change it may wait for (R126, R129, R134-R136, R461). -/

namespace Sys2Proof.Machine

variable {s t u : State} {fn slot op : Nat} {tk : Taken}

/-! ## Strings and byte memories -/

theorem getElem?_slice (bs : List Byte) (off : Nat) {n i : Nat} (h : i < n) : (slice bs off n)[i]? = some (bs.getD (off + i) 0) := by
  unfold slice
  rw [List.getElem?_append]
  split
  next inside =>
    rw [List.getElem?_take_of_lt h, List.getElem?_drop, List.getD_eq_getElem?_getD,
      List.getElem?_eq_getElem (show off + i < bs.length by simp at inside; omega)]
    rfl
  next outside =>
    rw [List.getD_eq_default _ _ (show bs.length ≤ off + i by simp at outside; omega), List.getElem?_replicate,
      if_pos (by simp at outside ⊢; omega)]
    rfl

theorem slice_add (bs : List Byte) (off m n : Nat) : slice bs off (m + n) = slice bs off m ++ slice bs (off + m) n := by
  refine List.ext_getElem? fun i => ?_
  rcases Nat.lt_or_ge i m with low | high
  · rw [List.getElem?_append_left (by rwa [length_slice]), getElem?_slice _ _ (by omega), getElem?_slice _ _ low]
  · rw [List.getElem?_append_right (by rwa [length_slice]), length_slice]
    rcases Nat.lt_or_ge i (m + n) with within | beyond
    · rw [getElem?_slice _ _ within, getElem?_slice _ _ (by omega), Nat.add_assoc, Nat.add_sub_cancel' high]
    · rw [List.getElem?_eq_none (by rwa [length_slice]), List.getElem?_eq_none (by rw [length_slice]; omega)]

/-- The bytes of a field are the field's number in its size. -/
theorem leBytes_fld (bs : List Byte) (off n : Nat) : leBytes n (fld bs off n) = slice bs off n := by
  have back := leBytes_leNat (slice bs off n)
  rwa [length_slice] at back

/-- Bytes just written are read back. -/
theorem Ram.read_write (r : Ram) (free a : Nat) (bs : List Byte) : (r.write a bs).read free a bs.length = bs := by
  refine List.ext_getElem? fun i => ?_
  rcases Nat.lt_or_ge i bs.length with inside | beyond
  · rw [Ram.getElem?_read _ _ _ _ _ inside, Ram.byte_write, if_pos (by omega), Nat.add_sub_cancel_left,
      List.getD_eq_getElem _ _ inside, List.getElem?_eq_getElem inside]
  · rw [List.getElem?_eq_none (by rwa [Ram.length_read]), List.getElem?_eq_none beyond]

/-! ## A request whose turn has come -/

theorem mbx_congr (h : t.mbx = s.mbx) (fn : Nat) : mbx t fn = mbx s fn := by rw [mbx, h, ← mbx]

theorem mailRow_begins (h : Begins s fn slot op tk) (run : Taken → State → State) : mailRow fn slot op s run = .next (run tk s) := by
  obtain ⟨hfn, held, turn, checks, -⟩ := h
  have known : fnOk fn = true := decide_eq_true hfn
  simp [mailRow, guarded, known, held, turn, checks]

theorem Begins.kept (h : Begins s fn slot op tk) : tk.discard = false := by
  obtain ⟨-, -, -, -, kept⟩ := h
  exact kept

/-! ## The response (R134, R135) -/

section
variable (s fn) (tk) (rc : Rc) (det : Nat) (payload : List Byte)

theorem responseBytes_head : ∃ flags rest, responseBytes s fn tk rc det payload =
    slice tk.msg 0 4 ++ (leBytes 1 flags ++ (leBytes 1 rc.code ++ rest)) := by
  have ids : slice tk.msg 0 4 = leBytes 2 (fld tk.msg 0 2) ++ leBytes 2 (fld tk.msg 2 2) := by
    rw [leBytes_fld, leBytes_fld]
    exact slice_add tk.msg 0 2 2
  rw [ids]
  simp only [responseBytes, List.append_assoc]
  exact ⟨_, _, rfl⟩

theorem responseBytes_payload : ∃ head rest, responseBytes s fn tk rc det payload = head ++ (payload ++ rest) ∧ head.length = 16 := by
  refine ⟨_, _, List.append_assoc _ _ _, ?_⟩
  simp

theorem length_responseBytes (h : payload.length ≤ 240) : (responseBytes s fn tk rc det payload).length = 256 := by
  simp only [responseBytes, List.length_append, length_leBytes, List.length_map, List.length_range]
  omega

/-- A response carries the request's opcode and TAG, its status and its payload. -/
theorem responseBytes_fields : let b := responseBytes s fn tk rc det payload
    fld b 0 4 = fld tk.msg 0 4 ∧ fld b 5 1 = rc.code ∧ slice b 0x10 payload.length = payload := by
  intro b
  obtain ⟨flags, rest, head⟩ := responseBytes_head s fn tk rc det payload
  refine ⟨?_, ?_, ?_⟩
  · have first := slice_append_left (slice tk.msg 0 4) (leBytes 1 flags ++ (leBytes 1 rc.code ++ rest))
    rw [length_slice, ← head] at first
    exact congrArg leNat first
  · have code := fld_append_right (slice tk.msg 0 4 ++ leBytes 1 flags) (leBytes 1 rc.code ++ rest) 0 1
    rw [List.append_assoc, ← head, fld_append_of_le _ _ _ _ (by simp), fld_leBytes] at code
    have small : rc.code < 256 := by cases rc <;> decide
    exact (by simpa using code : fld b 5 1 = rc.code % 256).trans (Nat.mod_eq_of_lt small)
  · obtain ⟨front, tail, split, length⟩ := responseBytes_payload s fn tk rc det payload
    show slice (responseBytes s fn tk rc det payload) (16 + 0) payload.length = payload
    rw [split, ← length, slice_append_right, slice_append_left]

end

/-! ## Answering (R126, R129, R133, R140) -/

section
variable (s fn) (tk) (rc : Rc) (det : Nat) (payload : List Byte)

theorem postResponse_only (b : List Byte) : postResponse s fn b =
    { s with mbx := (postResponse s fn b).mbx, pcie := (postResponse s fn b).pcie, counters := (postResponse s fn b).counters } := by
  unfold postResponse
  dsimp only
  split
  · rw [raiseVector_only]
    rfl
  · rfl

@[simp] theorem mbx_raiseVector (f v n : Nat) : mbx (raiseVector s f v) n = mbx s n := by
  rw [raiseVector_only]
  rfl

theorem mbx_postResponse (b : List Byte) : mbx (postResponse s fn b) fn =
    { mbx s fn with rsp := (mbx s fn).rsp.write (256 * ((mbx s fn).rspPi % 64)) b, rspPi := ((mbx s fn).rspPi + 1) % 128 } := by
  unfold postResponse
  dsimp only
  split
  · rw [mbx_raiseVector, mbx_modMbx_self]
  · rw [mbx_modMbx_self]

/-- The request is no longer held; one that found an object busy is counted. -/
def dismissed (s : State) (fn : Nat) (tk : Taken) (rc : Rc) : State :=
  if rc = .eBusy then countT (modMbx (bumpFree s) fn fun m => { m with taken := m.taken.filter (·.seq != tk.seq) }) 0x81E fn 1
  else modMbx (bumpFree s) fn fun m => { m with taken := m.taken.filter (·.seq != tk.seq) }

theorem mbx_dismissed : mbx (dismissed s fn tk rc) fn = { mbx s fn with taken := (mbx s fn).taken.filter (·.seq != tk.seq) } := by
  have same : (dismissed s fn tk rc).mbx =
      (modMbx s fn fun m => { m with taken := m.taken.filter (·.seq != tk.seq) }).mbx := by
    unfold dismissed
    split <;> rfl
  rw [mbx_congr same, mbx_modMbx_self]

/-- An urgent response waits while no slot is free; any other goes to the next slot. -/
theorem respond_eq (kept : tk.discard = false) : respond s fn tk rc det payload =
    if tk.slot == 255 && 64 ≤ slotsUsed (mbx (dismissed s fn tk rc) fn) then
      modMbx (dismissed s fn tk rc) fn fun m =>
        { m with urgWaiting := some (if fld tk.msg 0 2 = 0x105 then namedTenant fn tk.msg else 0,
                                     responseBytes s fn tk rc det payload) }
    else postResponse (if tk.slot == 255 then modMbx (dismissed s fn tk rc) fn fun m => { m with urgBusy := false }
      else dismissed s fn tk rc) fn (responseBytes s fn tk rc det payload) := by
  unfold respond
  dsimp only
  rw [kept]
  rfl

theorem taken_respond (kept : tk.discard = false) :
    (mbx (respond s fn tk rc det payload) fn).taken = (mbx s fn).taken.filter (·.seq != tk.seq) := by
  have start := mbx_dismissed s fn tk rc
  rw [respond_eq s fn tk rc det payload kept]
  split
  · rw [mbx_modMbx_self, start]
  · rw [mbx_postResponse]
    split
    · rw [mbx_modMbx_self, start]
    · rw [start]

/-- The mailbox after a response that is not urgent. -/
theorem mbx_respond (kept : tk.discard = false) (ring : tk.slot ≠ 255) : mbx (respond s fn tk rc det payload) fn =
    { mbx s fn with taken := (mbx s fn).taken.filter (·.seq != tk.seq),
                    rsp := (mbx s fn).rsp.write (256 * ((mbx s fn).rspPi % 64)) (responseBytes s fn tk rc det payload),
                    rspPi := ((mbx s fn).rspPi + 1) % 128 } := by
  rw [respond_eq s fn tk rc det payload kept, if_neg (by simp [ring]), if_neg (by simp [ring]), mbx_postResponse, mbx_dismissed]

end

theorem AnswerFrame.trans (h : AnswerFrame s t) (k : AnswerFrame t u) : AnswerFrame s u := by
  unfold AnswerFrame at *
  rw [k, h]

theorem AnswerFrame.ite {c : Prop} [Decidable c] (h : AnswerFrame s t) (k : AnswerFrame s u) :
    AnswerFrame s (if c then t else u) := by
  split
  · exact h
  · exact k

theorem answerFrame_modMbx (u : State) (fn : Nat) (f : Mbx → Mbx) : AnswerFrame u (modMbx u fn f) := rfl

/-- What answering a request leaves. -/
theorem answerFrame_respond (kept : tk.discard = false) (s : State) (fn : Nat) (rc : Rc) (det : Nat) (payload : List Byte) :
    AnswerFrame s (respond s fn tk rc det payload) := by
  have start : AnswerFrame s (dismissed s fn tk rc) := .ite rfl rfl
  have posted (u : State) (b : List Byte) : AnswerFrame u (postResponse u fn b) := by
    unfold AnswerFrame
    rw [postResponse_only]
  rw [respond_eq s fn tk rc det payload kept]
  exact .ite (start.trans (answerFrame_modMbx _ _ _))
    ((AnswerFrame.ite (start.trans (answerFrame_modMbx _ _ _)) start).trans (posted _ _))

theorem answered_respond (kept : tk.discard = false) (s : State) (fn : Nat) (rc : Rc) (det : Nat) {payload : List Byte}
    (fits : payload.length ≤ 240) : Answered s (respond s fn tk rc det payload) fn tk rc payload := by
  refine ⟨fun e he => ?_, fun ring => ?_⟩
  · rw [taken_respond s fn tk rc det payload kept] at he
    simpa using (List.mem_filter.1 he).2
  · have slot := Ram.read_write (mbx s fn).rsp 0 (256 * ((mbx s fn).rspPi % 64)) (responseBytes s fn tk rc det payload)
    rw [length_responseBytes s fn tk rc det payload fits] at slot
    rw [mbx_respond s fn tk rc det payload kept ring]
    dsimp only
    rw [slot]
    exact ⟨rfl, responseBytes_fields s fn tk rc det payload⟩

/-- A command that succeeds after changes that left the mailboxes. -/
theorem Begins.answered (h : Begins s fn slot op tk) (same : u.mbx = s.mbx) {payload : List Byte} (fits : payload.length ≤ 240) :
    Answered s (ok u fn tk payload) fn tk .ok payload := by
  have at_ := mbx_congr same fn
  have answered := answered_respond h.kept u fn .ok 0 fits
  unfold Answered at answered ⊢
  rw [at_] at answered
  exact answered

theorem Begins.answerFrame (h : Begins s fn slot op tk) (u : State) (payload : List Byte) :
    AnswerFrame u (ok u fn tk payload) := answerFrame_respond h.kept u fn .ok 0 payload

section
variable (h : AnswerFrame s t)
include h
theorem AnswerFrame.ao : t.ao = s.ao := by rw [show t = _ from h]
theorem AnswerFrame.sec : t.sec = s.sec := by rw [show t = _ from h]
theorem AnswerFrame.work : t.work = s.work := by rw [show t = _ from h]
theorem AnswerFrame.chain : t.chain = s.chain := by rw [show t = _ from h]
theorem AnswerFrame.draught : t.draught = s.draught := by rw [show t = _ from h]
end

/-! ## Waiting for an Epoch change (R461, R462) -/

theorem startChange_only (s : State) (fn : Nat) (tk : Taken) (a : EpochAction) (payload : List Byte) :
    startChange s fn tk a payload =
      { s with mbx := (startChange s fn tk a payload).mbx, epoch := (startChange s fn tk a payload).epoch } := rfl

theorem awaits_startChange (s : State) (fn : Nat) (tk : Taken) (a : EpochAction) (payload : List Byte) :
    Awaits s (startChange s fn tk a payload) fn tk a payload := by
  have box : mbx (startChange s fn tk a payload) fn = { mbx s fn with taken := (mbx s fn).taken.map fun e =>
      if e.seq = tk.seq then { e with started := true, startedAt := now s } else e } := by
    have same : (startChange s fn tk a payload).mbx = (begin_ s fn tk).mbx := rfl
    rw [mbx_congr same, begin_, mbx_modMbx_self]
  refine ⟨rfl, fun e he heq => ?_, by rw [box]⟩
  rw [box] at he
  obtain ⟨x, -, rfl⟩ := List.mem_map.1 he
  by_cases own : x.seq = tk.seq
  · rw [if_pos own]
    exact ⟨rfl, rfl⟩
  · rw [if_neg own] at heq
    exact absurd heq own

end Sys2Proof.Machine
end

section
/-! The draught, chain and security commands of the mailbox (R101, R142, R147, R148, R402, R410, R418, R449, R452, R465). -/

namespace Sys2Proof.Machine

variable {s : State} {fn slot : Nat} {tk : Taken}

theorem fld_lt (bs : List Byte) (off n : Nat) : fld bs off n < 256 ^ n := by
  have small := leNat_lt (slice bs off n)
  rwa [length_slice] at small

/-! ## Draught (R402, R410, R418) -/

theorem draughtCapSet_gives (h : Begins s fn slot 0x600 tk) (hlo : 900 ≤ fld tk.msg 0x10 2) (hhi : fld tk.msg 0x10 2 ≤ 2200)
    (hmargin : fld tk.msg 0x12 2 ≤ 2560) : Gives (.draughtCapSet fn slot) s fun t =>
      t.draught.mailboxCap = fld tk.msg 0x10 2 ∧ t.draught.margin = fld tk.msg 0x12 2 ∧
        t.draught.cap = min (min s.ao.boardCap (fld tk.msg 0x10 2)) s.draught.lTh ∧ t.draught.lTh = s.draught.lTh ∧
        Answered s t fn tk .ok [] := by
  have row : exec (.draughtCapSet fn slot) s = .next (ok (applyCaps (modDraught s fun d =>
      { d with mailboxCap := fld tk.msg 0x10 2, margin := fld tk.msg 0x12 2 })) fn tk []) := by
    simp [exec, execDraughtCapSet, mailRow_begins h, Nat.not_lt.2 hlo, Nat.not_lt.2 hhi, Nat.not_lt.2 hmargin]
  refine gives_of_row row ?_
  rw [(h.answerFrame _ _).draught, applyCaps, setLimit_draught]
  exact ⟨rfl, rfl, rfl, rfl, h.answered (by rw [setLimit_only]; rfl) (by decide)⟩

theorem draughtRampSet_gives (h : Begins s fn slot 0x601 tk) (hlo : 150 ≤ fld tk.msg 0x10 2) (hhi : fld tk.msg 0x10 2 ≤ 2000)
    (hbank : fld tk.msg 0x12 1 ≤ 1) : Gives (.draughtRampSet fn slot) s fun t =>
      t.draught = { s.draught with ramp := fld tk.msg 0x10 2, banking := fld tk.msg 0x12 1 == 1 } ∧ Answered s t fn tk .ok [] := by
  have row : exec (.draughtRampSet fn slot) s = .next (ok (modDraught s fun d =>
      { d with ramp := fld tk.msg 0x10 2, banking := fld tk.msg 0x12 1 == 1 }) fn tk []) := by
    simp [exec, execDraughtRampSet, mailRow_begins h, Nat.not_lt.2 hlo, Nat.not_lt.2 hhi, Nat.not_lt.2 hbank]
  exact gives_of_row row ⟨(h.answerFrame _ _).draught, h.answered (modDraught_mbx _ _) (by decide)⟩

theorem length_draughtPayload (s : State) : (draughtPayload s).length = 32 := by
  simp [draughtPayload, tempsBytes]

theorem draughtStatus_gives (h : Begins s fn slot 0x602 tk) : Gives (.draughtStatus fn slot) s fun t =>
    Answered s t fn tk .ok (draughtPayload s) ∧ AnswerFrame s t := by
  have row : exec (.draughtStatus fn slot) s = .next (ok s fn tk (draughtPayload s)) := by
    simp [exec, execDraughtStatus, mailRow_begins h]
  exact gives_of_row row ⟨h.answered (by rfl) (by rw [length_draughtPayload]; decide), h.answerFrame s _⟩

theorem exec_draughtTripTest (h : Begins s fn slot 0x603 tk) (hsrc : fld tk.msg 0x11 1 ≤ 2) (hcause : tripCauses s = 0)
    (hmode : fld tk.msg 0x10 1 ≤ 1) : exec (.draughtTripTest fn slot) s = .next (
      if fld tk.msg 0x10 1 = 1 then fireTrip s (BitVec.ofNat 8 (2 ^ fld tk.msg 0x11 1)) else ok (bumpFree s) fn tk (tripPayload s)) := by
  simp [exec, execDraughtTripTest, mailRow_begins h, Nat.not_lt.2 hsrc, hcause, Nat.not_lt.2 hmode]

/-- CHECK answers and leaves the part as it was (R147). -/
theorem draughtTripTest_check (h : Begins s fn slot 0x603 tk) (hsrc : fld tk.msg 0x11 1 ≤ 2) (hcause : tripCauses s = 0)
    (hmode : fld tk.msg 0x10 1 = 0) : Gives (.draughtTripTest fn slot) s fun t =>
      Answered s t fn tk .ok (tripPayload s) ∧ AnswerFrame s t := by
  have row := exec_draughtTripTest h hsrc hcause (by omega)
  rw [if_neg (by omega)] at row
  have bumped : AnswerFrame s (bumpFree s) := rfl
  exact gives_of_row row ⟨h.answered (by rfl) (by simp [tripPayload]), bumped.trans (h.answerFrame _ _)⟩

/-- FIRE trips the part with the cause named (R147, R418). -/
theorem draughtTripTest_fire (h : Begins s fn slot 0x603 tk) (hsrc : fld tk.msg 0x11 1 ≤ 2) (hcause : tripCauses s = 0)
    (hmode : fld tk.msg 0x10 1 = 1) : Gives (.draughtTripTest fn slot) s fun t =>
      Cold s t ∧ t.ao.tripLatched = true ∧ t.ao.tripCause.toNat = 2 ^ fld tk.msg 0x11 1 ∧ t.ao.pwrEn = false := by
  have row := exec_draughtTripTest h hsrc hcause (by omega)
  rw [if_pos hmode, fireTrip_eq] at row
  refine gives_of_row row ⟨(cold_enterOff_modAo s _).alertOn s, ?_⟩
  rw [alertOn_only, modAo_ao, enterOff_ao, modAo_ao]
  have small : 2 ^ fld tk.msg 0x11 1 < 2 ^ 8 := Nat.pow_lt_pow_right (by decide) (by omega)
  exact ⟨rfl, by rw [BitVec.toNat_ofNat, Nat.mod_eq_of_lt small], rfl⟩

/-! ## Chain ports (R92, R148) -/

theorem chainPortConfig_gives (h : Begins s fn slot 0x700 tk) (hport : fld tk.msg 0x10 1 ≤ 3) (hon : fld tk.msg 0x11 1 ≤ 1)
    (hwindow : (chainPort s (fld tk.msg 0x10 1)).window = []) (hreads : (chainPort s (fld tk.msg 0x10 1)).reads = []) :
    Gives (.chainPortConfig fn slot) s fun t =>
      (chainPort t (fld tk.msg 0x10 1)).state = (if fld tk.msg 0x11 1 = 0 then .disabled
        else if (chainPort s (fld tk.msg 0x10 1)).locked then .probing else .noLock) ∧
      (chainPort t (fld tk.msg 0x10 1)).etherType.toNat = fld tk.msg 0x12 2 ∧
      (chainPort t (fld tk.msg 0x10 1)).dst.toNat = fld tk.msg 0x14 6 ∧
      (chainPort t (fld tk.msg 0x10 1)).src.toNat = fld tk.msg 0x1A 6 ∧
      (chainPort t (fld tk.msg 0x10 1)).nextSeq = 0 ∧ (chainPort t (fld tk.msg 0x10 1)).expect = 0 ∧
      (∀ p, p ≠ fld tk.msg 0x10 1 → chainPort t p = chainPort s p) ∧ Answered s t fn tk .ok [] := by
  have row : exec (.chainPortConfig fn slot) s = .next (ok (modChainPort (portDown s (fld tk.msg 0x10 1) .disabled) (fld tk.msg 0x10 1)
      fun p => { p with state := if fld tk.msg 0x11 1 = 0 then .disabled else if p.locked then .probing else .noLock,
                        etherType := BitVec.ofNat 16 (fld tk.msg 0x12 2), dst := BitVec.ofNat 48 (fld tk.msg 0x14 6),
                        src := BitVec.ofNat 48 (fld tk.msg 0x1A 6) }) fn tk []) := by
    simp [exec, execChainPortConfig, mailRow_begins h, Nat.not_lt.2 hport, Nat.not_lt.2 hon, hwindow, hreads]
  refine gives_of_row row ?_
  have field {w n : Nat} (off : Nat) (size : 2 ^ w = 256 ^ n) : (BitVec.ofNat w (fld tk.msg off n)).toNat = fld tk.msg off n := by
    rw [BitVec.toNat_ofNat, size, Nat.mod_eq_of_lt (fld_lt _ _ _)]
  simp only [chainPort_congr (h.answerFrame _ _).chain]
  refine ⟨?_, ?_, ?_, ?_, ?_, ?_, fun p hp => ?_, h.answered ?_ (by decide)⟩
  case refine_7 => rw [chainPort_modChainPort_other _ _ _ hp, chainPort_portDown_other _ _ _ hp]
  case refine_8 => rw [modChainPort_mbx, portDown_only]
  all_goals rw [chainPort_modChainPort_self, chainPort_portDown]
  · rfl
  · exact field 0x12 (by decide)
  · exact field 0x14 (by decide)
  · exact field 0x1A (by decide)
  · rfl
  · rfl

/-! ## Chain domains (R101, R465) -/

theorem chainDomainBind_gives (h : Begins s fn slot 0x701 tk) (hport : fld tk.msg 0x13 1 ≤ 3)
    (hfree : look s.chain.domains (fld tk.msg 0x10 2) = none) (hroom : boundCount s < 256) :
    Gives (.chainDomainBind fn slot) s fun t =>
      Awaits s t fn tk (.bind (fld tk.msg 0x10 2) (fld tk.msg 0x12 1) (fld tk.msg 0x13 1)) [] ∧
        t = { s with mbx := t.mbx, epoch := t.epoch } := by
  have row : exec (.chainDomainBind fn slot) s = .next (startChange s fn tk
      (.bind (fld tk.msg 0x10 2) (fld tk.msg 0x12 1) (fld tk.msg 0x13 1)) []) := by
    simp [exec, execChainDomainBind, mailRow_begins h, Nat.not_lt.2 hport, hfree, Nat.not_le.2 hroom]
  exact gives_of_row row ⟨awaits_startChange _ _ _ _ _, startChange_only _ _ _ _ _⟩

/-- A domain with other exports. -/
def setExports (s : State) (dom : Nat) (d : Domain) (x : SMap (Nat × Bool × Bool)) : State :=
  modChain s fun c => { c with domains := put c.domains dom { d with exports := x } }

/-- The exports with an entry made, or removed when ACCESS is 0. -/
def exported (d : Domain) (m : List Byte) : SMap (Nat × Bool × Bool) :=
  if fld m 0x13 1 = 0 then del d.exports (fld m 0x12 1)
  else put d.exports (fld m 0x12 1) (fld m 0x14 2, fld m 0x13 1 % 2 == 1, fld m 0x13 1 / 2 == 1)

theorem look_exported (d : Domain) (m : List Byte) : look (exported d m) (fld m 0x12 1) =
    (if fld m 0x13 1 = 0 then none else some (fld m 0x14 2, fld m 0x13 1 % 2 == 1, fld m 0x13 1 / 2 == 1)) ∧
      ∀ i, i ≠ fld m 0x12 1 → look (exported d m) i = look d.exports i := by
  unfold exported
  split
  · exact ⟨by rw [look_del, if_pos rfl], fun i hi => by rw [look_del, if_neg hi]⟩
  · exact ⟨look_put_self _ _ _, fun i hi => look_put_other _ _ hi⟩

theorem chainDomainExport_gives {d : Domain} (h : Begins s fn slot 0x702 tk)
    (hd : look s.chain.domains (fld tk.msg 0x10 2) = some d) (hi : fld tk.msg 0x12 1 ≤ 63)
    (hregion : fld tk.msg 0x13 1 = 0 ∨ (region? s d.tenant (fld tk.msg 0x14 2)).isSome = true) :
    Gives (.chainDomainExport fn slot) s fun t =>
      (∃ x, look t.chain.domains (fld tk.msg 0x10 2) = some { d with exports := x } ∧
        look x (fld tk.msg 0x12 1) = (if fld tk.msg 0x13 1 = 0 then none
          else some (fld tk.msg 0x14 2, fld tk.msg 0x13 1 % 2 == 1, fld tk.msg 0x13 1 / 2 == 1)) ∧
        ∀ i, i ≠ fld tk.msg 0x12 1 → look x i = look d.exports i) ∧
      t.chain.ports = s.chain.ports ∧ Answered s t fn tk .ok [] := by
  have row : exec (.chainDomainExport fn slot) s =
      .next (ok (setExports s (fld tk.msg 0x10 2) d (exported d tk.msg)) fn tk []) := by
    by_cases removes : fld tk.msg 0x13 1 = 0
    · simp [exec, execChainDomainExport, mailRow_begins h, hd, Nat.not_lt.2 hi, setExports, exported, removes]
    · obtain ⟨r, region⟩ := Option.isSome_iff_exists.1 (hregion.resolve_left removes)
      simp [exec, execChainDomainExport, mailRow_begins h, hd, Nat.not_lt.2 hi, setExports, exported, removes, region]
  refine gives_of_row row ?_
  rw [(h.answerFrame _ _).chain]
  exact ⟨⟨_, look_put_self _ _ _, look_exported d tk.msg⟩, rfl, h.answered (by rfl) (by decide)⟩

theorem foldl_endDisp_only (rs : List Report) (l : List Nat) (s : State) :
    l.foldl (fun s id => endDisp s id rs) s = { s with work := (l.foldl (fun s id => endDisp s id rs) s).work } :=
  foldl_keeps (fun u : State => u = { s with work := u.work }) _ (fun u id k => by
    rw [k]
    rfl) l s rfl

/-- Unbinding ends the domain's copies, then drops its frames and the domain. -/
theorem unbindDomain_domains (s : State) (dom : Nat) : (unbindDomain s dom).chain.domains = del s.chain.domains dom := by
  unfold unbindDomain
  refine congrArg (del · dom) ?_
  rw [foldl_endDisp_only, dropFrames_only]

theorem unbindDomain_mbx (s : State) (dom : Nat) : (unbindDomain s dom).mbx = s.mbx := by
  unfold unbindDomain
  rw [modChain_mbx, foldl_endDisp_only, dropFrames_only]

theorem chainDomainUnbind_gives (h : Begins s fn slot 0x703 tk) (hd : (look s.chain.domains (fld tk.msg 0x10 2)).isSome = true) :
    Gives (.chainDomainUnbind fn slot) s fun t =>
      look t.chain.domains (fld tk.msg 0x10 2) = none ∧
        (∀ k, k ≠ fld tk.msg 0x10 2 → look t.chain.domains k = look s.chain.domains k) ∧ Answered s t fn tk .ok [] := by
  obtain ⟨d, bound⟩ := Option.isSome_iff_exists.1 hd
  have row : exec (.chainDomainUnbind fn slot) s = .next (ok (unbindDomain s (fld tk.msg 0x10 2)) fn tk []) := by
    simp [exec, execChainDomainUnbind, mailRow_begins h, bound]
  refine gives_of_row row ?_
  rw [(h.answerFrame _ _).chain, unbindDomain_domains]
  exact ⟨by rw [look_del, if_pos rfl], fun k hk => by rw [look_del, if_neg hk],
    h.answered (by rw [unbindDomain_mbx]) (by decide)⟩

/-! ## Security (R449, R452) -/

theorem length_attestPayload (s : State) (fn : Nat) (i : Image) {nonce : List Byte} (h : nonce.length = 32) :
    (attestPayload s fn i nonce).length = 240 := by
  simp [attestPayload, report, reportBody, h]

theorem attestReport_gives {i : Image} (h : Begins s fn slot 0x800 tk) (himage : s.dev.image = some i) (hflags : fld tk.msg 0x30 1 = 0)
    (hzero : s.sec.zeroised = false) (hfail : s.sec.svcFail &&& 0x1E#5 = 0) (hrerun : s.sec.entropyRerun = false) :
    Gives (.attestReport fn slot) s fun t => Answered s t fn tk .ok (attestPayload s fn i (slice tk.msg 0x10 32)) ∧
      t.sec = { s.sec with drbgRequests := s.sec.drbgRequests + 1 } := by
  have row : exec (.attestReport fn slot) s = .next (ok (bumpFree (modSec s fun c => { c with drbgRequests := c.drbgRequests + 1 }))
      fn tk (attestPayload s fn i (slice tk.msg 0x10 32))) := by
    simp [exec, execAttestReport, mailRow_begins h, himage, hflags, hzero, hfail, hrerun]
  exact gives_of_row row ⟨h.answered (by rfl) (by rw [length_attestPayload s fn i (length_slice _ _ _)]), (h.answerFrame _ _).sec⟩

/-- Step 1 of the zeroisation: tenants halt. -/
def haltTenants (s : State) : State := (liveTenants s).foldl (fun s n => modTenant s n fun x => { x with halted := true }) s

theorem haltTenants_only (s : State) : haltTenants s = { s with work := (haltTenants s).work } :=
  foldl_keeps (fun u : State => u = { s with work := u.work }) _ (fun u n k => by
    rw [k]
    rfl) _ s rfl

theorem haltTenants_halts {n : Nat} (h : (tenant s n).alive = true) : (tenant (haltTenants s) n).halted = true :=
  foldl_establishes (P := fun u n => (tenant u n).halted = true) (fun u n => by rw [tenant_modTenant_self]) (fun u m n k => by
    by_cases e : n = m
    · subst e
      rw [tenant_modTenant_self]
    · rwa [tenant_modTenant_other _ _ _ e]) _ s n (mem_liveTenants h)

theorem securityZeroise_gives (h : Begins s fn slot 0x801 tk) (hword : fld tk.msg 0x10 4 = 0x5A45524F) :
    Gives (.securityZeroise fn slot) s fun t =>
      t.sec = { s.sec with keys := [], keysCleared := true, drbgSeeded := false, lotKeyBlown := true, zeroised := true } ∧
        (∀ n, (tenant s n).alive = true → (tenant t n).halted = true) ∧ Answered s t fn tk .ok [] := by
  have row : exec (.securityZeroise fn slot) s = .next (ok (modSec (haltTenants s) fun c =>
      { c with keys := [], keysCleared := true, drbgSeeded := false, lotKeyBlown := true, zeroised := true }) fn tk []) := by
    simp [exec, execSecurityZeroise, mailRow_begins h, hword, zeroise, haltTenants]
  refine gives_of_row row ⟨?_, fun n alive => ?_, h.answered ?_ (by decide)⟩
  · rw [(h.answerFrame _ _).sec, modSec_sec, haltTenants_only]
  · rw [tenant, (h.answerFrame _ _).work, modSec_work, ← tenant]
    exact haltTenants_halts alive
  · rw [modSec_mbx, haltTenants_only]

/-! ## O25 -/

/-- Settles O25, command by command. -/
theorem draughtChainAndSecurityCommands : Obligations.DraughtChainAndSecurityCommands :=
  ⟨fun _ _ _ _ h => draughtCapSet_gives h, fun _ _ _ _ h => draughtRampSet_gives h, fun _ _ _ _ h => draughtStatus_gives h,
    fun _ _ _ _ h hsrc hcause => ⟨draughtTripTest_check h hsrc hcause, draughtTripTest_fire h hsrc hcause⟩,
    fun _ _ _ _ h => chainPortConfig_gives h, fun _ _ _ _ h => chainDomainBind_gives h,
    fun _ _ _ _ _ h => chainDomainExport_gives h, fun _ _ _ _ h => chainDomainUnbind_gives h,
    fun _ _ _ _ _ h => attestReport_gives h, fun _ _ _ _ h => securityZeroise_gives h⟩

end Sys2Proof.Machine
end

section
/-! The training record of a start with full training, in its two copies (R118, R121). -/

namespace Sys2Proof.Machine

variable {s : State}

/-! ## One copy -/

theorem recordCopy_setRecord_same (s : State) (b : Bool) (r : Option TrainRec) : recordCopy (setRecord s b r).fpt b = r := by
  cases b <;> rfl

theorem recordCopy_setRecord_other (s : State) (b : Bool) (r : Option TrainRec) :
    recordCopy (setRecord s b r).fpt (!b) = recordCopy s.fpt (!b) := by
  cases b <;> rfl

/-- What a failed write leaves valid was there before (log entry 14). -/
theorem eq_some_of_failedCopy {α : Type} {old : Option α} {x : α} (h : failedCopy s old = some x) : old = some x := by
  unfold failedCopy at h
  split at h
  · exact h
  · cases h

/-- A write of a copy fails: it is left as it was, or invalid (log entry 14). -/
def failRecord (s : State) (b : Bool) : State := bumpFree (setRecord s b (failedCopy s (recordCopy s.fpt b)))

theorem recordCopy_failRecord_same {b : Bool} {x : TrainRec} (h : recordCopy (failRecord s b).fpt b = some x) :
    recordCopy s.fpt b = some x :=
  eq_some_of_failedCopy ((recordCopy_setRecord_same s b _).symm.trans h)

theorem recordCopy_failRecord_other (s : State) (b : Bool) : recordCopy (failRecord s b).fpt (!b) = recordCopy s.fpt (!b) :=
  recordCopy_setRecord_other s b _

/-! ## Nothing else changes -/

/-- Of the state only the two copies, and the answers drawn for what the spec leaves open, may differ. -/
def RecordsOnly (s t : State) : Prop :=
  t = { s with free := t.free, fpt := { s.fpt with trainA := t.fpt.trainA, trainB := t.fpt.trainB } }

theorem RecordsOnly.trans {t u : State} (h : RecordsOnly s t) (k : RecordsOnly t u) : RecordsOnly s u := by
  unfold RecordsOnly at *
  rw [h] at k
  exact k

theorem recordsOnly_setRecord (s : State) (b : Bool) (r : Option TrainRec) : RecordsOnly s (setRecord s b r) := by
  cases b <;> rfl

theorem recordsOnly_failRecord (s : State) (b : Bool) : RecordsOnly s (failRecord s b) := by
  cases b <;> rfl

/-! ## The write (R121) -/

/-- The record of the start waits for its write no more. -/
def recordTaken (s : State) : State := modFpt s fun f => { f with trainDue := none }

/-- A write that is due, by the outcomes of the writes of the two copies. -/
theorem exec_trainingRecordWrite {r : TrainRec} (hdue : s.fpt.trainDue = some r) (hstate : live s = true ∨ s.dev.state = .failed)
    (ok1 ok2 : Bool) : exec (.trainingRecordWrite ok1 ok2) s = .next (
      if ok1 then setRecord (recordTaken s) (recordTarget s.fpt) (some (r.stamp (now s)))
      else if ok2 then
        setRecord (failRecord (recordTaken s) (recordTarget s.fpt)) (!recordTarget s.fpt) (some (r.stamp (now s)))
      else failRecord (failRecord (recordTaken s) (recordTarget s.fpt)) (!recordTarget s.fpt)) := by
  have writes : (!(live s || s.dev.state == .failed)) = false := by
    rcases hstate with h | h <;> simp [h]
  show execTrainingRecordWrite ok1 ok2 s = _
  unfold execTrainingRecordWrite
  rw [hdue]
  dsimp only
  rw [writes]
  rfl

/-- After a failed write of one copy, a write of the other one leaves the first as the failure left it. -/
theorem recordCopy_of_second {t : State} {b : Bool} {x : TrainRec}
    (second : recordCopy t.fpt b = recordCopy (failRecord (recordTaken s) b).fpt b) (h : recordCopy t.fpt b = some x) :
    recordCopy s.fpt b = some x :=
  recordCopy_failRecord_same (s := recordTaken s) (second.symm.trans h)

/-- Settles O8, by the outcomes of the writes of the two copies; what a failed write leaves is log entry 14. -/
theorem trainingRecordIsWritten : Obligations.TrainingRecordIsWritten := by
  intro s r ok1 ok2 hdue hstate
  refine ⟨_, exec_trainingRecordWrite hdue hstate ok1 ok2, ?_⟩
  generalize recordTarget s.fpt = b
  have failed := recordsOnly_failRecord (recordTaken s) b
  cases ok1 with
  | true =>
    have only := recordsOnly_setRecord (recordTaken s) b (some (r.stamp (now s)))
    exact ⟨congrArg (·.fpt.trainDue) only,
      fun _ => ⟨recordCopy_setRecord_same _ _ _, recordCopy_setRecord_other _ _ _, rfl⟩, nofun, nofun, only⟩
  | false =>
    cases ok2 with
    | true =>
      have only := failed.trans (recordsOnly_setRecord _ (!b) (some (r.stamp (now s))))
      have first := recordCopy_setRecord_other (failRecord (recordTaken s) b) (!b) (some (r.stamp (now s)))
      rw [Bool.not_not] at first
      exact ⟨congrArg (·.fpt.trainDue) only, nofun, fun _ _ => recordCopy_setRecord_same _ _ _,
        fun _ _ h => recordCopy_of_second first h, only⟩
    | false =>
      have only := failed.trans (recordsOnly_failRecord _ (!b))
      have first := recordCopy_failRecord_other (failRecord (recordTaken s) b) (!b)
      rw [Bool.not_not] at first
      exact ⟨congrArg (·.fpt.trainDue) only, nofun, nofun, fun _ _ h => recordCopy_of_second first h, only⟩

end Sys2Proof.Machine
end
section
/-! The indices of a mailbox that the host writes (R126, R127, R129, R133, R140). -/

namespace Sys2Proof.Machine

variable {s : State} {fn : Nat}

/-! ## Responses and the other mailboxes -/

@[simp] theorem mbx_countT (s : State) (event tag n fn : Nat) : mbx (countT s event tag n) fn = mbx s fn := rfl

theorem countT_only (s : State) (event tag n : Nat) : countT s event tag n = { s with counters := (countT s event tag n).counters } := rfl

theorem mbx_postResponse_other (s : State) {fn g : Nat} (b : List Byte) (h : g ≠ fn) : mbx (postResponse s fn b) g = mbx s g := by
  unfold postResponse
  dsimp only
  split
  · rw [mbx_raiseVector, mbx_modMbx_other _ _ _ h]
  · exact mbx_modMbx_other _ _ _ h

/-- A response changes no mailbox but its function's. -/
theorem mbx_respond_other {tk : Taken} (kept : tk.discard = false) (s : State) {fn g : Nat} (rc : Rc) (det : Nat)
    (payload : List Byte) (h : g ≠ fn) : mbx (respond s fn tk rc det payload) g = mbx s g := by
  have start : mbx (dismissed s fn tk rc) g = mbx s g := by
    unfold dismissed
    split
    · rw [mbx_countT, mbx_modMbx_other _ _ _ h]
      rfl
    · rw [mbx_modMbx_other _ _ _ h]
      rfl
  rw [respond_eq s fn tk rc det payload kept]
  split
  · rw [mbx_modMbx_other _ _ _ h, start]
  · rw [mbx_postResponse_other _ _ h]
    split
    · rw [mbx_modMbx_other _ _ _ h, start]
    · exact start

/-! ## MBX_REQ_PI (R127) -/

theorem exec_mbxReqPiWrite (hfn : fn ≤ 16) (hopen : mbxOpen s fn = true) (v : BitVec 32) :
    exec (.mbxReqPiWrite fn v) s = .next (writeReqPi s fn v.toNat) :=
  (if_pos (decide_eq_true hfn)).trans (congrArg Host.Outcome.next (if_pos hopen))

/-- An index that goes back or leaves more than 64 requests in the ring is rejected; any other is stored. -/
theorem writeReqPi_eq (h : (mbx s fn).resetting = false) (v : Nat) : writeReqPi s fn v =
    if 64 < (v % 128 + 128 - (mbx s fn).reqCi) % 128 ∨
        (v % 128 + 128 - (mbx s fn).reqCi) % 128 < ((mbx s fn).reqPi + 128 - (mbx s fn).reqCi) % 128 then
      rejectIndex (countT s 0x81A fn 1) fn
    else modMbx (countT s 0x81A fn 1) fn fun m => { m with reqPi := v % 128 } := by
  unfold writeReqPi
  dsimp only
  rw [h]
  rfl

theorem rejectIndex_only (s : State) (fn : Nat) :
    rejectIndex s fn = { s with mbx := (rejectIndex s fn).mbx, counters := (rejectIndex s fn).counters } := rfl

theorem mbx_rejectIndex_self (s : State) (fn : Nat) : mbx (rejectIndex s fn) fn = { mbx s fn with piError := true } := by
  rw [rejectIndex, mbx_countT, mbx_modMbx_self]

theorem mbx_rejectIndex_other (s : State) {fn g : Nat} (h : g ≠ fn) : mbx (rejectIndex s fn) g = mbx s g := by
  rw [rejectIndex, mbx_countT, mbx_modMbx_other _ _ _ h]

theorem mbxReqPiWrite_gives (hfn : fn ≤ 16) (hopen : mbxOpen s fn = true) (hreset : (mbx s fn).resetting = false) (v : BitVec 32) :
    let m := mbx s fn
    let new := (v.toNat % 128 + 128 - m.reqCi) % 128
    let old := (m.reqPi + 128 - m.reqCi) % 128
    Gives (.mbxReqPiWrite fn v) s fun t =>
      (new ≤ 64 → old ≤ new → mbx t fn = { m with reqPi := v.toNat % 128 }) ∧
        (64 < new ∨ new < old → mbx t fn = { m with piError := true }) ∧
        (∀ g, g ≠ fn → mbx t g = mbx s g) ∧ t = { s with mbx := t.mbx, counters := t.counters } := by
  intro m new old
  have row := exec_mbxReqPiWrite hfn hopen v
  rw [writeReqPi_eq hreset] at row
  refine gives_of_row row ?_
  split
  next bad =>
    refine ⟨fun low rising => (bad.elim (Nat.not_lt.2 low) (Nat.not_lt.2 rising)).elim, fun _ => ?_, fun g hg => ?_, ?_⟩
    · rw [mbx_rejectIndex_self, mbx_countT]
    · rw [mbx_rejectIndex_other _ hg, mbx_countT]
    · rw [rejectIndex_only, countT_only]
  next good =>
    refine ⟨fun _ _ => ?_, fun bad => absurd bad good, fun g hg => ?_, ?_⟩
    · rw [mbx_modMbx_self, mbx_countT]
    · rw [mbx_modMbx_other _ _ _ hg, mbx_countT]
    · rw [countT_only]
      rfl

/-! ## MBX_RSP_CI (R127, R140) -/

theorem exec_mbxRspCiWrite (hfn : fn ≤ 16) (hopen : mbxOpen s fn = true) (v : BitVec 32) :
    exec (.mbxRspCiWrite fn v) s = .next (writeRspCi s fn v.toNat) :=
  (if_pos (decide_eq_true hfn)).trans (congrArg Host.Outcome.next (if_pos hopen))

/-- An index past RSP_PI is rejected; any other is stored, and frees its slots for an urgent response that waits. -/
theorem writeRspCi_eq (h : (mbx s fn).resetting = false) (v : Nat) : writeRspCi s fn v =
    if ((mbx s fn).rspPi + 128 - (mbx s fn).rspCi) % 128 < ((mbx s fn).rspPi + 128 - v % 128) % 128 then rejectIndex s fn
    else freeUrgent (modMbx s fn fun m => { m with rspCi := v % 128 }) fn := by
  unfold writeRspCi
  dsimp only
  rw [h]
  rfl

theorem freeUrgent_of_none (h : (mbx s fn).urgWaiting = none) : freeUrgent s fn = s := by
  unfold freeUrgent
  dsimp only
  rw [h]

theorem freeUrgent_of_room {x : Nat × List Byte} (h : (mbx s fn).urgWaiting = some x) (room : slotsUsed (mbx s fn) < 64) :
    freeUrgent s fn = postResponse (modMbx s fn fun m => { m with urgWaiting := none, urgBusy := false }) fn
      (splice x.2 0xC (leBytes 4 s.epoch.generation)) := by
  unfold freeUrgent
  dsimp only
  rw [h]
  exact if_neg (Nat.not_le.2 room)

theorem freeUrgent_only (s : State) (fn : Nat) : freeUrgent s fn =
    { s with mbx := (freeUrgent s fn).mbx, pcie := (freeUrgent s fn).pcie, counters := (freeUrgent s fn).counters } := by
  unfold freeUrgent
  dsimp only
  split
  · rfl
  · split
    · rfl
    · rw [postResponse_only]
      rfl

theorem mbx_freeUrgent_other (s : State) {fn g : Nat} (h : g ≠ fn) : mbx (freeUrgent s fn) g = mbx s g := by
  unfold freeUrgent
  dsimp only
  split
  · rfl
  · split
    · rfl
    · rw [mbx_postResponse_other _ _ h, mbx_modMbx_other _ _ _ h]

/-- An urgent response that waited stands in the slot that was free (R140). -/
theorem mbx_freeUrgent_of_room (waits : (mbx s fn).urgWaiting.isSome = true) (room : slotsUsed (mbx s fn) < 64) :
    (mbx (freeUrgent s fn) fn).urgWaiting = none ∧ (mbx (freeUrgent s fn) fn).urgBusy = false ∧
      (mbx (freeUrgent s fn) fn).rspPi = ((mbx s fn).rspPi + 1) % 128 ∧ (mbx (freeUrgent s fn) fn).rspCi = (mbx s fn).rspCi := by
  obtain ⟨x, hx⟩ := Option.isSome_iff_exists.1 waits
  rw [freeUrgent_of_room hx room, mbx_postResponse, mbx_modMbx_self]
  exact ⟨rfl, rfl, rfl, rfl⟩

theorem mbxRspCiWrite_gives (hfn : fn ≤ 16) (hopen : mbxOpen s fn = true) (hreset : (mbx s fn).resetting = false) (v : BitVec 32) :
    let m := mbx s fn
    let left := (m.rspPi + 128 - v.toNat % 128) % 128
    let old := (m.rspPi + 128 - m.rspCi) % 128
    Gives (.mbxRspCiWrite fn v) s fun t =>
      (left ≤ old → m.urgWaiting = none → mbx t fn = { m with rspCi := v.toNat % 128 }) ∧
        (slotsUsed { m with rspCi := v.toNat % 128 } < 64 → left ≤ old → m.urgWaiting.isSome = true →
          (mbx t fn).urgWaiting = none ∧ (mbx t fn).urgBusy = false ∧
          (mbx t fn).rspPi = (m.rspPi + 1) % 128 ∧ (mbx t fn).rspCi = v.toNat % 128) ∧
        (old < left → mbx t fn = { m with piError := true }) ∧
        (∀ g, g ≠ fn → mbx t g = mbx s g) ∧ t = { s with mbx := t.mbx, pcie := t.pcie, counters := t.counters } := by
  intro m left old
  have row := exec_mbxRspCiWrite hfn hopen v
  rw [writeRspCi_eq hreset] at row
  refine gives_of_row row ?_
  split
  next past =>
    exact ⟨fun within => absurd past (Nat.not_lt.2 within), fun _ within => absurd past (Nat.not_lt.2 within),
      fun _ => mbx_rejectIndex_self s fn, fun _ hg => mbx_rejectIndex_other s hg, rfl⟩
  next within =>
    have stored := mbx_modMbx_self s fn fun m => { m with rspCi := v.toNat % 128 }
    refine ⟨fun _ none_ => ?_, fun room _ waits => ?_, fun past => absurd past within, fun g hg => ?_, ?_⟩
    · rw [freeUrgent_of_none (by rw [stored]; exact none_), stored]
    · have freed := mbx_freeUrgent_of_room (by rw [stored]; exact waits) (by rw [stored]; exact room)
      rw [stored] at freed
      exact freed
    · rw [mbx_freeUrgent_other _ hg, mbx_modMbx_other _ _ _ hg]
    · rw [freeUrgent_only]
      rfl

/-! ## While RESETTING (R133) -/

/-- A row that acts on an open mailbox only, whose action leaves the part as it is. -/
theorem guarded_ite_self (hfn : fn ≤ 16) {c : Prop} [Decidable c] {t : State} (h : t = s) :
    guarded (fnOk fn) .noSuchFunction (if c then t else s) = .next s := by
  rw [h, ite_self]
  exact if_pos (decide_eq_true hfn)

theorem indexWrites_idle_while_resetting (hfn : fn ≤ 16) (h : (mbx s fn).resetting = true) (v : BitVec 32) :
    Idles (.mbxReqPiWrite fn v) s ∧ Idles (.mbxRspCiWrite fn v) s :=
  ⟨guarded_ite_self hfn (if_pos h), guarded_ite_self hfn (if_pos h)⟩

/-- Settles O19, index by index. -/
theorem mailboxIndicesMoveForward : Obligations.MailboxIndicesMoveForward :=
  ⟨fun _ _ v hfn hopen hreset => mbxReqPiWrite_gives hfn hopen hreset v,
    fun _ _ v hfn hopen hreset => mbxRspCiWrite_gives hfn hopen hreset v,
    fun _ _ v hfn h => indexWrites_idle_while_resetting hfn h v⟩

end Sys2Proof.Machine
end
section
/-! Requests taken in turn, the mailbox reset and the urgent slot, and the checks that come before a command is carried out
(R128, R131, R133, R135, R136, R139, R140). -/

namespace Sys2Proof.Machine

variable {s : State} {fn slot op : Nat} {tk : Taken}

/-! ## Taking (R128, R131, R139) -/

/-- The request at MBX_REQ_CI as it is held once it is taken. -/
def nextTaken (s : State) (fn : Nat) : Taken := newTaken s fn ((mbx s fn).reqCi % 64) (nextRequest s fn)

/-- The part with that request taken, before its opcode is looked at. -/
def requestTaken (s : State) (fn : Nat) : State :=
  takeMsg (modMbx (modWork (countT s 0x81C fn 1) fun w => { w with lastMbx := fn }) fn fun m =>
    { m with reqCi := (m.reqCi + 1) % 128 }) fn (nextTaken s fn)

theorem takeRequest_eq (s : State) (fn : Nat) : takeRequest s fn =
    if opcodes.contains (fld (nextRequest s fn) 0 2) then requestTaken s fn
    else respond (requestTaken s fn) fn (nextTaken s fn) .eVersion 0 [] := rfl

theorem mbx_takeMsg_self (s : State) (fn : Nat) (tk : Taken) :
    mbx (takeMsg s fn tk) fn = { mbx s fn with taken := (mbx s fn).taken ++ [tk] } := mbx_modMbx_self _ _ _

theorem mbx_takeMsg_other (s : State) {fn g : Nat} (tk : Taken) (h : g ≠ fn) : mbx (takeMsg s fn tk) g = mbx s g :=
  mbx_modMbx_other _ _ _ h

/-- Counting a request taken and noting whose turn it was change no mailbox. -/
theorem mbx_counted (s : State) (fn g : Nat) : mbx (modWork (countT s 0x81C fn 1) fun w => { w with lastMbx := fn }) g = mbx s g :=
  (mbx_congr (modWork_mbx _ _) g).trans (mbx_countT s _ _ _ g)

theorem mbx_requestTaken_self (s : State) (fn : Nat) : mbx (requestTaken s fn) fn =
    { mbx s fn with reqCi := ((mbx s fn).reqCi + 1) % 128, taken := (mbx s fn).taken ++ [nextTaken s fn] } := by
  rw [requestTaken, mbx_takeMsg_self, mbx_modMbx_self, mbx_counted]

theorem mbx_requestTaken_other (s : State) {fn g : Nat} (h : g ≠ fn) : mbx (requestTaken s fn) g = mbx s g := by
  rw [requestTaken, mbx_takeMsg_other _ _ h, mbx_modMbx_other _ _ _ h, mbx_counted]

section
variable (hfn : fn ≤ 16) (hturn : turn 17 s.work.lastMbx (mayTake s) = some fn)
include hfn hturn

theorem exec_mbxTakeRequest_takes (hlevel : undescribed (mbx s fn).level (nextRequest s fn) = false) :
    exec (.mbxTakeRequest fn) s = .next (takeRequest s fn) := by
  rw [exec_mbxTakeRequest s hfn, if_neg (not_not_intro hturn), if_neg (by simp [hlevel])]

theorem mbxTakeRequest_gives (hlevel : undescribed (mbx s fn).level (nextRequest s fn) = false) :
    Gives (.mbxTakeRequest fn) s fun t =>
      (mbx t fn).reqCi = ((mbx s fn).reqCi + 1) % 128 ∧ t.work.lastMbx = fn ∧ t.work.nextTake = s.work.nextTake + 1 ∧
        (opcodes.contains (fld (nextRequest s fn) 0 2) = true →
          ∃ e, (mbx t fn).taken = (mbx s fn).taken ++ [e] ∧ e.msg = nextRequest s fn ∧ e.slot = (mbx s fn).reqCi % 64 ∧
            e.seq = s.work.nextTake ∧ e.started = false ∧ e.discard = false ∧ (mbx t fn).rspPi = (mbx s fn).rspPi) ∧
        (opcodes.contains (fld (nextRequest s fn) 0 2) = false → (mbx t fn).rspPi = ((mbx s fn).rspPi + 1) % 128 ∧
          fld ((mbx t fn).rsp.read 0 (256 * ((mbx s fn).rspPi % 64)) 256) 5 1 = 7) ∧
        (∀ g, g ≠ fn → mbx t g = mbx s g) := by
  refine gives_of_row (exec_mbxTakeRequest_takes hfn hturn hlevel) ?_
  have box := mbx_requestTaken_self s fn
  rw [takeRequest_eq]
  split
  next known =>
    refine ⟨by rw [box], rfl, rfl, fun _ => ⟨nextTaken s fn, by rw [box], rfl, rfl, rfl, rfl, rfl, by rw [box]⟩,
      fun unknown => absurd (known.symm.trans unknown) nofun, fun g hg => mbx_requestTaken_other s hg⟩
  next unknown =>
    have kept : (nextTaken s fn).discard = false := rfl
    have ring : (nextTaken s fn).slot ≠ 255 := by
      show (mbx s fn).reqCi % 64 ≠ 255
      omega
    obtain ⟨-, posted⟩ := answered_respond kept (requestTaken s fn) fn .eVersion 0 (payload := []) (by decide)
    obtain ⟨place, -, code, -⟩ := posted ring
    rw [box] at place code
    have frame := answerFrame_respond kept (requestTaken s fn) fn .eVersion 0 []
    refine ⟨by rw [mbx_respond _ _ _ _ _ _ kept ring, box], by rw [frame.work]; rfl, by rw [frame.work]; rfl,
      fun known => absurd known unknown, fun _ => ⟨place, code⟩, fun g hg => ?_⟩
    rw [mbx_respond_other kept _ _ _ _ hg, mbx_requestTaken_other s hg]

end

/-! ## Mailbox reset (R133) -/

theorem mbx_resetMailbox_self (s : State) (fn : Nat) : mbx (resetMailbox s fn) fn =
    { mbx s fn with reqPi := 0, reqCi := 0, rspPi := 0, rspCi := 0, level := 0, resetting := true,
                    taken := (mbx s fn).taken.map fun t => { t with discard := true, level := some (t.level.getD (mbx s fn).level) },
                    urgWaiting := none, urgBusy := (mbx s fn).taken.any (·.slot == 255) } := mbx_modMbx_self _ _ _

theorem exec_mailboxReset (hfn : fn ≤ 16) (hopen : mbxOpen s fn = true) :
    exec (.mailboxReset fn) s = .next (resetMailbox s fn) :=
  (if_pos (decide_eq_true hfn)).trans (congrArg Host.Outcome.next (if_pos hopen))

theorem mailboxReset_gives (hfn : fn ≤ 16) (hopen : mbxOpen s fn = true) : Gives (.mailboxReset fn) s fun t =>
    (mbx t fn).reqPi = 0 ∧ (mbx t fn).reqCi = 0 ∧ (mbx t fn).rspPi = 0 ∧ (mbx t fn).rspCi = 0 ∧ (mbx t fn).level = 0 ∧
      (mbx t fn).resetting = true ∧ (∀ e ∈ (mbx t fn).taken, e.discard = true) ∧
      (mbx t fn).taken.length = (mbx s fn).taken.length ∧ (mbx t fn).irqEn = (mbx s fn).irqEn ∧
      (mbx t fn).req = (mbx s fn).req ∧ (mbx t fn).rsp = (mbx s fn).rsp ∧
      (∀ g, g ≠ fn → mbx t g = mbx s g) ∧ t = { s with mbx := t.mbx } := by
  refine gives_of_row (exec_mailboxReset hfn hopen) ?_
  rw [mbx_resetMailbox_self]
  refine ⟨rfl, rfl, rfl, rfl, rfl, rfl, fun e he => ?_, List.length_map _, rfl, rfl, rfl,
    fun g hg => mbx_resetMailbox_other s hg, resetMailbox_only s fn⟩
  obtain ⟨x, -, rfl⟩ := List.mem_map.1 he
  rfl

/-- With no response due any more, RESETTING clears. -/
theorem mailboxResetDone_gives (hfn : fn ≤ 16) (hreset : (mbx s fn).resetting = true)
    (hnone : ∀ e ∈ (mbx s fn).taken, e.discard = false) : Gives (.mailboxResetDone fn) s fun t =>
      mbx t fn = { mbx s fn with resetting := false } ∧ (∀ g, g ≠ fn → mbx t g = mbx s g) ∧ t = { s with mbx := t.mbx } := by
  have done : ((mbx s fn).resetting && (mbx s fn).taken.all (!·.discard)) = true := by
    simpa [hreset] using hnone
  have row : exec (.mailboxResetDone fn) s = .next (modMbx s fn fun m => { m with resetting := false }) :=
    (if_pos (decide_eq_true hfn)).trans (congrArg Host.Outcome.next (if_pos done))
  exact gives_of_row row ⟨mbx_modMbx_self _ _ _, fun _ hg => mbx_modMbx_other _ _ _ hg, rfl⟩

/-! ## The urgent slot (R140) -/

section
variable (hfn : fn ≤ 16) (hopen : mbxOpen s fn = true)
include hfn hopen

theorem exec_urgentGo : exec (.urgentGo fn) s = .next (writeUrgGo s fn) :=
  (if_pos (decide_eq_true hfn)).trans (congrArg Host.Outcome.next (if_pos hopen))

variable (hreset : (mbx s fn).resetting = false)
include hreset

theorem urgentGo_overruns (hbusy : (mbx s fn).urgBusy = true) : Gives (.urgentGo fn) s fun t =>
    mbx t fn = { mbx s fn with urgOverrun := true } ∧ t = { s with mbx := t.mbx } := by
  have row := exec_urgentGo hfn hopen
  unfold writeUrgGo at row
  dsimp only at row
  rw [if_neg (by simp [hreset]), if_pos hbusy] at row
  exact gives_of_row row ⟨mbx_modMbx_self _ _ _, rfl⟩

theorem urgentGo_posts (hfree : (mbx s fn).urgBusy = false)
    (hlevel : wrongVersion (mbx s fn).level ((mbx s fn).urg.read 0 0 256) = false)
    (hop : fld ((mbx s fn).urg.read 0 0 256) 0 2 = 0x105 ∨ fld ((mbx s fn).urg.read 0 0 256) 0 2 = 0x603) :
    Gives (.urgentGo fn) s fun t =>
      (mbx t fn).urgBusy = true ∧ (mbx t fn).reqCi = (mbx s fn).reqCi ∧
        ∃ e, (mbx t fn).taken = (mbx s fn).taken ++ [e] ∧ e.slot = 255 ∧ e.msg = (mbx s fn).urg.read 0 0 256 := by
  have row := exec_urgentGo hfn hopen
  unfold writeUrgGo at row
  dsimp only at row
  rw [if_neg (by simp [hreset]), if_neg (by simp [hfree]), if_neg (by simp [hlevel]), if_pos hop] at row
  refine gives_of_row row ?_
  rw [mbx_takeMsg_self, mbx_modMbx_self]
  exact ⟨rfl, rfl, newTaken s fn 255 ((mbx s fn).urg.read 0 0 256), rfl, rfl, rfl⟩

end

/-! ## The row of a mailbox command (R131, R135, R136) -/

theorem mailRow_waits (hfn : fn ≤ 16) (held : request? s fn slot op = some tk) (waits : mayStart s fn tk = false)
    (run : Taken → State → State) : mailRow fn slot op s run = .next s := by
  have known : fnOk fn = true := decide_eq_true hfn
  simp [mailRow, guarded, known, held, waits]

theorem mailRow_refuses (hfn : fn ≤ 16) (held : request? s fn slot op = some tk) (starts : mayStart s fn tk = true) {rc : Rc} {d : Nat}
    (checks : preCheck s fn tk = some (rc, d)) (run : Taken → State → State) :
    mailRow fn slot op s run = .next (respond s fn tk rc d []) := by
  have known : fnOk fn = true := decide_eq_true hfn
  simp [mailRow, guarded, known, held, starts, checks]

/-- A queue.destroy that does not drain yet begins as any other command. -/
theorem exec_queueDestroy (hfn : fn ≤ 16) (hdrain : draining? s fn slot = none) :
    ∃ run, exec (.queueDestroy fn slot) s = mailRow fn slot 0x201 s run := by
  have known : ¬ (!fnOk fn) = true := by simp [fnOk, hfn]
  show ∃ run, execQueueDestroy fn slot s = _
  unfold execQueueDestroy
  rw [if_neg known, hdrain]
  exact ⟨_, rfl⟩

/-- Every mailbox command is carried out by the shared row, under its opcode. -/
theorem exec_mailCommand (hfn : fn ≤ 16) (hdrain : draining? s fn slot = none) :
    ∀ p ∈ mailCommands, ∃ run, exec (p.2 fn slot) s = mailRow fn slot p.1 s run := by
  simp only [mailCommands, List.cons_append, List.nil_append, List.forall_mem_cons]
  exact ⟨⟨_, (rfl : execSysHello fn slot s = _)⟩, ⟨_, (rfl : execSysStatus fn slot s = _)⟩,
    ⟨_, (rfl : execFwUpdate fn slot s = _)⟩, ⟨_, (rfl : execTrainingPolicy fn slot s = _)⟩,
    ⟨_, (rfl : execTenantCreate fn slot s = _)⟩, ⟨_, (rfl : execTenantDestroy fn slot s = _)⟩,
    ⟨_, (rfl : execTenantAssign fn slot s = _)⟩, ⟨_, (rfl : execTenantRelease fn slot s = _)⟩,
    ⟨_, (rfl : execTenantReset fn slot s = _)⟩, ⟨_, (rfl : execTenantHalt fn slot s = _)⟩,
    ⟨_, (rfl : execTenantResume fn slot s = _)⟩, ⟨_, (rfl : execTenantNotify fn slot s = _)⟩,
    ⟨_, (rfl : execQueueCreate fn slot s = _)⟩, exec_queueDestroy hfn hdrain, ⟨_, (rfl : execRegionDefine fn slot s = _)⟩,
    ⟨_, (rfl : execRegionDelete fn slot s = _)⟩, ⟨_, (rfl : execRegionFill fn slot s = _)⟩,
    ⟨_, (rfl : execRegionQuery fn slot s = _)⟩, ⟨_, (rfl : execApertureMap fn slot s = _)⟩,
    ⟨_, (rfl : execApertureUnmap fn slot s = _)⟩, ⟨_, (rfl : execAndironModelLoad fn slot s = _)⟩,
    ⟨_, (rfl : execAndironModelUnload fn slot s = _)⟩, ⟨_, (rfl : execEmberActLoad fn slot s = _)⟩,
    ⟨_, (rfl : execCounterWindowSet fn slot s = _)⟩, ⟨_, (rfl : execAshRingConfig fn slot s = _)⟩,
    ⟨_, (rfl : execAshBucketConfig fn slot s = _)⟩, ⟨_, (rfl : execSweepConfig fn slot s = _)⟩,
    ⟨_, (rfl : execFloorplanRead fn slot s = _)⟩, ⟨_, (rfl : execDraughtCapSet fn slot s = _)⟩,
    ⟨_, (rfl : execDraughtRampSet fn slot s = _)⟩, ⟨_, (rfl : execDraughtStatus fn slot s = _)⟩,
    ⟨_, (rfl : execDraughtTripTest fn slot s = _)⟩, ⟨_, (rfl : execChainPortConfig fn slot s = _)⟩,
    ⟨_, (rfl : execChainDomainBind fn slot s = _)⟩, ⟨_, (rfl : execChainDomainExport fn slot s = _)⟩,
    ⟨_, (rfl : execChainDomainUnbind fn slot s = _)⟩, ⟨_, (rfl : execAttestReport fn slot s = _)⟩,
    ⟨_, (rfl : execSecurityZeroise fn slot s = _)⟩, nofun⟩

theorem mailCommand_waits_or_refuses {p : Nat × (Nat → Nat → Instr)} (hp : p ∈ mailCommands) (hfn : fn ≤ 16)
    (hdrain : draining? s fn slot = none) (held : request? s fn slot p.1 = some tk) :
    (mayStart s fn tk = false → Idles (p.2 fn slot) s) ∧
      (∀ rc d, mayStart s fn tk = true → tk.discard = false → preCheck s fn tk = some (rc, d) →
        Gives (p.2 fn slot) s fun t => Answered s t fn tk rc [] ∧ AnswerFrame s t ∧ ∀ g, g ≠ fn → mbx t g = mbx s g) := by
  obtain ⟨run, row⟩ := exec_mailCommand hfn hdrain p hp
  refine ⟨fun waits => row.trans (mailRow_waits hfn held waits run), fun rc d starts kept checks => ?_⟩
  exact gives_of_row (row.trans (mailRow_refuses hfn held starts checks run))
    ⟨answered_respond kept s fn rc d (by decide), answerFrame_respond kept s fn rc d [],
      fun _ hg => mbx_respond_other kept s rc d [] hg⟩

/-- Settles O20: taking by its turn, the reset and the urgent slot by what they do to the mailbox, a command by the shared row. -/
theorem mailboxTakesAndChecksRequests : Obligations.MailboxTakesAndChecksRequests :=
  ⟨⟨fun _ _ hfn hturn hlevel => mbxTakeRequest_gives hfn hturn hlevel,
      fun _ _ hfn hturn hlevel => exec_mbxTakeRequest_refused hfn hturn hlevel,
      fun _ _ hfn hopen => mailboxReset_gives hfn hopen,
      fun _ _ hfn hreset hnone => mailboxResetDone_gives hfn hreset hnone,
      fun _ _ hfn hopen hreset hbusy => urgentGo_overruns hfn hopen hreset hbusy,
      fun _ _ hfn hopen hreset hfree hlevel hop => urgentGo_posts hfn hopen hreset hfree hlevel hop⟩,
    fun _ _ _ _ _ hp hfn hdrain held => mailCommand_waits_or_refuses hp hfn hdrain held⟩

end Sys2Proof.Machine
end
section
/-! The system commands of the mailbox: sys.hello, sys.status, fw.update and training.policy (R139, R142, R143). -/

namespace Sys2Proof.Machine

variable {s t u : State} {fn slot op : Nat} {tk : Taken}

/-! ## Answers -/

section
variable (h : AnswerFrame s t)
include h
theorem AnswerFrame.dev : t.dev = s.dev := by rw [show t = _ from h]
theorem AnswerFrame.fpt : t.fpt = s.fpt := by rw [show t = _ from h]
theorem AnswerFrame.hearths : t.hearths = s.hearths := by rw [show t = _ from h]
theorem AnswerFrame.mem : t.mem = s.mem := by rw [show t = _ from h]
theorem AnswerFrame.ash : t.ash = s.ash := by rw [show t = _ from h]
end

/-- LEVEL is as it was after a response. -/
theorem level_respond (kept : tk.discard = false) (s : State) (fn : Nat) (rc : Rc) (det : Nat) (payload : List Byte) :
    (mbx (respond s fn tk rc det payload) fn).level = (mbx s fn).level := by
  have start := mbx_dismissed s fn tk rc
  rw [respond_eq s fn tk rc det payload kept]
  split
  · rw [mbx_modMbx_self, start]
  · rw [mbx_postResponse]
    split
    · rw [mbx_modMbx_self, start]
    · rw [start]

/-- An answer after changes that left RSP_PI of the mailbox: nothing else of the state before shows in it. -/
theorem Begins.answeredWith (h : Begins s fn slot op tk) (same : (mbx u fn).rspPi = (mbx s fn).rspPi) (rc : Rc) (det : Nat)
    {payload : List Byte} (fits : payload.length ≤ 240) : Answered s (respond u fn tk rc det payload) fn tk rc payload := by
  have answered := answered_respond h.kept u fn rc det fits
  unfold Answered at answered ⊢
  rwa [same] at answered

/-- A command that fails leaves all but its answer. -/
theorem Begins.fails (h : Begins s fn slot op tk) {c : Instr} {rc : Rc} {det : Nat}
    (row : exec c s = .next (respond s fn tk rc det [])) {P : State → Prop}
    (hP : ∀ t, AnswerFrame s t → Answered s t fn tk rc [] → P t) : Gives c s P :=
  gives_of_row row (hP _ (answerFrame_respond h.kept s fn rc det []) (answered_respond h.kept s fn rc det (by decide)))

/-! ## sys.hello, sys.status (R139) -/

theorem sysHello_gives {l : Nat} (h : Begins s fn slot 0x1 tk) (hfirst : ∀ e ∈ (mbx s fn).taken, tk.seq ≤ e.seq)
    (hlevel : chooseLevel s tk.msg = some l) : Gives (.sysHello fn slot) s fun t =>
      (mbx t fn).level = l ∧ Answered s t fn tk .ok (helloPayload s l) ∧ AnswerFrame s t := by
  have first : ¬ ((mbx s fn).taken.any fun e => decide (e.seq < tk.seq)) = true := by
    simpa using hfirst
  have row : exec (.sysHello fn slot) s = .next (ok (modMbx s fn fun m => { m with level := l }) fn tk (helloPayload s l)) := by
    show execSysHello fn slot s = _
    rw [execSysHello, mailRow_begins h, if_neg first, hlevel]
    simp [setLevel, h.kept]
  have set := mbx_modMbx_self s fn fun m => { m with level := l }
  refine gives_of_row row ⟨?_, h.answeredWith (by rw [set]) .ok 0 (by simp [helloPayload]),
    (answerFrame_modMbx s fn _).trans (h.answerFrame _ _)⟩
  rw [ok, level_respond h.kept, set]

theorem sysStatus_gives (h : Begins s fn slot 0x2 tk) : Gives (.sysStatus fn slot) s fun t =>
    Answered s t fn tk .ok (statusPayload s fn) ∧ AnswerFrame s t := by
  have row : exec (.sysStatus fn slot) s = .next (ok s fn tk (statusPayload s fn)) := by
    show execSysStatus fn slot s = _
    simp [execSysStatus, mailRow_begins h]
  exact gives_of_row row ⟨h.answered (by rfl) (by simp [statusPayload]), h.answerFrame s _⟩

/-! ## The firmware flash (R143) -/

theorem look_putBytes (m : SMap Byte) (a : Nat) (bs : List Byte) (k : Nat) : look (putBytes m a bs) k =
    if a ≤ k ∧ k < a + bs.length then some (bs.getD (k - a) 0) else look m k := by
  induction bs generalizing m a with
  | nil => simp [putBytes]
  | cons b bs ih =>
    rw [putBytes, ih, look_put]
    by_cases own : k = a
    · subst own
      simp
    · by_cases within : a + 1 ≤ k ∧ k < a + 1 + bs.length
      · have shift : k - a = k - (a + 1) + 1 := by omega
        rw [if_pos within, if_pos (by simp; omega), shift, List.getD_cons_succ]
      · have outside : ¬ (a ≤ k ∧ k < a + (b :: bs).length) := by
          rw [List.length_cons]
          omega
        rw [if_neg within, if_neg outside, if_neg own]

/-- A byte of the flash follows from what was written there and from which sectors were erased. -/
theorem fwByte_congr {d e : Dev} {a : Nat} (flash : look e.fwFlash a = look d.fwFlash a)
    (erased : e.fwErased.contains (a / 4096) = d.fwErased.contains (a / 4096)) : fwByte e a = fwByte d a := by
  rw [fwByte, fwByte, flash, erased]

/-- Erasing a sector leaves the bytes of the others. -/
theorem fwByte_eraseSector (d : Dev) {k a : Nat} (h : a / 4096 ≠ k) : fwByte (eraseSector d k) a = fwByte d a := by
  refine fwByte_congr ?_ ?_
  · show look (d.fwFlash.filter fun c => c.1 / 4096 != k) a = _
    rw [look_filter d.fwFlash fun x => x / 4096 != k, if_pos (by simpa using h)]
  · show (if d.fwErased.contains k then d.fwErased else k :: d.fwErased).contains (a / 4096) = _
    split
    · rfl
    · simp [h]

theorem fwByte_foldl_eraseSector (l : List Nat) (d : Dev) {a : Nat} (h : a / 4096 ∉ l) :
    fwByte (l.foldl eraseSector d) a = fwByte d a := by
  induction l generalizing d with
  | nil => rfl
  | cons k l ih =>
    rw [List.mem_cons, not_or] at h
    rw [List.foldl_cons, ih _ h.2, fwByte_eraseSector d h.1]

/-- What a WRITE wrote is what the flash holds there. -/
theorem fwByte_fwWrite (d : Dev) (a : Nat) (data : List Byte) {i : Nat} (h : i < data.length) :
    fwByte (fwWrite d a data) (a + i) = data.getD i 0 := by
  have written : look (fwWrite d a data).fwFlash (a + i) = some (data.getD i 0) := by
    rw [fwWrite, look_putBytes, if_pos (by omega), Nat.add_sub_cancel_left]
  rw [fwByte, written]

theorem mem_sectorsOf {a n k : Nat} (lo : a / 4096 ≤ k) (hi : k ≤ (a + n - 1) / 4096) : k ∈ sectorsOf a n :=
  List.mem_map.2 ⟨k - a / 4096, List.mem_range.2 (by omega), by omega⟩

/-- A WRITE leaves every byte outside the sectors that it enters. -/
theorem fwByte_fwWrite_outside (d : Dev) (a : Nat) (data : List Byte) {x : Nat} (h : x / 4096 ∉ sectorsOf a data.length) :
    fwByte (fwWrite d a data) x = fwByte d x := by
  have apart : ¬ (a ≤ x ∧ x < a + data.length) := fun within => h (mem_sectorsOf (by omega) (by omega))
  have erased := fwByte_foldl_eraseSector ((sectorsOf a data.length).filter fun k => !d.fwFresh.contains k) d
    fun inside => h (List.mem_filter.1 inside).1
  rw [← erased]
  refine fwByte_congr ?_ rfl
  rw [fwWrite, look_putBytes, if_neg apart]

/-! ## fw.update (R142, R143, log entry 41) -/

theorem exec_fwUpdate (h : Begins s fn slot 0x3 tk) : exec (.fwUpdate fn slot) s = .next (runFwUpdate fn tk s) := mailRow_begins h _

theorem length_slotPayload (s : State) : (slotPayload s).length ≤ 240 := by simp [slotPayload]

/-- ABORT gives the image up. -/
theorem fwUpdate_aborts (h : Begins s fn slot 0x3 tk) (haction : fld tk.msg 0x16 1 = 2) : Gives (.fwUpdate fn slot) s fun t =>
    t.dev = { s.dev with fwOpen := false } ∧ Answered s t fn tk .ok (slotPayload s) := by
  have row := exec_fwUpdate h
  simp only [runFwUpdate, haction] at row
  exact gives_of_row row ⟨(h.answerFrame _ _).dev, h.answered (modDev_mbx _ _) (length_slotPayload s)⟩

/-- The image as a WRITE at an offset finds it: one at 0 starts a new one. -/
def fwBefore (s : State) (off : Nat) : Dev := if off = 0 then fwStart s.dev else s.dev

theorem fwByte_fwBefore (s : State) (off a : Nat) : fwByte (fwBefore s off) a = fwByte s.dev a := by
  unfold fwBefore
  split <;> rfl

section
variable (h : Begins s fn slot 0x3 tk) (haction : fld tk.msg 0x16 1 = 0) (halign : fld tk.msg 0x10 4 % 16 = 0)
  (hend : fld tk.msg 0x10 4 + fld tk.msg 0x14 2 ≤ 7680 * 1024)
include h haction halign hend

theorem exec_fwUpdate_write : exec (.fwUpdate fn slot) s = .next (
    if (fwBefore s (fld tk.msg 0x10 4)).fwWritten.any
        (overlap (slotBase (targetSlot s) + fld tk.msg 0x10 4, fld tk.msg 0x14 2)) then arg s fn tk 0
    else ok (modDev s fun _ => fwWrite (fwBefore s (fld tk.msg 0x10 4)) (slotBase (targetSlot s) + fld tk.msg 0x10 4)
      (slice tk.msg 0x20 (fld tk.msg 0x14 2))) fn tk (slotPayload s)) := by
  rw [exec_fwUpdate h]
  simp only [runFwUpdate, haction]
  rw [if_neg (by decide), if_neg (by decide), if_neg (by decide), if_neg (by omega)]
  rfl

/-- A WRITE of bytes not written yet writes them, and erases no sector but those that it enters. -/
theorem fwUpdate_writes
    (hfresh : fld tk.msg 0x10 4 ≠ 0 →
      s.dev.fwWritten.any (overlap (slotBase (targetSlot s) + fld tk.msg 0x10 4, fld tk.msg 0x14 2)) = false) :
    let base := slotBase (targetSlot s) + fld tk.msg 0x10 4
    Gives (.fwUpdate fn slot) s fun t =>
      (∀ i, i < fld tk.msg 0x14 2 → fwByte t.dev (base + i) = (slice tk.msg 0x20 (fld tk.msg 0x14 2)).getD i 0) ∧
        (∀ a, a / 4096 ∉ sectorsOf base (fld tk.msg 0x14 2) → fwByte t.dev a = fwByte s.dev a) ∧
        Answered s t fn tk .ok (slotPayload s) := by
  intro base
  have fresh : (fwBefore s (fld tk.msg 0x10 4)).fwWritten.any
      (overlap (slotBase (targetSlot s) + fld tk.msg 0x10 4, fld tk.msg 0x14 2)) = false := by
    unfold fwBefore
    split
    · rfl
    next later => exact hfresh later
  have row := exec_fwUpdate_write h haction halign hend
  rw [fresh, if_neg Bool.false_ne_true] at row
  have length := length_slice tk.msg 0x20 (fld tk.msg 0x14 2)
  refine gives_of_row row ⟨fun i hi => ?_, fun a ha => ?_, h.answered (modDev_mbx _ _) (length_slotPayload s)⟩
  · rw [(h.answerFrame _ _).dev, modDev_dev, fwByte_fwWrite _ _ _ (by rwa [length])]
  · rw [(h.answerFrame _ _).dev, modDev_dev, fwByte_fwWrite_outside _ _ _ (by rwa [length]), fwByte_fwBefore]

/-- Bytes already written since the last WRITE at offset 0 are refused. -/
theorem fwUpdate_refuses_written (hlater : fld tk.msg 0x10 4 ≠ 0)
    (hwritten : s.dev.fwWritten.any (overlap (slotBase (targetSlot s) + fld tk.msg 0x10 4, fld tk.msg 0x14 2)) = true) :
    Gives (.fwUpdate fn slot) s fun t => t.dev = s.dev ∧ Answered s t fn tk .eArg [] := by
  have row := exec_fwUpdate_write h haction halign hend
  rw [fwBefore, if_neg hlater, hwritten, if_pos rfl] at row
  exact h.fails row fun t frame answered => ⟨frame.dev, answered⟩

end

/-- COMMIT, by whether an image was begun and whether it verifies. -/
theorem fwUpdate_commits (h : Begins s fn slot 0x3 tk) (haction : fld tk.msg 0x16 1 = 1) (hfail : s.sec.svcFail &&& 0x6#5 = 0) :
    Gives (.fwUpdate fn slot) s fun t =>
      (s.dev.fwOpen = false → t.dev = s.dev ∧ Answered s t fn tk .eState []) ∧
        (s.dev.fwOpen = true → verifyImage s (targetSlot s) = none → t.dev = s.dev ∧ Answered s t fn tk .eArg []) ∧
        (s.dev.fwOpen = true → (verifyImage s (targetSlot s)).isSome = true →
          t.dev = { s.dev with fwOpen := false, preferB := targetSlot s } ∧ Answered s t fn tk .ok (slotPayload s)) := by
  have row : exec (.fwUpdate fn slot) s = .next (
      if s.dev.fwOpen = false then fail s fn tk .eState
      else if verifyImage s (targetSlot s) = none then argOpen s fn tk
      else ok (modDev s fun d => { d with fwOpen := false, preferB := targetSlot s }) fn tk (slotPayload s)) := by
    simp [exec_fwUpdate h, runFwUpdate, haction, hfail]
  refine gives_of_row row ?_
  cases hopen : s.dev.fwOpen with
  | false =>
    rw [if_pos rfl]
    exact ⟨fun _ => ⟨(answerFrame_respond h.kept s fn .eState 0 []).dev, answered_respond h.kept s fn .eState 0 (by decide)⟩,
      nofun, nofun⟩
  | true =>
    rw [if_neg (by decide)]
    cases hverify : verifyImage s (targetSlot s) with
    | none =>
      rw [if_pos rfl]
      exact ⟨nofun, fun _ _ => ⟨(answerFrame_respond h.kept _ fn .eArg _ []).dev, h.answeredWith (by rfl) .eArg _ (by decide)⟩, nofun⟩
    | some image =>
      rw [if_neg nofun]
      exact ⟨nofun, nofun, fun _ _ => ⟨(h.answerFrame _ _).dev, h.answered (modDev_mbx _ _) (length_slotPayload s)⟩⟩

/-! ## training.policy (R143) -/

theorem trainingPolicy_gives (h : Begins s fn slot 0x4 tk) (hpolicy : fld tk.msg 0x10 1 ≤ 2) : Gives (.trainingPolicy fn slot) s fun t =>
    Answered s t fn tk .ok [] ∧
      (fld tk.msg 0x10 1 = 2 → t.fpt = { s.fpt with trainA := none, trainB := none } ∧ t.ao = s.ao) ∧
      (fld tk.msg 0x10 1 < 2 → t.ao = { s.ao with fullNext := fld tk.msg 0x10 1 == 1 } ∧ t.fpt = s.fpt) := by
  have row : exec (.trainingPolicy fn slot) s = .next (
      if fld tk.msg 0x10 1 = 2 then ok (modFpt s fun f => { f with trainA := none, trainB := none }) fn tk []
      else ok (modAo s fun x => { x with fullNext := fld tk.msg 0x10 1 == 1 }) fn tk []) := by
    show execTrainingPolicy fn slot s = _
    simp [execTrainingPolicy, mailRow_begins h, Nat.not_lt.2 hpolicy]
  refine gives_of_row row ?_
  split
  next forget =>
    exact ⟨h.answered (modFpt_mbx _ _) (by decide), fun _ => ⟨(h.answerFrame _ _).fpt, (h.answerFrame _ _).ao⟩, fun low => by omega⟩
  next set =>
    exact ⟨h.answered (modAo_mbx _ _) (by decide), fun forget => absurd forget set,
      fun _ => ⟨(h.answerFrame _ _).ao, (h.answerFrame _ _).fpt⟩⟩

/-- Settles O21, command by command; the slot that fw.update writes is log entry 41. -/
theorem systemCommands : Obligations.SystemCommands :=
  ⟨fun _ _ _ _ _ h hfirst hlevel => sysHello_gives h hfirst hlevel, fun _ _ _ _ h => sysStatus_gives h,
    fun _ _ _ _ h => fwUpdate_aborts h,
    fun _ _ _ _ h haction halign hend => fwUpdate_writes h haction halign hend,
    fun _ _ _ _ h haction halign hend => fwUpdate_refuses_written h haction halign hend,
    fun _ _ _ _ h => fwUpdate_commits h, fun _ _ _ _ h => trainingPolicy_gives h⟩

end Sys2Proof.Machine
end
section
/-! Sites that a tenant gives up, and what its end and its reset leave of the mailboxes, the owners, the dispatches and the hearths (R149,
R173, R174, R252, R331). -/

namespace Sys2Proof.Machine

variable {s t : State}

/-! ## Accessors of equal parts -/

theorem tenant_congr (h : t.work = s.work) (n : Nat) : tenant t n = tenant s n := by rw [tenant, h, ← tenant]
theorem hearth_congr (h : t.hearths = s.hearths) (site : Nat) : hearth t site = hearth s site := by rw [hearth, h, ← hearth]
theorem ownerOf_congr (h : t.work.owner = s.work.owner) (site : Nat) : ownerOf t site = ownerOf s site := by
  rw [ownerOf, h, ← ownerOf]

/-! ## The mailboxes and the owners -/

/-- The mailboxes and the owners of the sites. -/
def holdings (s : State) : SMap Mbx × SMap Nat := (s.mbx, s.work.owner)

theorem holdings_of_lasting (h : lasting t = lasting s) : holdings t = holdings s := (congrArg holdings h :)
theorem holdings_of_seated (h : Seated s t) : holdings t = holdings s :=
  Prod.ext (congrArg Roll.mbx h.roll) (congrArg Roll.owner h.roll)
theorem mbx_of_holdings (h : holdings t = holdings s) : t.mbx = s.mbx := congrArg Prod.fst h
theorem owner_of_holdings (h : holdings t = holdings s) : t.work.owner = s.work.owner := congrArg Prod.snd h

@[simp] theorem holdings_ite (c : Prop) [Decidable c] (s t : State) :
    holdings (if c then s else t) = if c then holdings s else holdings t := apply_ite holdings c s t

@[simp] theorem holdings_foldl {β : Type} {f : State → β → State} (h : ∀ s b, holdings (f s b) = holdings s) (l : List β)
    (s : State) : holdings (l.foldl f s) = holdings s :=
  foldl_keeps (fun u : State => holdings u = holdings s) f (fun u b k => (h u b).trans k) l s rfl

section
variable (s : State)

@[simp] theorem holdings_modMem (f) : holdings (modMem s f) = holdings s := (rfl)
@[simp] theorem holdings_modSec (f) : holdings (modSec s f) = holdings s := (rfl)
@[simp] theorem holdings_modChain (f) : holdings (modChain s f) = holdings s := (rfl)
@[simp] theorem holdings_modTenant (t f) : holdings (modTenant s t f) = holdings s := (rfl)
@[simp] theorem holdings_setTenant (t x) : holdings (setTenant s t x) = holdings s := (rfl)
@[simp] theorem holdings_modAshRing (t f) : holdings (modAshRing s t f) = holdings s := (rfl)
@[simp] theorem holdings_bumpFree : holdings (bumpFree s) = holdings s := (rfl)
@[simp] theorem holdings_raiseAsh (ty source tag reason det dests alerts) :
    holdings (raiseAsh s ty source tag reason det dests alerts) = holdings s := (rfl)
@[simp] theorem holdings_setHearth (site h) : holdings (setHearth s site h) = holdings s := (rfl)
@[simp] theorem holdings_forgetRaces (site) : holdings (forgetRaces s site) = holdings s := (rfl)
@[simp] theorem holdings_clearWindows (fn) : holdings (clearWindows s fn) = holdings s := (rfl)
@[simp] theorem holdings_closeDomains (t) : holdings (closeDomains s t) = holdings s := (rfl)
@[simp] theorem holdings_endDisp (id rs) : holdings (endDisp s id rs) = holdings s := (rfl)
@[simp] theorem holdings_dropFrames (ids) : holdings (dropFrames s ids) = holdings s := holdings_of_seated (seated_dropFrames s ids)
@[simp] theorem holdings_writeRecord (d) : holdings (writeRecord s d) = holdings s := holdings_of_seated (seated_writeRecord s d)
@[simp] theorem holdings_endWorkOn (sites st det) : holdings (endWorkOn s sites st det) = holdings s :=
  holdings_of_lasting (by simp)
@[simp] theorem holdings_endUnclaimed (sites st det) : holdings (endUnclaimed s sites st det) = holdings s :=
  holdings_of_lasting (by simp)
@[simp] theorem holdings_repairSite (site limit) : holdings (repairSite s site limit) = holdings s :=
  holdings_of_seated (seated_repairSite s site limit)

/-! ## Regions that go -/

@[simp] theorem holdings_dropQueue (t q) : holdings (dropQueue s t q) = holdings s := (rfl)
@[simp] theorem holdings_objectRemoved (t kind number) : holdings (objectRemoved s t kind number) = holdings s := by
  simp [objectRemoved]
@[simp] theorem holdings_dropDependents (t rn) : holdings (dropDependents s t rn) = holdings s := by simp [dropDependents]
@[simp] theorem holdings_removeRegion (t rn) : holdings (removeRegion s t rn) = holdings s := (rfl)
@[simp] theorem holdings_zeroHbm (r) : holdings (zeroHbm s r) = holdings s := (rfl)
@[simp] theorem holdings_sanitiseRegion (t p) : holdings (sanitiseRegion s t p) = holdings s := by simp [sanitiseRegion]

@[simp] theorem holdings_advanceGeneration : holdings (advanceGeneration s) = holdings s := by
  have flip : holdings (flipGeneration s) = holdings s := rfl
  rw [advanceGeneration, holdings_of_seated (seated_raiseVector _ 0 5), flip]

@[simp] theorem holdings_deleteRegions (t doomed) : holdings (deleteRegions s t doomed) = holdings s := by simp [deleteRegions]
@[simp] theorem holdings_zeroSite (site) : holdings (zeroSite s site) = holdings s := by simp [zeroSite]

end

/-! ## Sites that are given up (R149, R174, R252) -/

theorem look_map_values {α β : Type} (f : α → β) (m : SMap α) (k : Nat) : look (m.map fun c => (c.1, f c.2)) k = (look m k).map f := by
  induction m with
  | nil => rfl
  | cons c m ih =>
    rw [List.map_cons, look, look, ih]
    split <;> rfl

/-- Requests held no longer name a site that its tenant gives up. -/
theorem mbx_forgetOwned (s : State) (site fn : Nat) : mbx (forgetOwned s site) fn = { mbx s fn with
    taken := (mbx s fn).taken.map fun e => { e with owned := e.owned.filter (· != site) } } := by
  have map_ := look_map_values (fun m : Mbx =>
    { m with taken := m.taken.map fun e : Taken => { e with owned := e.owned.filter (· != site) } }) s.mbx fn
  show (look (forgetOwned s site).mbx fn).getD .reset = _
  rw [show look (forgetOwned s site).mbx fn = _ from map_, mbx, lookD]
  cases look s.mbx fn <;> rfl

/-- The sites change from their tenant to nobody. -/
def giveUp (s : State) (sites : List Nat) : State := sites.foldl (fun s x => setOwner (forgetOwned s x) x none) s

theorem ownerOf_setOwner_none (s : State) (site x : Nat) : ownerOf (setOwner s site none) x = if x = site then none else ownerOf s x :=
  look_del s.work.owner site x

theorem ownerOf_giveUp (sites : List Nat) (s : State) (x : Nat) :
    ownerOf (giveUp s sites) x = if x ∈ sites then none else ownerOf s x := by
  induction sites generalizing s with
  | nil => rfl
  | cons y l ih =>
    have first : ownerOf (setOwner (forgetOwned s y) y none) x = if x = y then none else ownerOf s x := ownerOf_setOwner_none _ y x
    rw [giveUp, List.foldl_cons, ← giveUp, ih, first]
    by_cases later : x ∈ l
    · simp [later]
    · simp [later]

theorem rspPi_giveUp (sites : List Nat) (s : State) (fn : Nat) : (mbx (giveUp s sites) fn).rspPi = (mbx s fn).rspPi :=
  foldl_keeps (fun u : State => (mbx u fn).rspPi = (mbx s fn).rspPi) _ (fun u x k => by
    have same : (setOwner (forgetOwned u x) x none).mbx = (forgetOwned u x).mbx := rfl
    rw [mbx_congr same, mbx_forgetOwned]
    exact k) sites s rfl

/-- A sanitise up to its fifth step leaves the mailboxes and the owners. -/
theorem sanitiseSites_eq (s : State) (t : Nat) (sites : List Nat) : ∃ u, holdings u = holdings s ∧
    sanitiseSites s t sites = giveUp u sites := by
  unfold sanitiseSites
  dsimp only
  split
  next none_ =>
    rw [List.isEmpty_iff] at none_
    subst none_
    exact ⟨_, by simp, rfl⟩
  next some_ => exact ⟨_, by simp, rfl⟩

theorem ownerOf_sanitiseSites (s : State) (t : Nat) (sites : List Nat) (x : Nat) :
    ownerOf (sanitiseSites s t sites) x = if x ∈ sites then none else ownerOf s x := by
  obtain ⟨u, kept, eq⟩ := sanitiseSites_eq s t sites
  rw [eq, ownerOf_giveUp, ownerOf_congr (owner_of_holdings kept)]

theorem rspPi_sanitiseSites (s : State) (t : Nat) (sites : List Nat) (fn : Nat) :
    (mbx (sanitiseSites s t sites) fn).rspPi = (mbx s fn).rspPi := by
  obtain ⟨u, kept, eq⟩ := sanitiseSites_eq s t sites
  rw [eq, rspPi_giveUp, mbx_congr (mbx_of_holdings kept)]

/-! ## The end of a tenant (R174) -/

theorem mem_ownedBy {n x : Nat} (h : ownerOf s x = some n) : x ∈ ownedBy s n :=
  List.mem_map.2 ⟨(x, n), List.mem_filter.2 ⟨mem_of_look h, beq_self_eq_true n⟩, rfl⟩

/-- After the sanitise of its sites, a destroyed tenant's end leaves the mailboxes and the owners. -/
theorem holdings_destroyTenant (s : State) (t : Nat) : holdings (destroyTenant s t) = holdings (sanitiseSites s t (ownedBy s t)) := by
  unfold destroyTenant
  simp

theorem ownerOf_destroyTenant (s : State) (n x : Nat) : ownerOf (destroyTenant s n) x ≠ some n := by
  rw [ownerOf_congr (owner_of_holdings (holdings_destroyTenant s n)), ownerOf_sanitiseSites]
  split
  · exact nofun
  next kept => exact fun owned => kept (mem_ownedBy owned)

theorem tenant_clearWindows (s : State) (fn n : Nat) : tenant (clearWindows s fn) n = tenant s n := rfl

theorem tenant_destroyTenant (s : State) (n : Nat) : tenant (destroyTenant s n) n = .reset := by
  unfold destroyTenant
  rw [tenant_clearWindows, tenant_setTenant_self]

/-! ## A reset's work and hearths (R173, R331) -/

/-- The tenants with their dispatches, and the hearths. -/
def labour (s : State) : Work × SMap Hearth := (s.work, s.hearths)

theorem work_of_labour (h : labour t = labour s) : t.work = s.work := congrArg Prod.fst h
theorem hearths_of_labour (h : labour t = labour s) : t.hearths = s.hearths := congrArg Prod.snd h
theorem labour_of_reads (h : Reads s t) : labour t = labour s := Prod.ext h.work h.hearths

@[simp] theorem labour_ite (c : Prop) [Decidable c] (s t : State) :
    labour (if c then s else t) = if c then labour s else labour t := apply_ite labour c s t

/-- A fold whose every step leaves the labour of the state that it carries. -/
theorem labour_foldl_of {α β : Type} {g : α → State} {f : α → β → α} (h : ∀ a b, labour (g (f a b)) = labour (g a)) (l : List β)
    (a : α) : labour (g (l.foldl f a)) = labour (g a) :=
  foldl_keeps (fun x => labour (g x) = labour (g a)) f (fun x b k => (h x b).trans k) l a rfl

@[simp] theorem labour_foldl {β : Type} {f : State → β → State} (h : ∀ s b, labour (f s b) = labour s) (l : List β) (s : State) :
    labour (l.foldl f s) = labour s := labour_foldl_of (g := id) h l s

section
variable (s : State)

@[simp] theorem labour_modMem (f) : labour (modMem s f) = labour s := (rfl)
@[simp] theorem labour_bumpFree : labour (bumpFree s) = labour s := (rfl)
@[simp] theorem labour_storeWord (p w) : labour (storeWord s p w) = labour s := (rfl)
@[simp] theorem labour_lineRecord (ty f notMarked noSpare alerts) : labour (lineRecord s ty f notMarked noSpare alerts) = labour s := (rfl)
@[simp] theorem labour_fenceUnit (u) : labour (fenceUnit s u) = labour s := (rfl)
@[simp] theorem labour_raiseBucket (p owner a req y) : labour (raiseBucket s p owner a req y) = labour s :=
  labour_of_reads (reads_raiseBucket _ _ _ _ _ _)

@[simp] theorem labour_repairRow (f row) : labour (repairRow s f row).1 = labour s := by
  unfold repairRow
  dsimp only
  split
  · rfl
  · split <;> simp

@[simp] theorem labour_poisonPlace (p h) : labour (poisonPlace s p h) = labour s := by
  unfold poisonPlace
  split <;> rfl

/-- A repair moves words and records, or fences a bank (R379). -/
@[simp] theorem labour_repairOne (f) : labour (repairOne s f) = labour s := by
  unfold repairOne
  dsimp only
  split
  · rw [labour_fenceUnit, labour_lineRecord, labour_modMem]
  · rw [labour_lineRecord, labour_foldl (by simp), labour_modMem, labour_foldl_of (g := Prod.fst) (by simp), labour_modMem]

@[simp] theorem labour_repairNext (f) : labour (repairNext s f) = labour s := by simp [repairNext]
@[simp] theorem labour_repairSite (site limit) : labour (repairSite s site limit) = labour s := by simp [repairSite]

@[simp] theorem labour_modChainPort (p f) : labour (modChainPort s p f) = labour s := (rfl)

@[simp] theorem labour_dropFrames (ids : List Nat) : labour (dropFrames s ids) = labour s := by simp [dropFrames]

end

end Sys2Proof.Machine
end
section
/-! What a tenant reset leaves of its dispatches and of the mesh request tags of its sites (R173, R331). -/

namespace Sys2Proof.Machine

variable {s t u : State}

/-! ## The record of a dispatch (R165, R168) -/

/-- The part with the record of a dispatch posted, before the dispatch leaves. -/
def recordPosted (s : State) (d : Disp) : State :=
  let q := queue s d.tenant d.queue
  modQueue (countT (ringPost s d.tenant q.cqHbm q.cqBase (32 * (q.cqTail % q.cqEntries)) (recordBytes d (q.cqTail < q.cqEntries))).2
    (0x80A + (worstReport d.reports).status.code) d.tenant 1) d.tenant d.queue fun q => { q with cqTail := (q.cqTail + 1) % (2 * q.cqEntries) }

theorem writeRecord_eq (s : State) (d : Disp) : writeRecord s d =
    if d.orphan then leaveInflight s d
    else if (queue s d.tenant d.queue).irq || fld d.desc 1 1 % 2 = 1 then
      raiseVector (leaveInflight (recordPosted s d) d) d.tenant (4 + d.queue)
    else leaveInflight (recordPosted s d) d := rfl

theorem modQueue_disps (s : State) (n q : Nat) (f : Queue → Queue) : (modQueue s n q f).work.disps = s.work.disps := (rfl)

theorem recordPosted_disps (s : State) (d : Disp) : (recordPosted s d).work.disps = s.work.disps := by
  rw [recordPosted, modQueue_disps, countT_work, (writes_ringPost s d.tenant _ _ _ _).work]

theorem recordPosted_hearths (s : State) (d : Disp) : (recordPosted s d).hearths = s.hearths := by
  rw [recordPosted, modQueue_hearths, countT_hearths, (writes_ringPost s d.tenant _ _ _ _).hearths]

theorem leaveInflight_disps (s : State) (d : Disp) :
    (leaveInflight s d).work.disps = (s.work.disps.filter (·.id != d.id)).map (turnoverCounts d) := rfl

theorem leaveInflight_hearths (s : State) (d : Disp) : (leaveInflight s d).hearths = s.hearths := (rfl)

/-- A dispatch whose record is written leaves; of the others only the count of a TURNOVER moves. -/
theorem writeRecord_disps (s : State) (d : Disp) :
    (writeRecord s d).work.disps = (s.work.disps.filter (·.id != d.id)).map (turnoverCounts d) := by
  have posted : (leaveInflight (recordPosted s d) d).work.disps = (s.work.disps.filter (·.id != d.id)).map (turnoverCounts d) := by
    rw [leaveInflight_disps, recordPosted_disps]
  rw [writeRecord_eq]
  split
  · rfl
  · split
    · rw [raiseVector_only]
      exact posted
    · exact posted

theorem raiseVector_hearths (s : State) (fn v : Nat) : (raiseVector s fn v).hearths = s.hearths := by rw [raiseVector_only]

theorem writeRecord_hearths (s : State) (d : Disp) : (writeRecord s d).hearths = s.hearths := by
  rw [writeRecord_eq]
  split
  · rw [leaveInflight_hearths]
  · split
    · rw [raiseVector_hearths, leaveInflight_hearths, recordPosted_hearths]
    · rw [leaveInflight_hearths, recordPosted_hearths]

theorem turnoverCounts_names (d e : Disp) : (turnoverCounts d e).id = e.id ∧ (turnoverCounts d e).tenant = e.tenant := by
  unfold turnoverCounts
  split <;> exact ⟨rfl, rfl⟩

/-- A dispatch that is left after the records of some was there before, and is none of them. -/
theorem mem_disps_foldl_writeRecord {f : State → Disp → Disp} (hf : ∀ s d, (f s d).id = d.id) (l : List Disp) (s : State) {e : Disp}
    (he : e ∈ (l.foldl (fun s d => writeRecord s (f s d)) s).work.disps) :
    ∃ x ∈ s.work.disps, x.tenant = e.tenant ∧ ∀ d ∈ l, x.id ≠ d.id := by
  induction l generalizing s with
  | nil => exact ⟨e, he, rfl, nofun⟩
  | cons d l ih =>
    obtain ⟨y, hy, owner, apart⟩ := ih (writeRecord s (f s d)) he
    rw [writeRecord_disps] at hy
    obtain ⟨x, hx, rfl⟩ := List.mem_map.1 hy
    obtain ⟨held, other⟩ := List.mem_filter.1 hx
    obtain ⟨name, tenant⟩ := turnoverCounts_names (f s d) x
    refine ⟨x, held, tenant.symm.trans owner, fun c hc => ?_⟩
    rcases List.mem_cons.1 hc with rfl | later
    · rw [← hf s c]
      simpa using other
    · exact name ▸ apart c later

/-- A dispatch with the report of its tenant's reset. -/
def resetReport (s : State) (d : Disp) : Disp :=
  { d with reports := d.reports ++ [{ site := (d.working.filter (· != 0xFFFF)).foldl min 0xFFFF, status := .tenantReset, detail := 0 }],
           endedAt := if d.ended then d.endedAt else now s }

theorem resetDispatches_eq (s : State) (n : Nat) : resetDispatches s n false =
    (s.work.disps.filter (·.tenant == n)).foldl (fun s d => writeRecord s (resetReport s d)) s := by
  simp only [resetDispatches, Bool.false_eq_true, if_false, resetReport]

theorem tenant_ne_of_mem_resetDispatches {n : Nat} {d : Disp} (h : d ∈ (resetDispatches s n false).work.disps) : d.tenant ≠ n := by
  rw [resetDispatches_eq] at h
  obtain ⟨x, hx, owner, apart⟩ := mem_disps_foldl_writeRecord (f := resetReport) (fun _ _ => rfl) _ s h
  intro own
  exact apart x (List.mem_filter.2 ⟨hx, by simp [owner, own]⟩) rfl

theorem resetDispatches_hearths (s : State) (n : Nat) : (resetDispatches s n false).hearths = s.hearths :=
  resetDispatches_eq s n ▸ foldl_keeps (fun u : State => u.hearths = s.hearths) (fun u d => writeRecord u (resetReport u d))
    (fun u d k => (writeRecord_hearths u (resetReport u d)).trans k) _ s rfl

/-! ## The tags that are out (R331) -/

/-- The tenants with their dispatches are as they were, and so are the tags that each hearth has out. -/
structure TagsStay (s t : State) : Prop where
  work : t.work = s.work
  tags : ∀ x, (hearth t x).tags = (hearth s x).tags

theorem TagsStay.of_labour (h : labour t = labour s) : TagsStay s t :=
  ⟨work_of_labour h, fun x => by rw [hearth_congr (hearths_of_labour h)]⟩

theorem TagsStay.trans (h : TagsStay s t) (k : TagsStay t u) : TagsStay s u :=
  ⟨k.work.trans h.work, fun x => (k.tags x).trans (h.tags x)⟩

theorem TagsStay.foldl {β : Type} {f : State → β → State} (h : ∀ s b, TagsStay s (f s b)) (l : List β) (s : State) :
    TagsStay s (l.foldl f s) :=
  foldl_keeps (TagsStay s) f (fun u b k => k.trans (h u b)) l s (.of_labour rfl)

/-- A change of a hearth that leaves its tags. -/
theorem TagsStay.modHearth (h : TagsStay s t) (site : Nat) {f : Hearth → Hearth} (hf : ∀ x, (f x).tags = x.tags) :
    TagsStay s (modHearth t site f) where
  work := h.work
  tags x := by
    by_cases own : x = site
    · subst own
      rw [hearth_modHearth_self, hf, h.tags]
    · rw [hearth_modHearth_other _ _ _ own, h.tags]

theorem TagsStay.countAt (h : TagsStay s t) (event site n : Nat) : TagsStay s (countAt t event site n) := ⟨h.work, h.tags⟩

theorem labour_flushMerge (s : State) (site : Nat) (en : EmberEntry) (run : EmberRun) : labour (flushMerge s site en run).2 = labour s := by
  refine labour_foldl_of (g := Prod.snd) (fun x p => ?_) _ _
  split
  · rfl
  next r e _ =>
    have written := writes_writePart x.2 (planePlace r e run.bank p.2.1) (p.2.2.1 % 32) ((lineBytes p.2.2.2).take (p.2.2.1 / 32))
      (emberReq site en) en.tenant (homeAddr (homeOf x.2 false site (planePlace r e run.bank p.2.1).addr))
    dsimp only
    split
    all_goals
      next answer =>
        rw [answer] at written
        exact Prod.ext written.work written.hearths

theorem labour_settleContest (s : State) (site : Nat) (run : EmberRun) : labour (settleContest s site run) = labour s := by
  unfold settleContest
  dsimp only
  split
  · rfl
  · rw [labour_modMem, labour_foldl (by simp)]

theorem tagsStay_emberDone (s : State) (site ember : Nat) (st : Status) (det : Nat) : TagsStay s (emberDone s site ember st det) := by
  unfold emberDone
  split
  · exact .of_labour rfl
  next run _ =>
    refine ((TagsStay.of_labour (labour_settleContest s site run)).modHearth site ?_).countAt _ site 1
    exact fun _ => rfl

theorem tagsStay_emberAbort (s : State) (site ember : Nat) (st : Status) (det : Nat) : TagsStay s (emberAbort s site ember st det) := by
  unfold emberAbort
  split
  · exact .of_labour rfl
  next run _ =>
    split
    · exact tagsStay_emberDone _ _ _ _ _
    next en _ => exact (TagsStay.of_labour (labour_flushMerge s site en run)).trans (tagsStay_emberDone _ _ _ _ _)

theorem tagsStay_stopEmbers (s : State) (site : Nat) : TagsStay s (stopEmbers s site) := by
  have aborted : TagsStay s ((List.range 32).foldl (fun s e => emberAbort s site e .aborted 7) s) :=
    .foldl (fun s e => tagsStay_emberAbort s site e .aborted 7) _ s
  exact aborted.modHearth site (f := fun h => { h with emberQ := [], emberRuns := [] }) fun _ => rfl

/-- What a hearth's engines had out is abandoned by its reset, and no other hearth's. -/
theorem tags_resetHearth (s : State) (site x : Nat) :
    (hearth (resetHearth s site) x).tags = if x = site then abandonTags (hearth s x) else (hearth s x).tags := by
  split
  next own =>
    subst own
    exact congrArg Hearth.tags (hearth_setHearth_self s x _)
  next other => exact congrArg Hearth.tags (hearth_setHearth_other s site _ other)

theorem tags_foldl_resetHearth (l : List Nat) (s : State) (x : Nat) :
    (hearth (l.foldl resetHearth s) x).tags = if x ∈ l then abandonTags (hearth s x) else (hearth s x).tags := by
  induction l generalizing s with
  | nil => rfl
  | cons y l ih =>
    have twice : (abandonTags (hearth s x)).map (fun u : TagUse => { u with abandoned := true }) = abandonTags (hearth s x) := by
      rw [abandonTags, List.map_map]
      rfl
    rw [List.foldl_cons, ih, abandonTags, tags_resetHearth]
    by_cases first : x = y
    · simp [first] at twice ⊢
      simp [twice]
    · simp [first, abandonTags]

theorem foldl_resetHearth_work (l : List Nat) (s : State) : (l.foldl resetHearth s).work = s.work :=
  foldl_keeps (fun u : State => u.work = s.work) resetHearth (fun _ _ k => k) l s rfl

/-! ## The reset -/

/-- A reset with its dispatches ended (R173 steps 1 and 2). -/
def resetEnded (s : State) (n : Nat) : State :=
  resetDispatches ((ownedBy s n).foldl stopEmbers (dropFrames s ((s.work.disps.filter (·.tenant == n)).map (·.id)))) n false

/-- Then its queues are empty, and its sites are repaired (R173 step 3, R378). -/
def resetMended (s : State) (n : Nat) : State :=
  (ownedBy s n).foldl (fun s x => repairSite s x 12) (modTenant (resetEnded s n) n fun x =>
    { x with queues := x.queues.map fun q => (q.1, { q.2 with sqHead := q.2.sqTail }) })

theorem tenantReset_eq {n : Nat} (h : (tenant s n).alive = true) : tenantReset s n false =
    closeDomains (clearSignals ((ownedBy s n).foldl resetHearth (resetMended s n)) n) n := by
  unfold tenantReset
  rw [if_neg (by simp [h])]
  rfl

theorem resetMended_disps (s : State) (n : Nat) : (resetMended s n).work.disps = (resetEnded s n).work.disps := by
  rw [resetMended, work_of_labour (labour_foldl (fun s x => labour_repairSite s x 12) _ _)]
  rfl

theorem resetMended_hearths (s : State) (n : Nat) : (resetMended s n).hearths = (resetEnded s n).hearths := by
  rw [resetMended, hearths_of_labour (labour_foldl (fun s x => labour_repairSite s x 12) _ _)]
  rfl

/-- No dispatch of the tenant is left (R173). -/
theorem tenant_ne_of_mem_tenantReset {n : Nat} (h : (tenant s n).alive = true) :
    ∀ d ∈ (tenantReset s n false).work.disps, d.tenant ≠ n := by
  have same : (tenantReset s n false).work.disps = (resetEnded s n).work.disps := by
    rw [tenantReset_eq h]
    show ((ownedBy s n).foldl resetHearth (resetMended s n)).work.disps = _
    rw [foldl_resetHearth_work, resetMended_disps]
  intro d hd
  rw [same] at hd
  exact tenant_ne_of_mem_resetDispatches hd

/-- Tags that the tenant's engines had out stay in use (R331). -/
theorem tags_tenantReset {n x : Nat} (h : (tenant s n).alive = true) (own : ownerOf s x = some n) :
    (hearth (tenantReset s n false) x).tags = (hearth s x).tags.map fun u => { u with abandoned := true } := by
  have start : TagsStay s ((ownedBy s n).foldl stopEmbers (dropFrames s ((s.work.disps.filter (·.tenant == n)).map (·.id)))) :=
    (TagsStay.of_labour (labour_dropFrames s _)).trans (.foldl tagsStay_stopEmbers _ _)
  have ended : (resetEnded s n).hearths = _ := resetDispatches_hearths _ n
  rw [tenantReset_eq h]
  show (hearth ((ownedBy s n).foldl resetHearth (resetMended s n)) x).tags = _
  rw [tags_foldl_resetHearth, if_pos (mem_ownedBy own), hearth_congr ((resetMended_hearths s n).trans ended), abandonTags, start.tags]

end Sys2Proof.Machine
end

section
/-! The tenant commands of the mailbox (R142, R149, R173, R174, R331). -/

namespace Sys2Proof.Machine

variable {s t : State} {fn slot op : Nat} {tk : Taken}

/-! ## The tenants after an answer -/

theorem AnswerFrame.tenant (h : AnswerFrame s t) (n : Nat) : tenant t n = Machine.tenant s n := tenant_congr h.work n
theorem AnswerFrame.hearth (h : AnswerFrame s t) (x : Nat) : hearth t x = Machine.hearth s x := hearth_congr h.hearths x
theorem AnswerFrame.ownerOf (h : AnswerFrame s t) (x : Nat) : ownerOf t x = Machine.ownerOf s x :=
  ownerOf_congr (congrArg Work.owner h.work) x

/-- A command that changes one tenant and answers. -/
theorem Begins.givesTenant (h : Begins s fn slot op tk) {c : Instr} {n : Nat} {x : Tenant}
    (row : exec c s = .next (ok (setTenant s n x) fn tk [])) : Gives c s fun t =>
      tenant t n = x ∧ (∀ k, k ≠ n → tenant t k = tenant s k) ∧ Answered s t fn tk .ok [] := by
  have frame := h.answerFrame (setTenant s n x) []
  refine gives_of_row row ⟨?_, fun k hk => ?_, h.answered (by rfl) (by decide)⟩
  · rw [frame.tenant, tenant_setTenant_self]
  · rw [frame.tenant, tenant_setTenant_other _ _ _ hk]

/-- The tenant that a command which passes its checks concerns is there (R136). -/
theorem Begins.alive (h : Begins s fn slot op tk) {n : Nat} (names : scope fn tk.msg = some n) : (Machine.tenant s n).alive = true := by
  obtain ⟨-, -, -, checks, -⟩ := h
  cases alive : (Machine.tenant s n).alive with
  | true => rfl
  | false =>
    simp only [preCheck, names, alive, Bool.not_false, if_true] at checks
    -- with no such tenant, every branch of the checks answers with a code
    repeat' split at checks
    all_goals cases checks

theorem Begins.opcode (h : Begins s fn slot op tk) : fld tk.msg 0 2 = op := by
  obtain ⟨-, held, -⟩ := h
  have found := List.find?_some held
  simp only [Bool.and_eq_true, beq_iff_eq] at found
  obtain ⟨⟨-, named⟩, -⟩ := found
  exact named

/-! ## tenant.create, tenant.destroy (R149, R174) -/

theorem tenantCreate_gives (h : Begins s fn slot 0x100 tk) (hvf : namedTenant fn tk.msg ≤ s.pcie.numVfs)
    (hnew : (tenant s (namedTenant fn tk.msg)).alive = false) : Gives (.tenantCreate fn slot) s fun t =>
      tenant t (namedTenant fn tk.msg) = { Tenant.reset with alive := true, poisonNotify := fld tk.msg 0x11 1 % 2 == 1 } ∧
        (∀ n, n ≠ namedTenant fn tk.msg → tenant t n = tenant s n) ∧ Answered s t fn tk .ok [] :=
  h.givesTenant <| by
    show execTenantCreate fn slot s = _
    simp [execTenantCreate, mailRow_begins h, Nat.not_lt.2 hvf, hnew]

theorem tenantDestroy_gives (h : Begins s fn slot 0x101 tk) (hcalm : s.epoch.running = none) : Gives (.tenantDestroy fn slot) s fun t =>
    tenant t (namedTenant fn tk.msg) = .reset ∧ (∀ x, ownerOf t x ≠ some (namedTenant fn tk.msg)) ∧ Answered s t fn tk .ok [] := by
  have row : exec (.tenantDestroy fn slot) s = .next (ok (destroyTenant s (namedTenant fn tk.msg)) fn tk []) := by
    show execTenantDestroy fn slot s = _
    simp [execTenantDestroy, mailRow_begins h, changing, hcalm]
  have frame := h.answerFrame (destroyTenant s (namedTenant fn tk.msg)) []
  refine gives_of_row row ⟨by rw [frame.tenant, tenant_destroyTenant], fun x => by rw [frame.ownerOf]; exact ownerOf_destroyTenant s _ x,
    h.answeredWith ?_ .ok 0 (by decide)⟩
  rw [mbx_congr (mbx_of_holdings (holdings_destroyTenant s _)), rspPi_sanitiseSites]

/-! ## tenant.assign, tenant.release (R149, R174) -/

/-- No listed site is refused when each passes the test. -/
theorem badSite_eq_none {msg : List Byte} {bad : Nat → Bool} (h : ∀ x ∈ siteList msg, bad x = false) : badSite msg bad = none :=
  List.findIdx?_eq_none_iff.2 h

theorem tenantAssign_gives (h : Begins s fn slot 0x102 tk)
    (hsites : ∀ x ∈ siteList tk.msg, x < 200 ∧ siteLive s x = true ∧ siteTaken s x = false) : Gives (.tenantAssign fn slot) s fun t =>
      Awaits s t fn tk (.assign (namedTenant fn tk.msg) (siteList tk.msg)) (countPayload tk.msg) ∧
        t = { s with mbx := t.mbx, epoch := t.epoch } := by
  have fit : badSite tk.msg (fun i => !siteOk i || !siteLive s i) = none := badSite_eq_none fun x hx => by
    obtain ⟨known, live, -⟩ := hsites x hx
    simp [siteOk, known, live]
  have row : exec (.tenantAssign fn slot) s = .next (startChange s fn tk (.assign (namedTenant fn tk.msg) (siteList tk.msg))
      (countPayload tk.msg)) := by
    show execTenantAssign fn slot s = _
    simp [execTenantAssign, mailRow_begins h, fit]
    exact fun x hx taken => absurd taken (ne_true_of_eq_false (hsites x hx).2.2)
  exact gives_of_row row ⟨awaits_startChange _ _ _ _ _, startChange_only _ _ _ _ _⟩

theorem tenantRelease_gives (h : Begins s fn slot 0x103 tk) (hcalm : s.epoch.running = none)
    (howned : ∀ x ∈ siteList tk.msg, ownerOf s x = some (namedTenant fn tk.msg)) : Gives (.tenantRelease fn slot) s fun t =>
      (∀ x ∈ siteList tk.msg, ownerOf t x = none) ∧ (∀ x, x ∉ siteList tk.msg → ownerOf t x = ownerOf s x) ∧
        Answered s t fn tk .ok (countPayload tk.msg) := by
  have own : badSite tk.msg (fun i => ownerOf s i != some (namedTenant fn tk.msg)) = none := badSite_eq_none fun x hx => by
    simp [howned x hx]
  have row : exec (.tenantRelease fn slot) s = .next (ok (sanitise s (namedTenant fn tk.msg) (siteList tk.msg)) fn tk
      (countPayload tk.msg)) := by
    show execTenantRelease fn slot s = _
    simp [execTenantRelease, mailRow_begins h, own, changing, hcalm]
  have owners (x : Nat) : ownerOf (ok (sanitise s (namedTenant fn tk.msg) (siteList tk.msg)) fn tk (countPayload tk.msg)) x =
      if x ∈ siteList tk.msg then none else ownerOf s x := by
    rw [(h.answerFrame _ _).ownerOf]
    exact ownerOf_sanitiseSites s _ _ x
  have kept : (mbx (sanitise s (namedTenant fn tk.msg) (siteList tk.msg)) fn).rspPi = (mbx s fn).rspPi := rspPi_sanitiseSites s _ _ fn
  exact gives_of_row row ⟨fun x hx => (owners x).trans (if_pos hx), fun x hx => (owners x).trans (if_neg hx),
    h.answeredWith kept .ok 0 (by simp [countPayload])⟩

/-! ## tenant.reset (R173, R331) -/

theorem tenantReset_gives (h : Begins s fn slot 0x104 tk) : Gives (.tenantReset fn slot) s fun t =>
    (tenant t (namedTenant fn tk.msg)).signals = [] ∧ (tenant t (namedTenant fn tk.msg)).phase = 0 ∧
      (∀ d ∈ t.work.disps, d.tenant ≠ namedTenant fn tk.msg) ∧ t.work.owner = s.work.owner ∧
      ((tenant s (namedTenant fn tk.msg)).alive = true → ∀ x, ownerOf s x = some (namedTenant fn tk.msg) →
        (hearth t x).tags = (hearth s x).tags.map fun u => { u with abandoned := true }) ∧ Answered s t fn tk .ok [] := by
  have alive : (tenant s (namedTenant fn tk.msg)).alive = true := h.alive (by simp [scope, h.opcode, tenantField])
  have row : exec (.tenantReset fn slot) s = .next (ok (tenantReset s (namedTenant fn tk.msg) false) fn tk []) := by
    show execTenantReset fn slot s = _
    simp [execTenantReset, mailRow_begins h]
  have frame := h.answerFrame (tenantReset s (namedTenant fn tk.msg) false) []
  have kept := roll_tenantReset s (namedTenant fn tk.msg) false
  obtain ⟨signals, phase⟩ := cleared_tenantReset_self alive false
  refine gives_of_row row ⟨by rw [frame.tenant, signals], by rw [frame.tenant, phase], ?_, ?_, fun _ x own => ?_,
    h.answered (congrArg Roll.mbx kept) (by decide)⟩
  · rw [frame.work]
    exact tenant_ne_of_mem_tenantReset alive
  · rw [frame.work]
    exact congrArg Roll.owner kept
  · rw [frame.hearth, tags_tenantReset alive own]

/-! ## tenant.halt, tenant.resume, tenant.notify -/

theorem tenantHalt_gives (h : Begins s fn slot 0x105 tk) : Gives (.tenantHalt fn slot) s fun t =>
    tenant t (namedTenant fn tk.msg) = { tenant s (namedTenant fn tk.msg) with halted := true } ∧
      (∀ n, n ≠ namedTenant fn tk.msg → tenant t n = tenant s n) ∧ Answered s t fn tk .ok [] :=
  h.givesTenant <| by
    show execTenantHalt fn slot s = _
    simp [execTenantHalt, mailRow_begins h, modTenant]

theorem tenantResume_gives (h : Begins s fn slot 0x106 tk) (hhalted : (tenant s (namedTenant fn tk.msg)).halted = true) :
    Gives (.tenantResume fn slot) s fun t =>
      tenant t (namedTenant fn tk.msg) = { tenant s (namedTenant fn tk.msg) with halted := false } ∧
        (∀ n, n ≠ namedTenant fn tk.msg → tenant t n = tenant s n) ∧ Answered s t fn tk .ok [] :=
  h.givesTenant <| by
    show execTenantResume fn slot s = _
    simp [execTenantResume, mailRow_begins h, hhalted, modTenant]

theorem tenantNotify_gives (h : Begins s fn slot 0x107 tk) : Gives (.tenantNotify fn slot) s fun t =>
    tenant t (namedTenant fn tk.msg) = { tenant s (namedTenant fn tk.msg) with poisonNotify := fld tk.msg 0x11 1 % 2 == 1 } ∧
      (∀ n, n ≠ namedTenant fn tk.msg → tenant t n = tenant s n) ∧ Answered s t fn tk .ok [] :=
  h.givesTenant <| by
    show execTenantNotify fn slot s = _
    simp [execTenantNotify, mailRow_begins h, modTenant]

/-- Settles O22, command by command; the sanitise of a release or a destruction is one command (log entry 3), and what waits for a claim
there ends with it (log entry 18). -/
theorem tenantCommands : Obligations.TenantCommands :=
  ⟨fun _ _ _ _ h => tenantCreate_gives h, fun _ _ _ _ h => tenantDestroy_gives h, fun _ _ _ _ h => tenantAssign_gives h,
    fun _ _ _ _ h => tenantRelease_gives h, fun _ _ _ _ h => tenantReset_gives h, fun _ _ _ _ h => tenantHalt_gives h,
    fun _ _ _ _ h => tenantResume_gives h, fun _ _ _ _ h => tenantNotify_gives h⟩

end Sys2Proof.Machine
end
section
/-! The queue, region and aperture commands of the mailbox (R142, R144, R145, R74, R217-R221, R237). -/

namespace Sys2Proof.Machine

variable {s t u : State} {fn slot op : Nat} {tk : Taken}

/-! ## Queues -/

theorem queue_congr (h : t.work = s.work) (n q : Nat) : queue t n q = queue s n q := by rw [queue, tenant_congr h, ← queue]

theorem queue_setQueue_self (s : State) (n q : Nat) (x : Queue) : queue (setQueue s n q x) n q = x := by
  rw [queue, setQueue, tenant_modTenant_self, lookD_putD, if_pos rfl]

theorem queue_setQueue_other (s : State) (n : Nat) {q k : Nat} (x : Queue) (h : k ≠ q) :
    queue (setQueue s n q x) n k = queue s n k := by
  rw [queue, setQueue, tenant_modTenant_self, lookD_putD, if_neg h, ← queue]

/-! ## queue.create (R142, R144) -/

/-- The queue that a queue.create makes; the INFLIGHT of its number's old dispatches stays (log entry 18). -/
def createdQueue (s : State) (n : Nat) (m : List Byte) : Queue :=
  { Queue.reset with
    state := .active, sqEntries := fld m 0x12 2, cqEntries := fld m 0x14 2, sqHbm := fld m 0x16 1 % 2 == 1,
    cqHbm := fld m 0x16 1 / 2 % 2 == 1, irq := fld m 0x16 1 / 4 % 2 == 1, sqBase := BitVec.ofNat 64 (fld m 0x18 8),
    cqBase := BitVec.ofNat 64 (fld m 0x20 8), inflight := (queue s n (fld m 0x11 1)).inflight }

/-- A field of 8 bytes fits a word. -/
theorem toNat_ofNat_fld_word (m : List Byte) (off : Nat) : (BitVec.ofNat 64 (fld m off 8)).toNat = fld m off 8 := by
  rw [BitVec.toNat_ofNat]
  exact Nat.mod_eq_of_lt (fld_lt m off 8)

theorem queueCreate_gives (h : Begins s fn slot 0x200 tk) :
    let m := tk.msg
    let n := namedTenant fn m
    fld m 0x11 1 ≤ 63 → powerIn 16 4096 (fld m 0x12 2) = true → powerIn 16 4096 (fld m 0x14 2) = true →
    badBase s n (fld m 0x16 1 % 2 == 1) (fld m 0x18 8) = false → badBase s n (fld m 0x16 1 / 2 % 2 == 1) (fld m 0x20 8) = false →
    (queue s n (fld m 0x11 1)).state = .absent →
    ringOutside s n (fld m 0x16 1 % 2 == 1) (fld m 0x18 8) (64 * fld m 0x12 2) = false →
    ringOutside s n (fld m 0x16 1 / 2 % 2 == 1) (fld m 0x20 8) (32 * fld m 0x14 2) = false →
    Gives (.queueCreate fn slot) s fun t =>
      queue t n (fld m 0x11 1) = createdQueue s n m ∧ (∀ k, k ≠ fld m 0x11 1 → queue t n k = queue s n k) ∧
        Answered s t fn tk .ok [] := by
  intro m n number entries completions base cbase absent inside cinside
  have row : exec (.queueCreate fn slot) s = .next (ok (setQueue s n (fld m 0x11 1) (createdQueue s n m)) fn tk []) := by
    show execQueueCreate fn slot s = _
    simp [execQueueCreate, mailRow_begins h, Nat.not_lt.2 number, entries, completions, base, cbase, absent, inside, cinside,
      createdQueue, m, n]
  have frame := h.answerFrame (setQueue s n (fld m 0x11 1) (createdQueue s n m)) []
  refine gives_of_row row ⟨?_, fun k hk => ?_, h.answered (by rfl) (by decide)⟩
  · rw [queue_congr frame.work, queue_setQueue_self]
  · rw [queue_congr frame.work, queue_setQueue_other _ _ _ hk]

/-! ## queue.destroy (R145) -/

/-- Dispatches end: as many of each queue are there, and the mailboxes and the tenants are as they were. -/
structure DispsEnd (s t : State) : Prop where
  mbx : t.mbx = s.mbx
  tenants : t.work.tenants = s.work.tenants
  reserved : ∀ n q, reserved t n q = reserved s n q

theorem DispsEnd.trans (h : DispsEnd s t) (k : DispsEnd t u) : DispsEnd s u :=
  ⟨k.mbx.trans h.mbx, k.tenants.trans h.tenants, fun n q => (k.reserved n q).trans (h.reserved n q)⟩

theorem DispsEnd.tenant (h : DispsEnd s t) (n : Nat) : tenant t n = Machine.tenant s n := by
  rw [Machine.tenant, h.tenants, ← Machine.tenant]

/-- A dispatch that changes stays of its queue. -/
theorem reserved_modDisp (s : State) (id : Nat) {f : Disp → Disp} (h : ∀ d n q, (f d).of n q = d.of n q) (n q : Nat) :
    reserved (modDisp s id f) n q = reserved s n q := by
  have same : (fun d : Disp => (if d.id = id then f d else d).of n q) = fun d => d.of n q := by
    funext d
    split
    · exact h d n q
    · rfl
  show ((s.work.disps.map fun d => if d.id = id then f d else d).filter fun d => d.of n q).length = _
  rw [List.filter_map, List.length_map]
  exact congrArg (fun p => (s.work.disps.filter p).length) same

theorem dispsEnd_endWith (s : State) (id : Nat) (st : Status) (det : Nat) : DispsEnd s (endWith s id st det) where
  mbx := rfl
  tenants := rfl
  reserved := reserved_modDisp s id fun _ _ _ => rfl

theorem dispsEnd_foldl_endWith (st : Status) (det : Nat) (l : List Disp) (s : State) :
    DispsEnd s (l.foldl (fun s d => endWith s d.id st det) s) :=
  foldl_keeps (DispsEnd s) (fun s d => endWith s d.id st det) (fun u d k => k.trans (dispsEnd_endWith u d.id st det)) l s
    ⟨rfl, rfl, fun _ _ => rfl⟩

/-- A queue that a drain has marked, with its untaken descriptors dropped. -/
def drainMarked (s : State) (n q : Nat) : State := modQueue s n q fun u => { u with state := .draining, sqHead := u.sqTail }

section
variable (s : State) (n q : Nat)

theorem dispsEnd_drainQueue : DispsEnd (drainMarked s n q) (drainQueue s n q) := dispsEnd_foldl_endWith .aborted 8 _ _

theorem queue_drainQueue : queue (drainQueue s n q) n q = { queue s n q with state := .draining, sqHead := (queue s n q).sqTail } := by
  rw [queue, (dispsEnd_drainQueue s n q).tenant, ← queue, drainMarked, modQueue, queue_setQueue_self]

theorem alive_drainQueue : (tenant (drainQueue s n q) n).alive = (tenant s n).alive := by
  rw [(dispsEnd_drainQueue s n q).tenant, drainMarked, modQueue, setQueue, tenant_modTenant_self]

theorem reserved_drainQueue : reserved (drainQueue s n q) n q = reserved s n q := (dispsEnd_drainQueue s n q).reserved n q

theorem drainQueue_mbx : (drainQueue s n q).mbx = s.mbx := (dispsEnd_drainQueue s n q).mbx

end

/-- A drain whose bound is just set does not time out. -/
theorem not_due_now (s : State) {ns : Nat} (h : 0 < ns) : due s (now s) ns = false := decide_eq_false (by omega)

/-- The part with the drain of a queue.destroy begun. -/
def drainBegun (s : State) (fn : Nat) (tk : Taken) : State :=
  drainQueue (begin_ s fn tk) (namedTenant fn tk.msg) (fld tk.msg 0x11 1)

theorem rspPi_drainBegun (s : State) (fn : Nat) (tk : Taken) : (mbx (drainBegun s fn tk) fn).rspPi = (mbx s fn).rspPi := by
  rw [drainBegun, mbx_congr (drainQueue_mbx _ _ _), begin_, mbx_modMbx_self]

theorem exec_queueDestroy_begins (h : Begins s fn slot 0x201 tk) (hnone : draining? s fn slot = none) (number : fld tk.msg 0x11 1 ≤ 63)
    (present : (queue s (namedTenant fn tk.msg) (fld tk.msg 0x11 1)).state ≠ .absent) :
    exec (.queueDestroy fn slot) s = .next (finishDrain (drainBegun s fn tk) fn { tk with startedAt := now (drainBegun s fn tk) }
      (namedTenant fn tk.msg) (fld tk.msg 0x11 1)) := by
  have known : fnOk fn = true := decide_eq_true h.1
  show execQueueDestroy fn slot s = _
  simp [execQueueDestroy, known, hnone, mailRow_begins h, Nat.not_lt.2 number, present, drainBegun]

theorem queueDestroy_gives (h : Begins s fn slot 0x201 tk) (hnone : draining? s fn slot = none) (number : fld tk.msg 0x11 1 ≤ 63)
    (present : (queue s (namedTenant fn tk.msg) (fld tk.msg 0x11 1)).state ≠ .absent)
    (alive : (tenant s (namedTenant fn tk.msg)).alive = true) : Gives (.queueDestroy fn slot) s fun t =>
      (reserved s (namedTenant fn tk.msg) (fld tk.msg 0x11 1) = 0 →
        queue t (namedTenant fn tk.msg) (fld tk.msg 0x11 1) =
            { Queue.reset with inflight := (queue s (namedTenant fn tk.msg) (fld tk.msg 0x11 1)).inflight } ∧
          Answered s t fn tk .ok []) ∧
      (reserved s (namedTenant fn tk.msg) (fld tk.msg 0x11 1) ≠ 0 →
        (queue t (namedTenant fn tk.msg) (fld tk.msg 0x11 1)).state = .draining ∧
          (queue t (namedTenant fn tk.msg) (fld tk.msg 0x11 1)).sqHead =
            (queue s (namedTenant fn tk.msg) (fld tk.msg 0x11 1)).sqTail ∧ (mbx t fn).rspPi = (mbx s fn).rspPi) := by
  have row := exec_queueDestroy_begins h hnone number present
  have queues := queue_drainQueue (begin_ s fn tk) (namedTenant fn tk.msg) (fld tk.msg 0x11 1)
  have held : (tenant (drainBegun s fn tk) (namedTenant fn tk.msg)).alive = true := (alive_drainQueue _ _ _).trans alive
  have count : reserved (drainBegun s fn tk) _ _ = reserved s (namedTenant fn tk.msg) (fld tk.msg 0x11 1) := reserved_drainQueue _ _ _
  rw [finishDrain, held, Bool.not_true, if_neg Bool.false_ne_true, count] at row
  by_cases empty : reserved s (namedTenant fn tk.msg) (fld tk.msg 0x11 1) = 0
  · rw [if_pos empty] at row
    refine gives_of_row row ⟨fun _ => ⟨?_, ?_⟩, absurd empty⟩
    · have frame := answerFrame_respond (tk := { tk with startedAt := now (drainBegun s fn tk) }) h.kept
      rw [ok, queue_congr (frame _ _ _ _ _).work, queue_setQueue_self, drainBegun, queues]
      rfl
    · have deleted (x : Queue) := answered_respond (tk := { tk with startedAt := now (drainBegun s fn tk) }) (payload := []) h.kept
        (setQueue (drainBegun s fn tk) (namedTenant fn tk.msg) (fld tk.msg 0x11 1) x) fn .ok 0 (by decide)
      unfold Answered at deleted ⊢
      rw [← rspPi_drainBegun s fn tk]
      exact deleted _
  · rw [if_neg empty, not_due_now _ (by decide), if_neg Bool.false_ne_true] at row
    refine gives_of_row row ⟨(absurd · empty), fun _ => ?_⟩
    rw [drainBegun, queues]
    exact ⟨rfl, rfl, rspPi_drainBegun s fn tk⟩

/-! ## region.define, region.delete (R217-R221) -/

/-- The region of kind slice that a region.define asks for. -/
def sliceRegion (m : List Byte) (share : Nat) (es : List Extent) : Region :=
  { hbm := false, die := fld m 0x12 1 == 1, bankLocal := fld m 0x13 1 == 1, mask := maskAt m 0x20, share := share,
    size := (bits (maskAt m 0x20)).length * share, extents := es, init := [], generation := 0, key := 0 }

theorem regionDefine_gives (h : Begins s fn slot 0x300 tk) {num share : Nat} {es : List Extent} :
    let m := tk.msg
    let n := namedTenant fn m
    let units := bits (maskAt m 0x20)
    fld m 0x11 1 = 0 → fld m 0x12 1 ≤ 1 → fld m 0x13 1 ≤ 1 → fld m 0x18 8 ≠ 0 → units ≠ [] →
    (∀ u ∈ units, unusable s n false u = false) → share = shareOf (fld m 0x18 8) units.length → freeNumber s n = some num →
    placeAll (fun u => sliceExtent s u share) units = some es → (allRegions s).length < 4096 →
    Gives (.regionDefine fn slot) s fun t =>
      Awaits s t fn tk (.define n num (sliceRegion m share es)) (definePayload num (units.length * share)) ∧
        t = { s with mbx := t.mbx, epoch := t.epoch } := by
  intro m n units kind die local_ size some_ usable shares free placed room
  subst shares
  have fit : units.any (unusable s n false) = false := List.any_eq_false.2 fun u hu => by simp [usable u hu]
  have row : exec (.regionDefine fn slot) s = .next (startChange s fn tk (.define n num (sliceRegion m (shareOf (fld m 0x18 8) units.length) es))
      (definePayload num (units.length * shareOf (fld m 0x18 8) units.length))) := by
    show execRegionDefine fn slot s = _
    rw [execRegionDefine, mailRow_begins h]
    have below : ¬ 4096 ≤ (allRegions s).length := Nat.not_le.2 room
    simp [runRegionDefine, kind, Nat.not_lt.2 die, Nat.not_lt.2 local_, size, some_, fit, free, placed, below, sliceRegion, m, n, units]
  exact gives_of_row row ⟨awaits_startChange _ _ _ _ _, startChange_only _ _ _ _ _⟩

theorem regionDelete_gives (h : Begins s fn slot 0x301 tk) (unused : regionUsed s (namedTenant fn tk.msg) (fld tk.msg 0x12 2) = false) :
    Gives (.regionDelete fn slot) s fun t =>
      Awaits s t fn tk (.delete (namedTenant fn tk.msg) (fld tk.msg 0x12 2)) [] ∧ t = { s with mbx := t.mbx, epoch := t.epoch } := by
  have row : exec (.regionDelete fn slot) s = .next (startChange s fn tk (.delete (namedTenant fn tk.msg) (fld tk.msg 0x12 2)) []) := by
    show execRegionDelete fn slot s = _
    simp [execRegionDelete, mailRow_begins h, unused]
  exact gives_of_row row ⟨awaits_startChange _ _ _ _ _, startChange_only _ _ _ _ _⟩

/-! ## region.fill, region.query (R237) -/

theorem mem_wholeChunks {o len c : Nat} (lo : o ≤ 65536 * c) (hi : 65536 * c + 65536 ≤ o + len) : c ∈ wholeChunks o len :=
  List.mem_filter.2 ⟨List.mem_range.2 (by omega), decide_eq_true lo⟩

theorem region?_setRegion_self (s : State) (n r : Nat) (x : Region) : region? (setRegion s n r x) n r = some x := by
  rw [region?, setRegion, tenant_modTenant_self, look_put_self]

/-- What a fill leaves of a region: its INIT bits only grow, and each chunk that it covers entirely has its own set. -/
theorem region?_fillSpan {n rn : Nat} {r : Region} (held : region? s n rn = some r) (o len : Nat) (pat : Line) :
    ∃ x, region? (fillSpan s n rn o len pat).2 n rn = some x ∧ x = { r with init := x.init } ∧ (∀ c ∈ r.init, c ∈ x.init) ∧
      ∀ c, o ≤ 65536 * c → 65536 * c + 65536 ≤ o + len → chunkLive s r c = true → c ∈ x.init := by
  simp only [fillSpan, held]
  refine ⟨_, region?_setRegion_self _ n rn _, rfl, fun c hc => List.mem_append_left _ hc, fun c lo hi live => ?_⟩
  by_cases had : c ∈ r.init
  · exact List.mem_append_left _ had
  · exact List.mem_append_right _ (List.mem_filter.2 ⟨List.mem_filter.2 ⟨mem_wholeChunks lo hi, live⟩, by simpa using had⟩)

theorem fillSpan_mbx (s : State) (n rn o len : Nat) (pat : Line) : (fillSpan s n rn o len pat).2.mbx = s.mbx := by
  unfold fillSpan
  split
  · rfl
  next r _ => exact (writes_fillWords n rn r pat (len / 32) s o).mbx

theorem regionFill_gives (h : Begins s fn slot 0x302 tk) {r : Region}
    (held : region? s (namedTenant fn tk.msg) (fld tk.msg 0x12 2) = some r) (halign : fld tk.msg 0x18 8 % 32 = 0)
    (hlen : fld tk.msg 0x20 8 % 32 = 0) (inside : fld tk.msg 0x18 8 + fld tk.msg 0x20 8 ≤ r.size) :
    Gives (.regionFill fn slot) s fun t =>
      Answered s t fn tk
        (if (fillSpan s (namedTenant fn tk.msg) (fld tk.msg 0x12 2) (fld tk.msg 0x18 8) (fld tk.msg 0x20 8)
          (bytesLine (slice tk.msg 0x28 32))).1 then .ok else .eFault) [] ∧
      t.mem = (fillSpan s (namedTenant fn tk.msg) (fld tk.msg 0x12 2) (fld tk.msg 0x18 8) (fld tk.msg 0x20 8)
          (bytesLine (slice tk.msg 0x28 32))).2.mem ∧
      (∃ x, region? t (namedTenant fn tk.msg) (fld tk.msg 0x12 2) = some x ∧ x = { r with init := x.init } ∧
        (∀ c ∈ r.init, c ∈ x.init) ∧
        (∀ c, fld tk.msg 0x18 8 ≤ 65536 * c → 65536 * c + 65536 ≤ fld tk.msg 0x18 8 + fld tk.msg 0x20 8 → chunkLive s r c = true →
          c ∈ x.init)) := by
  have filled := region?_fillSpan held (fld tk.msg 0x18 8) (fld tk.msg 0x20 8) (bytesLine (slice tk.msg 0x28 32))
  have boxes := fillSpan_mbx s (namedTenant fn tk.msg) (fld tk.msg 0x12 2) (fld tk.msg 0x18 8) (fld tk.msg 0x20 8)
    (bytesLine (slice tk.msg 0x28 32))
  have row : exec (.regionFill fn slot) s = .next (
      let f := fillSpan s (namedTenant fn tk.msg) (fld tk.msg 0x12 2) (fld tk.msg 0x18 8) (fld tk.msg 0x20 8)
        (bytesLine (slice tk.msg 0x28 32))
      if f.1 then ok f.2 fn tk [] else fail f.2 fn tk .eFault) := by
    show execRegionFill fn slot s = _
    simp [execRegionFill, mailRow_begins h, held, halign, hlen, inside]
  generalize fillSpan s (namedTenant fn tk.msg) (fld tk.msg 0x12 2) (fld tk.msg 0x18 8) (fld tk.msg 0x20 8)
    (bytesLine (slice tk.msg 0x28 32)) = f at filled boxes row ⊢
  have answer : (if f.1 then ok f.2 fn tk [] else fail f.2 fn tk .eFault) =
      respond f.2 fn tk (if f.1 then .ok else .eFault) 0 [] := by
    cases f.1 <;> rfl
  rw [answer] at row
  have frame := answerFrame_respond h.kept f.2 fn (if f.1 then .ok else .eFault) 0 []
  refine gives_of_row row ⟨h.answeredWith (congrArg Mbx.rspPi (mbx_congr boxes fn)) _ 0 (by decide), frame.mem, ?_⟩
  rw [region?, frame.tenant, ← region?]
  exact filled

theorem regionQuery_gives (h : Begins s fn slot 0x303 tk) {r : Region}
    (held : region? s (namedTenant fn tk.msg) (fld tk.msg 0x12 2) = some r) :
    Gives (.regionQuery fn slot) s fun t => Answered s t fn tk .ok (queryPayload r) ∧ AnswerFrame s t := by
  have row : exec (.regionQuery fn slot) s = .next (ok s fn tk (queryPayload r)) := by
    show execRegionQuery fn slot s = _
    simp [execRegionQuery, mailRow_begins h, held]
  exact gives_of_row row ⟨h.answered (by rfl) (by simp [queryPayload]), h.answerFrame s _⟩

/-! ## Apertures (R74) -/

theorem apertureMap_gives (h : Begins s fn slot 0x304 tk) {r : Region} :
    let m := tk.msg
    let n := namedTenant fn m
    region? s n (fld m 0x12 2) = some r → r.hbm = true → fld m 0x18 8 % 2 ^ 21 = 0 → fld m 0x20 8 % 2 ^ 21 = 0 →
    fld m 0x28 8 % 2 ^ 21 = 0 → fld m 0x18 8 + fld m 0x28 8 ≤ (pcieFn s n).bar2Size → fld m 0x20 8 + fld m 0x28 8 ≤ r.size →
    (∀ x ∈ (tenant s n).apertures, meets (fld m 0x18 8) (fld m 0x28 8) x.offset x.length = false) →
    Gives (.apertureMap fn slot) s fun t =>
      tenant t n = { tenant s n with apertures := (tenant s n).apertures ++
        [{ offset := fld m 0x18 8, region := fld m 0x12 2, regionOffset := fld m 0x20 8, length := fld m 0x28 8 }] } ∧
      (∀ k, k ≠ n → tenant t k = tenant s k) ∧ Answered s t fn tk .ok [] := by
  intro m n held kind offset inner length window inside apart
  refine h.givesTenant ?_
  show execApertureMap fn slot s = _
  change _ % mib2 = 0 at offset inner length
  simp [execApertureMap, mailRow_begins h, held, kind, offset, inner, length, Nat.not_lt.2 window, Nat.not_lt.2 inside, modTenant, m, n]
  exact fun x hx met => absurd met (ne_true_of_eq_false (apart x hx))

theorem apertureUnmap_gives (h : Begins s fn slot 0x305 tk) {x : Aperture} (held : x ∈ (tenant s (namedTenant fn tk.msg)).apertures)
    (offset : x.offset = fld tk.msg 0x18 8) : Gives (.apertureUnmap fn slot) s fun t =>
      (tenant t (namedTenant fn tk.msg)).apertures =
          (tenant s (namedTenant fn tk.msg)).apertures.filter (fun y => y.offset != fld tk.msg 0x18 8) ∧
        Answered s t fn tk .ok [] := by
  have found : ((tenant s (namedTenant fn tk.msg)).apertures.any (·.offset == fld tk.msg 0x18 8)) = true :=
    List.any_eq_true.2 ⟨x, held, beq_iff_eq.2 offset⟩
  have row : exec (.apertureUnmap fn slot) s = .next (ok (modTenant s (namedTenant fn tk.msg) fun x =>
      { x with apertures := x.apertures.filter (·.offset != fld tk.msg 0x18 8) }) fn tk []) := by
    show execApertureUnmap fn slot s = _
    rw [execApertureUnmap, mailRow_begins h]
    dsimp only
    rw [if_pos found]
  refine gives_of_row row ⟨?_, h.answered (by rfl) (by decide)⟩
  rw [(h.answerFrame _ _).tenant, tenant_modTenant_self]

/-- Settles O23, command by command; the INFLIGHT that a queue's number keeps is log entry 18. -/
theorem queueAndRegionCommands : Obligations.QueueAndRegionCommands := by
  refine ⟨⟨fun s fn slot tk h number entries completions base cbase absent inside cinside => ?_,
      fun _ _ _ _ h => queueDestroy_gives h⟩,
    fun s fn slot num share es tk h kind die local_ size some_ usable shares free placed room => ?_,
    fun _ _ _ _ h => regionDelete_gives h, fun _ _ _ _ _ h => regionFill_gives h, fun _ _ _ _ _ h => regionQuery_gives h,
    fun _ _ _ _ _ h => apertureMap_gives h, fun _ _ _ _ _ h => apertureUnmap_gives h⟩
  · obtain ⟨t, row, made, kept, answered⟩ := queueCreate_gives h number entries completions base cbase absent inside cinside
    refine ⟨t, row, ?_⟩
    dsimp only
    rw [made]
    exact ⟨rfl, rfl, rfl, toNat_ofNat_fld_word _ _, toNat_ofNat_fld_word _ _, rfl, rfl, rfl, rfl, rfl, kept, answered⟩
  · obtain ⟨t, row, awaits, only⟩ := regionDefine_gives h kind die local_ size some_ usable shares free placed room
    exact ⟨t, row, ⟨_, awaits, rfl, rfl, rfl, rfl, rfl, rfl, by rw [sliceRegion], rfl⟩, only⟩

end Sys2Proof.Machine
end
section
/-! The mailbox commands for models, activation tables, counter windows, ash rings, leaky buckets, Sweep and the floor plan (R142, R252, R260,
R372, R385, R387, R428, R146). -/

namespace Sys2Proof.Machine

variable {s t u : State} {fn slot op : Nat} {tk : Taken}

/-! ## Blobs (R252, R260) -/

theorem reads_readBlob {n : Nat} {m b : List Byte} {s' : State} (h : readBlob s n m = (.bytes b, s')) : Reads s s' := by
  have kept : Reads s (readBlob s n m).2 := reads_readSpan s n _ _ 7
  rwa [h] at kept

theorem Reads.ownerOf (h : Reads s t) (x : Nat) : ownerOf t x = Machine.ownerOf s x := ownerOf_congr (congrArg Work.owner h.work) x

theorem Reads.siteRetired (h : Reads s t) (x : Nat) : siteRetired t x = Machine.siteRetired s x := by
  unfold Machine.siteRetired siteLive siteRec fenced flueDown
  rw [h.fpt, h.fabric]

/-! ## andiron.model.load, andiron.model.unload (R260) -/

theorem andironModelLoad_gives {s' : State} {k : Nat} {b : List Byte} (h : Begins s fn slot 0x400 tk)
    (inside : blobInside s (namedTenant fn tk.msg) tk.msg = true) (small : fld tk.msg 0x14 4 ≤ 9504)
    (read : readBlob s (namedTenant fn tk.msg) tk.msg = (.bytes b, s')) (size : sizeOk b = true) (good : Img.check b = none)
    (free : firstFree (tenant s (namedTenant fn tk.msg)).models 64 = some k) : Gives (.andironModelLoad fn slot) s fun t =>
      look (tenant t (namedTenant fn tk.msg)).models k = some b ∧ Answered s t fn tk .ok (leBytes 2 k) := by
  have reads := reads_readBlob read
  rw [← tenant_congr reads.work] at free
  have row : exec (.andironModelLoad fn slot) s = .next (ok (modTenant s' (namedTenant fn tk.msg) fun x =>
      { x with models := put x.models k b, modelBad := x.modelBad.filter (· != k) }) fn tk (leBytes 2 k)) := by
    show execAndironModelLoad fn slot s = _
    simp [execAndironModelLoad, mailRow_begins h, inside, Nat.not_lt.2 small, read, size, good, free]
  refine gives_of_row row ⟨?_, h.answered ((modTenant_mbx _ _ _).trans reads.mbx) (by simp)⟩
  rw [(h.answerFrame _ _).tenant, tenant_modTenant_self, look_put_self]

theorem andironModelUnload_gives (h : Begins s fn slot 0x401 tk)
    (unused : modelUsed s (namedTenant fn tk.msg) (fld tk.msg 0x12 2) = false) : Gives (.andironModelUnload fn slot) s fun t =>
      look (tenant t (namedTenant fn tk.msg)).models (fld tk.msg 0x12 2) = none ∧
        (∀ j, j ≠ fld tk.msg 0x12 2 →
          look (tenant t (namedTenant fn tk.msg)).models j = look (tenant s (namedTenant fn tk.msg)).models j) ∧
        Answered s t fn tk .ok [] := by
  have row : exec (.andironModelUnload fn slot) s = .next (ok (modTenant s (namedTenant fn tk.msg) fun x =>
      { x with models := del x.models (fld tk.msg 0x12 2), modelBad := x.modelBad.filter (· != fld tk.msg 0x12 2) }) fn tk []) := by
    show execAndironModelUnload fn slot s = _
    simp [execAndironModelUnload, mailRow_begins h, unused]
  have models (j : Nat) := look_del (tenant s (namedTenant fn tk.msg)).models (fld tk.msg 0x12 2) j
  refine gives_of_row row ⟨?_, fun j hj => ?_, h.answered (by rfl) (by decide)⟩
  · rw [(h.answerFrame _ _).tenant, tenant_modTenant_self, models, if_pos rfl]
  · rw [(h.answerFrame _ _).tenant, tenant_modTenant_self, models, if_neg hj]

/-! ## ember.act.load (R252) -/

/-- The table of a number, put into a hearth's embers. -/
def putTable (k : Nat) (b : List Byte) (s : State) (x : Nat) : State :=
  modHearth s x fun h => { h with actTables := put h.actTables k b }

theorem loadTable_eq (s : State) (n : Nat) (owned : List Nat) (k : Nat) (b : List Byte) : loadTable s n owned k b =
    (owned.filter fun x => ownerOf s x == some n && !siteRetired s x).foldl (putTable k b) s := rfl

section
variable (s : State) (n k : Nat) (b : List Byte) (owned : List Nat)

theorem actTable_putTable (x y : Nat) : look (hearth (putTable k b s y) x).actTables k =
    if x = y then some b else look (hearth s x).actTables k := by
  split
  next own => rw [own, putTable, hearth_modHearth_self, look_put_self]
  next other => rw [putTable, hearth_modHearth_other _ _ _ other]

theorem actTable_loadTable {x : Nat} (listed : x ∈ owned) (own : ownerOf s x = some n) (there : siteRetired s x = false) :
    look (hearth (loadTable s n owned k b) x).actTables k = some b := by
  rw [loadTable_eq]
  refine foldl_establishes (P := fun s x => look (hearth s x).actTables k = some b) (fun s x => ?_) (fun s y x had => ?_) _ s x
    (List.mem_filter.2 ⟨listed, by simp [own, there]⟩)
  · rw [actTable_putTable, if_pos rfl]
  · rw [actTable_putTable, had, ite_self]

theorem hearth_foldl_putTable {l : List Nat} {x : Nat} (h : x ∉ l) : hearth (l.foldl (putTable k b) s) x = hearth s x := by
  induction l generalizing s with
  | nil => rfl
  | cons y l ih =>
    rw [List.mem_cons, not_or] at h
    obtain ⟨other, later⟩ := h
    rw [List.foldl_cons, ih _ later, putTable, hearth_modHearth_other _ _ _ other]

theorem hearth_loadTable {x : Nat} (unlisted : x ∉ owned) : hearth (loadTable s n owned k b) x = hearth s x :=
  hearth_foldl_putTable s k b fun inside => unlisted (List.mem_filter.1 inside).1

theorem loadTable_mbx : (loadTable s n owned k b).mbx = s.mbx :=
  foldl_keeps (fun u : State => u.mbx = s.mbx) (putTable k b) (fun _ _ same => same) _ s rfl

end

theorem emberActLoad_gives {s' : State} {b : List Byte} (h : Begins s fn slot 0x402 tk) (number : fld tk.msg 0x11 1 ≤ 7)
    (length : fld tk.msg 0x14 4 = 544) (inside : blobInside s (namedTenant fn tk.msg) tk.msg = true)
    (read : readBlob s (namedTenant fn tk.msg) tk.msg = (.bytes b, s')) (good : tableOk b = true) :
    Gives (.emberActLoad fn slot) s fun t =>
      (∀ x ∈ tk.owned, ownerOf s x = some (namedTenant fn tk.msg) → siteRetired s x = false →
        look (hearth t x).actTables (fld tk.msg 0x11 1) = some b) ∧
      (∀ x, x ∉ tk.owned → hearth t x = hearth s x) ∧ Answered s t fn tk .ok [] := by
  have reads := reads_readBlob read
  have row : exec (.emberActLoad fn slot) s =
      .next (ok (loadTable s' (namedTenant fn tk.msg) tk.owned (fld tk.msg 0x11 1) b) fn tk []) := by
    show execEmberActLoad fn slot s = _
    simp [execEmberActLoad, mailRow_begins h, Nat.not_lt.2 number, length, inside, read, good]
  refine gives_of_row row ⟨fun x listed own there => ?_, fun x unlisted => ?_,
    h.answered ((loadTable_mbx _ _ _ _ _).trans reads.mbx) (by decide)⟩
  · rw [(h.answerFrame _ _).hearth]
    exact actTable_loadTable _ _ _ _ _ listed ((reads.ownerOf x).trans own) ((reads.siteRetired x).trans there)
  · rw [(h.answerFrame _ _).hearth, hearth_loadTable _ _ _ _ _ unlisted, hearth_congr reads.hearths]

/-! ## counter.window.set (R428) -/

theorem countT_windows (s : State) (event tag n : Nat) : (countT s event tag n).counters.windows = s.counters.windows := (rfl)

theorem raiseVector_windows (s : State) (fn v : Nat) : (raiseVector s fn v).counters.windows = s.counters.windows := by
  unfold raiseVector
  split
  · rfl
  · split
    · rw [countT_windows, modPcie_counters]
    · rw [modPcieFn_counters]

theorem postResponse_windows (s : State) (fn : Nat) (b : List Byte) : (postResponse s fn b).counters.windows = s.counters.windows := by
  unfold postResponse
  dsimp only
  split
  · rw [raiseVector_windows, modMbx_counters]
  · rw [modMbx_counters]

theorem dismissed_windows (s : State) (fn : Nat) (tk : Taken) (rc : Rc) : (dismissed s fn tk rc).counters.windows = s.counters.windows := by
  unfold dismissed
  split
  · rw [countT_windows, modMbx_counters, bumpFree_counters]
  · rw [modMbx_counters, bumpFree_counters]

/-- An answer leaves the counter windows. -/
theorem respond_windows (kept : tk.discard = false) (s : State) (fn : Nat) (rc : Rc) (det : Nat) (payload : List Byte) :
    (respond s fn tk rc det payload).counters.windows = s.counters.windows := by
  rw [respond_eq s fn tk rc det payload kept]
  split
  · rw [modMbx_counters, dismissed_windows]
  · rw [postResponse_windows]
    split
    · rw [modMbx_counters, dismissed_windows]
    · rw [dismissed_windows]

theorem counterWindowSet_gives (h : Begins s fn slot 0x500 tk) :
    let m := tk.msg
    let e := fld m 0x12 2
    fld m 0x11 1 ≤ (if fn = 0 then 63 else 15) → (eventAttr e).isSome = true →
    (hearthEvent e = true → fld m 0x14 2 = 0xFFFF ∨ (fld m 0x14 2 < 200 ∧ (siteRec s (fld m 0x14 2)).works = true)) →
    (hearthEvent e = false → fld m 0x14 2 = 0xFFFF) →
    Gives (.counterWindowSet fn slot) s fun t =>
      window t fn (fld m 0x11 1) = newWindow s (if fn = 0 then fld m 0x10 1 else fn) (fld m 0x14 2) e ∧
        t.counters.windows = put s.counters.windows (64 * fn + fld m 0x11 1) (window t fn (fld m 0x11 1)) ∧
        Answered s t fn tk .ok (leBytes 8 (baselineSum (window t fn (fld m 0x11 1)))) := by
  intro m e number event onSite onDie
  have fits : (if hearthEvent e then fld m 0x14 2 == 0xFFFF || (fld m 0x14 2 < 200 && (siteRec s (fld m 0x14 2)).works)
      else fld m 0x14 2 == 0xFFFF) = true := by
    split
    next hearths => simpa using onSite hearths
    next die => simpa using onDie (by simpa using die)
  generalize made : newWindow s (if fn = 0 then fld m 0x10 1 else fn) (fld m 0x14 2) e = w
  have row : exec (.counterWindowSet fn slot) s = .next (ok (modCounters s fun c =>
      { c with windows := put c.windows (64 * fn + fld m 0x11 1) w }) fn tk (leBytes 8 (baselineSum w))) := by
    have known : (eventAttr e).isNone = false := by simpa using event
    show execCounterWindowSet fn slot s = _
    rw [execCounterWindowSet, mailRow_begins h]
    dsimp only
    rw [if_neg (Nat.not_lt.2 number), show (eventAttr (fld tk.msg 0x12 2)).isNone = false from known, if_neg Bool.false_ne_true, fits]
    subst made
    rfl
  have windows := respond_windows h.kept (modCounters s fun c => { c with windows := put c.windows (64 * fn + fld m 0x11 1) w })
    fn .ok 0 (leBytes 8 (baselineSum w))
  have shown : window (ok (modCounters s fun c => { c with windows := put c.windows (64 * fn + fld m 0x11 1) w }) fn tk
      (leBytes 8 (baselineSum w))) fn (fld m 0x11 1) = w := by
    rw [window, ok, windows, lookD, modCounters_counters, look_put_self]
    rfl
  refine gives_of_row row ?_
  rw [shown]
  exact ⟨rfl, windows, h.answered (by rfl) (by simp)⟩

/-! ## ash.ring.config, ash.bucket.config, sweep.config (R372, R385, R387) -/

theorem ashRingConfig_gives (h : Begins s fn slot 0x501 tk) :
    let m := tk.msg
    let n := namedTenant fn m
    (n = 0 → fld m 0x11 1 % 2 = 0) → powerIn 64 65536 (fld m 0x14 4) = true →
    badBase s n (fld m 0x11 1 % 2 == 1) (fld m 0x18 8) = false →
    ringOutside s n (fld m 0x11 1 % 2 == 1) (fld m 0x18 8) (64 * fld m 0x14 4) = false →
    Gives (.ashRingConfig fn slot) s fun t =>
      ashRing t n = { ashRing s n with placed := true, hbm := fld m 0x11 1 % 2 == 1, entries := fld m 0x14 4,
                                       base := BitVec.ofNat 64 (fld m 0x18 8), pi := 0, ci := 0 } ∧
        (∀ k, k ≠ n → ashRing t k = ashRing s k) ∧ Answered s t fn tk .ok [] := by
  intro m n host entries base inside
  have row : exec (.ashRingConfig fn slot) s = .next (ok (modAshRing s n fun r =>
      { r with placed := true, hbm := fld m 0x11 1 % 2 == 1, entries := fld m 0x14 4, base := BitVec.ofNat 64 (fld m 0x18 8),
               pi := 0, ci := 0 }) fn tk []) := by
    have placed : ¬ (n = 0 ∧ (fld m 0x11 1 % 2 == 1) = true) := by
      rintro ⟨device, odd⟩
      simp [host device] at odd
    show execAshRingConfig fn slot s = _
    rw [execAshRingConfig, mailRow_begins h]
    dsimp only
    rw [if_neg placed]
    simp [entries, base, inside, m, n]
  have rings (u : State) (k : Nat) : ashRing (ok u fn tk []) k = ashRing u k := by
    rw [ashRing, (h.answerFrame u []).ash, ← ashRing]
  refine gives_of_row row ⟨?_, fun k hk => ?_, h.answered (by rfl) (by decide)⟩
  · rw [rings, ashRing_modAshRing_self]
  · rw [rings, ashRing_modAshRing_other _ _ _ hk]

theorem ashBucketConfig_gives (h : Begins s fn slot 0x502 tk) (low : 1 ≤ fld tk.msg 0x10 2) (high : fld tk.msg 0x10 2 ≤ 3600) :
    Gives (.ashBucketConfig fn slot) s fun t =>
      t.ash = { s.ash with leakS := fld tk.msg 0x10 2, leakAt := [], leakBase := s.ao.devtime } ∧ Answered s t fn tk .ok [] := by
  have row : exec (.ashBucketConfig fn slot) s = .next (ok (modAsh s fun a =>
      { a with leakS := fld tk.msg 0x10 2, leakAt := [], leakBase := now s }) fn tk []) := by
    show execAshBucketConfig fn slot s = _
    rw [execAshBucketConfig, mailRow_begins h]
    dsimp only
    rw [if_neg (by omega)]
  exact gives_of_row row ⟨(h.answerFrame _ _).ash, h.answered (by rfl) (by decide)⟩

theorem sweepConfig_gives (h : Begins s fn slot 0x503 tk) (low : 15 ≤ fld tk.msg 0x10 4) (high : fld tk.msg 0x10 4 ≤ 10080) :
    Gives (.sweepConfig fn slot) s fun t =>
      t.mem = { s.mem with passMin := fld tk.msg 0x10 4 } ∧ Answered s t fn tk .ok [] := by
  have row : exec (.sweepConfig fn slot) s = .next (ok (modMem s fun m => { m with passMin := fld tk.msg 0x10 4 }) fn tk []) := by
    show execSweepConfig fn slot s = _
    rw [execSweepConfig, mailRow_begins h]
    dsimp only
    rw [if_neg (by omega)]
  exact gives_of_row row ⟨(h.answerFrame _ _).mem, h.answered (by rfl) (by decide)⟩

/-! ## floorplan.read (R146) -/

theorem length_siteRec_bytes (r : SiteRec) : r.bytes.length = 32 := by simp [SiteRec.bytes]

/-- Six sites of 34 bytes fit a response after the head of 16. -/
theorem length_planPayload (tb : FptTable) (sites : List Nat) : (planPayload tb sites).length ≤ 240 := by
  have records (l : List Nat) : (l.flatMap fun i => leBytes 2 i ++ (tb.site i).bytes).length = 34 * l.length := by
    induction l with
    | nil => rfl
    | cons i l ih =>
      rw [List.flatMap_cons, List.length_append, ih]
      simp [length_siteRec_bytes]
      omega
  have six : (sites.take 6).length ≤ 6 := List.length_take_le 6 sites
  unfold planPayload
  dsimp only
  simp only [List.length_append, records, length_leBytes]
  omega

theorem floorplanRead_gives (h : Begins s fn slot 0x504 tk) {tbl : FptTable} (valid : s.fpt.table = some tbl) :
    Gives (.floorplanRead fn slot) s fun t =>
      Answered s t fn tk .ok (planPayload tbl (readableSites s fn (fld tk.msg 0x10 2))) ∧ AnswerFrame s t := by
  have row : exec (.floorplanRead fn slot) s = .next (ok s fn tk (planPayload tbl (readableSites s fn (fld tk.msg 0x10 2)))) := by
    show execFloorplanRead fn slot s = _
    simp [execFloorplanRead, mailRow_begins h, valid]
  exact gives_of_row row ⟨h.answered (by rfl) (length_planPayload _ _), h.answerFrame s _⟩

/-- Settles O24, command by command. -/
theorem engineAndRecordCommands : Obligations.EngineAndRecordCommands :=
  ⟨fun _ _ _ _ _ _ _ h => andironModelLoad_gives h, fun _ _ _ _ h => andironModelUnload_gives h,
    fun _ _ _ _ _ _ h => emberActLoad_gives h,
    fun _ _ _ _ h number event _ onSite onDie => counterWindowSet_gives h number event onSite onDie,
    fun _ _ _ _ h => ashRingConfig_gives h, fun _ _ _ _ h => ashBucketConfig_gives h, fun _ _ _ _ h => sweepConfig_gives h,
    fun _ _ _ _ _ h => floorplanRead_gives h⟩

end Sys2Proof.Machine
end

section
/-! The numbers of the dispatches in flight (R154). Few operations touch them: a descriptor that is taken is given the next one, a
dispatch that leaves takes its own with it, and OFF drops them all. For every other operation of the model that returns a state the
law is an equation, which `simp` uses for the operations built from it. -/

namespace Sys2Proof.Machine

/-- The numbers of the dispatches in flight, and the next one to be given (R154). -/
def roster (s : State) : List Nat × Nat := (s.work.disps.map (·.id), s.work.nextId)

/-- Every number differs from the others and has been given. -/
def FreshRoster (r : List Nat × Nat) : Prop := (∀ n ∈ r.1, n < r.2) ∧ r.1.Nodup

theorem freshIds_iff_roster (s : State) : FreshIds s ↔ FreshRoster (roster s) := by
  simp [FreshIds, FreshRoster, roster]

@[simp] theorem freshRoster_ite {c : Prop} [Decidable c] {a b : List Nat × Nat} :
    FreshRoster (if c then a else b) ↔ (c → FreshRoster a) ∧ (¬ c → FreshRoster b) := by
  split <;> simp [*]

section
variable {s t : State}

theorem roster_of_work (h : t.work = s.work) : roster t = roster s := by
  unfold roster
  rw [h]

theorem roster_of_reads (h : Reads s t) : roster t = roster s := roster_of_work h.work

theorem roster_of_writes (h : Writes s t) : roster t = roster s := roster_of_work h.work

/-- An answer taken apart into its value and its state. -/
theorem roster_snd {α : Type} {p : α × State} {x : α} (h : p = (x, t)) : roster t = roster p.2 := by rw [h]

end

@[simp] theorem roster_ite (c : Prop) [Decidable c] (s t : State) :
    roster (if c then s else t) = if c then roster s else roster t := apply_ite roster c s t

@[simp] theorem roster_snd_ite {α : Type} (c : Prop) [Decidable c] (p q : α × State) :
    roster (if c then p else q).2 = if c then roster p.2 else roster q.2 := apply_ite (roster ·.2) c p q

/-- A fold whose every step keeps the queue and devtime of the state it carries. -/
theorem roster_foldl_of {α β : Type} {g : α → State} {f : α → β → α} (h : ∀ a b, roster (g (f a b)) = roster (g a))
    (l : List β) (a : α) : roster (g (l.foldl f a)) = roster (g a) := by
  induction l generalizing a with
  | nil => rfl
  | cons b l ih => rw [List.foldl_cons, ih, h]

@[simp] theorem roster_foldl {β : Type} {f : State → β → State} (h : ∀ s b, roster (f s b) = roster s) (l : List β)
    (s : State) : roster (l.foldl f s) = roster s := roster_foldl_of (g := id) h l s

/-- What every step keeps fresh, the fold does. -/
theorem fresh_foldl {β : Type} {f : State → β → State}
    (k : ∀ s b, FreshRoster (roster s) → FreshRoster (roster (f s b))) (l : List β) {s : State} (h : FreshRoster (roster s)) :
    FreshRoster (roster (l.foldl f s)) :=
  foldl_keeps (FreshRoster <| roster ·) f k l s h

variable (s : State)

@[simp] theorem roster_modAo (f) : roster (modAo s f) = roster s := (rfl)

/-! ## Parts of the state, counters, ash events, memory words, dispatches -/

@[simp] theorem roster_setHearth (site h) : roster (setHearth s site h) = roster s := (rfl)
@[simp] theorem roster_modHearth (site f) : roster (modHearth s site f) = roster s := by simp [modHearth]
@[simp] theorem roster_setMbx (fn m) : roster (setMbx s fn m) = roster s := (rfl)
@[simp] theorem roster_modMbx (fn f) : roster (modMbx s fn f) = roster s := by simp [modMbx]
@[simp] theorem roster_setTenant (t x) : roster (setTenant s t x) = roster s := (rfl)
@[simp] theorem roster_modTenant (t f) : roster (modTenant s t f) = roster s := by simp [modTenant]
@[simp] theorem roster_setQueue (t q x) : roster (setQueue s t q x) = roster s := by simp [setQueue]
@[simp] theorem roster_modQueue (t q f) : roster (modQueue s t q f) = roster s := by simp [modQueue]
@[simp] theorem roster_setRegion (t r x) : roster (setRegion s t r x) = roster s := by simp [setRegion]
@[simp] theorem roster_setPcieFn (fn x) : roster (setPcieFn s fn x) = roster s := (rfl)
@[simp] theorem roster_modPcieFn (fn f) : roster (modPcieFn s fn f) = roster s := by simp [modPcieFn]
@[simp] theorem roster_setAshRing (fn x) : roster (setAshRing s fn x) = roster s := (rfl)
@[simp] theorem roster_modAshRing (fn f) : roster (modAshRing s fn f) = roster s := by simp [modAshRing]
@[simp] theorem roster_setChainPort (p x) : roster (setChainPort s p x) = roster s := (rfl)
@[simp] theorem roster_modChainPort (p f) : roster (modChainPort s p f) = roster s := by simp [modChainPort]
@[simp] theorem roster_modDev (f) : roster (modDev s f) = roster s := (rfl)
@[simp] theorem roster_modSec (f) : roster (modSec s f) = roster s := (rfl)
@[simp] theorem roster_modFpt (f) : roster (modFpt s f) = roster s := (rfl)
@[simp] theorem roster_modPcie (f) : roster (modPcie s f) = roster s := (rfl)
@[simp] theorem roster_modWork {f : Work → Work} (h : ∀ w, (f w).disps.map (·.id) = w.disps.map (·.id))
    (k : ∀ w, (f w).nextId = w.nextId) : roster (modWork s f) = roster s := by
  unfold roster
  rw [modWork_work, h, k]
@[simp] theorem roster_modEpoch (f) : roster (modEpoch s f) = roster s := (rfl)
@[simp] theorem roster_modMem (f) : roster (modMem s f) = roster s := (rfl)
@[simp] theorem roster_modAsh (f) : roster (modAsh s f) = roster s := (rfl)
@[simp] theorem roster_modFabric (f) : roster (modFabric s f) = roster s := (rfl)
@[simp] theorem roster_modChain (f) : roster (modChain s f) = roster s := (rfl)
@[simp] theorem roster_modDraught (f) : roster (modDraught s f) = roster s := (rfl)
@[simp] theorem roster_modCounters (f) : roster (modCounters s f) = roster s := (rfl)
@[simp] theorem roster_bumpFree : roster (bumpFree s) = roster s := (rfl)
@[simp] theorem roster_countAt (event site n) : roster (countAt s event site n) = roster s := by simp [countAt]
@[simp] theorem roster_countU (event n) : roster (countU s event n) = roster s := by simp [countU]
@[simp] theorem roster_countTAt (event site tag n) : roster (countTAt s event site tag n) = roster s := by simp [countTAt]
@[simp] theorem roster_countT (event tag n) : roster (countT s event tag n) = roster s := by simp [countT]
@[simp] theorem roster_raiseVector (fn v) : roster (raiseVector s fn v) = roster s := by simp [raiseVector]
@[simp] theorem roster_flushPending (fn) : roster (flushPending s fn) = roster s := by simp [flushPending]
@[simp] theorem roster_raiseAsh (ty source tag reason det dests alerts) :
    roster (raiseAsh s ty source tag reason det dests alerts) = roster s := by simp [raiseAsh]
@[simp] theorem roster_storeWord (p w) : roster (storeWord s p w) = roster s := by simp [storeWord]
@[simp] theorem roster_forgetRaces (site) : roster (forgetRaces s site) = roster s := by simp [forgetRaces]
@[simp] theorem roster_raiseBucket (p owner regionAddr requester synd) :
    roster (raiseBucket s p owner regionAddr requester synd) = roster s := roster_of_reads (reads_raiseBucket _ _ _ _ _ _)
@[simp] theorem roster_readPlace (p r tag regionAddr) :
    roster (readPlace s p r tag regionAddr).2 = roster s := roster_of_reads (reads_readPlace _ _ _ _ _)
@[simp] theorem roster_writePart (p off bs r tag regionAddr) :
    roster (writePart s p off bs r tag regionAddr).2 = roster s := roster_of_writes (writes_writePart _ _ _ _ _ _ _)
@[simp] theorem roster_modDisp (id) {f : Disp → Disp} (h : ∀ d, (f d).id = d.id) : roster (modDisp s id f) = roster s := by
  unfold roster
  rw [modDisp_ids s id f h]
  rfl
@[simp] theorem roster_endDisp (id rs) : roster (endDisp s id rs) = roster s := by simp [endDisp]
@[simp] theorem roster_endUnit (id unit r) : roster (endUnit s id unit r) = roster s := by simp [endUnit]

/-! ## Regions, staging, host memory, rings -/

@[simp] theorem roster_readSpan (t a len req) :
    roster (readSpan s t a len req).2 = roster s := roster_of_reads (reads_readSpan _ _ _ _ _)
@[simp] theorem roster_writeSpan (t a bs req) :
    roster (writeSpan s t a bs req).2 = roster s := roster_of_writes (writes_writeSpan _ _ _ _ _)

@[simp] theorem roster_fillSpan (t rn o len pat) : roster (fillSpan s t rn o len pat).2 = roster s := by
  unfold fillSpan
  split
  · rfl
  next r _ =>
    have h := roster_of_writes (writes_fillWords t rn r pat (len / 32) s o)
    simpa using h

@[simp] theorem roster_stRead (site a n r) :
    roster (stRead s site a n r).2 = roster s := roster_of_reads (reads_stRead _ _ _ _ _)
@[simp] theorem roster_stWrite (site a bs r) : roster (stWrite s site a bs r) = roster s := by simp [stWrite]
@[simp] theorem roster_takeTags (site q num need) : roster (takeTags s site q num need) = roster s := by simp [takeTags]
@[simp] theorem roster_freeTags (site q num) : roster (freeTags s site q num) = roster s := by simp [freeTags]
@[simp] theorem roster_discardResponses (site q) :
    roster (discardResponses s site q) = roster s := by simp [discardResponses]
@[simp] theorem roster_hostRead (tag a n) :
    roster (hostRead s tag a n).2 = roster s := roster_of_reads (reads_hostRead _ _ _ _)
@[simp] theorem roster_hostWrite (tag a bs) : roster (hostWrite s tag a bs) = roster s := by simp [hostWrite]
@[simp] theorem roster_ringRead (t hbm base off n req) :
    roster (ringRead s t hbm base off n req).2 = roster s := roster_of_reads (reads_ringRead _ _ _ _ _ _ _)
@[simp] theorem roster_ringPost (t hbm base off bs) :
    roster (ringPost s t hbm base off bs).2 = roster s := roster_of_writes (writes_ringPost _ _ _ _ _ _)

/-! ## Status flags and windows -/

@[simp] theorem roster_alertOn (after) : roster (alertOn s after) = roster after := by simp [alertOn]
@[simp] theorem roster_draughtRecord (event began site temp) :
    roster (draughtRecord s event began site temp) = roster s := by simp [draughtRecord]
@[simp] theorem roster_setOwner (site new) : roster (setOwner s site new) = roster s := (rfl)
@[simp] theorem roster_setDevState (st cause) : roster (setDevState s st cause) = roster s := by simp [setDevState]

/-! ## Completion records and responses -/

/-- A dispatch that leaves takes its number with it. -/
theorem leaveInflight_roster (d) : roster (leaveInflight s d) = ((roster s).1.filter (· != d.id), (roster s).2) := by
  have count (e : Disp) : (turnoverCounts d e).id = e.id := by
    unfold turnoverCounts
    split <;> rfl
  show (((s.work.disps.filter (·.id != d.id)).map (turnoverCounts d)).map (·.id), _) = _
  simp [roster, List.filter_map, Function.comp_def, count]
  rfl

@[simp] theorem fresh_leaveInflight (h : FreshRoster (roster s)) (d) : FreshRoster (roster (leaveInflight s d)) := by
  rw [leaveInflight_roster]
  exact ⟨fun n m => h.1 n (List.mem_of_mem_filter m), h.2.filter _⟩

@[simp] theorem fresh_writeRecord (h : FreshRoster (roster s)) (d) : FreshRoster (roster (writeRecord s d)) := by
  simp [writeRecord, h]
@[simp] theorem roster_postResponse (fn bytes) : roster (postResponse s fn bytes) = roster s := by simp [postResponse]
@[simp] theorem roster_respond (fn t rc det payload) :
    roster (respond s fn t rc det payload) = roster s := by simp [respond]

@[simp] theorem roster_respondTo (fn seq rc det payload) : roster (respondTo s fn seq rc det payload) = roster s := by
  unfold respondTo
  split <;> simp

/-! ## Repair and poisoning -/

@[simp] theorem roster_poisonPlace (p h) : roster (poisonPlace s p h) = roster s := by
  unfold poisonPlace
  split <;> simp

@[simp] theorem roster_lineRecord (ty f notMarked noSpare alerts) :
    roster (lineRecord s ty f notMarked noSpare alerts) = roster s := by simp [lineRecord]

@[simp] theorem roster_repairRow (f row) : roster (repairRow s f row).1 = roster s := by
  unfold repairRow
  dsimp only
  split
  · rfl
  · split <;> simp

@[simp] theorem roster_fenceUnit (u) : roster (fenceUnit s u) = roster s := by simp [fenceUnit]

@[simp] theorem roster_repairOne (f) : roster (repairOne s f) = roster s := by
  unfold repairOne
  dsimp only
  generalize List.range 512 = rows
  split
  · simp
  · rw [roster_lineRecord, roster_foldl fun _ _ => roster_poisonPlace _ _ _, roster_modMem]
    refine (roster_foldl_of (g := Prod.fst) (fun _ _ => ?_) _ _).trans (roster_modMem _ _)
    exact roster_repairRow _ _ _

@[simp] theorem roster_repairNext (f) : roster (repairNext s f) = roster s := by simp [repairNext]
@[simp] theorem roster_repairSite (site limit) : roster (repairSite s site limit) = roster s := by simp [repairSite]

/-! ## Tiles, vectors, transfers, streams -/

@[simp] theorem roster_readShare (t site a len req) : roster (readShare s t site a len req).2 = roster s := by
  unfold readShare
  split
  · simp
  · split <;> simp

/-- The words of a page, each read and stored in turn. -/
theorem roster_refillPage_go (site wp r l a) : roster (refillPage.go site wp r s a l).2 = roster s := by
  induction l generalizing s a with
  | nil => rfl
  | cons w l ih =>
    simp only [refillPage.go]
    split
    next h => simp [roster_snd h]
    next h => simp [ih, roster_snd h]

@[simp] theorem roster_refillPage (site p wp r) : roster (refillPage s site p wp r).2 = roster s := by
  unfold refillPage
  have page := roster_refillPage_go s site wp r wp.words (4096 * p)
  split
  next h => simpa [roster_snd h] using page
  next => exact page

@[simp] theorem roster_refillPages (site r l) : roster (refillPages s site r l).2 = roster s := by
  induction l generalizing s with
  | nil => rfl
  | cons p l ih =>
    simp only [refillPages]
    split
    · rw [roster_snd_ite, ih]
      split
      · rfl
      · split
        next h => simp [ih, roster_snd h]
        next => simp
    · exact ih s

@[simp] theorem roster_tileWeights (site tn t r) : roster (tileWeights s site tn t r).2 = roster s := by
  unfold tileWeights
  split
  · split
    next h => simp [roster_snd h]
    next h => split <;> rename_i h' <;> simp [roster_snd h', roster_snd h]
  · simp

@[simp] theorem roster_tileRows (site t a w c0 q) :
    roster (tileRows s site t a w c0 q).1 = roster s := roster_foldl_of (g := Prod.fst) (fun _ _ => by simp) _ _

@[simp] theorem roster_tileC0 (site t r n) : roster (tileC0 s site t r n).2 = roster s := by
  induction n with
  | zero => rfl
  | succ n ih =>
    simp only [tileC0]
    split
    next h => simp [roster_snd h, ih]
    next h => split <;> rename_i h' <;> simp [roster_snd h', roster_snd h, ih]

@[simp] theorem roster_tileEffect (site tn it) : roster (tileEffect s site tn it).2 = roster s := by
  unfold tileEffect
  dsimp only
  split
  next h => simp [roster_snd h]
  next h => simp [roster_snd h]
  next w t h =>
    have weights : roster t = roster s := by simp [roster_snd h]
    split
    next h => simp [roster_snd h, weights]
    next a t' h =>
      have rows : roster t' = roster s := by simp [roster_snd h, weights]
      split
      next h => simp [roster_snd h, rows]
      next c0 u h =>
        have sums : roster u = roster s := by simp [roster_snd h, rows]
        simp only [roster_countAt, roster_ite, roster_modHearth, roster_stWrite, ite_self]
        split
        · split
          · simp [sums]
          · split <;> simp [sums]
        · simp [sums]

@[simp] theorem roster_vectorEffect (site it) : roster (vectorEffect s site it).2 = roster s := by
  unfold vectorEffect
  dsimp only
  split
  next h => simp [roster_snd h]
  next h =>
    split
    next h' => simp [roster_snd h', roster_snd h]
    next h' => split <;> rename_i h'' <;> simp [roster_snd h'', roster_snd h', roster_snd h]

@[simp] theorem roster_dmaSide (site tn kind a n req) : roster (dmaSide s site tn kind a n req).2 = roster s := by
  unfold dmaSide
  split
  · split <;> rename_i h <;> simp [roster_snd h]
  · simp

@[simp] theorem roster_dmaWords (site tn it r n o) : roster (dmaWords site tn it r n s o).2 = roster s := by
  induction n generalizing s o with
  | zero => rfl
  | succ n ih =>
    simp only [dmaWords]
    split
    next h =>
      split
      · simp [ih, roster_snd h]
      · split <;> rename_i h' <;> simp [ih, roster_snd h', roster_snd h]
    next h => simp [roster_snd h]

@[simp] theorem roster_dmaEffect (site tn ch it) : roster (dmaEffect s site tn ch it).2 = roster s := by simp [dmaEffect]

@[simp] theorem roster_streamEffect (site other it) : roster (streamEffect s site other it).2 = roster s := by
  unfold streamEffect
  dsimp only
  split
  next h => simp [roster_snd h]
  next h => split <;> simp [roster_snd h]

@[simp] theorem roster_foresee (site e) : roster (foresee site s e) = roster s := by simp [foresee]
@[simp] theorem roster_unforesee (site e) : roster (unforesee site s e) = roster s := by simp [unforesee]

/-- What is carried out amid overtaken work keeps what it keeps alone. -/
theorem roster_amid {α : Type} {f : State → α × State} (h : ∀ s, roster (f s).2 = roster s) (site q num) :
    roster (amid s site q num f).2 = roster s := by
  unfold amid
  split <;> simp [h]

@[simp] theorem roster_runTile (site it) :
    roster (runTile s site it).2 = roster s := roster_amid _ (fun _ => roster_tileEffect _ _ _ _) _ _ _
@[simp] theorem roster_runVector (site it) :
    roster (runVector s site it).2 = roster s := roster_amid _ (fun _ => roster_vectorEffect _ _ _) _ _ _
@[simp] theorem roster_runStream (site other it) :
    roster (runStream s site other it).2 = roster s := roster_amid _ (fun _ => roster_streamEffect _ _ _ _) _ _ _
@[simp] theorem roster_runDma (site ch it) :
    roster (runDma s site ch it).2 = roster s := roster_amid _ (fun _ => roster_dmaEffect _ _ _ _ _) _ _ _

/-! ## Ember programs -/

@[simp] theorem roster_flushMerge (site en run) : roster (flushMerge s site en run).2 = roster s := by
  refine roster_foldl_of (g := Prod.snd) (fun x p => ?_) _ _
  split
  · rfl
  · dsimp only
    split <;> rename_i h <;> simp [roster_snd h]

@[simp] theorem roster_settleContest (site run) : roster (settleContest s site run) = roster s := by
  unfold settleContest
  dsimp only
  split <;> simp

@[simp] theorem roster_emberDone (site ember st det) : roster (emberDone s site ember st det) = roster s := by
  unfold emberDone
  split <;> simp

@[simp] theorem roster_emberAbort (site ember st det) : roster (emberAbort s site ember st det) = roster s := by
  unfold emberAbort
  split
  · simp
  · split <;> simp

@[simp] theorem roster_stopEmbers (site) : roster (stopEmbers s site) = roster s := by
  unfold stopEmbers
  dsimp only
  rw [roster_modHearth, roster_foldl fun _ _ => roster_emberAbort _ _ _ _ _]

/-! ## Andiron launches -/

@[simp] theorem roster_writeResult (site l i bs) : roster (writeResult s site l i bs) = roster s := by simp [writeResult]
@[simp] theorem roster_finishEnv (site lane l e) : roster (finishEnv s site lane l e) = roster s := by simp [finishEnv]
@[simp] theorem roster_stopRunning (site l) : roster (stopRunning s site l) = roster s := by simp [stopRunning]
@[simp] theorem roster_stopLaunches (site disp) : roster (stopLaunches s site disp) = roster s := by simp [stopLaunches]

/-! ## Stops and traps -/

@[simp] theorem roster_settleStreams (site) : roster (settleStreams s site) = roster s := by
  refine roster_foldl (fun s it => ?_) _ _
  split <;> simp

@[simp] theorem roster_settleStarted (site) : roster (settleStarted s site) = roster s := by simp [settleStarted]
@[simp] theorem roster_stopItemEmbers (site disp) :
    roster (stopItemEmbers s site disp) = roster s := by simp [stopItemEmbers]
@[simp] theorem roster_stopSequencer (site) : roster (stopSequencer s site) = roster s := by simp [stopSequencer]
@[simp] theorem roster_stopRecipe (site) : roster (stopRecipe s site) = roster s := by simp [stopRecipe]
@[simp] theorem roster_stopDispOn (id site) : roster (stopDispOn s id site) = roster s := by simp [stopDispOn]

@[simp] theorem roster_stopSiblings (id) : roster (stopSiblings s id) = roster s := by
  unfold stopSiblings
  split <;> simp

@[simp] theorem roster_endSite (site st det) : roster (endSite s site st det) = roster s := by
  unfold endSite
  split <;> simp

@[simp] theorem roster_recordFail (site st det) : roster (recordFail s site st det) = roster s := by simp [recordFail]
@[simp] theorem roster_endWorkOn (sites st det) : roster (endWorkOn s sites st det) = roster s := by simp [endWorkOn]
@[simp] theorem roster_endUnclaimed (sites st det) :
    roster (endUnclaimed s sites st det) = roster s := by simp [endUnclaimed]
@[simp] theorem roster_retireSites (sites) : roster (retireSites s sites) = roster s := by simp [retireSites]
@[simp] theorem roster_siteTrap (site code val) : roster (siteTrap s site code val) = roster s := by simp [siteTrap]
@[simp] theorem roster_siteTrapOpen (site code) : roster (siteTrapOpen s site code) = roster s := by simp [siteTrapOpen]
@[simp] theorem roster_mapQueue (site q f) : roster (mapQueue s site q f) = roster s := by simp [mapQueue]
@[simp] theorem roster_advanceQueue (site q) : roster (advanceQueue s site q) = roster s := by simp [advanceQueue]
@[simp] theorem roster_itemDone (site q num) : roster (itemDone s site q num) = roster s := by simp [itemDone]
@[simp] theorem roster_tileAbsent (site num) : roster (tileAbsent s site num) = roster s := by simp [tileAbsent]
@[simp] theorem roster_loseQuad (site q) : roster (loseQuad s site q) = roster s := by simp [loseQuad]

@[simp] theorem roster_endNoLane (site) : roster (endNoLane s site) = roster s := by
  unfold endNoLane
  split
  · simp
  · split <;> simp

@[simp] theorem roster_loseLane (site lane) : roster (loseLane s site lane) = roster s := by
  unfold loseLane
  split <;> simp

/-! ## Resets, sanitise, entry into OFF -/

@[simp] theorem roster_resetMailbox (fn) : roster (resetMailbox s fn) = roster s := by simp [resetMailbox]
@[simp] theorem roster_flipBanks : roster (flipBanks s) = roster s := by simp [flipBanks]
@[simp] theorem roster_flipGeneration : roster (flipGeneration s) = roster s := by simp [flipGeneration]
@[simp] theorem roster_advanceGeneration : roster (advanceGeneration s) = roster s := by simp [advanceGeneration]
@[simp] theorem roster_objectRemoved (t kind number) :
    roster (objectRemoved s t kind number) = roster s := by simp [objectRemoved]
@[simp] theorem roster_dropQueue (t q) : roster (dropQueue s t q) = roster s := by
  simp [dropQueue, Function.comp_def, apply_ite Disp.id]
@[simp] theorem roster_dropDependents (t rn) : roster (dropDependents s t rn) = roster s := by simp [dropDependents]
@[simp] theorem roster_removeRegion (t rn) : roster (removeRegion s t rn) = roster s := by simp [removeRegion]
@[simp] theorem roster_forgetWords (r) : roster (forgetWords s r) = roster s := by simp [forgetWords]
@[simp] theorem roster_zeroHbm (r) : roster (zeroHbm s r) = roster s := by simp [zeroHbm]
@[simp] theorem roster_sanitiseRegion (t p) : roster (sanitiseRegion s t p) = roster s := by simp [sanitiseRegion]
@[simp] theorem roster_deleteRegions (t doomed) : roster (deleteRegions s t doomed) = roster s := by simp [deleteRegions]
@[simp] theorem roster_zeroSite (site) : roster (zeroSite s site) = roster s := by simp [zeroSite]
@[simp] theorem roster_closeDomains (t) : roster (closeDomains s t) = roster s := by simp [closeDomains]
@[simp] theorem roster_forgetOwned (site) : roster (forgetOwned s site) = roster s := (rfl)
@[simp] theorem roster_sanitiseSites (t sites) : roster (sanitiseSites s t sites) = roster s := by simp [sanitiseSites]
@[simp] theorem roster_sanitise (t sites) : roster (sanitise s t sites) = roster s := by simp [sanitise]
@[simp] theorem roster_resetHearth (site) : roster (resetHearth s site) = roster s := by simp [resetHearth]
@[simp] theorem roster_dropFrames (ids) :
    roster (dropFrames s ids) = roster s := roster_foldl (fun _ _ => roster_modChainPort _ _ _) _ _
@[simp] theorem fresh_resetDispatches (h : FreshRoster (roster s)) (t silent) :
    FreshRoster (roster (resetDispatches s t silent)) :=
  fresh_foldl (fun s d h => by dsimp only; split <;> simp [h]) _ h
@[simp] theorem fresh_tenantReset (h : FreshRoster (roster s)) (t silent) :
    FreshRoster (roster (tenantReset s t silent)) := by simp [tenantReset, h]
@[simp] theorem roster_unbindDomain (dom) : roster (unbindDomain s dom) = roster s := by simp [unbindDomain]
@[simp] theorem roster_clearWindows (fn) : roster (clearWindows s fn) = roster s := by simp [clearWindows]
@[simp] theorem fresh_destroyTenant (h : FreshRoster (roster s)) (t) : FreshRoster (roster (destroyTenant s t)) := by
  unfold destroyTenant
  simp only [roster_clearWindows, roster_setTenant, roster_closeDomains, roster_deleteRegions]
  exact fresh_foldl (fun s d h => fresh_writeRecord s h d) _ (by simp [h])
@[simp] theorem fresh_endTenant (h : FreshRoster (roster s)) (t) : FreshRoster (roster (endTenant s t)) := by simp [endTenant, h]

/-- No dispatch is in flight in OFF. -/
@[simp] theorem fresh_enterOff : FreshRoster (roster (enterOff s)) := by
  unfold enterOff
  dsimp only
  rw [roster_setDevState]
  exact ⟨nofun, List.nodup_nil⟩

/-! ## The trip and L_th -/

@[simp] theorem roster_trackLayer (i) : roster (trackLayer s i) = roster s := by simp [trackLayer]
@[simp] theorem roster_trackLayers (sensors) : roster (trackLayers s sensors) = roster s := by simp [trackLayers]
@[simp] theorem roster_dropPwrEn : roster (dropPwrEn s) = roster s := by simp [dropPwrEn]
@[simp] theorem fresh_fireTrip (cause) :
    FreshRoster (roster (fireTrip s cause)) := by simp [fireTrip]
@[simp] theorem roster_trackTrip : roster (trackTrip s) = roster s := by simp [trackTrip]
@[simp] theorem roster_clearTrip : roster (clearTrip s) = roster s := by simp [clearTrip]

@[simp] theorem roster_settleTrip : roster (settleTrip s) = roster s := by
  unfold settleTrip
  dsimp only
  split <;> simp

@[simp] theorem roster_setLimit (l) : roster (setLimit s l) = roster s := by simp [setLimit]
@[simp] theorem roster_applyCaps : roster (applyCaps s) = roster s := by simp [applyCaps]
@[simp] theorem roster_capLoop : roster (capLoop s) = roster s := by simp [capLoop]
@[simp] theorem roster_countHalf (a) : roster (countHalf s a) = roster s := by simp [countHalf]
@[simp] theorem roster_setCycle (fb c) : roster (setCycle s fb c) = roster s := by simp [setCycle]

/-! ## Publications -/

@[simp] theorem roster_settleState (t) : roster (settleState s t) = roster s := by simp [settleState]
@[simp] theorem roster_loseFlueRequests (fb) : roster (loseFlueRequests s fb) = roster s := by simp [loseFlueRequests]
@[simp] theorem roster_settleLink (l down) : roster (settleLink s l down) = roster s := by simp [settleLink]
@[simp] theorem roster_publishTable (t t' site cause) :
    roster (publishTable s t t' site cause) = roster s := by simp [publishTable]
@[simp] theorem roster_publish (t c) : roster (publish s t c) = roster s := by simp [publish]

@[simp] theorem roster_retireCutOff : roster (retireCutOff s) = roster s := by
  unfold retireCutOff
  split <;> simp

@[simp] theorem roster_dropStale (t) : roster (dropStale s t) = roster s := by simp [dropStale]

@[simp] theorem roster_publishNext : roster (publishNext s) = roster s := by
  unfold publishNext
  split
  · rfl
  · dsimp only
    split <;> simp

@[simp] theorem roster_unitLost (u) : roster (unitLost s u) = roster s := by
  cases u <;> simp [unitLost]

@[simp] theorem roster_setFlash (b t) : roster (setFlash s b t) = roster s := by simp [setFlash]
@[simp] theorem roster_persisted : roster (persisted s) = roster s := by simp [persisted]

/-! ## Die links -/

@[simp] theorem roster_setLink (l x) : roster (setLink s l x) = roster s := by simp [setLink]
@[simp] theorem roster_modLink (l f) : roster (modLink s l f) = roster s := by simp [modLink]
@[simp] theorem roster_modEnd (l far f) : roster (modEnd s l far f) = roster s := by simp [modEnd]
@[simp] theorem roster_linkEvent (l i n) : roster (linkEvent s l i n) = roster s := by simp [linkEvent]
@[simp] theorem roster_linkEventT (l i tag) : roster (linkEventT s l i tag) = roster s := by simp [linkEventT]
@[simp] theorem roster_wantNak (l far) : roster (wantNak s l far) = roster s := by simp [wantNak]
@[simp] theorem roster_flitLost (l far group flit) : roster (flitLost s l far group flit) = roster s := by simp [flitLost]
@[simp] theorem roster_enterRouter (f) : roster (enterRouter s f) = roster s := by simp [enterRouter]
@[simp] theorem roster_acceptFlit (l far f) : roster (acceptFlit s l far f) = roster s := by simp [acceptFlit]
@[simp] theorem roster_sequenceFlit (l far f) : roster (sequenceFlit s l far f) = roster s := by simp [sequenceFlit]
@[simp] theorem roster_acknowledge (l far a) : roster (acknowledge s l far a) = roster s := by simp [acknowledge]
@[simp] theorem roster_replayRound (l far) : roster (replayRound s l far) = roster s := by simp [replayRound]
@[simp] theorem roster_takeCtrl (l far p) : roster (takeCtrl s l far p) = roster s := by simp [takeCtrl]
@[simp] theorem roster_putSlot (l far bytes) : roster (putSlot s l far bytes) = roster s := by simp [putSlot]
@[simp] theorem roster_sendCtrl (l far) : roster (sendCtrl s l far) = roster s := by simp [sendCtrl]

@[simp] theorem roster_relayNew (far) : roster (relayNew s far) = roster s := by
  unfold relayNew
  dsimp only
  split <;> simp

@[simp] theorem roster_remapLanes (l found) : roster (remapLanes s l found) = roster s := by simp [remapLanes]

@[simp] theorem roster_applyOutcomes (l us) : roster (applyOutcomes s l us) = roster s := by
  refine roster_foldl (fun s u => ?_) _ _
  dsimp only
  split <;> simp

@[simp] theorem roster_exchangeEnd (l far) : roster (exchangeEnd s l far) = roster s := by simp [exchangeEnd]
@[simp] theorem roster_retrainRecord (l groups trigger suspect) :
    roster (retrainRecord s l groups trigger suspect) = roster s := by simp [retrainRecord]
@[simp] theorem roster_flueLinkDown (l) : roster (flueLinkDown s l) = roster s := by simp [flueLinkDown]
@[simp] theorem roster_beginDetour (far) : roster (beginDetour s far) = roster s := by simp [beginDetour]
@[simp] theorem roster_declareFailed : roster (declareFailed s) = roster s := roster_modLink _ _ _
@[simp] theorem roster_bridgeFailed (trigger before suspect) :
    roster (bridgeFailed s trigger before suspect) = roster s := by simp [bridgeFailed]
@[simp] theorem roster_finishRetrain (l us) : roster (finishRetrain s l us) = roster s := by simp [finishRetrain]

@[simp] theorem roster_relayStep (far) : roster (relayStep s far) = roster s := by
  unfold relayStep
  split <;> simp

@[simp] theorem roster_drainRelay (far) : roster (drainRelay s far) = roster s := by simp [drainRelay]
@[simp] theorem roster_restartBridge : roster (restartBridge s) = roster s := by simp [restartBridge]

/-! ## Epoch changes and the mesh -/

@[simp] theorem roster_installRoutes : roster (installRoutes s) = roster s := by
  unfold installRoutes
  split <;> simp

@[simp] theorem roster_detourRecord (ty before after trigger suspect) :
    roster (detourRecord s ty before after trigger suspect) = roster s := by simp [detourRecord]

@[simp] theorem roster_install (a) : roster (install s a) = roster s := by
  cases a <;> simp [install]

@[simp] theorem roster_conclude (a) : roster (conclude s a) = roster s := by
  cases a <;> simp [conclude]

@[simp] theorem roster_replyTo (c rc) : roster (replyTo s c rc) = roster s := by
  unfold replyTo
  split <;> simp

@[simp] theorem roster_endChange (c) : roster (endChange s c) = roster s := by simp [endChange]
@[simp] theorem roster_beginChange (c) : roster (beginChange s c) = roster s := by simp [beginChange]
@[simp] theorem roster_holdChannel (port f) : roster (holdChannel s port f) = roster s := by simp [holdChannel]
@[simp] theorem roster_freeEntry (f) : roster (freeEntry s f) = roster s := by simp [freeEntry]
@[simp] theorem roster_takeFlit (f) : roster (takeFlit s f) = roster s := by simp [takeFlit]
@[simp] theorem roster_moveFlit (f port y) : roster (moveFlit s f port y) = roster s := by simp [moveFlit]

@[simp] theorem roster_grant (node port) : roster (grant s node port) = roster s := by
  unfold grant
  dsimp only
  split <;> simp

@[simp] theorem roster_putFlit (f) : roster (putFlit s f) = roster s := by simp [putFlit]

@[simp] theorem roster_inject (node) : roster (inject s node) = roster s := by
  unfold inject
  split
  · simp
  · split
    · simp
    · split
      · simp
      · split <;> simp

@[simp] theorem roster_modFlit (id f) : roster (modFlit s id f) = roster s := by simp [modFlit]

/-! ## Batches -/

@[simp] theorem roster_enqueueLaunch (site l) : roster (enqueueLaunch s site l) = roster s := by simp [enqueueLaunch]

/-! ## Configuration space -/

@[simp] theorem roster_cfgWrite (fn f v) : roster (cfgWrite s fn f v) = roster s := by
  unfold cfgWrite
  split <;> simp

/-! ## Descriptors and signals -/

@[simp] theorem roster_fetchDesc (t q) : roster (fetchDesc s t q).2 = roster s := by simp [fetchDesc]
/-- A descriptor taken is given the next number. -/
theorem enterDisp_roster (t q desc) :
    roster (enterDisp s t q desc) = ((roster s).1 ++ [(roster s).2], (roster s).2 + 1) := by
  unfold enterDisp
  dsimp only
  split <;> exact Prod.ext (List.map_append ..) rfl

@[simp] theorem fresh_enterDisp (h : FreshRoster (roster s)) (t q desc) : FreshRoster (roster (enterDisp s t q desc)) := by
  obtain ⟨below, apart⟩ := h
  rw [enterDisp_roster]
  constructor
  · intro n m
    rcases List.mem_append.mp m with m | m
    · exact Nat.lt_succ_of_lt (below n m)
    · rw [List.mem_singleton.mp m]
      exact Nat.lt_succ_self _
  · refine List.nodup_append.mpr ⟨apart, List.nodup_singleton _, fun a ha b hb => ?_⟩
    rw [List.mem_singleton.mp hb]
    exact Nat.ne_of_lt (below a ha)
@[simp] theorem roster_endWith (id st det) : roster (endWith s id st det) = roster s := by simp [endWith]

@[simp] theorem fresh_takeDesc (h : FreshRoster (roster s)) (t q row) {run : State → Nat → List Byte → State}
    (k : ∀ s id b, roster (run s id b) = roster s) : FreshRoster (roster (takeDesc s t q row run)) := by
  unfold takeDesc
  split
  · exact h
  · split
    next e =>
      have read := roster_snd e
      split
      · rw [k]
        exact fresh_enterDisp _ (by simpa [read] using h) _ _ _
      · exact h
    next e =>
      have read := roster_snd e
      rw [apply_ite roster, roster_endWith, roster_endWith, ite_self]
      exact fresh_enterDisp _ (by simpa [read] using h) _ _ _

@[simp] theorem roster_wakeWaits : roster (wakeWaits s) = roster s := by simp [wakeWaits]
@[simp] theorem roster_putSignal (t n v) : roster (putSignal s t n v) = roster s := by simp [putSignal]
@[simp] theorem roster_setSignal (t n v) : roster (setSignal s t n v) = roster s := by simp [setSignal]
@[simp] theorem roster_applySignal (d) : roster (applySignal s d) = roster s := by simp [applySignal]
@[simp] theorem roster_settleWork : roster (settleWork s) = roster s := by simp [settleWork]

/-! ## Registers -/

@[simp] theorem roster_rejectIndex (fn) : roster (rejectIndex s fn) = roster s := by simp [rejectIndex]
@[simp] theorem roster_writeReqPi (fn v) : roster (writeReqPi s fn v) = roster s := by simp [writeReqPi]

@[simp] theorem roster_freeUrgent (fn) : roster (freeUrgent s fn) = roster s := by
  unfold freeUrgent
  dsimp only
  split <;> simp

@[simp] theorem roster_writeRspCi (fn v) : roster (writeRspCi s fn v) = roster s := by simp [writeRspCi]
@[simp] theorem roster_writeMbxCtrl (fn v) : roster (writeMbxCtrl s fn v) = roster s := by simp [writeMbxCtrl]
@[simp] theorem roster_writeMbxStatus (fn v) : roster (writeMbxStatus s fn v) = roster s := by simp [writeMbxStatus]
@[simp] theorem roster_takeMsg (fn t) : roster (takeMsg s fn t) = roster s := by simp [takeMsg]
@[simp] theorem roster_writeUrgGo (fn) : roster (writeUrgGo s fn) = roster s := by simp [writeUrgGo]
@[simp] theorem roster_rejectQueue (t q) : roster (rejectQueue s t q) = roster s := by simp [rejectQueue]
@[simp] theorem roster_writeSqTail (t q v) : roster (writeSqTail s t q v) = roster s := by simp [writeSqTail]
@[simp] theorem roster_writeCqHead (t q v) : roster (writeCqHead s t q v) = roster s := by simp [writeCqHead]
@[simp] theorem roster_writeQState (t q v) : roster (writeQState s t q v) = roster s := by simp [writeQState]
@[simp] theorem roster_writeSignal (t n off width v) :
    roster (writeSignal s t n off width v) = roster s := by simp [writeSignal]
@[simp] theorem roster_writeDbl (fn off width v) : roster (writeDbl s fn off width v) = roster s := by simp [writeDbl]
@[simp] theorem roster_writeAshCi (fn v) : roster (writeAshCi s fn v) = roster s := by simp [writeAshCi]
@[simp] theorem roster_writeAsh (fn off v) : roster (writeAsh s fn off v) = roster s := by simp [writeAsh]
@[simp] theorem roster_writeMsix (fn off bs) : roster (writeMsix s fn off bs) = roster s := by simp [writeMsix]
@[simp] theorem roster_writeMbx (fn off width v) : roster (writeMbx s fn off width v) = roster s := by simp [writeMbx]
@[simp] theorem roster_writeBar0 (fn off width v) : roster (writeBar0 s fn off width v) = roster s := by simp [writeBar0]

@[simp] theorem roster_latchTime (fn off) : roster (latchTime s fn off) = roster s := by
  unfold latchTime
  split <;> simp

@[simp] theorem roster_answerRead (v) : roster (answerRead s v) = roster s := by simp [answerRead]
@[simp] theorem roster_read32 (fn off) : roster (read32 s fn off) = roster s := by simp [read32]
@[simp] theorem roster_read64 (fn off) : roster (read64 s fn off) = roster s := by simp [read64]

/-! ## Mailbox requests -/

@[simp] theorem roster_takeRequest (fn) : roster (takeRequest s fn) = roster s := by simp [takeRequest]
@[simp] theorem roster_ok (fn t payload) : roster (ok s fn t payload) = roster s := by simp [ok]
@[simp] theorem roster_arg (fn t off) : roster (arg s fn t off) = roster s := by simp [arg]
@[simp] theorem roster_argOpen (fn t) : roster (argOpen s fn t) = roster s := by simp [argOpen]
@[simp] theorem roster_fail (fn t rc) : roster (fail s fn t rc) = roster s := by simp [fail]
@[simp] theorem roster_begin_ (fn t) : roster (begin_ s fn t) = roster s := by simp [begin_]
@[simp] theorem roster_startChange (fn t a payload) :
    roster (startChange s fn t a payload) = roster s := by simp [startChange]

/-! ## Chain ports -/

@[simp] theorem roster_transmit (port bytes) : roster (transmit s port bytes) = roster s := by simp [transmit]
@[simp] theorem roster_countPort (port i tag n) : roster (countPort s port i tag n) = roster s := by simp [countPort]
@[simp] theorem roster_sendAck (port ty) : roster (sendAck s port ty) = roster s := by simp [sendAck]
@[simp] theorem roster_sendNak (port) : roster (sendNak s port) = roster s := by simp [sendNak]
@[simp] theorem roster_ackAtBound (port) : roster (ackAtBound s port) = roster s := by simp [ackAtBound]

@[simp] theorem roster_frameDone (id) : roster (frameDone s id) = roster s := by
  unfold frameDone
  split <;> simp

@[simp] theorem roster_takeAck (port a) : roster (takeAck s port a) = roster s := by
  unfold takeAck
  dsimp only
  split
  · rfl
  · split
    · rfl
    · rw [roster_foldl]
      · simp
      · intro s f
        split <;> simp

@[simp] theorem roster_retransmitAll (port) : roster (retransmitAll s port) = roster s := by simp [retransmitAll]

@[simp] theorem roster_copyLost (port id) : roster (copyLost port s id) = roster s := by
  unfold copyLost
  split <;> simp

@[simp] theorem roster_portDown (port st) : roster (portDown s port st) = roster s := by simp [portDown]
@[simp] theorem roster_failPort (port cond) : roster (failPort s port cond) = roster s := by simp [failPort]
@[simp] theorem roster_sendProbe (port init) : roster (sendProbe s port init) = roster s := by simp [sendProbe]
@[simp] theorem roster_becomeUp (port) : roster (becomeUp s port) = roster s := by simp [becomeUp]
@[simp] theorem roster_refuse (port f err) : roster (refuse s port f err) = roster s := by simp [refuse]
@[simp] theorem roster_applyWrite (port f) : roster (applyWrite s port f) = roster s := by simp [applyWrite]

@[simp] theorem roster_applyRead (port f) : roster (applyRead s port f) = roster s := by
  unfold applyRead
  dsimp only
  split
  · simp
  · split <;> rename_i h <;> simp [roster_snd h]

@[simp] theorem roster_deliver (d r bytes) : roster (deliver s d r bytes).2 = roster s := by
  unfold deliver
  dsimp only
  split
  · split <;> simp
  · split <;> rename_i h <;> simp [roster_snd h]

@[simp] theorem roster_applyResp (port f) : roster (applyResp s port f) = roster s := by
  unfold applyResp
  dsimp only
  split
  · rfl
  · split
    · simp
    · split
      · simp
      · rw [roster_ite, roster_frameDone, ite_self]
        split <;> simp

@[simp] theorem roster_applyError (port f) : roster (applyError s port f) = roster s := by
  unfold applyError
  split
  · simp
  · split <;> simp [apply_ite Disp.id]

@[simp] theorem roster_heard (port f) : roster (heard s port f) = roster s := by simp [heard]

@[simp] theorem roster_sequenced (port f) {effect : State → State} (h : ∀ s, roster (effect s) = roster s) :
    roster (sequenced s port f effect) = roster s := by simp [sequenced, h]

@[simp] theorem roster_sendFrame (port x) : roster (sendFrame s port x) = roster s := by simp [sendFrame]
@[simp] theorem roster_sendNew (port x) : roster (sendNew s port x) = roster s := by simp [sendNew]

/-! ## Dispatches -/

@[simp] theorem roster_refuseDisp (id f) : roster (refuseDisp s id f) = roster s := by simp [refuseDisp]
@[simp] theorem roster_launchBatch (d bd) : roster (launchBatch s d bd) = roster s := by simp [launchBatch]

@[simp] theorem roster_startBatch (d) : roster (startBatch s d) = roster s := by
  unfold startBatch
  dsimp only
  split
  next h => split <;> simp [roster_snd h]
  next h => simp [roster_snd h]
  next h => simp [roster_snd h]

theorem roster_readProg {rd : State → Nat → Nat → Span × State} (h : ∀ s a n, roster (rd s a n).2 = roster s) (a) :
    roster (readProg rd s a).2 = roster s := by
  unfold readProg
  split
  next e =>
    split
    next e' => simp [h, roster_snd e', roster_snd e]
    next => simp [h, roster_snd e]
  next => exact h s a 32

@[simp] theorem roster_enqueueEmber (site en) : roster (enqueueEmber s site en) = roster s := by simp [enqueueEmber]
@[simp] theorem roster_startRun (d r prog) : roster (startRun s d r prog) = roster s := by simp [startRun]
@[simp] theorem roster_copyRead (t kind a n) : roster (copyRead s t kind a n).2 = roster s := by simp [copyRead]

@[simp] theorem roster_copyWrite (t kind a bs) : roster (copyWrite s t kind a bs).2 = roster s := by
  unfold copyWrite
  split
  · split <;> simp
  · split <;> rename_i h <;> simp [roster_snd h]

@[simp] theorem roster_copyWords (t sk src dk dst n) : roster (copyWords t sk src dk dst n s).2 = roster s := by
  induction n generalizing s src dst with
  | zero => rfl
  | succ n ih =>
    simp only [copyWords]
    split
    next h =>
      split
      next h' => simp [ih, roster_snd h', roster_snd h]
      next => simp [roster_snd h]
    next h => simp [roster_snd h]
    next h => simp [roster_snd h]

@[simp] theorem roster_endCopy (id st) : roster (endCopy s id st) = roster s := by simp [endCopy]
@[simp] theorem roster_sendCopy (id b data port) : roster (sendCopy s id b data port) = roster s := by simp [sendCopy]

@[simp] theorem roster_chainCopy (id t b) : roster (chainCopy s id t b) = roster s := by
  unfold chainCopy
  split
  · simp
  · split
    · simp
    · split
      · split <;> rename_i h <;> simp [roster_snd h]
      · simp

@[simp] theorem roster_startCopy (d) : roster (startCopy s d) = roster s := by simp [startCopy]
@[simp] theorem roster_startFill (d) : roster (startFill s d) = roster s := by simp [startFill]
@[simp] theorem roster_startWork (d) : roster (startWork s d) = roster s := by simp [startWork]

@[simp] theorem roster_startOrWait (id) : roster (startOrWait s id) = roster s := by
  unfold startOrWait
  split <;> simp

@[simp] theorem roster_startWaiting (t q) : roster (startWaiting s t q) = roster s := by
  refine roster_foldl (fun s id => ?_) _ _
  split <;> simp

@[simp] theorem roster_claimTokens (d) : roster (claimTokens s d) = roster s := by
  unfold claimTokens
  dsimp only
  have prog (a) := roster_readProg s (rd := fun s a n => readSpan s d.tenant a n 4) (fun _ _ _ => by simp) a
  split
  · simp
  · split
    · simp
    · split
      · simp
      · split
        next h => split <;> simp [roster_snd h, prog]
        next h => simp [roster_snd h, prog]
        next h => simp [roster_snd h, prog]

/-! ## Issued items -/

@[simp] theorem roster_failItem (site q num st det) :
    roster (failItem s site q num st det) = roster s := by simp [failItem]

@[simp] theorem roster_issueEmber (site num b) : roster (issueEmber s site num b) = roster s := by
  unfold issueEmber
  dsimp only
  have prog (t a) := roster_readProg s (rd := fun s a n => readShare s t site a n 4) (fun _ _ _ => by simp) a
  split
  · simp
  · split
    next h => simp [roster_snd h, prog]
    next h => simp [roster_snd h, prog]
    next h =>
      split
      · simp [roster_snd h, prog]
      · split
        · simp [roster_snd h, prog]
        · split <;> rename_i h' <;> simp [roster_snd h', roster_snd h, prog]

@[simp] theorem roster_issueAndiron (site num b) : roster (issueAndiron s site num b) = roster s := by
  unfold issueAndiron
  dsimp only
  split
  next h => simp [roster_snd h]
  next h => simp [roster_snd h]
  next h => split <;> simp [roster_snd h]

@[simp] theorem roster_queueItem (site q num b) : roster (queueItem s site q num b) = roster s := by simp [queueItem]
@[simp] theorem roster_issueItem (site q b) : roster (issueItem s site q b) = roster s := by simp [issueItem]

/-! ## Environments -/

@[simp] theorem roster_beginLaunch (site l) : roster (beginLaunch s site l) = roster s := by simp [beginLaunch]
@[simp] theorem roster_placeEnv (site lane e) : roster (placeEnv s site lane e) = roster s := by simp [placeEnv]

@[simp] theorem roster_fetchInput (site l i) : roster (fetchInput s site l i).2 = roster s := by
  unfold fetchInput
  have input := roster_amid s (f := fun s =>
    readSpan s l.tenant (Batch.inBase l.desc + i * Batch.inStride l.desc) (inSize l.image) (laneReq site l))
    (fun _ => by simp) site 4 l.item
  split
  · rfl
  · split <;> rename_i h <;> simp [roster_snd h, input]

@[simp] theorem roster_reportLaunch (site l) : roster (reportLaunch s site l) = roster s := by
  unfold reportLaunch
  split <;> simp

/-! ## Apertures -/

@[simp] theorem roster_protRecord (fn off write) : roster (protRecord s fn off write) = roster s := by simp [protRecord]
@[simp] theorem roster_answerBar2 (bytes poisoned) :
    roster (answerBar2 s bytes poisoned) = roster s := by simp [answerBar2]

/-! ## Ash rings -/

@[simp] theorem roster_loseEvent (fn ty n) : roster (loseEvent s fn ty n) = roster s := by simp [loseEvent]

@[simp] theorem roster_postAsh (fn e alert) : roster (postAsh s fn e alert).2 = roster s := by
  unfold postAsh
  dsimp only
  split <;> rename_i h <;> simp [roster_snd h]

@[simp] theorem roster_reportLost (fn) : roster (reportLost s fn) = roster s := by
  unfold reportLost
  split <;> rename_i h <;> simp [roster_snd h]

@[simp] theorem roster_deliverAsh (e fn) : roster (deliverAsh s e fn) = roster s := by
  unfold deliverAsh
  dsimp only
  split
  · simp
  · split <;> rename_i h <;> simp [roster_snd h]

/-! ## Training and boot -/

@[simp] theorem roster_revokeSlots (i) : roster (revokeSlots s i) = roster s := by simp [revokeSlots]
@[simp] theorem roster_securityTests (found) : roster (securityTests s found) = roster s := by simp [securityTests]
@[simp] theorem roster_foundChanges (l) : roster (foundChanges s l) = roster s := by simp [foundChanges]

@[simp] theorem roster_publishAll (n) : roster (publishAll n s) = roster s := by
  induction n generalizing s with
  | zero => rfl
  | succ n ih => simp [publishAll, ih]

@[simp] theorem roster_firstRoutes : roster (firstRoutes s) = roster s := by simp [firstRoutes]

@[simp] theorem roster_loadJournal : roster (loadJournal s) = roster s := by
  unfold loadJournal
  split <;> simp

@[simp] theorem roster_startCycle (fb) : roster (startCycle s fb) = roster s := by
  unfold startCycle
  split <;> simp

@[simp] theorem roster_startDraught (power) : roster (startDraught s power) = roster s := by simp [startDraught]

@[simp] theorem roster_finalState (power) : roster (finalState s power) = roster s := by
  unfold finalState
  split <;> simp

@[simp] theorem roster_trainLinks (t lanes) : roster (trainLinks s t lanes) = roster s := by simp [trainLinks]
@[simp] theorem roster_train (b t i found) : roster (train s b t i found) = roster s := by simp [train]
@[simp] theorem roster_failBoot : roster (failBoot s) = roster s := by simp [failBoot]
@[simp] theorem roster_setRecord (b r) : roster (setRecord s b r) = roster s := by simp [setRecord]

/-! ## Tenant and queue commands -/

@[simp] theorem roster_drainQueue (n q) : roster (drainQueue s n q) = roster s := by simp [drainQueue]
@[simp] theorem roster_finishDrain (fn t n q) : roster (finishDrain s fn t n q) = roster s := by simp [finishDrain]

/-! ## Power-up and the tray -/

@[simp] theorem roster_enterBoot (katOk) : roster (enterBoot s katOk) = roster s := by
  unfold enterBoot
  dsimp only
  split
  · rfl
  · split
    · simp
    · split <;> simp

@[simp] theorem roster_abandonPowerUp : roster (abandonPowerUp s) = roster s := by simp [abandonPowerUp]
@[simp] theorem fresh_packageReset (h : FreshRoster (roster s)) : FreshRoster (roster (packageReset s)) := by simp [packageReset, h]
@[simp] theorem fresh_resetFor1ms (h : FreshRoster (roster s)) : FreshRoster (roster (resetFor1ms s)) := by simp [resetFor1ms, h]
@[simp] theorem roster_coolantChange (event was is) :
    roster (coolantChange s event was is) = roster s := by simp [coolantChange]
@[simp] theorem roster_trayConditions : roster (trayConditions s) = roster s := by simp [trayConditions]
@[simp] theorem roster_discardTray : roster (discardTray s) = roster s := by simp [discardTray]

/-! ## Draught and security commands -/

@[simp] theorem roster_zeroise : roster (zeroise s) = roster s := by simp [zeroise]

/-! ## Engine commands -/

@[simp] theorem roster_readBlob (n msg) : roster (readBlob s n msg).2 = roster s := by simp [readBlob]
@[simp] theorem roster_loadTable (n owned k b) : roster (loadTable s n owned k b) = roster s := by simp [loadTable]

/-! ## Region commands -/

@[simp] theorem roster_drawKey : roster (drawKey s) = roster s := by simp [drawKey]

@[simp] theorem roster_runRegionDefine (fn t) : roster (runRegionDefine fn t s) = roster s := by
  unfold runRegionDefine
  simp only [roster_ite, roster_arg, roster_fail, ite_eq_left_iff]
  intros
  split <;> simp

/-! ## System commands -/

@[simp] theorem roster_runFwUpdate (fn t) : roster (runFwUpdate fn t s) = roster s := by simp [runFwUpdate]

/-! ## Islands and tokens -/

@[simp] theorem roster_tokenPeriod (f) : roster (tokenPeriod s f) = roster s := by simp [tokenPeriod]

/-! ## Thermal cycles -/

@[simp] theorem roster_cycleStep (fb) : roster (cycleStep s fb) = roster s := by simp [cycleStep]

/-! ## Ember micro-operations -/

@[simp] theorem roster_fixTables (site en) :
    roster (fixTables s site en) = roster s := roster_foldl (fun _ _ => roster_modHearth _ _ _) _ _
@[simp] theorem roster_emberSkip (site ember id st det) :
    roster (emberSkip s site ember id st det) = roster s := by simp [emberSkip]
@[simp] theorem roster_setRun (site ember r) : roster (setRun s site ember r) = roster s := by simp [setRun]
@[simp] theorem roster_emberSees (p d) : roster (emberSees s p d).2 = roster s := by simp [emberSees]

/-! ## Matrix items -/

@[simp] theorem roster_startItem (site q num quad) : roster (startItem s site q num quad) = roster s := by simp [startItem]

/-! ## Sequencer instructions -/

@[simp] theorem roster_noteFetch (site) : roster (noteFetch s site) = roster s := by
  unfold noteFetch
  split <;> simp

@[simp] theorem roster_retireTo (site pc f) : roster (retireTo s site pc f) = roster s := by simp [retireTo]
@[simp] theorem roster_retire (site f) : roster (retire s site f) = roster s := by simp [retire]
@[simp] theorem roster_illegalOp (site) : roster (illegalOp s site) = roster s := by simp [illegalOp]

theorem roster_seqAmid {α : Type} {f : State → α × State} (h : ∀ s, roster (f s).2 = roster s) (site) :
    roster (seqAmid s site f).2 = roster s := roster_amid s h _ _ _

@[simp] theorem roster_loadStaging (size site w a) : roster (loadStaging size site s w a) = roster s := by
  unfold loadStaging
  have load := roster_seqAmid s (f := fun s => stRead s site a size (bySequencer site)) (fun _ => by simp) site
  split <;> rename_i h <;> simp [roster_snd h, load]

@[simp] theorem roster_storeStaging (size site w a) :
    roster (storeStaging size site s w a) = roster s := by simp [storeStaging]

@[simp] theorem roster_loadRegion (size site w a) : roster (loadRegion size site s w a) = roster s := by
  unfold loadRegion
  have load := roster_seqAmid s (f := fun s => readSpan s (hearth s site).tenant a size (bySequencer site)) (fun _ => by simp) site
  split <;> rename_i h <;> simp [roster_snd h, load]

@[simp] theorem roster_storeRegion (size site w a) : roster (storeRegion size site s w a) = roster s := by
  unfold storeRegion
  split <;> rename_i h <;> simp [roster_snd h]

@[simp] theorem roster_issueBlock (site q rd b) : roster (issueBlock s site q rd b) = roster s := by simp [issueBlock]

/-! ## SMBus -/

@[simp] theorem roster_smbRow (pec) {run : State → State} (h : ∀ s, roster (run s) = roster s) :
    roster (smbRow s pec run) = roster s := by simp [smbRow, h]

@[simp] theorem roster_smbAnswer (bytes) : roster (smbAnswer s bytes) = roster s := by simp [smbAnswer]
@[simp] theorem roster_smbReject : roster (smbReject s) = roster s := by simp [smbReject]

/-! ## Transfers and streams -/

@[simp] theorem roster_haltChannel (site ch) : roster (haltChannel s site ch) = roster s := by simp [haltChannel]

/-! ## Sweep -/

@[simp] theorem roster_setTracker (k l) : roster (setTracker s k l) = roster s := by simp [setTracker]

@[simp] theorem roster_feedTracker (site bank sub u d value addr synd) :
    roster (feedTracker s site bank sub u d value addr synd) = roster s := by
  unfold feedTracker
  dsimp only
  split <;> simp

@[simp] theorem roster_countSweep (p event) : roster (countSweep s p event) = roster s := by simp [countSweep]

@[simp] theorem roster_sweepCorrected (p h w flips) : roster (sweepCorrected s p h w flips) = roster s := by
  unfold sweepCorrected
  dsimp only
  split <;> simp

@[simp] theorem roster_sweepWord (hbm unit addr) : roster (sweepWord s hbm unit addr) = roster s := by
  unfold sweepWord
  dsimp only
  split
  · rfl
  · split
    · simp
    · split
      · simp
      · simp
      · split <;> simp
      · simp
      · simp

@[simp] theorem roster_visitUnit (u n) : roster (visitUnit s u n) = roster s := by
  cases u <;> simp [visitUnit]

@[simp] theorem roster_sweepAdvance (u) : roster (sweepAdvance s u) = roster s := by simp [sweepAdvance]

end Sys2Proof.Machine
end

section
/-! Every command keeps the numbers of the dispatches apart and below the next one (R154). -/

namespace Sys2Proof.Machine

/-- Whatever the outcome leaves has a fresh roster if `s` had one. -/
def KeepsFresh (s : State) (o : Out) : Prop := FreshRoster (roster s) → ∀ t, o = .next t → FreshRoster (roster t)

section
variable {s t : State}

theorem keepsFresh_next (h : FreshRoster (roster s) → FreshRoster (roster t)) : KeepsFresh s (.next t) := by
  rintro fresh u ⟨⟩
  exact h fresh

theorem keepsFresh_guarded {ok : Bool} {f : Fault} (h : FreshRoster (roster s) → FreshRoster (roster t)) :
    KeepsFresh s (guarded ok f t) := fun fresh _ e => guarded_next e ▸ h fresh

end

variable (s : State)

/-! ## The shared rows -/

theorem keepsFresh_mailRow {run : Taken → State → State}
    (k : ∀ t s, FreshRoster (roster s) → FreshRoster (roster (run t s))) (fn slot op) :
    KeepsFresh s (mailRow fn slot op s run) := by
  refine keepsFresh_guarded fun h => ?_
  split
  · exact h
  · split
    · exact h
    · split
      · simp [h]
      · exact k _ _ (by simp [h])

theorem keepsFresh_chainRow {effect : State → State} (h : ∀ s, roster (effect s) = roster s) (port ty f) :
    KeepsFresh s (chainRow port ty f s effect) := keepsFresh_guarded fun fresh => by simp [h, fresh]

theorem keepsFresh_plainRow {effect : State → State} (h : ∀ s, roster (effect s) = roster s) (port ty f) :
    KeepsFresh s (plainRow port ty f s effect) := keepsFresh_guarded fun fresh => by simp [h, fresh]

theorem keepsFresh_takeClaimed (t q op checks) : KeepsFresh s (takeClaimed t q op checks s) := by
  refine keepsFresh_guarded fun h => fresh_takeDesc _ h _ _ _ fun s id b => ?_
  split <;> simp

theorem keepsFresh_takeStarted (t q op checks) : KeepsFresh s (takeStarted t q op checks s) := by
  refine keepsFresh_guarded fun h => fresh_takeDesc _ h _ _ _ fun s id b => ?_
  split <;> simp

/-- The meaning of a micro-operation sees the state with the operation counted and, where it waits, gives back the one before. -/
theorem keepsFresh_microRow {run : State → EmberEntry → EmberRun → MicroOp → State} (opc site ember)
    (h : ∀ t en r u, roster t = roster s → roster (run t en r u) = roster s) :
    KeepsFresh s (microRow opc site ember s run) := by
  refine keepsFresh_guarded fun fresh => ?_
  split
  · exact fresh
  · split <;> simp [h, fresh]

theorem keepsFresh_laneRow (opc site ember val) : KeepsFresh s (laneRow opc site ember s val) :=
  keepsFresh_microRow s _ _ _ fun t en r u h => by simp [h]

theorem keepsFresh_seqRow {run : State → Nat → State} (h : ∀ s w, roster (run s w) = roster s) (site isOp fieldsOk) :
    KeepsFresh s (seqRow site isOp fieldsOk s run) := by
  refine keepsFresh_guarded fun fresh => ?_
  split <;> simp [h, fresh]

theorem keepsFresh_opRow {run : State → Nat → State} (h : ∀ s w, roster (run s w) = roster s) (op site fieldsOk) :
    KeepsFresh s (opRow op site fieldsOk s run) := keepsFresh_seqRow s h _ _ _

theorem keepsFresh_rdRow (op site fieldsOk val) : KeepsFresh s (rdRow op site fieldsOk s val) :=
  keepsFresh_opRow s (fun _ _ => roster_retire _ _ _) _ _ _

theorem keepsFresh_stagingAccess {run : State → Nat → Nat → State} (h : ∀ s w a, roster (run s w a) = roster s)
    (op site size) : KeepsFresh s (stagingAccess op site size s run) := keepsFresh_opRow s (fun s w => by simp [h]) _ _ _

theorem keepsFresh_regionAccess {run : State → Nat → Nat → State} (h : ∀ s w a, roster (run s w a) = roster s)
    (op site size) : KeepsFresh s (regionAccess op site size s run) := keepsFresh_opRow s (fun s w => by simp [h]) _ _ _

theorem keepsFresh_vectorRow (op site) : KeepsFresh s (vectorRow op site s) := by
  refine keepsFresh_guarded fun h => ?_
  split
  · exact h
  · split <;> rename_i e <;> simp [roster_snd e, h]

theorem keepsFresh_streamStart (dir site item) : KeepsFresh s (streamStart dir site item s) := by
  refine keepsFresh_guarded fun h => ?_
  split <;> simp [h]

theorem keepsFresh_streamComplete (dir site item) : KeepsFresh s (streamComplete dir site item s) := by
  refine keepsFresh_guarded fun h => ?_
  split
  · simp [h]
  · split
    · exact h
    · split
      · exact h
      · split
        · exact h
        · split
          · simp [h]
          · split <;> rename_i e <;> simp [roster_snd e, h]

/-! ## Rows of more than one outcome -/

theorem keepsFresh_execLinkFlitSend (link far) :
    KeepsFresh s (execLinkFlitSend link far s) := by
  refine keepsFresh_guarded fun h => ?_
  dsimp only
  split
  · simp [h]
  · split
    · exact h
    · split
      · simp [h]
      · split <;> simp [h]

theorem keepsFresh_execEpochChange : KeepsFresh s (execEpochChange s) := by
  refine keepsFresh_next fun h => ?_
  split
  · simp [h]
  · split <;> simp [h]

theorem keepsFresh_execConfigRequest (req) : KeepsFresh s (execConfigRequest req s) := by
  refine keepsFresh_guarded fun h => ?_
  split
  · simp [h]
  · simp only [roster_ite, roster_countU, roster_modPcie]
    split
    · exact h
    · split
      · exact h
      · split <;> simp [h]

theorem keepsFresh_execChainFrameSend (port) : KeepsFresh s (execChainFrameSend port s) := by
  refine keepsFresh_guarded fun h => ?_
  dsimp only
  split
  · exact h
  · split
    · simp [h]
    · split
      · exact h
      · split <;> simp [h]

theorem keepsFresh_execTurnoverDrained (disp) : KeepsFresh s (execTurnoverDrained disp s) := by
  refine keepsFresh_next fun h => ?_
  split
  · exact h
  · split
    · exact h
    · dsimp only
      split <;> simp [h]

theorem keepsFresh_execIbufFill (site) : KeepsFresh s (execIbufFill site s) := by
  refine keepsFresh_guarded fun h => ?_
  simp only [roster_ite, roster_endSite, roster_countAt, freshRoster_ite, h, implies_true, true_and]
  intros
  split <;> rename_i e <;> simp [roster_snd e, h]

theorem keepsFresh_execEnvironmentStart (site lane) : KeepsFresh s (execEnvironmentStart site lane s) := by
  refine keepsFresh_guarded fun h => ?_
  split
  · exact h
  · split
    · exact h
    · split <;> simp [h]

theorem keepsFresh_execApertureRead (fn offset len) :
    KeepsFresh s (execApertureRead fn offset len s) := by
  refine keepsFresh_guarded fun h => ?_
  dsimp only
  split
  · exact h
  · split
    · simp [h]
    · split
      · simp [h]
      · split <;> rename_i e <;> simp [roster_snd e, h]

theorem keepsFresh_execStokerStart (found) : KeepsFresh s (execStokerStart found s) := by
  refine keepsFresh_guarded fun h => ?_
  split
  · exact h
  · split
    · simp [h]
    · split
      · dsimp only
        split <;> simp [h]
      · exact h

theorem keepsFresh_execQueueDestroy (fn slot) : KeepsFresh s (execQueueDestroy fn slot s) := by
  unfold execQueueDestroy
  split
  · exact fun _ _ e => nomatch e
  · split
    · exact keepsFresh_next fun h => by simp [h]
    · exact keepsFresh_mailRow s (fun t s h => by simp [h]) _ _ _

theorem keepsFresh_execAndironModelLoad (fn slot) : KeepsFresh s (execAndironModelLoad fn slot s) := by
  refine keepsFresh_mailRow s (fun t s h => ?_) _ _ _
  dsimp only
  split
  · simp [h]
  · split
    next e =>
      split
      · simp [roster_snd e, h]
      · split
        · simp [roster_snd e, h]
        · split <;> simp [roster_snd e, h]
    next e => simp [roster_snd e, h]

theorem keepsFresh_execEmberActLoad (fn slot) : KeepsFresh s (execEmberActLoad fn slot s) := by
  refine keepsFresh_mailRow s (fun t s h => ?_) _ _ _
  simp only [roster_ite, roster_arg, roster_fail, freshRoster_ite, h, implies_true, true_and]
  intros
  split <;> rename_i e <;> simp [roster_snd e, h]

theorem keepsFresh_execSysHello (fn slot) : KeepsFresh s (execSysHello fn slot s) := by
  refine keepsFresh_mailRow s (fun t s h => ?_) _ _ _
  split
  · simp [h]
  · split <;> simp [h]

theorem keepsFresh_execDramOver (site layer) : KeepsFresh s (execDramOver site layer s) := by
  refine keepsFresh_guarded fun h => ?_
  dsimp only
  split <;> simp [h]

theorem keepsFresh_execEmberProgramStart (site ember) : KeepsFresh s (execEmberProgramStart site ember s) := by
  refine keepsFresh_guarded fun h => ?_
  dsimp only
  split
  · exact h
  · split
    · exact h
    · split
      · simp [h]
      · split <;> simp [h]

theorem keepsFresh_execEmberEnd (site ember) : KeepsFresh s (execEmberEnd site ember s) := by
  refine keepsFresh_microRow s _ _ _ fun t en r u h => ?_
  dsimp only
  split
  · split
    · rfl
    · split <;> rename_i h' <;> simp [roster_snd h', h]
  · split <;> rename_i h' <;> simp [roster_snd h', h]

theorem keepsFresh_execEmberLoad (site ember) : KeepsFresh s (execEmberLoad site ember s) := by
  refine keepsFresh_microRow s _ _ _ fun t en r u h => ?_
  dsimp only
  split
  · simp [h]
  · split <;> rename_i h' <;> simp [roster_snd h', h]

theorem keepsFresh_execEmberStore (site ember) : KeepsFresh s (execEmberStore site ember s) := by
  refine keepsFresh_microRow s _ _ _ fun t en r u h => ?_
  dsimp only
  split
  · simp [h]
  · split
    · split <;> rename_i h' <;> simp [roster_snd h', h]
    · split
      · simp [h]
      · split <;> rename_i h' <;> simp [roster_snd h', h]

theorem keepsFresh_execEmberProgramEnd (site entry) : KeepsFresh s (execEmberProgramEnd site entry s) := by
  refine keepsFresh_guarded fun h => ?_
  split
  · exact h
  · split
    · exact h
    · dsimp only
      split <;> simp [h]

theorem keepsFresh_execTileStart (site item) : KeepsFresh s (execTileStart site item s) := by
  refine keepsFresh_guarded fun h => ?_
  split
  · exact h
  · dsimp only
    split
    · exact h
    · split
      · simp [h]
      · split
        · simp [h]
        · split <;> simp [h]

theorem keepsFresh_execTileComplete (site item) : KeepsFresh s (execTileComplete site item s) := by
  refine keepsFresh_guarded fun h => ?_
  split
  · exact h
  · split
    · exact h
    · split <;> rename_i e <;> simp [roster_snd e, h]

theorem keepsFresh_execIssue (site) : KeepsFresh s (execIssue site s) := by
  refine keepsFresh_opRow s (fun s w => ?_) _ _ _
  have block (a) := roster_seqAmid s (f := fun s => stRead s site a 32 (bySequencer site)) (fun _ => by simp) site
  dsimp only
  split
  · simp
  · split
    · simp
    · split
      next h => simp [roster_snd h, block]
      next h =>
        split
        · simp [roster_snd h, block]
        · split
          · simp [roster_snd h, block]
          · simp [roster_snd h, block]
          · split <;> simp [roster_snd h, block]

theorem keepsFresh_execDmaTransferComplete (site channel) :
    KeepsFresh s (execDmaTransferComplete site channel s) := by
  refine keepsFresh_guarded fun h => ?_
  split
  · simp [h]
  · split
    · exact h
    · split
      · exact h
      · split <;> rename_i e <;> simp [roster_snd e, h]

theorem keepsFresh_execErasureMark : KeepsFresh s (execErasureMark s) := by
  refine keepsFresh_next fun h => ?_
  split
  · exact h
  · simp only [roster_ite, roster_lineRecord, roster_modMem, ite_self]
    exact h

theorem keepsFresh_execPerstNAssert : KeepsFresh s (execPerstNAssert s) := by
  refine keepsFresh_next fun h => ?_
  split
  · exact h
  · have resets (u : State) (k : roster u = roster s) (l : List Nat) :
        FreshRoster (roster (l.foldl (fun s t => tenantReset s t false) u)) :=
      fresh_foldl (fun s t h => fresh_tenantReset s h t false) l (by rwa [k])
    dsimp only
    split
    · exact resets _ (by simp) _
    · simp only [roster_foldl, roster_resetMailbox, implies_true]
      exact resets _ (by simp) _

theorem keepsFresh_execVfDisable (numVfs vfEnable) : KeepsFresh s (execVfDisable numVfs vfEnable s) := by
  refine keepsFresh_guarded fun h => ?_
  split
  · exact h
  · simp only [roster_foldl, roster_setPcieFn, implies_true]
    exact fresh_foldl (fun s t h => fresh_endTenant s h t) _ (by simp [h])

theorem keepsFresh_execMbxTakeRequest (fn) : KeepsFresh s (execMbxTakeRequest fn s) := by
  unfold execMbxTakeRequest
  split
  · exact fun _ _ e => nomatch e
  · split
    · exact keepsFresh_next id
    · split
      · exact fun _ _ e => nomatch e
      · exact keepsFresh_next fun h => by simp [h]

theorem keepsFresh_execVauxUp (strap) : KeepsFresh s (execVauxUp strap s) := by
  refine keepsFresh_guarded fun h => ?_
  split <;> exact h

theorem keepsFresh_execVauxLoss : KeepsFresh s (execVauxLoss s) := by
  refine keepsFresh_next fun h => ?_
  split
  · exact fresh_enterOff s
  · exact h

theorem keepsFresh_execSmbResetReq (value pec katOk) : KeepsFresh s (execSmbResetReq value pec katOk s) := by
  refine keepsFresh_next fun h => ?_
  unfold smbRow
  split
  · exact h
  · split <;> simp [h]

/-! ## All rows, those with one argument together -/

theorem keepsFresh_exec (c : Instr) : KeepsFresh s (exec c s) := by
  cases c
  all_goals dsimp only [exec]
  case counterSnapshot | entropyHealthFail | entropyRerunDone | drbgReseed | fptPublish | detourBeginReceive |
    relayedFlitReceive | devtimeSync | perstNRelease | bootTimeout | drivePwrEn | pwrGoodRise | pwrGoodTimeout | pwrGoodFall |
    pkgResetAssert | pkgResetRelease | powerUpRerun | coolOkChange | hardwareTrip | traySensorLost | powerTokenPeriod |
    rEstUpdate | capLoopPeriod | heatBalanceCheck | thermalCycleSample | journalAppend | layerMapRefresh | quadrantRotation |
    smbStatus | smbPkgPower | smbTemps | smbTray | smbThermalCycles | smbFwLevel | smbTripCause | alertResponseAddress =>
    exact keepsFresh_next fun h => by simp [h]
  case linkDataReceive | linkCtrlReceive | unitFenced | ctrlSend | replayTimeout | groupSuspect | retryStorm | retrainStart |
    retrainBoundMiss | detourRetry | outputPortGrant | busMasterEnableSet | msixUnmask | functionLevelReset | lowHalfRead |
    mbxReqPiWrite | mbxRspCiWrite | mailboxReset | mailboxResetDone | urgentGo | dblSqTailWrite | dblCqHeadWrite |
    dblSignalWrite | ashCiWrite | chainProbe | frameDiscard | chainAckDue | chainRetransmit | pcsLock | initProbe | chainPortUp
    | idleProbe | chainPortFail | chainPortRetry | pcsLockLoss | recipeSiteEnd | undefinedDescriptorOpcode | lost | sensorSample
    | droop | islandDvfsPeriod | hbmHot | layerThrottle | layerUnthrottle | refreshIntervalShorten | refreshIntervalLengthen |
    rowRefresh | sweepVisit | bucketLeak =>
    exact keepsFresh_guarded fun h => by simp [h]
  case fptPersist | routingGeneration | flitAged | retiredHearthRequest | waitTimeout | recipeClaim | dispatchComplete |
    emberTokenClaim | ashEventArrive | ashRecordWrite | trainingRecordWrite | smbBoardCap =>
    refine keepsFresh_next fun h => ?_
    split <;> simp [h]
  case linkFlitSend => exact keepsFresh_execLinkFlitSend s _ _
  case epochChange => exact keepsFresh_execEpochChange s
  case escapeMove | trayRead =>
    refine keepsFresh_next fun h => ?_
    split
    · exact h
    · split <;> simp [h]
  case smbResetReq => exact keepsFresh_execSmbResetReq s _ _ _
  case perstNAssert => exact keepsFresh_execPerstNAssert s
  case vfDisable => exact keepsFresh_execVfDisable s _ _
  case configRequest => exact keepsFresh_execConfigRequest s _
  case chainPortConfig | chainDomainBind | chainDomainUnbind | tenantCreate | tenantDestroy | tenantReset | tenantHalt |
    tenantResume | tenantNotify | queueCreate | draughtCapSet | draughtRampSet | draughtStatus | draughtTripTest |
    securityZeroise | andironModelUnload | counterWindowSet | ashRingConfig | ashBucketConfig | sweepConfig | regionDefine |
    regionDelete | regionFill | apertureUnmap | sysStatus | fwUpdate | trainingPolicy =>
    apply keepsFresh_mailRow
    intro t s h
    simp [h]
  case chainDomainExport | tenantRelease | apertureMap =>
    apply keepsFresh_mailRow
    intro t s h
    dsimp only
    split <;> simp [h]
  case chainWrite | chainReadReq | chainReadResp | chainErrorResp =>
    apply keepsFresh_chainRow
    intro s
    simp
  case chainAck | chainNak =>
    apply keepsFresh_plainRow
    intro s
    simp
  case chainFrameSend => exact keepsFresh_execChainFrameSend s _
  case chainReadTimeout | andironLaunchStart | andironIteration | environmentEnd | launchComplete | vectorOpComplete |
    dmaTransferStart | spareColumnRepair =>
    refine keepsFresh_guarded fun h => ?_
    split <;> simp [h]
  case runRecipe | emberRun =>
    apply keepsFresh_takeClaimed
  case andironBatch | copy | fill =>
    apply keepsFresh_takeStarted
  case fence | signal | wait | turnover =>
    refine keepsFresh_guarded fun h => fresh_takeDesc _ h _ _ _ fun s id b => ?_
    split <;> simp
  case turnoverDrained => exact keepsFresh_execTurnoverDrained s _
  case ibufFill => exact keepsFresh_execIbufFill s _
  case environmentStart => exact keepsFresh_execEnvironmentStart s _ _
  case apertureRead => exact keepsFresh_execApertureRead s _ _ _
  case apertureWrite | logicOver =>
    refine keepsFresh_guarded fun h => ?_
    dsimp only
    split
    · exact h
    · split <;> simp [h]
  case stokerStart => exact keepsFresh_execStokerStart s _
  case tenantAssign | attestReport | floorplanRead | regionQuery =>
    apply keepsFresh_mailRow
    intro t s h
    split <;> simp [h]
  case queueDestroy => exact keepsFresh_execQueueDestroy s _ _
  case andironModelLoad => exact keepsFresh_execAndironModelLoad s _ _
  case emberActLoad => exact keepsFresh_execEmberActLoad s _ _
  case sysHello => exact keepsFresh_execSysHello s _ _
  case dramOver => exact keepsFresh_execDramOver s _ _
  case emberProgramStart => exact keepsFresh_execEmberProgramStart s _ _
  case emberEnd => exact keepsFresh_execEmberEnd s _ _
  case emberLoad => exact keepsFresh_execEmberLoad s _ _
  case emberStore => exact keepsFresh_execEmberStore s _ _
  case emberAdd | emberSub | emberMul | emberScale | emberAct | emberCvt | emberMov =>
    apply keepsFresh_laneRow
  case emberLoop =>
    apply keepsFresh_microRow
    intro t en r u h
    simp [h]
  case emberProgramEnd => exact keepsFresh_execEmberProgramEnd s _ _
  case tileStart => exact keepsFresh_execTileStart s _ _
  case tileComplete => exact keepsFresh_execTileComplete s _ _
  case illegal =>
    apply keepsFresh_seqRow
    intro s w
    simp
  case alu | addi | andi | ori | xori | slli | srli | srai | movi | movk0 | movk1 | movk2 | movk3 | rdf =>
    apply keepsFresh_rdRow
  case cmp | cmpi | plog | br | call | jr | waitq | rdq | waitf | mfs | mts | iflush | trap | rte | nop | endRecipe =>
    apply keepsFresh_opRow
    intro s w
    simp
  case lds | lws | sts | sws =>
    apply keepsFresh_stagingAccess
    intro s w a
    simp
  case ldr | lwr | str | swr =>
    apply keepsFresh_regionAccess
    intro s w a
    simp
  case issue => exact keepsFresh_execIssue s _
  case vectorAdd | vectorSub | vectorMul | vectorMax | vectorMin | vectorFma | vectorScale | rowscale | colscale | vectorAct |
    rsqrt | rsum | rmax | vectorCvt | cvti =>
    apply keepsFresh_vectorRow
  case dmaTransferComplete => exact keepsFresh_execDmaTransferComplete s _ _
  case push | pull =>
    apply keepsFresh_streamStart
  case pushComplete | pullComplete =>
    apply keepsFresh_streamComplete
  case erasureMark => exact keepsFresh_execErasureMark s
  case registerWrite => exact keepsFresh_guarded fun h => by simp [h]
  case mbxTakeRequest => exact keepsFresh_execMbxTakeRequest s _
  case vauxUp => exact keepsFresh_execVauxUp s _
  case vauxLoss => exact keepsFresh_execVauxLoss s

/-- Settles O59: every command keeps the numbers fresh, and the tick leaves the dispatches as they are. -/
theorem dispatchNumbersStayFresh : Obligations.DispatchNumbersStayFresh := by
  intro s t fresh h
  rw [freshIds_iff_roster] at fresh ⊢
  cases pending : s.pending with
  | nil =>
    rw [step_of_pending_nil pending] at h
    cases h
    rwa [tick_only]
  | cons c rest =>
    rw [step_of_pending_cons pending] at h
    exact keepsFresh_exec { s with pending := rest } c fresh t h

end Sys2Proof.Machine
end

section
/-! DOORBELLS (R151, R152, R170). A fold that ends dispatches ends each of its list and leaves the others as they are, which says
what a signal's new value does to the WAITs. -/

namespace Sys2Proof.Machine

variable {s t : State} {id : Nat}

/-! ## A queue that changes -/

theorem queue_modQueue_self (s : State) (n q : Nat) (f : Queue → Queue) : queue (modQueue s n q f) n q = f (queue s n q) :=
  queue_setQueue_self s n q _

theorem queue_modQueue_other (s : State) (n : Nat) {q k : Nat} (f : Queue → Queue) (h : k ≠ q) :
    queue (modQueue s n q f) n k = queue s n k := queue_setQueue_other s n _ h

/-- One queue of a tenant becomes `x`; outside the tenants only counters may differ. -/
structure QueueBecomes (s t : State) (n q : Nat) (x : Queue) : Prop where
  own : queue t n q = x
  others : ∀ k, k ≠ q → queue t n k = queue s n k
  frame : t = { s with work := { s.work with tenants := t.work.tenants }, counters := t.counters }

theorem queueBecomes_modQueue (s : State) (n q : Nat) (f : Queue → Queue) :
    QueueBecomes s (modQueue s n q f) n q (f (queue s n q)) where
  own := queue_modQueue_self s n q f
  others _ hk := queue_modQueue_other s n f hk
  frame := rfl

theorem QueueBecomes.countT {n q : Nat} {x : Queue} (h : QueueBecomes s t n q x) (event tag k : Nat) :
    QueueBecomes s (countT t event tag k) n q x where
  own := h.own
  others := h.others
  frame := congrArg (fun u : State => { u with counters := (Machine.countT t event tag k).counters }) h.frame

theorem QueueBecomes.of_countT {n q event tag k : Nat} {x : Queue} (h : QueueBecomes (Machine.countT s event tag k) t n q x) :
    QueueBecomes s t n q x where
  own := h.own
  others := h.others
  frame := h.frame.trans rfl

theorem queueBecomes_rejectQueue (s : State) (n q : Nat) :
    QueueBecomes s (rejectQueue s n q) n q { queue s n q with indexError := true } := (queueBecomes_modQueue s n q _).countT _ _ _

/-! ## Dispatches that end -/

/-- A dispatch that has ended with one more report (R163). -/
def Disp.closed (d : Disp) (time : Nat) (st : Status) (det : Nat) : Disp :=
  { d with reports := d.reports ++ [{ site := 0xFFFF, status := st, detail := det }], working := [], ended := true,
           endedAt := time, unclaimed := false }

theorem disp?_endWith_self {d : Disp} (h : disp? s id = some d) (st : Status) (det : Nat) :
    disp? (endWith s id st det) id = some (d.closed (now s) st det) := disp?_modDisp_self s h fun _ => rfl

theorem disp?_endWith_other {k : Nat} (h : id ≠ k) (st : Status) (det : Nat) : disp? (endWith s k st det) id = disp? s id :=
  disp?_modDisp_other s _ (fun _ => rfl) h

theorem disp?_foldl_endWith_other (st : Status) (det : Nat) (l : List Disp) (s : State) (h : ∀ d ∈ l, id ≠ d.id) :
    disp? (l.foldl (fun s d => endWith s d.id st det) s) id = disp? s id := by
  induction l generalizing s with
  | nil => rfl
  | cons d l ih =>
    rw [List.foldl_cons, ih _ fun e he => h e (List.mem_cons_of_mem _ he), disp?_endWith_other (h d List.mem_cons_self)]

/-- A dispatch that a list names once ends once. -/
theorem disp?_foldl_endWith_once (st : Status) (det : Nat) (l : List Disp) (s : State) {d e : Disp} (once : (l.map (·.id)).Nodup)
    (he : e ∈ l) (h : disp? s e.id = some d) :
    disp? (l.foldl (fun s d => endWith s d.id st det) s) e.id = some (d.closed (now s) st det) := by
  induction l generalizing s with
  | nil => nomatch he
  | cons c l ih =>
    rw [List.map_cons, List.nodup_cons] at once
    have apart : ∀ x ∈ l, c.id ≠ x.id := fun x hx same => once.1 (same ▸ List.mem_map_of_mem hx)
    rcases List.mem_cons.mp he with rfl | later
    · rw [List.foldl_cons, disp?_foldl_endWith_other st det l _ apart, disp?_endWith_self h]
    · rw [List.foldl_cons, ih _ once.2 later ((disp?_endWith_other (Ne.symm (apart e later)) st det).trans h)]
      rfl

/-- A dispatch is there, and has ended. -/
def HasEnded (s : State) (id : Nat) : Prop := ∃ e, disp? s id = some e ∧ e.ended = true

theorem hasEnded_endWith (st : Status) (det : Nat) {k : Nat} (h : HasEnded s id ∨ id = k ∧ (disp? s id).isSome) :
    HasEnded (endWith s k st det) id := by
  by_cases same : id = k
  · subst same
    have there : (disp? s id).isSome := h.elim (fun ⟨e, he, _⟩ => by rw [he]; rfl) And.right
    obtain ⟨d, hd⟩ := Option.isSome_iff_exists.mp there
    exact ⟨_, disp?_endWith_self hd st det, rfl⟩
  · obtain ⟨e, he, ended⟩ := h.resolve_right fun k => same k.1
    exact ⟨e, (disp?_endWith_other same st det).trans he, ended⟩

theorem hasEnded_foldl_endWith (st : Status) (det : Nat) (l : List Disp) (s : State)
    (h : HasEnded s id ∨ (∃ d ∈ l, id = d.id) ∧ (disp? s id).isSome) :
    HasEnded (l.foldl (fun s d => endWith s d.id st det) s) id := by
  induction l generalizing s with
  | nil => exact h.resolve_right fun ⟨⟨_, hd, _⟩, _⟩ => nomatch hd
  | cons c l ih =>
    rw [List.foldl_cons]
    apply ih
    by_cases same : id = c.id
    · exact .inl (hasEnded_endWith st det (h.imp_right fun k => ⟨same, k.2⟩))
    · rw [disp?_endWith_other same]
      refine h.imp (fun k => hasEnded_endWith st det (.inl k)) fun ⟨⟨d, hd, k⟩, there⟩ => ⟨⟨d, ?_, k⟩, there⟩
      rcases List.mem_cons.mp hd with rfl | hd
      · exact absurd k same
      · exact hd

theorem mem_of_disp? {d : Disp} (h : disp? s id = some d) : d ∈ s.work.disps := List.mem_of_find?_eq_some h

theorem id_of_disp? {d : Disp} (h : disp? s id = some d) : d.id = id := by simpa using List.find?_some h

/-! ## WAITs that a signal meets -/

theorem disp?_wakeWaits_other (h : ∀ e ∈ s.work.disps, e.id = id → e.op ≠ 8) : disp? (wakeWaits s) id = disp? s id := by
  refine disp?_foldl_endWith_other _ _ _ _ fun e he same => ?_
  obtain ⟨there, waits⟩ := List.mem_filter.mp he
  simp only [Bool.and_eq_true, beq_iff_eq] at waits
  exact h e there same.symm waits.1.1

theorem hasEnded_wakeWaits {d : Disp} (h : disp? s id = some d) (op : d.op = 8) (met : waitMet s d = true) :
    HasEnded (wakeWaits s) id := by
  apply hasEnded_foldl_endWith
  cases ended : d.ended with
  | true => exact .inl ⟨d, h, ended⟩
  | false =>
    refine .inr ⟨⟨d, List.mem_filter.mpr ⟨mem_of_disp? h, ?_⟩, (id_of_disp? h).symm⟩, by rw [h]; rfl⟩
    simp [op, ended, met]

/-- WAITs end; of everything else nothing differs. -/
theorem wakeWaits_only (s : State) : wakeWaits s = { s with work := { s.work with disps := (wakeWaits s).work.disps } } :=
  foldl_keeps (fun u : State => u = { s with work := { s.work with disps := u.work.disps } }) _
    (fun u d h => by rw [h]; rfl) _ s rfl

theorem tenant_wakeWaits (s : State) (n : Nat) : tenant (wakeWaits s) n = tenant s n := by rw [wakeWaits_only]; rfl

theorem signalOf_wakeWaits (s : State) (n k : Nat) : signalOf (wakeWaits s) n k = signalOf s n k := by
  rw [signalOf, tenant_wakeWaits, ← signalOf]

theorem signalOf_putSignal_self (s : State) (n k : Nat) (v : Word) : signalOf (putSignal s n k v) n k = v := by
  rw [signalOf, putSignal, tenant_modTenant_self, lookD_putD, if_pos rfl]

theorem signalOf_putSignal_other (s : State) (n : Nat) {k j : Nat} (v : Word) (h : j ≠ k) :
    signalOf (putSignal s n k v) n j = signalOf s n j := by
  rw [signalOf, putSignal, tenant_modTenant_self, lookD_putD, if_neg h, ← signalOf]

/-! ## The rows -/

theorem dblSqTailWrite_gives (s : State) (fn q : Nat) (v : BitVec 32) (named : queueOk fn q = true)
    (reach : fnReachable s fn = true) (isLive : live s = true) (there : (queue s fn q).state ≠ .absent) :
    let u := queue s fn q
    let x := v.toNat % 8192
    let new := (x + 2 * u.sqEntries - u.sqHead) % (2 * u.sqEntries)
    Gives (.dblSqTailWrite fn q v) s fun t =>
      (u.state = .active → x < 2 * u.sqEntries → new ≤ u.sqEntries → u.posted ≤ new → queue t fn q = { u with sqTail := x }) ∧
        (u.state = .draining ∨ 2 * u.sqEntries ≤ x ∨ u.sqEntries < new ∨ new < u.posted →
          queue t fn q = { u with indexError := true }) ∧
        (∀ k, k ≠ q → queue t fn k = queue s fn k) ∧
        t = { s with work := { s.work with tenants := t.work.tenants }, counters := t.counters } := by
  intro u x new
  have row : exec (.dblSqTailWrite fn q v) s = .next (writeSqTail s fn q v.toNat) := by
    show execDblSqTailWrite fn q v s = _
    simp [execDblSqTailWrite, Instr.wellFormed, guarded, named, reach, isLive]
  by_cases bad : u.state = .draining ∨ 2 * u.sqEntries ≤ x ∨ u.sqEntries < new ∨ new < u.posted
  · have out : writeSqTail s fn q v.toNat = rejectQueue (countT s 0x81A fn 1) fn q := by
      rw [writeSqTail, if_neg there, if_pos bad]
    have b : QueueBecomes s (writeSqTail s fn q v.toNat) fn q { u with indexError := true } :=
      .of_countT (out ▸ queueBecomes_rejectQueue _ _ _)
    refine gives_of_row row ⟨fun active inRing fits forward => ?_, fun _ => b.own, b.others, b.frame⟩
    rw [active] at bad
    exact absurd bad (by simp; omega)
  · have out : writeSqTail s fn q v.toNat = modQueue (countT s 0x81A fn 1) fn q fun u => { u with sqTail := x } := by
      rw [writeSqTail, if_neg there, if_neg bad]
    have b : QueueBecomes s (writeSqTail s fn q v.toNat) fn q { u with sqTail := x } :=
      .of_countT (out ▸ queueBecomes_modQueue _ _ _ _)
    exact gives_of_row row ⟨fun _ _ _ _ => b.own, fun h => absurd h bad, b.others, b.frame⟩

theorem dblCqHeadWrite_gives (s : State) (fn q : Nat) (v : BitVec 32) (named : queueOk fn q = true)
    (reach : fnReachable s fn = true) (isLive : live s = true) (there : (queue s fn q).state ≠ .absent) :
    let u := queue s fn q
    let x := v.toNat % 8192
    let left := (u.cqTail + 2 * u.cqEntries - x) % (2 * u.cqEntries)
    Gives (.dblCqHeadWrite fn q v) s fun t =>
      (x < 2 * u.cqEntries → left ≤ u.unread → queue t fn q = { u with cqHead := x }) ∧
        (2 * u.cqEntries ≤ x ∨ u.unread < left → queue t fn q = { u with indexError := true }) ∧
        (∀ k, k ≠ q → queue t fn k = queue s fn k) ∧
        t = { s with work := { s.work with tenants := t.work.tenants }, counters := t.counters } := by
  intro u x left
  have row : exec (.dblCqHeadWrite fn q v) s = .next (writeCqHead s fn q v.toNat) := by
    show execDblCqHeadWrite fn q v s = _
    simp [execDblCqHeadWrite, Instr.wellFormed, guarded, named, reach, isLive]
  by_cases bad : 2 * u.cqEntries ≤ x ∨ u.unread < left
  · have out : writeCqHead s fn q v.toNat = rejectQueue s fn q := by rw [writeCqHead, if_neg there, if_pos bad]
    have b : QueueBecomes s (writeCqHead s fn q v.toNat) fn q { u with indexError := true } :=
      out ▸ queueBecomes_rejectQueue _ _ _
    exact gives_of_row row ⟨fun inRing behind => absurd bad (by omega), fun _ => b.own, b.others, b.frame⟩
  · have out : writeCqHead s fn q v.toNat = modQueue s fn q fun u => { u with cqHead := x } := by
      rw [writeCqHead, if_neg there, if_neg bad]
    have b : QueueBecomes s (writeCqHead s fn q v.toNat) fn q { u with cqHead := x } := out ▸ queueBecomes_modQueue _ _ _ _
    exact gives_of_row row ⟨fun _ _ => b.own, fun h => absurd h bad, b.others, b.frame⟩

theorem dblSignalWrite_gives (s : State) (fn n : Nat) (v : Word) (named : queueOk fn 0 = true) (inBlock : n < 256)
    (reach : fnReachable s fn = true) (isLive : live s = true) (alive : (tenant s fn).alive = true) :
    Gives (.dblSignalWrite fn n v) s fun t =>
      signalOf t fn n = v ∧ (∀ k, k ≠ n → signalOf t fn k = signalOf s fn k) ∧
        (∀ id d, disp? s id = some d → d.op = 8 → waitMet t d = true → ∃ e, disp? t id = some e ∧ e.ended = true) ∧
        (∀ id, (∀ e ∈ s.work.disps, e.id = id → e.op ≠ 8) → disp? t id = disp? s id) ∧
        t = { s with work := { s.work with tenants := t.work.tenants, disps := t.work.disps } } := by
  have row : exec (.dblSignalWrite fn n v) s = .next (setSignal s fn n v) := by
    show execDblSignalWrite fn n v s = _
    simp [execDblSignalWrite, Instr.wellFormed, guarded, named, inBlock, reach, isLive, writeSignal, alive]
  refine gives_of_row row ⟨?_, fun k hk => ?_, fun id d hd op met => ?_, fun id h => disp?_wakeWaits_other h, ?_⟩
  · rw [setSignal, signalOf_wakeWaits, signalOf_putSignal_self]
  · rw [setSignal, signalOf_wakeWaits, signalOf_putSignal_other _ _ _ hk]
  · refine hasEnded_wakeWaits (s := putSignal s fn n v) hd op ?_
    rwa [setSignal, waitMet, signalOf_wakeWaits, ← waitMet] at met
  · rw [setSignal, wakeWaits_only]
    rfl

/-- Settles O27, register by register. -/
theorem doorbellsMoveForward : Obligations.DoorbellsMoveForward :=
  ⟨dblSqTailWrite_gives, dblCqHeadWrite_gives, dblSignalWrite_gives⟩

end Sys2Proof.Machine
end

section
/-! THE DISPATCHER TAKES A DESCRIPTOR (R153, R154, R156, R163): what a fetch and an admission make of the state, what the commands
of opcodes 1 to 9 share, and the first check that fails. -/

namespace Sys2Proof.Machine

variable {s t u a : State} {tn q id : Nat} {b : List Byte}

/-! ## What taking moves -/

/-- What a descriptor that is taken moves: the indices of the queues, whose turn it was, and the next number. -/
def turnOf (s : State) : (Nat → List (Nat × Queue) × Nat) × Nat × Nat :=
  (fun n => ((tenant s n).queues, (tenant s n).lastQueue), s.work.lastTenant, s.work.nextId)

theorem turnOf_of_work (h : t.work = s.work) : turnOf t = turnOf s := by
  simp only [turnOf, tenant, h]

theorem turnOf_modDisp (s : State) (id : Nat) (f : Disp → Disp) : turnOf (modDisp s id f) = turnOf s := rfl

theorem turnOf_endDisp (s : State) (id : Nat) (rs : List Report) : turnOf (endDisp s id rs) = turnOf s := rfl

theorem turnOf_endWith (s : State) (id : Nat) (st : Status) (det : Nat) : turnOf (endWith s id st det) = turnOf s := rfl

theorem turnOf_foldl {β : Type} {f : State → β → State} (h : ∀ s b, turnOf (f s b) = turnOf s) (l : List β) (s : State) :
    turnOf (l.foldl f s) = turnOf s :=
  foldl_keeps (fun u => turnOf u = turnOf s) f (fun u b k => (h u b).trans k) l s rfl

theorem turnOf_wakeWaits (s : State) : turnOf (wakeWaits s) = turnOf s := 
  turnOf_foldl (fun u (d : Disp) => turnOf_endWith u d.id .done 0) _ s

/-- A change of a tenant that keeps its queues. -/
theorem turnOf_modTenant (s : State) (n : Nat) {f : Tenant → Tenant} (hq : ∀ x, (f x).queues = x.queues)
    (hl : ∀ x, (f x).lastQueue = x.lastQueue) : turnOf (modTenant s n f) = turnOf s := by
  have same (k : Nat) : ((tenant (modTenant s n f) k).queues, (tenant (modTenant s n f) k).lastQueue) =
      ((tenant s k).queues, (tenant s k).lastQueue) := by
    by_cases hk : k = n
    · rw [hk, tenant_modTenant_self, hq, hl]
    · rw [tenant_modTenant_other s n f hk]
  simp only [turnOf, same]
  rfl

/-! ## Admission -/

/-- A queue whose next descriptor is taken: SQ_HEAD and INFLIGHT advance. -/
def Queue.taken (u : Queue) : Queue := { u with sqHead := (u.sqHead + 1) % (2 * u.sqEntries), inflight := u.inflight + 1 }

/-- A dispatch enters: its queue has moved on, and the turn passes on (R153, R154, R156). -/
def enter (s : State) (tn q : Nat) (d : Disp) : State :=
  modWork (modTenant (modQueue s tn q Queue.taken) tn fun x => { x with lastQueue := q }) fun w =>
    { w with disps := w.disps ++ [d], nextId := w.nextId + 1, lastTenant := tn }

/-- A descriptor is counted, by its opcode when that is defined. -/
def countTaken (s : State) (tn op : Nat) : State :=
  let s := countT s 0x800 tn 1
  if 1 ≤ op ∧ op ≤ 9 then countT s (0x800 + op) tn 1 else s

theorem enterDisp_eq_enter (s : State) (tn q : Nat) (b : List Byte) :
    enterDisp s tn q b = enter (countTaken s tn (newDisp s tn q b).op) tn q (newDisp s tn q b) := rfl

theorem reads_countTaken (s : State) (tn op : Nat) : Reads s (countTaken s tn op) := by
  unfold countTaken
  exact .ite ((reads_countT _ _ _ _).trans (reads_countT _ _ _ _)) (reads_countT _ _ _ _)

/-- The dispatch of a descriptor has entered in a state whose reads and counts alone differ from `s`. -/
def Entered (s a : State) (tn q : Nat) (b : List Byte) : Prop := ∃ s', Reads s s' ∧ a = enter s' tn q (newDisp s tn q b)

theorem reads_fetchDesc (s : State) (tn q : Nat) : Reads s (fetchDesc s tn q).2 := reads_ringRead _ _ _ _ _ _ _

theorem newDisp_of_reads (h : Reads s t) (tn q : Nat) (b : List Byte) : newDisp t tn q b = newDisp s tn q b := by
  simp only [newDisp, queue_congr h.work, h.work, now, h.ao]

theorem entered_of_fetch {p : Span} (fetch : fetchDesc s tn q = (p, t)) (b : List Byte) :
    Entered s (enterDisp t tn q b) tn q b := by
  have reads : Reads s t := by simpa [fetch] using reads_fetchDesc s tn q
  refine ⟨_, reads.trans (reads_countTaken t tn (newDisp t tn q b).op), ?_⟩
  rw [enterDisp_eq_enter, newDisp_of_reads reads]

theorem Fetches.entered (h : Fetches s tn q b a) : Entered s a tn q b := by
  obtain ⟨-, -, s', fetch, rfl⟩ := h
  exact entered_of_fetch fetch b

theorem Entered.disps (h : Entered s a tn q b) : a.work.disps = s.work.disps ++ [newDisp s tn q b] := by
  obtain ⟨s', reads, rfl⟩ := h
  rw [← reads.work]
  rfl

theorem Entered.mem_new (h : Entered s a tn q b) : newDisp s tn q b ∈ a.work.disps := by simp [h.disps]

theorem Entered.nextId (h : Entered s a tn q b) : a.work.nextId = s.work.nextId + 1 := by
  obtain ⟨s', reads, rfl⟩ := h
  rw [← reads.work]
  rfl

theorem Entered.lastTenant (h : Entered s a tn q b) : a.work.lastTenant = tn := by
  obtain ⟨s', reads, rfl⟩ := h
  rfl

theorem Entered.hearths (h : Entered s a tn q b) : a.hearths = s.hearths := by
  obtain ⟨s', reads, rfl⟩ := h
  exact reads.hearths

/-- The tenant of a taken descriptor: its queue has moved on, and it was that queue's turn. -/
theorem Entered.tenant (h : Entered s a tn q b) : tenant a tn = { Machine.tenant s tn with
    queues := putD .reset (Machine.tenant s tn).queues q (queue s tn q).taken, lastQueue := q } := by
  obtain ⟨s', reads, rfl⟩ := h
  rw [← tenant_congr reads.work, ← queue_congr reads.work]
  show Machine.tenant (modTenant (modQueue s' tn q Queue.taken) tn fun x => { x with lastQueue := q }) tn = _
  rw [tenant_modTenant_self, modQueue, setQueue, tenant_modTenant_self]

theorem Entered.queue (h : Entered s a tn q b) : queue a tn q = (Machine.queue s tn q).taken := by
  rw [Machine.queue, h.tenant, lookD_putD, if_pos rfl]

theorem Entered.signalOf (h : Entered s a tn q b) (k : Nat) : signalOf a tn k = Machine.signalOf s tn k := by
  rw [Machine.signalOf, h.tenant, ← Machine.signalOf]

/-- What taking a descriptor comes to: the indices as the admission left them, and its dispatch among those of the state. -/
theorem Entered.took {d : Disp} {P : Disp → Prop} (h : Entered s a tn q b) (turn : turnOf t = turnOf a) (hd : d ∈ t.work.disps)
    (same : (d.id, d.tenant, d.queue, d.desc, d.started) = (s.work.nextId, tn, q, b, Machine.now s)) (holds : P d) :
    Took s t tn q b P := by
  obtain ⟨tenants, last⟩ := Prod.mk.inj turn
  obtain ⟨lastTenant, nextId⟩ := Prod.mk.inj last
  obtain ⟨queues, lastQueue⟩ := Prod.mk.inj (congrFun tenants tn)
  have sameQueue : Machine.queue t tn q = Machine.queue a tn q := by rw [Machine.queue, queues, ← Machine.queue]
  simp only [Prod.mk.injEq] at same
  obtain ⟨hid, htn, hq, hb, hnow⟩ := same
  refine ⟨?_, ?_, lastTenant.trans h.lastTenant, lastQueue.trans ?_, nextId.trans h.nextId, d, hd, hid, htn, hq, hb, hnow, holds⟩
  · rw [sameQueue, h.queue, Queue.taken]
  · rw [sameQueue, h.queue, Queue.taken]
  · rw [h.tenant]

/-! ## A dispatch that changes -/

theorem mem_modDisp {d : Disp} (hd : d ∈ s.work.disps) (f : Disp → Disp) : f d ∈ (modDisp s d.id f).work.disps :=
  List.mem_map.mpr ⟨d, hd, if_pos rfl⟩

/-- The dispatch of an admission ends with one report. -/
theorem Entered.took_endDisp (h : Entered s a tn q b) (r : Report) :
    Took s (endDisp a s.work.nextId [r]) tn q b fun d => EndedWith d r.status r.detail r.site :=
  h.took (turnOf_endDisp _ _ _) (mem_modDisp h.mem_new _) rfl ⟨rfl, rfl, rfl⟩

/-- The dispatch of an admission waits to start. -/
theorem Entered.took_waits (h : Entered s a tn q b) :
    Took s (modDisp a s.work.nextId fun d => { d with unclaimed := true }) tn q b fun d => d.unclaimed = true ∧ d.ended = false :=
  h.took (turnOf_modDisp _ _ _) (mem_modDisp h.mem_new _) rfl ⟨rfl, rfl⟩

/-! ## The commands that take descriptors -/

theorem takeDesc_idle (turn : nextTake s ≠ some (tn, q)) (row : List Byte → Bool) (run : State → Nat → List Byte → State) :
    takeDesc s tn q row run = s := by
  rw [takeDesc, if_pos turn]

theorem takeDesc_unfetched {k : Nat} (turn : nextTake s = some (tn, q)) (fetch : fetchDesc s tn q = (.bad k, t))
    (row : List Byte → Bool) (run : State → Nat → List Byte → State) :
    takeDesc s tn q row run = endWith (enterDisp t tn q []) s.work.nextId
      (if (queue s tn q).sqHbm then .poisoned else .aborted) (if (queue s tn q).sqHbm then 0 else 0x0A) := by
  rw [takeDesc, if_neg (not_not_intro turn), fetch]
  dsimp only
  split
  · rfl
  · rfl

theorem Fetches.takeDesc (h : Fetches s tn q b a) {row : List Byte → Bool} (mine : row b = true)
    (run : State → Nat → List Byte → State) : takeDesc s tn q row run = run a s.work.nextId b := by
  obtain ⟨-, turn, s', fetch, rfl⟩ := h
  rw [Machine.takeDesc, if_neg (not_not_intro turn), fetch]
  exact if_pos mine

/-- The checks of a descriptor beyond its opcode, in order (R163). -/
def rowChecks (op : Nat) (s : State) (tn : Nat) (b : List Byte) : List (Bool × Status × Nat × Nat) :=
  if op = 1 then recipeChecks s tn b else if op = 2 then batchChecks s tn b
  else if op = 3 then emberChecks s tn b else if op = 4 then copyChecks s tn b
  else if op = 5 then fillChecks s tn b
  else if op = 6 then [must (reservedOk b [(9, 55)]) .aborted 1, must (fld b 8 1 ≤ 1) .aborted 3]
  else if op = 7 then [must (reservedOk b [(0xA, 6), (0x18, 40)]) .aborted 1, must (fld b 9 1 ≤ 1) .aborted 3]
  else if op = 8 then [must (reservedOk b [(0xA, 6), (0x20, 32)]) .aborted 1, must (fld b 9 1 ≤ 1) .aborted 3]
  else [must (reservedOk b [(9, 55)]) .aborted 1, must (fld b 8 1 ≤ 15) .aborted 3]

theorem rowChecks_fld (s : State) (tn : Nat) (b : List Byte) : rowChecks (fld b 0 1) s tn b = takeChecks s tn b := rfl

/-- What a checked descriptor does when it is taken: recipes and ember runs wait for their claims, batches, copies and fills start
in their turn, FENCEs and SIGNALs settle, WAITs wake, a TURNOVER holds its tenant (R170, R171). -/
def startTaken (op : Nat) (s : State) (id : Nat) : State :=
  if op = 1 ∨ op = 3 then modDisp s id fun d => { d with unclaimed := true }
  else if op = 2 ∨ op = 4 ∨ op = 5 then startOrWait s id
  else if op = 6 ∨ op = 7 then settleWork s else if op = 8 then wakeWaits s else s

/-- A descriptor of a row once it has entered: refused by its first failing check, or started. -/
def runRow (op tn : Nat) (s : State) (id : Nat) (b : List Byte) : State :=
  match firstFail (rowChecks op s tn b) with
  | some f => refuseDisp s id f
  | none => startTaken op s id

theorem exec_takeRow {op : Nat} {c : Instr} (h1 : 1 ≤ op) (h9 : op ≤ 9) (hc : (takeRows tn q)[op - 1]? = some c) (s : State) :
    exec c s = guarded (queueOk tn q) .noSuchQueue (takeDesc s tn q (fun b => fld b 0 1 == op) (runRow op tn)) := by
  rcases (by omega : op = 1 ∨ op = 2 ∨ op = 3 ∨ op = 4 ∨ op = 5 ∨ op = 6 ∨ op = 7 ∨ op = 8 ∨ op = 9) with
    rfl | rfl | rfl | rfl | rfl | rfl | rfl | rfl | rfl
  all_goals
    cases hc
    rfl

/-- Every command that takes from a queue takes its next descriptor in one way. -/
theorem TakesFrom.exec {c : Instr} (h : TakesFrom c tn q) (s : State) :
    ∃ row run, exec c s = guarded (queueOk tn q) .noSuchQueue (takeDesc s tn q row run) := by
  rcases h with listed | rfl
  · obtain ⟨i, hi⟩ := List.mem_iff_getElem?.mp listed
    have inRows : i < 9 := (List.getElem?_eq_some_iff.mp hi).1
    exact ⟨_, _, exec_takeRow (op := i + 1) (by omega) (by omega) hi s⟩
  · exact ⟨_, _, rfl⟩

theorem Fetches.exec {c : Instr} (h : Fetches s tn q b a) (h1 : 1 ≤ fld b 0 1) (h9 : fld b 0 1 ≤ 9)
    (hc : (takeRows tn q)[fld b 0 1 - 1]? = some c) : exec c s = .next (runRow (fld b 0 1) tn a s.work.nextId b) := by
  rw [exec_takeRow h1 h9 hc, h.takeDesc (by simp), guarded, if_pos h.1]

theorem runRow_refused {f : Status × Nat × Nat} (fails : firstFail (takeChecks a tn b) = some f) (id : Nat) :
    runRow (fld b 0 1) tn a id b = refuseDisp a id f := by
  rw [runRow, rowChecks_fld, fails]

theorem runRow_checked (passes : firstFail (takeChecks a tn b) = none) (id : Nat) :
    runRow (fld b 0 1) tn a id b = startTaken (fld b 0 1) a id := by
  rw [runRow, rowChecks_fld, passes]

/-- Settles O29: a failed fetch, an undefined opcode, a failed check, and out of turn. -/
theorem descriptorsAreCheckedInOrder : Obligations.DescriptorsAreCheckedInOrder := by
  refine ⟨fun s s' tn q k c named turn fetch takes => ?_, fun s a tn q b h undefined => ?_,
    fun s a tn q b c f h h1 h9 hc fails => ?_, fun s tn q c named turn takes => ?_⟩
  · obtain ⟨row, run, eq⟩ := takes.exec s
    rw [guarded, if_pos named, takeDesc_unfetched turn fetch] at eq
    exact gives_of_row eq ((entered_of_fetch fetch []).took_endDisp _)
  · have eq : exec (.undefinedDescriptorOpcode tn q) s = .next (endWith a s.work.nextId .aborted 2) := by
      show execUndefinedDescriptorOpcode tn q s = _
      rw [execUndefinedDescriptorOpcode, guarded, if_pos h.1, h.takeDesc (by simpa using undefined)]
    exact gives_of_row eq (h.entered.took_endDisp _)
  · exact gives_of_row ((h.exec h1 h9 hc).trans (congrArg _ (runRow_refused fails _))) ⟨h.entered.took_endDisp _, rfl, rfl⟩
  · obtain ⟨row, run, eq⟩ := takes.exec s
    rwa [guarded, if_pos named, takeDesc_idle turn] at eq

end Sys2Proof.Machine
end

section
/-! CHECKED WORK DESCRIPTORS START (R158-R162, R170, R243, R278): a recipe and an ember run wait for their claims; a batch, a copy
and a fill start when nothing of their queue waits before them, and wait otherwise. -/

namespace Sys2Proof.Machine

variable {s t u a : State} {tn q id : Nat} {b : List Byte}

/-! ## Checks that pass -/

theorem firstFail_eq_none {l : List (Bool × Status × Nat × Nat)} : firstFail l = none ↔ ∀ c ∈ l, c.1 = true := by
  induction l with
  | nil => simp [firstFail]
  | cons c l ih =>
    obtain ⟨ok, x⟩ := c
    cases ok with
    | false => simp [firstFail]
    | true => simp [firstFail, ih]

/-- A copy that passes its checks has one chain side at most (R162). -/
theorem kinds_of_copyChecks (passes : firstFail (copyChecks a tn b) = none) (source : fld b 0x20 1 = 2) : fld b 0x21 1 ≠ 2 := by
  have sides := firstFail_eq_none.mp passes _ (List.mem_cons_of_mem _ List.mem_cons_self)
  simp only [must, Bool.and_eq_true, source] at sides
  simpa using sides.1.1.1.2

/-! ## Numbers and turns -/

/-- A new dispatch is found by its number. -/
theorem Entered.disp?_new (h : Entered s a tn q b) (fresh : FreshIds s) : disp? a s.work.nextId = some (newDisp s tn q b) := by
  have old : s.work.disps.find? (·.id == s.work.nextId) = none :=
    List.find?_eq_none.mpr fun d hd => by simpa using Nat.ne_of_lt (fresh.1 d hd)
  rw [disp?, h.disps, List.find?_append, old, Option.none_or]
  simp [newDisp]

theorem Entered.behind_new (h : Entered s a tn q b) :
    behind a (newDisp s tn q b) =
      s.work.disps.any fun e => e.unclaimed && e.id < s.work.nextId && (newDisp s tn q b).sameQueue e := by
  have going : (newDisp s tn q b).unclaimed = false := rfl
  rw [behind, h.disps, List.any_append, List.any_cons, List.any_nil, going, Bool.false_and,
    Bool.false_and, Bool.or_false, Bool.or_false]
  rfl

theorem Entered.not_behind (h : Entered s a tn q b) (starts : StartsNow s tn q) : behind a (newDisp s tn q b) = false := by
  rw [h.behind_new, List.any_eq_false]
  intro e he waits
  simp only [Bool.and_eq_true, Disp.sameQueue, newDisp, beq_iff_eq] at waits
  obtain ⟨⟨unclaimed, -⟩, ⟨htn, hq⟩, own⟩ := waits
  have orphan := starts.2 e he unclaimed htn hq
  rw [orphan] at own
  cases own

theorem Entered.behind (h : Entered s a tn q b) (fresh : FreshIds s) {e : Disp} (he : e ∈ s.work.disps) (waits : e.unclaimed = true)
    (htn : e.tenant = tn) (hq : e.queue = q) (own : e.orphan = false) : behind a (newDisp s tn q b) = true := by
  rw [h.behind_new, List.any_eq_true]
  exact ⟨e, he, by simp [waits, fresh.1 e he, Disp.sameQueue, newDisp, htn, hq, own]⟩

/-- With nothing of its queue before it a work descriptor starts. -/
theorem Entered.startTaken_now (h : Entered s a tn q b) (starts : StartsNow s tn q)
    (op : fld b 0 1 = 2 ∨ fld b 0 1 = 4 ∨ fld b 0 1 = 5) :
    startTaken (fld b 0 1) a s.work.nextId = startWork a (newDisp s tn q b) := by
  rw [startTaken, if_neg (by omega), if_pos op, startOrWait, h.disp?_new starts.1]
  exact if_neg (by simp [h.not_behind starts])

theorem Entered.startTaken_waits (h : Entered s a tn q b) (fresh : FreshIds s) (before : Machine.behind a (newDisp s tn q b) = true)
    (op : fld b 0 1 = 2 ∨ fld b 0 1 = 4 ∨ fld b 0 1 = 5) :
    startTaken (fld b 0 1) a s.work.nextId = modDisp a s.work.nextId fun d => { d with unclaimed := true } := by
  rw [startTaken, if_neg (by omega), if_pos op, startOrWait, h.disp?_new fresh]
  exact if_pos before

/-- The dispatch of an admission ends in a state with the turn and the dispatches of the admission. -/
theorem Entered.took_endWith (h : Entered s a tn q b) (turn : turnOf t = turnOf a) (disps : t.work.disps = a.work.disps)
    (st : Status) (det : Nat) : Took s (endWith t s.work.nextId st det) tn q b fun d => EndedWith d st det 0xFFFF :=
  h.took turn (mem_modDisp (d := newDisp s tn q b) (by rw [disps]; exact h.mem_new) _) rfl ⟨rfl, rfl, rfl⟩

theorem Fetches.exec_started {c : Instr} (h : Fetches s tn q b a) (op : fld b 0 1 = 2 ∨ fld b 0 1 = 4 ∨ fld b 0 1 = 5)
    (hc : (takeRows tn q)[fld b 0 1 - 1]? = some c) (starts : StartsNow s tn q) (passes : firstFail (takeChecks a tn b) = none) :
    Machine.exec c s = .next (startWork a (newDisp s tn q b)) := by
  rw [h.exec (by omega) (by omega) hc, runRow_checked passes, h.entered.startTaken_now starts op]

/-! ## Batches -/

theorem fst_firstSlots (s : State) (n : Nat) (sites : List Nat) : (firstSlots s n sites).map (·.1) = sites := by
  induction sites generalizing n with
  | nil => rfl
  | cons x l ih => rw [firstSlots, List.map_cons, ih]

section
variable (mk : State → Nat × Nat → Launch)

/-- Launches enter the Andiron queues of sites one after another, each as the state then makes it. -/
def enqueueAll (l : List (Nat × Nat)) (s : State) : State := l.foldl (fun s x => enqueueLaunch s x.1 (mk s x)) s

theorem enqueueAll_work (l : List (Nat × Nat)) (s : State) : (enqueueAll mk l s).work = s.work :=
  foldl_keeps (fun u : State => u.work = s.work) (fun s (x : Nat × Nat) => enqueueLaunch s x.1 (mk s x)) (fun _ _ h => h) l s rfl

theorem hearth_enqueueAll_other {l : List (Nat × Nat)} {x : Nat} (h : x ∉ l.map (·.1)) (s : State) :
    hearth (enqueueAll mk l s) x = hearth s x := by
  induction l generalizing s with
  | nil => rfl
  | cons p l ih =>
    rw [List.map_cons, List.mem_cons, not_or] at h
    exact (ih h.2 _).trans (hearth_modHearth_other s p.1 _ h.1)

theorem mem_launches_enqueueAll (l : List (Nat × Nat)) (s : State) {x : Nat} {e : Launch} (h : e ∈ (hearth s x).launches) :
    e ∈ (hearth (enqueueAll mk l s) x).launches := by
  induction l generalizing s with
  | nil => exact h
  | cons p l ih =>
    have kept : e ∈ (hearth (enqueueLaunch s p.1 (mk s p)) x).launches := by
      by_cases same : x = p.1
      · subst same
        rw [enqueueLaunch, hearth_modHearth_self]
        exact List.mem_append_left _ h
      · rwa [enqueueLaunch, hearth_modHearth_other _ _ _ same]
    exact ih _ kept

/-- Every site of the list has a launch, with what every one made has. -/
theorem exists_launch_enqueueAll {Q : Launch → Prop} (made : ∀ s p, Q (mk s p)) (l : List (Nat × Nat)) (s : State) {x : Nat}
    (h : x ∈ l.map (·.1)) : ∃ e ∈ (hearth (enqueueAll mk l s) x).launches, Q e := by
  induction l generalizing s with
  | nil => nomatch h
  | cons p l ih =>
    rcases List.mem_cons.mp h with rfl | later
    · have own : mk s p ∈ (hearth (enqueueLaunch s p.1 (mk s p)) p.1).launches := by
        rw [enqueueLaunch, hearth_modHearth_self]
        exact List.mem_append_right _ (List.mem_singleton_self _)
      exact ⟨mk s p, mem_launches_enqueueAll mk l _ own, made s p⟩
    · exact ih _ later

end

/-- The launch of a batch on one of its sites. -/
def batchLaunch (d : Disp) (bd : Batch) (n : Nat) (s : State) (x : Nat × Nat) : Launch :=
  newLaunch s (some d.id) 0 d.tenant (fld d.desc 0xC 2) bd d.started n x.2 x.1

theorem andironBatch_gives {a' : State} {bd : Batch} (h : Fetches s tn q b a) (op : fld b 0 1 = 2) (starts : StartsNow s tn q)
    (passes : firstFail (batchChecks a tn b) = none) (read : readSpan a tn (fld b 0x10 8) 96 6 = (.bytes bd, a'))
    (fits : batchCheck a' tn (fld b 0x10 8) (lookD [] (tenant a' tn).models (fld b 0xC 2)) bd (usedRect a' b) = none) :
    Gives (.andironBatch tn q) s fun t =>
      Took s t tn q b (fun d => d.working = usedRect a' b ∧ d.ended = false) ∧
        (∀ x ∈ usedRect a' b, ∃ l, l ∈ (hearth t x).launches ∧ l.disp = some s.work.nextId ∧ l.desc = bd ∧
          l.takenAt = s.ao.devtime ∧ l.started = false ∧ l.slots = slotCount a' (usedRect a' b)) ∧
        (∀ x, x ∉ usedRect a' b → hearth t x = hearth s x) := by
  have e := h.entered
  have reads : Reads a a' := by simpa [read] using reads_readSpan a tn (fld b 0x10 8) 96 6
  have row : exec (.andironBatch tn q) s = .next (launchBatch a' (newDisp s tn q b) bd) := by
    rw [h.exec_started (.inl op) (by rw [op]; rfl) starts (by simpa [takeChecks, op] using passes)]
    simp only [startWork, startBatch, newDisp, Disp.op, op, read, fits, if_pos]
  let sites := usedRect a' b
  have launched : launchBatch a' (newDisp s tn q b) bd = enqueueAll (batchLaunch (newDisp s tn q b) bd (slotCount a' sites))
      (firstSlots a' 0 sites) (modDisp a' s.work.nextId fun e => { e with working := sites }) := rfl
  refine gives_of_row (row.trans (congrArg _ launched)) ⟨?_, fun x hx => ?_, fun x hx => ?_⟩
  · refine e.took (d := { newDisp s tn q b with working := sites }) ?_ ?_ rfl ⟨rfl, rfl⟩
    · rw [turnOf_of_work (enqueueAll_work _ _ _), turnOf_modDisp, turnOf_of_work reads.work]
    · rw [enqueueAll_work]
      exact mem_modDisp (d := newDisp s tn q b) (by rw [reads.work]; exact e.mem_new) _
  · exact exists_launch_enqueueAll _ (Q := fun l => l.disp = some s.work.nextId ∧ l.desc = bd ∧ l.takenAt = s.ao.devtime ∧
      l.started = false ∧ l.slots = slotCount a' sites) (fun _ _ => ⟨rfl, rfl, rfl, rfl, rfl⟩) _ _
      (by rw [fst_firstSlots]; exact hx)
  · rw [hearth_enqueueAll_other _ (by rw [fst_firstSlots]; exact hx)]
    exact hearth_congr (reads.hearths.trans e.hearths) x

/-! ## Copies -/

theorem reads_copyRead (s : State) (n kind addr len : Nat) : Reads s (copyRead s n kind addr len).2 := by
  unfold copyRead
  split
  · split
    · exact reads_hostRead _ _ _ _
    · rfl
  · exact reads_readSpan _ _ _ _ _

theorem writes_copyWrite (s : State) (n kind addr : Nat) (bs : List Byte) : Writes s (copyWrite s n kind addr bs).2 := by
  unfold copyWrite
  split
  · split
    · exact writes_hostWrite _ _ _ _
    · rfl
  · have w := writes_writeSpan s n addr bs 6
    split <;> rename_i eq <;> simpa [eq] using w

theorem writes_copyWords (n sk src dk dst len : Nat) (s : State) : Writes s (copyWords n sk src dk dst len s).2 := by
  induction len generalizing s src dst with
  | zero => rfl
  | succ len ih =>
    rw [copyWords]
    have r := (reads_copyRead s n sk src 32).writes
    split
    next bs s' eq =>
      have w := writes_copyWrite s' n dk dst bs
      have r : Writes s s' := by simpa [eq] using r
      split
      next s'' eq' =>
        have w : Writes s' s'' := by simpa [eq'] using w
        exact (r.trans w).trans (ih _ _ _)
      next => exact r.trans w
    next eq => simpa [eq] using r
    next eq => simpa [eq] using r

theorem localCopy_gives (h : Fetches s tn q b a) (op : fld b 0 1 = 4) (starts : StartsNow s tn q)
    (passes : firstFail (copyChecks a tn b) = none) (source : fld b 0x20 1 ≠ 2) (dest : fld b 0x21 1 ≠ 2) :
    let r := copyWords tn (fld b 0x20 1) (fld b 8 8) (fld b 0x21 1) (fld b 0x10 8) (fld b 0x18 8 / 32) a
    Gives (.copy tn q) s fun t =>
      Took s t tn q b (fun d => EndedWith d (r.1.getD .done) (if r.1 = some .prot then 3 else 0) 0xFFFF) ∧ t.mem = r.2.mem := by
  intro r
  have row : exec (.copy tn q) s = .next (endCopy r.2 s.work.nextId r.1) := by
    rw [h.exec_started (.inr (.inl op)) (by rw [op]; rfl) starts (by simpa [takeChecks, op] using passes)]
    simp [startWork, startCopy, newDisp, Disp.op, op, source, dest, r]
  have work : r.2.work = a.work := (writes_copyWords _ _ _ _ _ _ a).work
  exact gives_of_row row ⟨h.entered.took_endWith (turnOf_of_work work) (by rw [work]) _ _, rfl⟩

/-- The frames of a chain copy wait behind those of its port. -/
theorem waiting_sendCopy (s : State) (id : Nat) (b data : List Byte) (port : Nat) :
    (chainPort (sendCopy s id b data port) port).waiting =
      (chainPort s port).waiting ++ (List.range ((fld b 0x18 8 + 4095) / 4096)).map (copyFrame id b data) := by
  let fs := (List.range ((fld b 0x18 8 + 4095) / 4096)).map (copyFrame id b data)
  show (chainPort (modChainPort s port fun p => { p with waiting := p.waiting ++ fs }) port).waiting = _
  rw [chainPort_modChainPort_self]

theorem chainCopy_gives {dm : Domain} (h : Fetches s tn q b a) (op : fld b 0 1 = 4) (starts : StartsNow s tn q)
    (passes : firstFail (copyChecks a tn b) = none) (source : fld b 0x20 1 = 2)
    (domain : look a.chain.domains (fld b 0x24 2) = some dm)
    (up : (chainPort a dm.port).state = .up) :
    Gives (.copy tn q) s fun t =>
      Took s t tn q b (fun d => d.ended = false ∧ d.frames = 2 * ((fld b 0x18 8 + 4095) / 4096)) ∧
        ∃ fs, (chainPort t dm.port).waiting = (chainPort a dm.port).waiting ++ fs ∧
          fs.length = (fld b 0x18 8 + 4095) / 4096 ∧ ∀ f ∈ fs, f.type_ = 2 ∧ f.length ≤ 4096 ∧ f.cls = fld b 0x22 1 := by
  have dest := kinds_of_copyChecks passes source
  have row : exec (.copy tn q) s = .next (sendCopy a s.work.nextId b [] dm.port) := by
    rw [h.exec_started (.inr (.inl op)) (by rw [op]; rfl) starts (by simpa [takeChecks, op] using passes)]
    simp [startWork, startCopy, newDisp, Disp.op, op, source, chainCopy, domain, up, dest]
  let fs := (List.range ((fld b 0x18 8 + 4095) / 4096)).map (copyFrame s.work.nextId b [])
  refine gives_of_row row ⟨?_, fs, ?_, ?_, fun f hf => ?_⟩
  · exact h.entered.took rfl (mem_modDisp (d := newDisp s tn q b) h.entered.mem_new _) rfl ⟨rfl, if_neg dest⟩
  · exact waiting_sendCopy a s.work.nextId b [] dm.port
  · simp [fs]
  · obtain ⟨i, -, rfl⟩ := List.mem_map.mp hf
    exact ⟨by simp [copyFrame, dest, plainFrame], Nat.min_le_left _ _, rfl⟩

/-! ## Fills -/

theorem turnOf_setRegion (s : State) (n rn : Nat) (x : Region) : turnOf (setRegion s n rn x) = turnOf s :=
  turnOf_modTenant s n (f := fun w => { w with regions := put w.regions rn x }) (fun _ => rfl) fun _ => rfl

theorem fillSpan_turn (s : State) (n rn o len : Nat) (pat : Line) :
    turnOf (fillSpan s n rn o len pat).2 = turnOf s ∧ (fillSpan s n rn o len pat).2.work.disps = s.work.disps := by
  unfold fillSpan
  split
  next => exact ⟨rfl, rfl⟩
  next r _ =>
    have work := (writes_fillWords n rn r pat (len / 32) s o).work
    have disps : (fillWords n rn r pat (len / 32) s o).2.work.disps = s.work.disps := congrArg Work.disps work
    exact ⟨(turnOf_setRegion _ _ _ _).trans (turnOf_of_work work), disps⟩

theorem fill_gives (h : Fetches s tn q b a) (op : fld b 0 1 = 5) (starts : StartsNow s tn q)
    (passes : firstFail (fillChecks a tn b) = none) :
    let r := fillSpan a tn (regionOf (fld b 8 8)) (offsetOf (fld b 8 8)) (fld b 0x10 8) (bytesLine (slice b 0x18 32))
    Gives (.fill tn q) s fun t =>
      Took s t tn q b (fun d => EndedWith d (if r.1 then .done else .busError) 0 0xFFFF) ∧ t.mem = r.2.mem := by
  intro r
  have row : exec (.fill tn q) s = .next (endWith r.2 s.work.nextId (if r.1 then .done else .busError) 0) := by
    rw [h.exec_started (.inr (.inr op)) (by rw [op]; rfl) starts (by simpa [takeChecks, op] using passes)]
    have fills : (newDisp s tn q b).op = 5 := op
    rw [startWork, if_neg (by omega), if_neg (by omega), if_pos fills]
    rfl
  obtain ⟨turn, disps⟩ := fillSpan_turn a tn (regionOf (fld b 8 8)) (offsetOf (fld b 8 8)) (fld b 0x10 8)
    (bytesLine (slice b 0x18 32))
  exact gives_of_row row ⟨h.entered.took_endWith turn disps _ _, rfl⟩

/-! ## Descriptors that wait -/

/-- A recipe, or an ember run, waits for its claim. -/
theorem claimed_gives {c : Instr} (h : Fetches s tn q b a) (op : fld b 0 1 = 1 ∨ fld b 0 1 = 3)
    (hc : (takeRows tn q)[fld b 0 1 - 1]? = some c) (passes : firstFail (takeChecks a tn b) = none) :
    Gives c s fun t =>
      Took s t tn q b (fun d => d.unclaimed = true ∧ d.ended = false) ∧ t.hearths = a.hearths ∧ t.mem = a.mem := by
  have row : exec c s = .next (modDisp a s.work.nextId fun d => { d with unclaimed := true }) := by
    rw [h.exec (by omega) (by omega) hc, runRow_checked passes, startTaken, if_pos op]
  exact gives_of_row row ⟨h.entered.took_waits, rfl, rfl⟩

theorem waiting_gives {c : Instr} (h : Fetches s tn q b a) (op : fld b 0 1 = 2 ∨ fld b 0 1 = 4 ∨ fld b 0 1 = 5)
    (hc : (takeRows tn q)[fld b 0 1 - 1]? = some c) (passes : firstFail (takeChecks a tn b) = none) (fresh : FreshIds s)
    (before : ∃ e ∈ s.work.disps, e.unclaimed = true ∧ e.tenant = tn ∧ e.queue = q ∧ e.orphan = false) :
    Gives c s fun t =>
      Took s t tn q b (fun d => d.unclaimed = true ∧ d.ended = false) ∧
        t.hearths = a.hearths ∧ t.mem = a.mem ∧ t.chain = a.chain := by
  obtain ⟨e, he, waits, htn, hq, own⟩ := before
  have row : exec c s = .next (modDisp a s.work.nextId fun d => { d with unclaimed := true }) := by
    rw [h.exec (by omega) (by omega) hc, runRow_checked passes,
      h.entered.startTaken_waits fresh (h.entered.behind fresh he waits htn hq own) op]
  exact gives_of_row row ⟨h.entered.took_waits, rfl, rfl, rfl⟩

/-- Settles O30, descriptor by descriptor. -/
theorem workDescriptorsStart : Obligations.WorkDescriptorsStart :=
  ⟨fun _ _ _ _ _ h op passes => claimed_gives h (.inl op) (by rw [op]; rfl) (by simpa [takeChecks, op] using passes),
    fun _ _ _ _ _ _ _ h op starts passes read fits => andironBatch_gives h op starts passes read fits,
    fun _ _ _ _ _ h op passes => claimed_gives h (.inr op) (by rw [op]; rfl) (by simpa [takeChecks, op] using passes),
    fun _ _ _ _ _ h op starts passes source dest => localCopy_gives h op starts passes source dest,
    fun _ _ _ _ _ _ h op starts passes source domain up => chainCopy_gives h op starts passes source domain up,
    fun _ _ _ _ _ h op starts passes => fill_gives h op starts passes,
    fun _ _ _ _ _ _ h op hc passes fresh before => waiting_gives h op hc passes fresh before⟩

end Sys2Proof.Machine
end

section
/-! FENCE, SIGNAL, WAIT AND TURNOVER WHEN THEY ARE TAKEN (R170, R171). -/

namespace Sys2Proof.Machine

variable {s t u a : State} {tn q id : Nat} {b : List Byte}

/-! ## Taking keeps the turn -/

theorem turnOf_putSignal (s : State) (n k : Nat) (v : Word) : turnOf (putSignal s n k v) = turnOf s :=
  turnOf_modTenant s n (f := fun x => { x with signals := putD 0 x.signals k v }) (fun _ => rfl) fun _ => rfl

theorem turnOf_applySignal (s : State) (d : Disp) : turnOf (applySignal s d) = turnOf s :=
  (turnOf_wakeWaits _).trans (turnOf_putSignal _ _ _ _)

/-- A FENCE or SIGNAL whose condition holds acts and ends. -/
def settle (s : State) (d : Disp) : State := endWith (if d.op = 7 then applySignal s d else s) d.id .done 0

theorem settleWork_eq (s : State) : settleWork s =
    (s.work.disps.filter fun d => (d.op == 6 || d.op == 7) && !d.ended && earlierDone s d).foldl settle s := rfl

theorem turnOf_settle (s : State) (d : Disp) : turnOf (settle s d) = turnOf s := by
  rw [settle, turnOf_endWith]
  split
  · exact turnOf_applySignal s d
  · rfl

theorem turnOf_settleWork (s : State) : turnOf (settleWork s) = turnOf s := turnOf_foldl turnOf_settle _ s

/-! ## What settling leaves -/

/-- No WAIT has the number. -/
def NoWait (s : State) (id : Nat) : Prop := ∀ e ∈ s.work.disps, e.id = id → e.op ≠ 8

theorem NoWait.endWith (h : NoWait s id) (k : Nat) (st : Status) (det : Nat) : NoWait (endWith s k st det) id := by
  intro e he same
  obtain ⟨d, hd, rfl⟩ := List.mem_map.mp he
  by_cases hk : d.id = k
  · rw [if_pos hk] at same ⊢
    exact h d hd same
  · rw [if_neg hk] at same ⊢
    exact h d hd same

theorem NoWait.wakeWaits (h : NoWait s id) : NoWait (wakeWaits s) id :=
  foldl_keeps (NoWait · id) (fun s (d : Disp) => Machine.endWith s d.id .done 0) (fun _ d k => k.endWith d.id .done 0) _ s h

theorem NoWait.applySignal (h : NoWait s id) (d : Disp) : NoWait (applySignal s d) id := NoWait.wakeWaits h

theorem disp?_applySignal_other (h : NoWait s id) (d : Disp) : disp? (applySignal s d) id = disp? s id :=
  disp?_wakeWaits_other (s := putSignal s _ _ _) h

theorem NoWait.settle (h : NoWait s id) (d : Disp) : NoWait (settle s d) id := by
  refine NoWait.endWith ?_ d.id .done 0
  split
  · exact h.applySignal d
  · exact h

theorem disp?_settle_other (h : NoWait s id) {d : Disp} (hd : id ≠ d.id) : disp? (settle s d) id = disp? s id := by
  rw [settle, disp?_endWith_other hd]
  split
  · exact disp?_applySignal_other h d
  · rfl

/-- What is neither a WAIT nor a FENCE or SIGNAL that may act stays. -/
theorem disp?_settleWork_other (noWait : NoWait s id)
    (held : ∀ e ∈ s.work.disps, e.id = id → e.op = 6 ∨ e.op = 7 → earlierDone s e = false) :
    disp? (settleWork s) id = disp? s id := by
  have kept (l : List Disp) (h : ∀ d ∈ l, id ≠ d.id) (u : State) (n : NoWait u id) : disp? (l.foldl settle u) id = disp? u id := by
    induction l generalizing u with
    | nil => rfl
    | cons d l ih =>
      rw [List.foldl_cons, ih (fun e he => h e (List.mem_cons_of_mem _ he)) _ (n.settle d),
        disp?_settle_other n (h d List.mem_cons_self)]
  refine kept _ (fun d hd same => ?_) s noWait
  obtain ⟨there, acts⟩ := List.mem_filter.mp hd
  simp only [Bool.and_eq_true, Bool.or_eq_true, beq_iff_eq] at acts
  rw [held d there same.symm acts.1.1] at acts
  exact absurd acts.2 Bool.false_ne_true

/-- With one dispatch in flight, a FENCE or SIGNAL, nothing is waited for. -/
theorem settleWork_single {d : Disp} (alone : s.work.disps = [d]) (op : d.op = 6 ∨ d.op = 7) (going : d.ended = false) :
    settleWork s = settle s d := by
  have first : earlierDone s d = true := by simp [earlierDone, alone]
  rw [settleWork_eq, alone, List.filter_cons_of_pos (by simp [op, going, first])]
  rfl

theorem wakeWaits_of_noWait (h : ∀ e ∈ s.work.disps, e.op ≠ 8) : wakeWaits s = s := by
  have empty : (s.work.disps.filter fun d => d.op == 8 && !d.ended && waitMet s d) = [] :=
    List.filter_eq_nil_iff.mpr fun e he => by simp [h e he]
  rw [wakeWaits, empty]
  rfl

/-! ## The rows -/

theorem Fetches.exec_settles {c : Instr} (h : Fetches s tn q b a) (op : fld b 0 1 = 6 ∨ fld b 0 1 = 7)
    (hc : (takeRows tn q)[fld b 0 1 - 1]? = some c) (passes : firstFail (takeChecks a tn b) = none) :
    Machine.exec c s = .next (settleWork a) := by
  rw [h.exec (by omega) (by omega) hc, runRow_checked passes, startTaken, if_neg (by omega), if_neg (by omega), if_pos op]

theorem Entered.alone (h : Entered s a tn q b) (empty : s.work.disps = []) : a.work.disps = [newDisp s tn q b] := by
  rw [h.disps, empty, List.nil_append]

/-- The new dispatch alone has its number. -/
theorem Entered.eq_new {d : Disp} (h : Entered s a tn q b) (fresh : FreshIds s) (hd : d ∈ a.work.disps)
    (same : d.id = s.work.nextId) : d = newDisp s tn q b := by
  rw [h.disps, List.mem_append, List.mem_singleton] at hd
  exact hd.resolve_left fun old => absurd (fresh.1 d old) (by omega)

theorem Entered.nodup (h : Entered s a tn q b) (fresh : FreshIds s) : (a.work.disps.map (·.id)).Nodup := by
  rw [h.disps, List.map_append, List.map_singleton, ← List.concat_eq_append, List.nodup_concat]
  refine ⟨fun old => ?_, fresh.2⟩
  obtain ⟨d, hd, same⟩ := List.mem_map.mp old
  exact absurd (fresh.1 d hd) (by rw [same]; exact Nat.lt_irrefl _)

theorem fence_gives_alone (h : Fetches s tn q b a) (op : fld b 0 1 = 6) (passes : firstFail (takeChecks a tn b) = none)
    (empty : s.work.disps = []) :
    Gives (.fence tn q) s fun t =>
      Took s t tn q b (fun d => EndedWith d .done 0 0xFFFF) ∧ t.mem = a.mem ∧ t.hearths = a.hearths := by
  have opNew : (newDisp s tn q b).op = 6 := op
  have row : exec (.fence tn q) s = .next (endWith a s.work.nextId .done 0) := by
    rw [h.exec_settles (.inl op) (by rw [op]; rfl) passes, settleWork_single (h.entered.alone empty) (.inl opNew) rfl, settle,
      if_neg (by omega)]
    rfl
  exact gives_of_row row ⟨h.entered.took_endWith rfl rfl _ _, rfl, rfl⟩

theorem fence_gives_waits (h : Fetches s tn q b a) (op : fld b 0 1 = 6) (passes : firstFail (takeChecks a tn b) = none)
    (fresh : FreshIds s) (earlier : ∃ e ∈ s.work.disps, e.tenant = tn ∧ e.queue = q ∧ e.orphan = false) :
    Gives (.fence tn q) s fun t => Took s t tn q b fun d => d.ended = false := by
  have e := h.entered
  obtain ⟨x, hx, htn, hq, own⟩ := earlier
  have waits : earlierDone a (newDisp s tn q b) = false := by
    have there : x ∈ a.work.disps := by simp [e.disps, hx]
    rw [earlierDone, Bool.not_eq_false', List.any_eq_true]
    exact ⟨x, there, by simp [newDisp, fresh.1 x hx, Disp.sameQueue, htn, hq, own]⟩
  have stays : disp? (settleWork a) s.work.nextId = some (newDisp s tn q b) := by
    rw [disp?_settleWork_other (fun d hd same => ?_) fun d hd same _ => ?_, e.disp?_new fresh]
    · rw [e.eq_new fresh hd same]
      exact fun eight => absurd (op.symm.trans eight) (by decide)
    · rw [e.eq_new fresh hd same, waits]
  exact gives_of_row (h.exec_settles (.inl op) (by rw [op]; rfl) passes)
    (e.took (turnOf_settleWork a) (mem_of_disp? stays) rfl rfl)

theorem signal_gives (h : Fetches s tn q b a) (op : fld b 0 1 = 7) (passes : firstFail (takeChecks a tn b) = none)
    (empty : s.work.disps = []) :
    Gives (.signal tn q) s fun t =>
      Took s t tn q b (fun d => EndedWith d .done 0 0xFFFF) ∧
        signalOf t tn (fld b 8 1) = (if fld b 9 1 = 0 then BitVec.ofNat 64 (fld b 0x10 8)
          else signalOf s tn (fld b 8 1) + BitVec.ofNat 64 (fld b 0x10 8)) ∧
        ∀ k, k ≠ fld b 8 1 → signalOf t tn k = signalOf s tn k := by
  have e := h.entered
  have alone := e.alone empty
  have opNew : (newDisp s tn q b).op = 7 := op
  let v := if fld b 9 1 = 0 then BitVec.ofNat 64 (fld b 0x10 8) else signalOf a tn (fld b 8 1) + BitVec.ofNat 64 (fld b 0x10 8)
  have applied : applySignal a (newDisp s tn q b) = putSignal a tn (fld b 8 1) v :=
    wakeWaits_of_noWait (s := putSignal a tn (fld b 8 1) v) fun d hd => by
      have same : d = newDisp s tn q b := by
        have there : d ∈ a.work.disps := hd
        simpa [alone] using there
      rw [same, opNew]
      decide
  have row : exec (.signal tn q) s = .next (endWith (putSignal a tn (fld b 8 1) v) s.work.nextId .done 0) := by
    rw [h.exec_settles (.inr op) (by rw [op]; rfl) passes, settleWork_single alone (.inr opNew) rfl, settle, if_pos opNew, applied]
    rfl
  refine gives_of_row row ⟨e.took_endWith (turnOf_putSignal _ _ _ _) rfl _ _, ?_, fun k hk => ?_⟩
  · rw [← e.signalOf]
    exact signalOf_putSignal_self _ _ _ _
  · rw [← e.signalOf]
    exact signalOf_putSignal_other _ _ _ hk

/-- The condition of a WAIT as its tenant's signal stood before it was taken. -/
theorem Entered.waitMet_new (h : Entered s a tn q b) : waitMet a (newDisp s tn q b) =
    if fld b 9 1 = 0 then decide (BitVec.ofNat 64 (fld b 0x10 8) ≤ Machine.signalOf s tn (fld b 8 1))
    else Machine.signalOf s tn (fld b 8 1) == BitVec.ofNat 64 (fld b 0x10 8) := by
  rw [← h.signalOf]
  rfl

theorem wait_gives (h : Fetches s tn q b a) (op : fld b 0 1 = 8) (passes : firstFail (takeChecks a tn b) = none)
    (fresh : FreshIds s) :
    let v := signalOf s tn (fld b 8 1)
    let x := BitVec.ofNat 64 (fld b 0x10 8)
    Gives (.wait tn q) s fun t =>
      ((fld b 9 1 = 0 ∧ x ≤ v) ∨ (fld b 9 1 = 1 ∧ v = x) → Took s t tn q b fun d => EndedWith d .done 0 0xFFFF) ∧
      ((fld b 9 1 = 0 ∧ v < x) ∨ (fld b 9 1 = 1 ∧ v ≠ x) → Took s t tn q b fun d => d.ended = false) := by
  intro v x
  have e := h.entered
  have found := e.disp?_new fresh
  have row : exec (.wait tn q) s = .next (wakeWaits a) := by
    rw [h.exec (by omega) (by omega) (by rw [op]; rfl), runRow_checked passes, startTaken, if_neg (by omega), if_neg (by omega),
      if_neg (by omega), if_pos op]
  refine gives_of_row row ⟨fun holds => ?_, fun fails => ?_⟩
  · have met : waitMet a (newDisp s tn q b) = true := by
      rw [e.waitMet_new]
      rcases holds with ⟨mode, le⟩ | ⟨mode, eq⟩
      · simpa [mode] using le
      · simpa [mode] using eq
    have once : ((a.work.disps.filter fun d => d.op == 8 && !d.ended && waitMet a d).map (·.id)).Nodup :=
      e.nodup fresh |>.sublist (List.filter_sublist.map _)
    have mine : newDisp s tn q b ∈ a.work.disps.filter fun d => d.op == 8 && !d.ended && waitMet a d :=
      List.mem_filter.mpr ⟨e.mem_new, by rw [met]; simp [newDisp, Disp.op, op]⟩
    have closed : disp? (wakeWaits a) s.work.nextId = some ((newDisp s tn q b).closed (now a) .done 0) :=
      disp?_foldl_endWith_once .done 0 _ a once mine found
    exact e.took (turnOf_wakeWaits a) (mem_of_disp? closed) rfl ⟨rfl, rfl, rfl⟩
  · have unmet : waitMet a (newDisp s tn q b) = false := by
      rw [e.waitMet_new]
      rcases fails with ⟨mode, lt⟩ | ⟨mode, ne⟩
      · simpa [mode] using lt
      · simpa [mode] using ne
    have stays : disp? (wakeWaits a) s.work.nextId = some (newDisp s tn q b) := by
      refine (disp?_foldl_endWith_other _ _ _ _ fun d hd same => ?_).trans found
      obtain ⟨there, wakes⟩ := List.mem_filter.mp hd
      rw [e.eq_new fresh there same.symm, unmet] at wakes
      simp at wakes
    exact e.took (turnOf_wakeWaits a) (mem_of_disp? stays) rfl rfl

theorem turnover_gives (h : Fetches s tn q b a) (op : fld b 0 1 = 9) (passes : firstFail (takeChecks a tn b) = none) :
    Gives (.turnover tn q) s fun t => Took s t tn q b (fun d => d.ended = false) ∧ ∀ k, takeable t tn k = false := by
  have e := h.entered
  have row : exec (.turnover tn q) s = .next a := by
    rw [h.exec (by omega) (by omega) (by rw [op]; rfl), runRow_checked passes, startTaken, if_neg (by omega), if_neg (by omega),
      if_neg (by omega), if_neg (by omega)]
  have holdsAll (k : Nat) : held a tn k = true :=
    List.any_eq_true.mpr ⟨_, e.mem_new, by simp [holds, newDisp, Disp.op, op]⟩
  exact gives_of_row row ⟨e.took rfl e.mem_new rfl rfl, fun k => by simp [takeable, holdsAll k]⟩

/-- Settles O31, descriptor by descriptor. -/
theorem synchronisingDescriptors : Obligations.SynchronisingDescriptors :=
  ⟨fun _ _ _ _ _ h op passes empty => fence_gives_alone h op passes empty,
    fun _ _ _ _ _ h op passes fresh earlier => fence_gives_waits h op passes fresh earlier,
    fun _ _ _ _ _ h op passes empty => signal_gives h op passes empty,
    fun _ _ _ _ _ h op passes fresh => wait_gives h op passes fresh,
    fun _ _ _ _ _ h op passes => turnover_gives h op passes⟩

end Sys2Proof.Machine
end

section
/-! A COMPLETION RECORD THAT DOES NOT STAND (R165, R170). When a dispatch leaves, what waited behind it in its queue starts within
the same step: a COPY to the bytes of the completion ring then overwrites the record that was just written. -/

namespace Sys2Proof.Machine

/-- A queue with both rings in host memory, 16 entries each, and two dispatches in flight. -/
def clashQueue : Queue :=
  { Queue.reset with
    state := .active, sqEntries := 16, cqEntries := 16, sqBase := 0x1000, cqBase := 0x2000, sqTail := 2,
    sqHead := 2, inflight := 2 }

/-- A RUN_RECIPE of site 9 that ended while it waited for its claim, as its site retired (R49, R196). -/
def clashEnded : Disp :=
  { id := 7, tenant := 1, queue := 0, sqIndex := 0, desc := leBytes 10 1 ++ [1, 1] ++ leBytes 52 0, started := 0, ended := true,
    endedAt := 0, working := [], unclaimed := false, reports := [{ site := 9, status := .hearthRetired, detail := 0 }], frames := 0,
    orphan := false }

/-- A COPY behind it, of 32 bytes of host memory to the first record of the completion ring. -/
def clashCopy : Disp :=
  { id := 8, tenant := 1, queue := 0, sqIndex := 1,
    desc := leBytes 8 4 ++ leBytes 8 0x8000 ++ leBytes 8 0x2000 ++ leBytes 8 32 ++ leBytes 32 0x10000,
    started := 0, ended := false, endedAt := 0, working := [], unclaimed := true, reports := [], frames := 0, orphan := false }

/-- READY, with a bus master, the two dispatches, and 32 bytes of 0x77 where the copy reads. -/
def clash : State :=
  { State.reset with
    dev := { Dev.reset with state := .ready, step := 13 },
    pcie := { Pcie.reset with perst := false, linkUp := true, vfEnable := true, numVfs := 16,
                              fns := [(1, { PcieFn.reset with busMaster := true })] },
    mem := { State.reset.mem with host := Ram.open.write 0x8000 (List.replicate 32 0x77) },
    work := { Work.reset with tenants := [(1, { Tenant.reset with alive := true, queues := [(0, clashQueue)] })],
                              disps := [clashEnded, clashCopy], nextId := 9 } }

/-- The byte of host memory that a command leaves. -/
def hostByteAfter (c : Instr) (s : State) (x : Nat) : Option Byte :=
  match exec c s with
  | .next t => some (t.mem.host.byte t.free x)
  | _ => none

theorem hostByteAfter_of_exec {c : Instr} {s t : State} (h : exec c s = .next t) (x : Nat) :
    hostByteAfter c s x = some (t.mem.host.byte t.free x) := by
  rw [hostByteAfter, h]

/-- The copy's byte stands where the record's first byte was written. -/
theorem clash_overwrites : hostByteAfter (.dispatchComplete 7) clash 0x2000 = some 0x77 := by decide +kernel

/-- Where the record goes, and its first byte. -/
theorem clash_place : let u := queue clash clashEnded.tenant clashEnded.queue
    u.cqBase.toNat + 32 * (u.cqTail % u.cqEntries) + 0 = 0x2000 ∧
      (recordBytes clashEnded (decide (u.cqTail < u.cqEntries))).getD 0 0 = 0 := by
  decide +kernel

/-- Refutes O32: the record of `clashEnded` is overwritten by `clashCopy`, which starts when `clashEnded` leaves. -/
theorem not_completionsWriteRecords : ¬ Obligations.CompletionsWriteRecords := by
  unfold Obligations.CompletionsWriteRecords
  rintro ⟨-, -, complete⟩
  obtain ⟨t, row, -, -, -, record, -⟩ := complete clash 7 clashEnded rfl rfl rfl (by decide)
  have stands : t.mem.host.byte t.free 0x2000 = 0 := by
    have first := record rfl (by decide +kernel) 0 (by decide)
    rwa [clash_place.1, clash_place.2] at first
  have overwritten := (hostByteAfter_of_exec row 0x2000).symm.trans clash_overwrites
  rw [stands] at overwritten
  exact absurd overwritten (by decide)

end Sys2Proof.Machine
end

section
/-! RECIPES START AND END (R160, R170, R177, R195-R197, R207-R209): the claim of a rectangle, the end of a recipe on a site, and a
miss of the instruction buffer. -/

namespace Sys2Proof.Machine

variable {s t : State} {id site : Nat} {d : Disp}

/-! ## Sites of a rectangle -/

/-- The site of a package row and column (R158). -/
def siteAt (row col : Nat) : Nat := if col ≤ 9 then 10 * row + (9 - col) else 100 + 10 * row + (col - 10)

theorem rectSites_eq (row0 pcol0 rows cols : Nat) : rectSites row0 pcol0 rows cols =
    (List.range rows).flatMap fun r => (List.range cols).map fun c => siteAt (row0 + r) (pcol0 + c) := rfl

theorem siteAt_inj {r c r' c' : Nat} (hr : r < 10) (hr' : r' < 10) (hc : c < 20) (hc' : c' < 20) (h : siteAt r c = siteAt r' c') :
    r = r' ∧ c = c' := by
  unfold siteAt at h
  split at h <;> split at h <;> omega

/-- The sites of a rectangle inside the package differ. -/
theorem nodup_rectSites {row0 pcol0 rows cols : Nat} (hr : row0 + rows ≤ 10) (hc : pcol0 + cols ≤ 20) :
    (rectSites row0 pcol0 rows cols).Nodup := by
  rw [rectSites_eq, List.nodup_flatMap]
  refine ⟨fun r hr' => ?_, ?_⟩
  · refine List.nodup_range.map_on fun c hc' c' hc'' same => ?_
    rw [List.mem_range] at hr' hc' hc''
    have := siteAt_inj (by omega) (by omega) (by omega) (by omega) same
    omega
  · refine List.nodup_range.imp_of_mem fun {r r'} hr' hr'' differ x hx hx' => ?_
    obtain ⟨c, hc', rfl⟩ := List.mem_map.mp hx
    obtain ⟨c', hc'', same⟩ := List.mem_map.mp hx'
    rw [List.mem_range] at hr' hr'' hc' hc''
    have := siteAt_inj (by omega) (by omega) (by omega) (by omega) same
    omega

theorem nodup_allRect {b : List Byte} (h : rectOk s b = true) : (allRect b).Nodup := by
  simp only [rectOk, Bool.and_eq_true, decide_eq_true_eq] at h
  exact nodup_rectSites h.1.1.2 h.1.2

/-! ## The claim -/

/-- Site `i` of a recipe's rectangle is claimed, unless it is skipped. -/
def claimSite (d : Disp) (sites all : List Nat) (s : State) (i : Nat) : State :=
  if sites.contains (all.getD i 0) then
    modHearth s (all.getD i 0) (claimHearth d (i / fld d.desc 0xB 1) (i % fld d.desc 0xB 1))
  else s

section
variable {sites all : List Nat} {x : Nat}

theorem hearth_claimSite_other {i : Nat} (h : x = all.getD i 0 → x ∉ sites) (s : State) :
    hearth (claimSite d sites all s i) x = hearth s x := by
  unfold claimSite
  split
  next used => exact hearth_modHearth_other s _ _ fun same => h same (by rw [same]; exact List.contains_iff_mem.mp used)
  next => rfl

theorem hearth_claimSite_self {i : Nat} (h : x = all.getD i 0) (used : x ∈ sites) (s : State) :
    hearth (claimSite d sites all s i) x = claimHearth d (i / fld d.desc 0xB 1) (i % fld d.desc 0xB 1) (hearth s x) := by
  rw [claimSite, ← h, if_pos (by simpa using used), hearth_modHearth_self]

/-- The sites of a rectangle are claimed in its order. -/
def claimSites (d : Disp) (sites all l : List Nat) (s : State) : State := l.foldl (claimSite d sites all) s

theorem hearth_claimSites_other (l : List Nat) (h : ∀ i ∈ l, x = all.getD i 0 → x ∉ sites) (s : State) :
    hearth (claimSites d sites all l s) x = hearth s x := by
  induction l generalizing s with
  | nil => rfl
  | cons i l ih =>
    exact (ih (fun j hj => h j (List.mem_cons_of_mem _ hj)) _).trans (hearth_claimSite_other (h i List.mem_cons_self) s)

/-- Each site is claimed once, at its place in the rectangle. -/
theorem hearth_claimSites_self (differ : all.Nodup) (l : List Nat) (once : l.Nodup) (places : ∀ i ∈ l, i < all.length) {i : Nat}
    (hi : i ∈ l) (place : x = all.getD i 0) (used : x ∈ sites) (s : State) :
    hearth (claimSites d sites all l s) x = claimHearth d (i / fld d.desc 0xB 1) (i % fld d.desc 0xB 1) (hearth s x) := by
  induction l generalizing s with
  | nil => nomatch hi
  | cons j l ih =>
    have apart {k : Nat} (hk : k ∈ j :: l) (ne : k ≠ i) : x ≠ all.getD k 0 := fun same => ne <| by
      rw [place, List.getD_eq_getElem _ _ (places i hi), List.getD_eq_getElem _ _ (places k hk)] at same
      exact ((differ.getElem_inj_iff).mp same).symm
    obtain ⟨hj, once⟩ := List.nodup_cons.mp once
    by_cases same : j = i
    · subst same
      refine (hearth_claimSites_other l (fun k hk here => ?_) _).trans (hearth_claimSite_self place used s)
      exact absurd here (apart (List.mem_cons_of_mem _ hk) fun eq => hj (eq ▸ hk))
    · have later : i ∈ l := (List.mem_cons.mp hi).resolve_left (Ne.symm same)
      refine (ih once (fun k hk => places k (List.mem_cons_of_mem _ hk)) later _).trans ?_
      rw [hearth_claimSite_other fun here => absurd here (apart List.mem_cons_self same)]

theorem claimSites_only (l : List Nat) (s : State) :
    claimSites d sites all l s = { s with hearths := (claimSites d sites all l s).hearths } :=
  foldl_keeps (fun u : State => u = { s with hearths := u.hearths }) (claimSite d sites all) (fun u i h => by
    unfold claimSite
    split
    · rw [h]
      rfl
    · exact h) l s rfl

end

/-- The state once a recipe has claimed its rectangle. -/
def claimed (s : State) (d : Disp) : State :=
  claimSites d (usedRect s d.desc) (allRect d.desc) (List.range (allRect d.desc).length)
    (modDisp s d.id fun e => { e with unclaimed := false, working := usedRect s d.desc })

theorem claimed_only (s : State) (d : Disp) :
    claimed s d = { s with work := { s.work with disps := (claimed s d).work.disps }, hearths := (claimed s d).hearths } := by
  rw [claimed, claimSites_only]
  rfl

theorem claimed_work (s : State) (d : Disp) :
    (claimed s d).work = (modDisp s d.id fun e => { e with unclaimed := false, working := usedRect s d.desc }).work := by
  rw [claimed, claimSites_only]

/-- Nothing starts that does not wait. -/
theorem startWaiting_none (n q : Nat) (h : ∀ e ∈ s.work.disps, e.unclaimed = true → e.tenant = n → e.queue = q → False) :
    startWaiting s n q = s := by
  have empty : (s.work.disps.filter fun d =>
      d.unclaimed && d.tenant == n && d.queue == q && (d.op == 2 || d.op == 4 || d.op == 5)) = [] := by
    refine List.filter_eq_nil_iff.mpr fun e he waits => ?_
    simp only [Bool.and_eq_true, beq_iff_eq] at waits
    obtain ⟨⟨⟨unclaimed, htn⟩, hq⟩, -⟩ := waits
    exact h e he unclaimed htn hq
  rw [startWaiting, empty]
  rfl

theorem not_behind_of_waitsAlone (alone : WaitsAlone s d) : behind s d = false := by
  rw [behind, List.any_eq_false]
  intro e he waits
  simp only [Bool.and_eq_true, Disp.sameQueue, beq_iff_eq, decide_eq_true_eq] at waits
  obtain ⟨⟨unclaimed, earlier⟩, ⟨htn, hq⟩, -⟩ := waits
  exact absurd (alone e he unclaimed htn hq) (Nat.ne_of_lt earlier)

/-- Once the one dispatch of a queue that waited has claimed, none waits. -/
theorem startWaiting_claimed (alone : WaitsAlone s d) : startWaiting (claimed s d) d.tenant d.queue = claimed s d := by
  refine startWaiting_none _ _ fun e he unclaimed htn hq => ?_
  rw [claimed_work] at he
  obtain ⟨x, hx, rfl⟩ := List.mem_map.mp he
  by_cases own : x.id = d.id
  · rw [if_pos own] at unclaimed
    cases unclaimed
  · rw [if_neg own] at unclaimed htn hq
    exact own (alone x hx unclaimed htn hq)

theorem lookD_nil {α : Type} (x : α) (k : Nat) : lookD x [] k = x := rfl

/-- What a claimed site's sequencer starts with (R160, R177, R195-R197, R209). -/
theorem claimHearth_starts (d : Disp) (row col : Nat) (h : Hearth) :
    let c := claimHearth d row col h
    c.seq = .running ∧ c.disp = some d.id ∧ c.tenant = d.tenant ∧ c.pc.toNat = fld d.desc 0x10 8 ∧
      lookD 0 c.regs 1 = BitVec.ofNat 64 row ∧ lookD 0 c.regs 2 = BitVec.ofNat 64 col ∧
      (lookD 0 c.regs 5).toNat = fld d.desc 0x18 8 ∧
      lookD 0 c.regs 8 = 0 ∧ lookD 0 c.regs 31 = 0 ∧ c.preds = 0 ∧ c.tvec = 0 ∧ c.inTrap = false ∧ c.sticky = 0 ∧
      c.completed = [] ∧ c.issued = [] ∧ c.arrival = [] ∧ c.ibuf = [] ∧ c.staging = h.staging := by
  refine ⟨rfl, rfl, rfl, toNat_ofNat_fld_word _ _, ?_, ?_, ?_, ?_, ?_, rfl, rfl, rfl, rfl, rfl, rfl, rfl, rfl, rfl⟩
  · simp [claimHearth, lookD_putD]
  · simp [claimHearth, lookD_putD]
  · simpa [claimHearth, lookD_putD] using Nat.mod_eq_of_lt (fld_lt d.desc 0x18 8)
  · simp [claimHearth, lookD_putD, lookD_nil]
  · simp [claimHearth, lookD_putD, lookD_nil]

theorem recipeClaim_gives (found : disp? s id = some d) (op : d.op = 1) (unclaimed : d.unclaimed = true)
    (ok : rectOk s d.desc = true)
    (free : ∀ x ∈ usedRect s d.desc, (hearth s x).disp = none) (alone : WaitsAlone s d) :
    Gives (.recipeClaim id) s fun t =>
      (∃ e, disp? t id = some e ∧ e.unclaimed = false ∧ e.working = usedRect s d.desc) ∧
        (∀ i x, (allRect d.desc)[i]? = some x → x ∈ usedRect s d.desc →
          (hearth t x).seq = .running ∧ (hearth t x).disp = some id ∧ (hearth t x).tenant = d.tenant ∧
            (hearth t x).pc.toNat = fld d.desc 0x10 8 ∧
            lookD 0 (hearth t x).regs 1 = BitVec.ofNat 64 (i / fld d.desc 0xB 1) ∧
            lookD 0 (hearth t x).regs 2 = BitVec.ofNat 64 (i % fld d.desc 0xB 1) ∧
            (lookD 0 (hearth t x).regs 5).toNat = fld d.desc 0x18 8 ∧ lookD 0 (hearth t x).regs 8 = 0 ∧
            lookD 0 (hearth t x).regs 31 = 0 ∧
            (hearth t x).preds = 0 ∧ (hearth t x).tvec = 0 ∧ (hearth t x).inTrap = false ∧ (hearth t x).sticky = 0 ∧
            (hearth t x).completed = [] ∧ (hearth t x).issued = [] ∧ (hearth t x).arrival = [] ∧ (hearth t x).ibuf = [] ∧
            (hearth t x).staging = (hearth s x).staging) ∧
        (∀ x, x ∉ usedRect s d.desc → hearth t x = hearth s x) ∧
        t = { s with work := { s.work with disps := t.work.disps }, hearths := t.hearths } := by
  obtain rfl := id_of_disp? found
  have row : exec (.recipeClaim d.id) s = .next (claimed s d) := by
    have allFree : ((usedRect s d.desc).all fun x => (hearth s x).disp.isNone) = true :=
      List.all_eq_true.mpr fun x hx => by rw [free x hx]; rfl
    have turn : (!(d.unclaimed && d.op == 1 && !behind s d &&
        (usedRect s d.desc).all fun x => (hearth s x).disp.isNone)) = false := by
      simp [unclaimed, op, not_behind_of_waitsAlone alone, allFree]
    show execRecipeClaim d.id s = _
    rw [execRecipeClaim, found]
    exact congrArg _ ((if_neg (by rw [turn]; decide)).trans (startWaiting_claimed alone))
  refine gives_of_row row ⟨?_, fun i x hi used => ?_, fun x skipped => ?_, claimed_only s d⟩
  · exact ⟨_, (disp?_congr (claimed_work s d) d.id).trans (disp?_modDisp_self s found fun _ => rfl), rfl, rfl⟩
  · obtain ⟨inRect, here⟩ := List.getElem?_eq_some_iff.mp hi
    have own : hearth (claimed s d) x = claimHearth d (i / fld d.desc 0xB 1) (i % fld d.desc 0xB 1) (hearth s x) :=
      hearth_claimSites_self (nodup_allRect ok) _ List.nodup_range (fun j hj => List.mem_range.mp hj) (List.mem_range.mpr inRect)
        (by rw [List.getD_eq_getElem _ _ inRect, here]) used _
    rw [own]
    exact claimHearth_starts d _ _ _
  · exact hearth_claimSites_other _ (fun _ _ _ => skipped) _

theorem recipeClaim_idles {e : Disp} (found : disp? s id = some d) (he : e ∈ s.work.disps) (waits : e.unclaimed = true)
    (earlier : e.id < d.id) (htn : e.tenant = d.tenant) (hq : e.queue = d.queue) (own : e.orphan = d.orphan) :
    Idles (.recipeClaim id) s := by
  have before : behind s d = true :=
    List.any_eq_true.mpr ⟨e, he, by simp [waits, earlier, Disp.sameQueue, htn, hq, own]⟩
  show execRecipeClaim id s = _
  rw [execRecipeClaim, found]
  exact congrArg _ (if_pos (by simp [before]))

/-! ## The end on a site -/

/-- A sequencer that has let go of its recipe (R207). -/
def releasedHearth (h : Hearth) : Hearth :=
  { h with seq := .idle, disp := none, queues := [], fails := [], dmaHalted := [], races := [],
           tags := h.tags.filter (·.abandoned) }

theorem hearth_stopSequencer_self (s : State) (site : Nat) : hearth (stopSequencer s site) site = releasedHearth (hearth s site) :=
  hearth_modHearth_self s site releasedHearth

theorem hearth_stopSequencer_other (s : State) {site x : Nat} (h : x ≠ site) : hearth (stopSequencer s site) x = hearth s x :=
  hearth_modHearth_other s site releasedHearth h

theorem recipeSiteEnd_gives (inPart : site < 200) (ending : (hearth s site).seq = .ending) (done : itemsDone (hearth s site) = true)
    (runs : (hearth s site).disp = some id) (clean : (hearth s site).fails = []) (found : disp? s id = some d) :
    Gives (.recipeSiteEnd site) s fun t =>
      (hearth t site).seq = .idle ∧ (hearth t site).disp = none ∧
        (∃ e, disp? t id = some e ∧ e.reports = d.reports ++ [{ site := site, status := .done, detail := 0 }] ∧
          e.working = d.working.filter (fun x => x != site) ∧ (e.ended = true ↔ d.ended = true ∨ e.working = [])) ∧
        (∀ x, x ≠ site → hearth t x = hearth s x) ∧
        t.mem = { s.mem with races := s.mem.races.filter fun x => x.site != site || x.queue == 17 } := by
  let r : Report := { site := site, status := .done, detail := 0 }
  have idle := hearth_stopSequencer_self (countAt s 0x006 site 1) site
  have row : exec (.recipeSiteEnd site) s = .next (endUnit (stopSequencer (countAt s 0x006 site 1) site) id site r) := by
    have ends : endSite s site .done 0 = endUnit (stopSequencer (countAt s 0x006 site 1) site) id site r := by
      simp [endSite, runs, Status.stops, r]
    show execRecipeSiteEnd site s = _
    rw [execRecipeSiteEnd, guarded, if_pos (by simpa [siteOk] using inPart), ← ends]
    simp [ending, done, clean, worstReport]
  refine gives_of_row row ⟨?_, ?_, ⟨_, disp?_modDisp_self _ (d := d) found fun _ => rfl, rfl, rfl, ?_⟩, fun x hx => ?_, rfl⟩
  · exact congrArg Hearth.seq idle
  · exact congrArg Hearth.disp idle
  · simp
  · exact hearth_stopSequencer_other (countAt s 0x006 site 1) hx

/-! ## The instruction buffer -/

theorem reads_readShare (s : State) (n site addr len : Nat) (req : Req) : Reads s (readShare s n site addr len req).2 := by
  unfold readShare
  split
  · rfl
  split
  · rfl
  split
  · exact reads_readSpan _ _ _ _ _
  · rfl

theorem ibufFill_gives {s' : State} {r : Region} {b : List Byte} (inPart : site < 200) (runs : executing s site = true)
    (miss : lineAt (hearth s site) = none) (code : region? s (hearth s site).tenant (hearth s site).codeRegion = some r)
    (inShare : (hearth s site).pc.toNat < r.share)
    (read : readShare (countAt s 0x004 site 1) (hearth s site).tenant site
      (2 ^ 48 * (hearth s site).codeRegion + (hearth s site).pc.toNat / 256 * 256)
      (min 256 (r.share - (hearth s site).pc.toNat / 256 * 256)) 1 = (.bytes b, s')) :
    Gives (.ibufFill site) s fun t =>
      lineAt (hearth t site) = some b ∧ hearth t site = { hearth s site with ibuf := (hearth t site).ibuf } ∧
        (∀ x, x ≠ site → hearth t x = hearth s x) := by
  have reads : Reads (countAt s 0x004 site 1) s' := by
    have all := reads_readShare (countAt s 0x004 site 1) (hearth s site).tenant site
      (2 ^ 48 * (hearth s site).codeRegion + (hearth s site).pc.toNat / 256 * 256)
      (min 256 (r.share - (hearth s site).pc.toNat / 256 * 256)) 1
    rwa [read] at all
  have same (x : Nat) : hearth s' x = hearth s x := hearth_congr reads.hearths x
  let o := (hearth s site).pc.toNat / 256 * 256
  have row : exec (.ibufFill site) s = .next (modHearth s' site fun h => { h with ibuf := put h.ibuf (o / 256 % 128) (o, b) }) := by
    show execIbufFill site s = _
    rw [execIbufFill, guarded, if_pos (by simpa [siteOk] using inPart)]
    simp [-Nat.reducePow, runs, miss, code, Nat.not_le.mpr inShare, read, o]
  refine gives_of_row row ⟨?_, ?_, fun x hx => ?_⟩
  · rw [hearth_modHearth_self, same]
    simp [lineAt, look_put_self, o]
  · rw [hearth_modHearth_self, same]
  · rw [hearth_modHearth_other _ _ _ hx, same]

/-- Settles O33, command by command. -/
theorem recipesStartAndEnd : Obligations.RecipesStartAndEnd :=
  ⟨fun _ _ _ found op unclaimed ok free alone => recipeClaim_gives found op unclaimed ok free alone,
    fun _ _ _ _ found he waits earlier htn hq own => recipeClaim_idles found he waits earlier htn hq own,
    fun _ _ _ _ inPart ending done runs clean found => recipeSiteEnd_gives inPart ending done runs clean found,
    fun _ _ _ _ _ inPart runs miss code inShare read => ibufFill_gives inPart runs miss code inShare read⟩

end Sys2Proof.Machine
end

section
/-! A SHARE THAT IS NOT WHOLE WORDS (R219, R234). RegionAccesses takes any region, and the word of an offset rounded down to 32 bytes is
the word of the offset only where SHARE is a multiple of 32: with a smaller SHARE a word's bytes lie in the shares of two sites. -/

namespace Sys2Proof.Machine

/-- 32 bytes shared out to sites 0 and 1, 16 to each; R219 would round SHARE up to 64 KiB. -/
def splitRegion : Region :=
  { hbm := false, die := false, bankLocal := false, mask := 3, share := 16, size := 32,
    extents := [{ unit := 0, banks := [0], base := 0, count := 1 }, { unit := 1, banks := [0], base := 0, count := 1 }],
    init := [], generation := 1, key := 0 }

/-- STR of g2 at g1. -/
def splitStore : Nat := 0x1E * 2 ^ 26 + 2 * 2 ^ 16 + 1 * 2 ^ 11

/-- The sequencer of site 0 at the store, with region 1, offset 16 in g1 and 7 in g2. -/
def splitHearth : Hearth :=
  { Hearth.reset with
    seq := .running, disp := some 7, tenant := 1, codeRegion := 9, pc := 0,
    ibuf := [(0, 0, leBytes 256 splitStore)], regs := [(1, BitVec.ofNat 64 (2 ^ 48 + 16)), (2, 7)] }

/-- READY, with tenant 1 and its region, and zeros in the two words of the region. -/
def split : State :=
  { State.reset with
    dev := { Dev.reset with state := .ready, step := 13 },
    fpt := { Fpt.reset with table := some .manufacture, published := true },
    work := { Work.reset with tenants := [(1, { Tenant.reset with alive := true, regions := [(1, splitRegion)] })],
                              owner := [(0, 1), (1, 1)] },
    mem := { Mem.reset with slice := [(0, encode 0 0), (Config.unitStride, encode 0 Config.unitStride)] },
    hearths := [(0, splitHearth)] }

/-- The word that the region's offset 0 names. -/
def splitPlace : Place := { hbm := false, unit := 0, addr := 0, die := false, key := 0 }

/-- What a word reads as after a command. -/
def wordAfter (c : Instr) (s : State) (p : Place) : Option Got :=
  match exec c s with
  | .next t => some (peek t p)
  | _ => none

theorem wordAfter_of_exec {c : Instr} {s t : State} (h : exec c s = .next t) (p : Place) : wordAfter c s p = some (peek t p) := by
  rw [wordAfter, h]

/-- The store runs and meets the clause's hypotheses. -/
theorem split_runs : Runs split 0 splitStore 0x1E := by
  unfold Runs
  decide +kernel

/-- The store goes to site 1: the word on site 0 still holds zeros. -/
theorem split_keeps : wordAfter (.str 0) split splitPlace = some (.data 0) := by decide +kernel

/-- Refutes O37, whose clause on stores fails where SHARE is 16: offset 0 lies on site 0, and the store at offset 16 goes to the share
of site 1, so the word of offset 0 does not hold the stored bytes. R219, which the clause does not assume, gives no such SHARE. -/
theorem not_regionAccesses : ¬ Obligations.RegionAccesses := by
  unfold Obligations.RegionAccesses
  rintro ⟨-, stores, -⟩
  obtain ⟨t, row, merges, -⟩ := stores split 0 splitStore 0x1E 8 .str splitRegion splitPlace 0 (by simp [regionStores]) split_runs
    (by decide +kernel) (by decide +kernel) (by decide +kernel) (by decide +kernel) (by decide +kernel) (.inl ⟨rfl, rfl⟩)
  obtain ⟨merged, -⟩ := merges (by decide +kernel)
  have kept := (wordAfter_of_exec row splitPlace).symm.trans split_keeps
  rw [merged] at kept
  exact absurd kept (by decide +kernel)

end Sys2Proof.Machine
end


section
/-! HOW A ROW OF THE SEQUENCER RUNS (R195, R198, R204, R210): the fetch of the word at pc, what a retiring instruction changes, the two ways
of a trap, and the wrapping comparison of counters. -/

namespace Sys2Proof.Machine

variable {s t u : State} {site w op : Nat}

/-! ## Fetching -/

theorem Runs.fetched (h : Runs s site w op) : fetched s site = some w := by
  obtain ⟨-, runs, cached, fresh, -⟩ := h
  simp [Machine.fetched, runs, cached, fresh]

/-- A fetch that was not open reads no free value. -/
theorem Runs.noteFetch (h : Runs s site w op) : noteFetch s site = s := by
  obtain ⟨-, -, cached, fresh, -⟩ := h
  simp [Machine.noteFetch, cached, fresh]

/-- The row of the word at pc does what the row says. -/
theorem Runs.opRow (h : Runs s site w op) {fieldsOk : Nat → Bool} (fields : fieldsOk w = true) (run : State → Nat → State) :
    opRow op site fieldsOk s run = .next (run s w) := by
  obtain ⟨inPart, -, -, -, mine, guarded_, on⟩ := id h
  rw [Machine.opRow, seqRow, h.fetched, guarded, if_pos (by simpa [siteOk] using inPart)]
  simp [h.noteFetch, mine, guarded_, on, fields]

/-! ## Registers -/

theorem setG_only (h : Hearth) (n : Nat) (v : Word) : setG h n v = { h with regs := (setG h n v).regs } := by
  unfold setG
  split <;> rfl

/-- g0 reads as zero and takes no value (R195). -/
theorem getG_setG (h : Hearth) (n k : Nat) (v : Word) : getG (setG h n v) k = if k = n ∧ k ≠ 0 then v else getG h k := by
  unfold getG setG
  by_cases hk : k = 0
  · simp [hk]
  · by_cases hn : n = 0
    · simp [hk, hn]
    · simp [hk, hn, lookD_putD]

/-! ## Retiring

The lemmas leave open where pc goes, as `retireTo` does. -/

section
variable (s site) (pc : Word) (f : Hearth → Hearth)

theorem hearth_retireTo_self : hearth (retireTo s site pc f) site = { f (hearth s site) with pc := pc } :=
  hearth_modHearth_self s site fun h => { f h with pc := pc }

theorem hearth_retireTo_other {x : Nat} (h : x ≠ site) : hearth (retireTo s site pc f) x = hearth s x :=
  hearth_modHearth_other s site (fun h => { f h with pc := pc }) h

theorem siteOnly_retireTo : SiteOnly s (retireTo s site pc f) site := ⟨fun _ h => hearth_retireTo_other s site pc f h, rfl⟩

theorem retires_retireTo : Retires s (retireTo s site pc f) site pc := by
  refine ⟨by rw [hearth_retireTo_self], ?_⟩
  rw [retireTo, countAt_raw, if_pos rfl]
  rfl

theorem onlyPc_retireTo : OnlyPc s (retireTo s site pc id) site pc :=
  ⟨hearth_retireTo_self s site pc id, retires_retireTo s site pc id, siteOnly_retireTo s site pc id⟩

end

theorem setsRd_retire (s : State) (site rd : Nat) (val : Hearth → Word) :
    SetsRd s (retire s site fun h => setG h rd (val h)) site rd (val (hearth s site)) := by
  unfold retire SetsRd
  generalize (hearth s site).pc + 4 = pc
  have self := hearth_retireTo_self s site pc fun h => setG h rd (val h)
  refine ⟨fun n => ?_, ?_, retires_retireTo s site pc _, siteOnly_retireTo s site pc _⟩
  · rw [self]
    exact getG_setG _ _ _ _
  · rw [self, setG_only]

/-! ## Traps (R210) -/

/-- A trap of a state that has counted or read free values since is a trap of the state before. -/
theorem trapsWith_siteTrap (since : t = { s with counters := t.counters, free := t.free }) (site code : Nat) (v : Word) :
    TrapsWith s (siteTrap t site code v) site code v := by
  have same (x : Nat) : hearth t x = hearth s x := by rw [since]; rfl
  have counted (x : Nat) : hearth (countAt t 0x005 site 1) x = hearth s x := same x
  have back : countAt t 0x005 site 1 =
      { s with counters := (countAt t 0x005 site 1).counters, free := (countAt t 0x005 site 1).free } := by
    unfold countAt modCounters
    rw [since]
  by_cases handler : (hearth s site).tvec = 0
  · have ends : siteTrap t site code v = endSite (countAt t 0x005 site 1) site .trap code := by
      unfold siteTrap
      dsimp only
      rw [same, if_pos handler]
    exact ⟨⟨fun has => absurd handler has, fun _ => ⟨_, back, by rw [ends, if_pos handler]⟩⟩, fun has => absurd handler has⟩
  cases inside : (hearth s site).inTrap with
  | true =>
    have ends : siteTrap t site code v = endSite (countAt t 0x005 site 1) site .trap 0x0F := by
      unfold siteTrap
      dsimp only
      rw [same, if_neg handler, inside]
      rfl
    have within (P : Prop) : (hearth s site).inTrap = false → P := fun out => absurd (out.symm.trans inside) nofun
    exact ⟨⟨fun _ => within _, fun _ => ⟨_, back, by rw [ends, if_neg handler]⟩⟩, fun _ => within _⟩
  | false =>
    have enters : siteTrap t site code v = modHearth (countAt t 0x005 site 1) site fun h =>
        { h with tpc := h.pc, tcause := code, tval := v, inTrap := true, pc := h.tvec, seq := .running } := by
      unfold siteTrap
      dsimp only
      rw [same, if_neg handler, inside]
      rfl
    rw [enters]
    refine ⟨⟨fun _ _ => ⟨?_, fun x other => ?_, ?_⟩, fun neither => ?_⟩, fun _ _ => ?_⟩
    · rw [hearth_modHearth_self, counted]
    · rw [hearth_modHearth_other _ _ _ other, counted]
    · unfold modHearth setHearth
      rw [back]
    · rcases neither with none_ | within
      · exact absurd none_ handler
      · exact absurd (within.symm.trans inside) nofun
    · rw [hearth_modHearth_self]

theorem traps_siteTrapOpen (s : State) (site code : Nat) : Traps s (siteTrapOpen s site code) site code :=
  (trapsWith_siteTrap (s := s) (t := bumpFree s) rfl site code _).1

/-! ## Counters that wrap (R204) -/

/-- The comparison of a counter with a target is the sign of their 32-bit difference. -/
theorem reached_iff (counter : Nat) (v : Word) :
    reached counter (v.toNat % 2 ^ 32) = true ↔ 0 ≤ (BitVec.ofNat 32 counter - v.setWidth 32).toInt := by
  rw [reached, decide_eq_true_iff, BitVec.toInt_eq_toNat_cond]
  simp only [BitVec.toNat_sub, BitVec.toNat_ofNat, BitVec.toNat_setWidth]
  split <;> omega

theorem reached_self (n : Nat) : reached n n = true := by
  rw [reached, decide_eq_true_iff]
  omega

/-- What has been seen of a counter is waited for. -/
theorem reached_noteWait (h : Hearth) (q n : Nat) : reached (lookD 0 (noteWait h q n).waited q) n = true := by
  unfold noteWait
  split
  next already => exact already
  next => rw [lookD_putD_self]; exact reached_self n

/-- Only the record of what has been waited for changes. Proofs keep it folded: to compare it by evaluation is to compute with 2^32. -/
theorem noteWait_only (h : Hearth) (q n : Nat) : noteWait h q n = { h with waited := (noteWait h q n).waited } := rfl

theorem getG_waited (h : Hearth) (m : SMap Nat) (k : Nat) : getG { h with waited := m } k = getG h k := rfl

theorem getG_noteWait (h : Hearth) (q n k : Nat) : getG (noteWait h q n) k = getG h k := by
  rw [noteWait_only, getG_waited]

theorem waited_noteWait_other (h : Hearth) (q n : Nat) {k : Nat} (other : k ≠ q) :
    lookD 0 (noteWait h q n).waited k = lookD 0 h.waited k := by
  unfold noteWait
  split
  next => rfl
  next => exact lookD_putD_other _ _ _ other

end Sys2Proof.Machine
end


section
/-! STAGING AS AN ITEM OR THE SEQUENCER MEETS IT (R178, R180, R181): bytes that are known do not depend on the free values, a read of known
bytes that nothing may show as old counts and changes nothing else, and what a write leaves. -/

namespace Sys2Proof.Machine

variable {s t : State} {site a n : Nat}

/-! ## Known bytes -/

/-- A byte of a memory whose unlisted bytes are known is no free value. -/
theorem Ram.byte_known {r : Ram} (known : r.unlisted.isSome = true) (free free' x : Nat) : r.byte free x = r.byte free' x := by
  obtain ⟨b, hb⟩ := Option.isSome_iff_exists.mp known
  simp [Ram.byte, hb]

theorem Ram.read_known {r : Ram} (known : r.unlisted.isSome = true) (free free' a n : Nat) : r.read free a n = r.read free' a n := by
  induction n generalizing a with
  | zero => rfl
  | succ n ih => rw [Ram.read, Ram.read, Ram.byte_known known free free', ih]

theorem Ram.getD_read (r : Ram) (free a : Nat) {n i : Nat} (h : i < n) (d : Byte) : (r.read free a n).getD i d = r.byte free (a + i) := by
  rw [List.getD_eq_getElem?_getD, Ram.getElem?_read r free a n i h]
  rfl

/-! ## Reads -/

/-- An item that has overtaken nothing that runs does what it does. -/
theorem amid_calm {α : Type} {q num : Nat} (calm : overtaken s site q num = []) (f : State → α × State) :
    amid s site q num f = f s := by
  unfold amid
  rw [calm]

theorem oldStaging_of_no_races {h : Hearth} (none_ : h.races = []) (site a n : Nat) (r : Req) : oldStaging h site a n r = [] := by
  unfold oldStaging
  rw [none_]
  split
  · exact ite_self _
  · rfl

theorem unitsIn_eq_nil {h : Hearth} (clean : stagingUe h a n = false) : unitsIn h.stagingBad a n = [] := by
  rw [unitsIn, List.filter_eq_nil_iff]
  rw [stagingUe, List.any_eq_false] at clean
  exact clean

theorem seeStaging_known {r : Req} (known : (hearth s site).staging.unlisted.isSome = true)
    (fresh : oldStaging (hearth s site) site a n r = []) : seeStaging s site a n r = ((hearth s site).staging.read s.free a n, s) := by
  unfold seeStaging
  dsimp only
  rw [fresh, Option.isNone_eq_false_iff.mpr known]
  rfl

/-- A read of known bytes, of which none may be old, gives them and only counts. -/
theorem stRead_known {r : Req} (readable : Readable (hearth s site) a n) (fresh : oldStaging (hearth s site) site a n r = []) :
    ∃ c, stRead s site a n r = (some ((hearth s site).staging.read s.free a n), { s with counters := c }) := by
  obtain ⟨known, clean⟩ := readable
  have counted : ∃ c, (if (unitsIn (hearth s site).stagingSoft a n).length = 0 then countAt s 0x009 site ((n + 31) / 32)
      else countAt (countAt s 0x009 site ((n + 31) / 32)) 0x00B site (unitsIn (hearth s site).stagingSoft a n).length) =
      { s with counters := c } := by
    split
    · exact ⟨_, rfl⟩
    · exact ⟨_, rfl⟩
  obtain ⟨c, hc⟩ := counted
  refine ⟨c, ?_⟩
  unfold stRead
  dsimp only
  rw [hc, unitsIn_eq_nil clean]
  dsimp only
  rw [seeStaging_known (s := { s with counters := c }) known fresh]
  rfl

end Sys2Proof.Machine
end


section
/-! ISSUE AND THE WAITS (R175-R177, R200, R202, R204, R208). -/

namespace Sys2Proof.Machine

variable {s t : State} {site w : Nat} {b : List Byte}

/-! ## ISSUE -/

theorem channelOpen {h : Hearth} {q : Nat} (running : 8 ≤ q → q - 8 ∉ h.dmaHalted) : channelHalted h q = false := by
  rw [channelHalted, Bool.and_eq_false_imp]
  simpa using running

/-- ISSUE reads the block and decides by its checks and the credits of its queue. -/
theorem exec_issue (runs : Runs s site w 0x28) (zero : bf w 0 7 = 0) (queue : queueNumber (qOf w) = true)
    (running : 8 ≤ qOf w → qOf w - 8 ∉ (hearth s site).dmaHalted) (aligned : (getG (hearth s site) (raOf w)).toNat % 32 = 0)
    (inside : (getG (hearth s site) (raOf w)).toNat < 0x800000) (calm : Calm s site 16 0)
    (readable : Readable (hearth s site) (getG (hearth s site) (raOf w)).toNat 32)
    (block : (hearth s site).staging.read s.free (getG (hearth s site) (raOf w)).toNat 32 = b) : ∃ c,
    (∀ off, badItem s site (qOf w) b = some off →
      exec (.issue site) s = .next (siteTrap { s with counters := c } site 5 (BitVec.ofNat 64 off))) ∧
    (badItem s site (qOf w) b = none → itemAbsent s site (qOf w) b = none → itemProt s site (qOf w) b = none →
      exec (.issue site) s = .next (if creditFree (hearth s site) (qOf w) && descTag s site (qOf w) b
        then issueBlock { s with counters := c } site (qOf w) (rdOf w) b else s)) := by
  obtain ⟨none_, -, -, alone⟩ := calm
  obtain ⟨c, read⟩ := stRead_known (r := bySequencer site) readable (oldStaging_of_no_races none_ _ _ _ _)
  rw [block] at read
  have fields : (qFields true true true w && queueNumber (qOf w)) = true := by simp [qFields, zero, queue]
  have row : exec (.issue site) s = execIssue site s := rfl
  rw [row, execIssue, runs.opRow fields]
  dsimp only
  rw [channelOpen running, if_neg Bool.false_ne_true, if_neg (by rw [aligned]; exact not_or.mpr ⟨by simp, Nat.not_le.mpr inside⟩),
    seqAmid, amid_calm alone, read]
  dsimp only
  have sameBad : badItem { s with counters := c } site (qOf w) b = badItem s site (qOf w) b := rfl
  have sameAbsent : itemAbsent { s with counters := c } site (qOf w) b = itemAbsent s site (qOf w) b := rfl
  have sameProt : itemProt { s with counters := c } site (qOf w) b = itemProt s site (qOf w) b := rfl
  have sameTag : descTag { s with counters := c } site (qOf w) b = descTag s site (qOf w) b := rfl
  rw [sameBad, sameAbsent, sameProt, sameTag]
  refine ⟨c, fun off bad => by rw [bad], fun good present owned => by rw [good, present, owned]; rfl⟩

/-- An item of a queue that no other engine shares enters it as its copy of the block. -/
theorem issueBlock_eq_queueItem {q : Nat} (notEmber : q ≠ 3) (notAndiron : q ≠ 4) (s : State) (site rd : Nat) (b : List Byte) :
    issueBlock s site q rd b = queueItem (retire s site fun h => setG h rd (BitVec.ofNat 64 (nextItem (hearth s site) q))) site q
      (nextItem (hearth s site) q) b := by
  have same : nextItem (hearth (retire s site fun h => setG h rd (BitVec.ofNat 64 (nextItem (hearth s site) q))) site) q =
      nextItem (hearth s site) q := by
    unfold retire
    rw [hearth_retireTo_self, setG_only]
    rfl
  unfold issueBlock issueItem
  dsimp only
  rw [same, if_neg notEmber, if_neg notAndiron]

/-- What an issued item leaves: its number in rd, and its copy of the block at the end of its queue (R176, R202). -/
def Issued (s t : State) (site q rd num : Nat) (b : List Byte) (pc : Word) : Prop :=
  let h := hearth s site
  lookD 0 (hearth t site).issued q = num ∧
    lookD [] (hearth t site).queues q = lookD [] h.queues q ++ [{ num := num, block := b, started := false, done := false, quad := 0,
                                                                             waited := h.waited, before := h.issued }] ∧
    (∀ k, k ≠ q → lookD [] (hearth t site).queues k = lookD [] h.queues k ∧ lookD 0 (hearth t site).issued k = lookD 0 h.issued k) ∧
    (∀ n, getG (hearth t site) n = if n = rd ∧ n ≠ 0 then BitVec.ofNat 64 num else getG h n) ∧
    hearth t site = { h with regs := (hearth t site).regs, pc := pc, issued := (hearth t site).issued,
                             queues := (hearth t site).queues } ∧ SiteOnly s t site

theorem issued_queueItem (s : State) (site q rd num : Nat) (b : List Byte) (pc : Word) :
    Issued s (queueItem (retireTo s site pc fun h => setG h rd (BitVec.ofNat 64 num)) site q num b) site q rd num b pc := by
  have self : hearth (queueItem (retireTo s site pc fun h => setG h rd (BitVec.ofNat 64 num)) site q num b) site =
      { hearth s site with
        regs := (setG (hearth s site) rd (BitVec.ofNat 64 num)).regs, pc := pc,
        issued := putD 0 (hearth s site).issued q num,
        queues := putD [] (hearth s site).queues q (lookD [] (hearth s site).queues q ++
          [{ num := num, block := b, started := false, done := false, quad := 0, waited := (hearth s site).waited,
             before := (hearth s site).issued }]) } := by
    rw [queueItem, hearth_modHearth_self, hearth_retireTo_self, setG_only]
  unfold Issued
  dsimp only
  rw [self]
  refine ⟨lookD_putD_self _ _ _ _, lookD_putD_self _ _ _ _, fun k other => ⟨lookD_putD_other _ _ _ other, lookD_putD_other _ _ _ other⟩,
    fun n => getG_setG _ _ _ _, rfl, fun x other => ?_, rfl⟩
  rw [queueItem, hearth_modHearth_other _ _ _ other, hearth_retireTo_other _ _ _ _ other]

/-! ## WAITQ, RDQ, WAITF, RDF -/

/-- The target of a wait: the low 32 bits of ra (R204). -/
def waitTarget (h : Hearth) (w : Nat) : Nat := (getG h (raOf w)).toNat % 2 ^ 32

theorem reached_waitTarget (h : Hearth) (w counter : Nat) : reached counter (waitTarget h w) =
    decide (0 ≤ ((BitVec.ofNat 32 counter) - (getG h (raOf w)).setWidth 32).toInt) := by
  rw [Bool.eq_iff_iff, decide_eq_true_iff]
  exact reached_iff counter _

theorem exec_waitq (runs : Runs s site w 0x29) (zero : bf w 0 7 = 0) (noRd : rdOf w = 0) (queue : queueNumber (qOf w) = true)
    (running : 8 ≤ qOf w → qOf w - 8 ∉ (hearth s site).dmaHalted) : exec (.waitq site) s = .next (
      if !reached (lookD 0 (hearth s site).issued (qOf w)) (waitTarget (hearth s site) w) then siteTrapOpen s site 6
      else if reached (lookD 0 (hearth s site).completed (qOf w)) (waitTarget (hearth s site) w) then
        retire s site fun h => noteWait h (qOf w) (waitTarget (hearth s site) w)
      else s) := by
  have fields : (qFields false true true w && queueNumber (qOf w)) = true := by simp [qFields, zero, queue, noRd]
  have row : exec (.waitq site) s = execWaitq site s := rfl
  rw [row, execWaitq, runs.opRow fields]
  dsimp only
  rw [channelOpen running, if_neg Bool.false_ne_true, ← waitTarget]

/-- The instruction retires and the sequencer has waited for `n` of a queue's counter, or for more (R178). -/
def Waited (s t : State) (site q n : Nat) (pc : Word) : Prop :=
  let h := hearth s site
  hearth t site = { h with pc := pc, waited := (hearth t site).waited } ∧
    reached (lookD 0 (hearth t site).waited q) n = true ∧
    (∀ k, k ≠ q → lookD 0 (hearth t site).waited k = lookD 0 h.waited k) ∧ Retires s t site pc ∧ SiteOnly s t site

theorem waited_of_hearth {q n : Nat} {pc : Word} {m : SMap Nat}
    (self : hearth t site = { hearth s site with pc := pc, waited := m }) (seen : reached (lookD 0 m q) n = true)
    (others : ∀ k, k ≠ q → lookD 0 m k = lookD 0 (hearth s site).waited k) (retires : Retires s t site pc)
    (only : SiteOnly s t site) : Waited s t site q n pc := by
  unfold Waited
  dsimp only
  rw [self]
  exact ⟨rfl, seen, others, retires, only⟩

theorem waited_retireTo (s : State) (site q n : Nat) (pc : Word) :
    Waited s (retireTo s site pc fun h => noteWait h q n) site q n pc := by
  refine waited_of_hearth (m := (noteWait (hearth s site) q n).waited) ?_ (reached_noteWait _ _ _)
    (fun k other => waited_noteWait_other _ _ _ other) (retires_retireTo s site pc _) (siteOnly_retireTo s site pc _)
  rw [hearth_retireTo_self, noteWait_only]

theorem waitq_gives (runs : Runs s site w 0x29) (zero : bf w 0 7 = 0) (noRd : rdOf w = 0) (queue : queueNumber (qOf w) = true)
    (running : 8 ≤ qOf w → qOf w - 8 ∉ (hearth s site).dmaHalted) :
    let h := hearth s site
    let ahead (n : Nat) : Int := ((BitVec.ofNat 32 n) - (getG h (raOf w)).setWidth 32).toInt
    (0 ≤ ahead (lookD 0 h.issued (qOf w)) → 0 ≤ ahead (lookD 0 h.completed (qOf w)) →
      Gives (.waitq site) s fun t => Waited s t site (qOf w) (waitTarget h w) (h.pc + 4)) ∧
    (0 ≤ ahead (lookD 0 h.issued (qOf w)) → ahead (lookD 0 h.completed (qOf w)) < 0 → Idles (.waitq site) s) ∧
    (ahead (lookD 0 h.issued (qOf w)) < 0 → Gives (.waitq site) s fun t => Traps s t site 6) := by
  intro h ahead
  have row := exec_waitq runs zero noRd queue running
  rw [reached_waitTarget, reached_waitTarget] at row
  refine ⟨fun issued completed => ?_, fun issued pending => ?_, fun unissued => ?_⟩
  · rw [decide_eq_true issued, decide_eq_true completed] at row
    exact gives_of_row row (waited_retireTo s site (qOf w) (waitTarget h w) (h.pc + 4))
  · rw [decide_eq_true issued, decide_eq_false (Int.not_le.mpr pending)] at row
    exact row
  · rw [decide_eq_false (Int.not_le.mpr unissued)] at row
    exact gives_of_row row (traps_siteTrapOpen s site 6)

/-- The instruction retires with a completion counter in rd, which the program has waited for now (log entry 9). -/
def Saw (s t : State) (site q rd : Nat) (pc : Word) : Prop :=
  let h := hearth s site
  (∀ n, getG (hearth t site) n = if n = rd ∧ n ≠ 0 then BitVec.ofNat 64 (lookD 0 h.completed q) else getG h n) ∧
    hearth t site = { h with regs := (hearth t site).regs, waited := (hearth t site).waited, pc := pc } ∧
    (∀ k, k ≠ q → lookD 0 (hearth t site).waited k = lookD 0 h.waited k) ∧ Retires s t site pc ∧ SiteOnly s t site

/-- RDQ on the hearth. -/
def seeCounter (q rd : Nat) (h : Hearth) : Hearth :=
  setG (noteWait h q (lookD 0 h.completed q)) rd (BitVec.ofNat 64 (lookD 0 h.completed q))

theorem saw_of_hearth {q rd : Nat} {pc : Word} {m : SMap Nat} {h' : Hearth}
    (sets : ∀ n, getG h' n = if n = rd ∧ n ≠ 0 then BitVec.ofNat 64 (lookD 0 (hearth s site).completed q) else getG (hearth s site) n)
    (self : hearth t site = { hearth s site with regs := h'.regs, waited := m, pc := pc })
    (others : ∀ k, k ≠ q → lookD 0 m k = lookD 0 (hearth s site).waited k) (retires : Retires s t site pc)
    (only : SiteOnly s t site) : Saw s t site q rd pc := by
  unfold Saw
  dsimp only
  rw [self]
  exact ⟨sets, rfl, others, retires, only⟩

theorem saw_retireTo (s : State) (site q rd : Nat) (pc : Word) : Saw s (retireTo s site pc (seeCounter q rd)) site q rd pc := by
  refine saw_of_hearth (m := (noteWait (hearth s site) q (lookD 0 (hearth s site).completed q)).waited)
    (h' := seeCounter q rd (hearth s site)) (fun n => ?_) ?_ (fun k other => waited_noteWait_other _ _ _ other)
    (retires_retireTo s site pc _) (siteOnly_retireTo s site pc _)
  · rw [seeCounter, getG_setG, getG_noteWait]
  · rw [hearth_retireTo_self, seeCounter, setG_only, noteWait_only]

theorem rdq_gives (runs : Runs s site w 0x2A) (zero : bf w 0 7 = 0) (noRa : raOf w = 0) (queue : queueNumber (qOf w) = true) :
    Gives (.rdq site) s fun t => Saw s t site (qOf w) (rdOf w) ((hearth s site).pc + 4) := by
  have fields : (qFields true false true w && queueNumber (qOf w)) = true := by simp [qFields, zero, queue, noRa]
  have row : exec (.rdq site) s = .next (retireTo s site ((hearth s site).pc + 4) (seeCounter (qOf w) (rdOf w))) := by
    have same : exec (.rdq site) s = execRdq site s := rfl
    rw [same, execRdq, runs.opRow fields]
    rfl
  exact gives_of_row row (saw_retireTo s site (qOf w) (rdOf w) _)

theorem waitf_gives (runs : Runs s site w 0x2B) (zero : bf w 0 7 = 0) (noRd : rdOf w = 0) :
    let h := hearth s site
    let ahead : Int := ((BitVec.ofNat 32 (lookD 0 h.arrival (qOf w))) - (getG h (raOf w)).setWidth 32).toInt
    (0 ≤ ahead → Gives (.waitf site) s fun t => OnlyPc s t site (h.pc + 4)) ∧ (ahead < 0 → Idles (.waitf site) s) := by
  intro h ahead
  have fields : qFields false true true w = true := by simp [qFields, zero, noRd]
  have row : exec (.waitf site) s = .next (if decide (0 ≤ ahead) then retire s site id else s) := by
    have same : exec (.waitf site) s = execWaitf site s := rfl
    rw [same, execWaitf, runs.opRow fields]
    dsimp only
    rw [← waitTarget, reached_waitTarget]
  refine ⟨fun arrived => ?_, fun pending => ?_⟩
  · rw [decide_eq_true arrived] at row
    exact gives_of_row row (onlyPc_retireTo s site _)
  · rw [decide_eq_false (Int.not_le.mpr pending)] at row
    exact row

theorem rdf_gives (runs : Runs s site w 0x2C) (zero : bf w 0 7 = 0) (noRa : raOf w = 0) : Gives (.rdf site) s fun t =>
    SetsRd s t site (rdOf w) (BitVec.ofNat 64 (lookD 0 (hearth s site).arrival (qOf w))) := by
  have fields : qFields true false true w = true := by simp [qFields, zero, noRa]
  have row : exec (.rdf site) s =
      .next (retire s site fun h => setG h (rdOf w) (BitVec.ofNat 64 (lookD 0 h.arrival (qOf w)))) := by
    show execRdf site s = _
    rw [execRdf, rdRow, runs.opRow fields]
  exact gives_of_row row (setsRd_retire s site (rdOf w) fun h => BitVec.ofNat 64 (lookD 0 h.arrival (qOf w)))

/-- Settles O39, instruction by instruction. -/
theorem issueAndWaits : Obligations.IssueAndWaits := by
  refine ⟨fun s site w b runs zero queue => ?_, fun s site w runs zero noRd queue running => waitq_gives runs zero noRd queue running,
    fun s site w runs zero noRd => waitf_gives runs zero noRd,
    fun s site w zero noRa => ⟨fun runs queue => rdq_gives runs zero noRa queue, fun runs => rdf_gives runs zero noRa⟩⟩
  intro h q a num running aligned inside calm known clean block
  obtain ⟨c, faulty, checked⟩ := exec_issue runs zero queue running aligned inside calm ⟨known, clean⟩ block
  refine ⟨fun good present owned credit notEmber notAndiron => ?_, fun good present owned full => ?_, fun off bad => ?_⟩
  · have tag : descTag s site q b = true := by simp [descTag, notAndiron]
    have row := checked good present owned
    rw [credit, tag, Bool.and_self, if_pos rfl, issueBlock_eq_queueItem notEmber notAndiron] at row
    exact gives_of_row row (issued_queueItem { s with counters := c } site q (rdOf w) num b (h.pc + 4))
  · have row := checked good present owned
    rw [full, Bool.false_and, if_neg Bool.false_ne_true] at row
    exact row
  · exact gives_of_row (faulty off bad) (trapsWith_siteTrap rfl site 5 _)

end Sys2Proof.Machine
end


section
/-! ITEMS OF THE ENGINES (R175-R179): how an item starts, holds tags and completes, and what a write to staging leaves of a hearth. -/

namespace Sys2Proof.Machine

variable {s t u : State} {site q num : Nat}

/-! ## Counting and reading -/

theorem hearth_countAt (s : State) (event x n y : Nat) : hearth (countAt s event x n) y = hearth s y := rfl
theorem hearth_counters (s : State) (k : Counters) (y : Nat) : hearth { s with counters := k } y = hearth s y := rfl

/-- A read of known bytes, none of them open, gives the bytes that stand there. -/
theorem stRead_eq {a n : Nat} {r : Req} {b : List Byte} (fresh : (hearth s site).races = []) (readable : Readable (hearth s site) a n)
    (read : (hearth s site).staging.read s.free a n = b) : ∃ c, stRead s site a n r = (some b, { s with counters := c }) := by
  rw [← read]
  exact stRead_known readable (oldStaging_of_no_races fresh _ _ _ _)

/-! ## Queues -/

theorem hearth_mapQueue_self (s : State) (site q : Nat) (f : Item → Item) : hearth (mapQueue s site q f) site =
    { hearth s site with queues := putD [] (hearth s site).queues q ((lookD [] (hearth s site).queues q).map f) } :=
  hearth_modHearth_self s site _

theorem hearth_mapQueue_other (s : State) (site q : Nat) (f : Item → Item) {x : Nat} (h : x ≠ site) :
    hearth (mapQueue s site q f) x = hearth s x :=
  hearth_modHearth_other s site _ h

theorem startsItem (s : State) (site q num quad : Nat) : StartsItem s (startItem s site q num quad) site q num quad := by
  unfold startItem
  have self := hearth_mapQueue_self s site q fun i => if i.num = num then { i with started := true, quad := quad } else i
  refine ⟨?_, fun k other => ?_, ?_, fun x other => hearth_mapQueue_other _ _ _ _ other, rfl⟩
  · rw [self, lookD_putD_self]
  · rw [self, lookD_putD_other _ _ _ other]
  · rw [self]

theorem StartsItem.started {quad : Nat} (h : StartsItem s t site q num quad) {i : Item}
    (queued : i ∈ lookD [] (hearth t site).queues q) (same : i.num = num) : i.started = true := by
  obtain ⟨marked, -⟩ := h
  rw [marked, List.mem_map] at queued
  obtain ⟨j, -, rfl⟩ := queued
  by_cases this_ : j.num = num
  · rw [if_pos this_]
  · rw [if_neg this_] at same
    exact absurd same this_

/-- Of a hearth, a queue's items and its completion counter only. -/
theorem hearth_itemDone_self (s : State) (site q num : Nat) : hearth (itemDone s site q num) site =
    { hearth s site with queues := (hearth (itemDone s site q num) site).queues,
                         completed := (hearth (itemDone s site q num) site).completed } := by
  unfold itemDone advanceQueue
  rw [hearth_modHearth_self, hearth_mapQueue_self]

theorem hearth_itemDone_other (s : State) (site q num : Nat) {x : Nat} (h : x ≠ site) : hearth (itemDone s site q num) x = hearth s x :=
  (hearth_modHearth_other _ site _ h).trans (hearth_mapQueue_other _ _ _ _ h)

theorem itemDone_only (s : State) (site q num : Nat) :
    itemDone s site q num = { s with hearths := (itemDone s site q num).hearths } := rfl

theorem itemDone_mem (s : State) (site q num : Nat) : (itemDone s site q num).mem = s.mem := by rw [itemDone_only]

/-- A completion that is counted changes one hearth. -/
theorem siteOnly_itemDone (s : State) (site q num event x n : Nat) : SiteOnly s (countAt (itemDone s site q num) event x n) site :=
  ⟨fun _ other => hearth_itemDone_other s site q num other, by rw [countAt, modCounters, itemDone_only]⟩

theorem drop_length_takeWhile {α : Type} (p : α → Bool) (l : List α) : l.drop (l.takeWhile p).length = l.dropWhile p := by
  have split := List.drop_left (l₁ := l.takeWhile p) (l₂ := l.dropWhile p)
  rwa [List.takeWhile_append_dropWhile] at split

theorem completes_itemDone (s : State) (site q num : Nat) : Completes s (itemDone s site q num) site q num := by
  unfold Completes itemDone advanceQueue
  rw [hearth_modHearth_self, hearth_mapQueue_self]
  dsimp only
  rw [lookD_putD_self, lookD_putD_self, lookD_putD_self, drop_length_takeWhile]
  exact ⟨rfl, rfl⟩

/-- Completion speaks of a queue's items and its counter only. -/
theorem Completes.of_same {s' : State} (h : Completes s' t site q num) (queues : (hearth s' site).queues = (hearth s site).queues)
    (completed : (hearth s' site).completed = (hearth s site).completed) : Completes s t site q num := by
  unfold Completes at h ⊢
  rwa [queues, completed] at h

/-! ## Tags (R179) -/

theorem hearth_bumpFree (s : State) (x : Nat) : hearth (bumpFree s) x = hearth s x := rfl

theorem startsWithTags (s : State) (site q num need : Nat) (room : need = 0 ∨ 0 < tagsFree (hearth s site)) :
    StartsWithTags s (takeTags (startItem s site q num 0) site q num need) site q num need := by
  have starts := startsItem s site q num 0
  obtain ⟨-, -, kept, -, -⟩ := id starts
  refine ⟨_, starts, fun none_ => if_pos none_, fun some_ => ?_⟩
  have free : 0 < tagsFree (hearth s site) := room.resolve_left some_
  have same : tagsFree (hearth (startItem s site q num 0) site) = tagsFree (hearth s site) := by rw [kept]; rfl
  unfold takeTags
  rw [if_neg some_]
  refine ⟨min (tagsFree (hearth (startItem s site q num 0) site))
    (1 + (Config.freeWord (startItem s site q num 0).free).toNat % min need 256), ?_, ?_, ?_, ?_, fun x other => ?_, rfl⟩
  · omega
  · have := Nat.mod_lt (Config.freeWord (startItem s site q num 0).free).toNat (y := min need 256) (by omega)
    omega
  · omega
  · exact (hearth_bumpFree _ _).trans (hearth_modHearth_self _ _ _)
  · exact (hearth_bumpFree _ _).trans (hearth_modHearth_other _ _ _ other)

theorem hearth_freeTags_self (s : State) (site q num : Nat) : hearth (freeTags s site q num) site =
    { hearth s site with tags := (hearth (freeTags s site q num) site).tags } := by
  unfold freeTags
  rw [hearth_modHearth_self]

theorem hearth_freeTags_other (s : State) (site q num : Nat) {x : Nat} (h : x ≠ site) : hearth (freeTags s site q num) x = hearth s x :=
  hearth_modHearth_other s site _ h

theorem discards (s : State) (site q : Nat) : Discards s (discardResponses s site q) site q :=
  ⟨hearth_modHearth_self _ _ _, fun _ other => hearth_modHearth_other _ _ _ other, rfl⟩

/-! ## Writes to staging (R178, R183) -/

/-- Of the state only the staging of one hearth, what goes with it, and the counters may differ. -/
structure Stages (s t : State) (site : Nat) : Prop where
  frame : t = { s with hearths := t.hearths, counters := t.counters }
  others : ∀ x, x ≠ site → hearth t x = hearth s x
  kept : hearth t site = { hearth s site with
    staging := (hearth t site).staging, races := (hearth t site).races, stagingBad := (hearth t site).stagingBad,
    stagingSoft := (hearth t site).stagingSoft, weightPages := (hearth t site).weightPages }

theorem Stages.counted (s : State) (c : Counters) (site : Nat) : Stages s { s with counters := c } site := ⟨rfl, fun _ _ => rfl, rfl⟩

theorem Stages.trans (h : Stages s t site) (h' : Stages t u site) : Stages s u site := by
  refine ⟨?_, fun x other => (h'.others x other).trans (h.others x other), ?_⟩
  · rw [h'.frame, h.frame]
  · rw [h'.kept, h.kept]

theorem Stages.queues (h : Stages s t site) : (hearth t site).queues = (hearth s site).queues := by rw [h.kept]

theorem Stages.completed (h : Stages s t site) : (hearth t site).completed = (hearth s site).completed := by rw [h.kept]

theorem Stages.arrival (h : Stages s t site) : (hearth t site).arrival = (hearth s site).arrival := by rw [h.kept]

theorem Stages.mem (h : Stages s t site) : t.mem = s.mem := by rw [h.frame]

theorem logStaging_only (free site a n : Nat) (r : Req) (h : Hearth) :
    logStaging free site a n r h = { h with races := (logStaging free site a n r h).races } := by
  unfold logStaging
  split
  · split <;> rfl
  · rfl

theorem staging_stWrite (s : State) (site a : Nat) (bs : List Byte) (r : Req) :
    (hearth (stWrite s site a bs r) site).staging = (hearth s site).staging.write a bs := by
  unfold stWrite
  rw [hearth_modHearth_self]
  rfl

theorem stages_stWrite (s : State) (site a : Nat) (bs : List Byte) (r : Req) : Stages s (stWrite s site a bs r) site := by
  refine ⟨rfl, fun x other => stWrite_other s a bs r other, ?_⟩
  unfold stWrite
  rw [hearth_modHearth_self, logStaging_only]
  rfl

/-! ## STICKY (R205, R189) -/

/-- The step in which an item raises a STICKY bit. -/
def stickyIf (s : State) (site k : Nat) (c : Prop) [Decidable c] : State :=
  if c then modHearth s site fun h => { h with sticky := setBit h.sticky k true } else s

section
variable (s site) (k : Nat) (c : Prop) [Decidable c]

theorem hearth_stickyIf_self : hearth (stickyIf s site k c) site =
    { hearth s site with sticky := (hearth (stickyIf s site k c) site).sticky } := by
  unfold stickyIf
  split
  · rw [hearth_modHearth_self]
  · rfl

theorem hearth_stickyIf_other {x : Nat} (h : x ≠ site) : hearth (stickyIf s site k c) x = hearth s x := by
  unfold stickyIf
  split
  · exact hearth_modHearth_other _ _ _ h
  · rfl

theorem stickyIf_only : stickyIf s site k c = { s with hearths := (stickyIf s site k c).hearths } := by
  unfold stickyIf
  split <;> rfl

end

/-! ## Bytes of a memory -/

/-- A range whose bytes are those of a list reads as the list. -/
theorem Ram.read_eq_of_byte {r : Ram} {free a : Nat} {bs : List Byte} (h : ∀ k, k < bs.length → r.byte free (a + k) = bs.getD k 0) :
    r.read free a bs.length = bs := by
  refine List.ext_getElem (Ram.length_read _ _ _ _) fun k hk hk' => ?_
  have := Ram.getElem?_read r free a _ k hk'
  rw [List.getElem?_eq_getElem hk, Option.some_inj] at this
  rw [this, h k hk', List.getD_eq_getElem _ _ hk']

/-! ## Arrays of numbers -/

/-- Number `i` of an array of `w`-byte numbers. -/
theorem fld_flatMap_leBytes {α : Type} (w : Nat) (f : α → Nat) (l : List α) {i : Nat} (h : i < l.length) :
    fld (l.flatMap fun v => leBytes w (f v)) (w * i) w = f l[i] % 256 ^ w := by
  induction l generalizing i with
  | nil => exact absurd h (Nat.not_lt_zero _)
  | cons v l ih =>
    rw [List.flatMap_cons]
    cases i with
    | zero => rw [Nat.mul_zero, fld_append_of_le _ _ _ _ (by rw [length_leBytes, Nat.zero_add]), fld_leBytes, List.getElem_cons_zero]
    | succ i =>
      have at_ : w * (i + 1) = (leBytes w (f v)).length + w * i := by rw [length_leBytes, Nat.mul_succ, Nat.add_comm]
      rw [at_, fld_append_right, ih (Nat.lt_of_succ_lt_succ h), List.getElem_cons_succ]

theorem length_flatMap_const {α : Type} {l : List α} {f : α → List Byte} {k : Nat} (h : ∀ a ∈ l, (f a).length = k) :
    (l.flatMap f).length = l.length * k := by
  rw [List.length_flatMap, List.map_congr_left h, List.map_const', List.sum_replicate, smul_eq_mul]

theorem length_elemBytes (l : List (BitVec 32)) : (elemBytes l).length = 4 * l.length := by
  rw [elemBytes, length_flatMap_const fun v _ => length_leBytes 4 v.toNat, Nat.mul_comm]

theorem word32_elemBytes (l : List (BitVec 32)) {i : Nat} (h : i < l.length) : word32 (elemBytes l) i = l[i] := by
  rw [word32, elemBytes, fld_flatMap_leBytes 4 _ l h]
  exact BitVec.eq_of_toNat_eq (by rw [BitVec.toNat_ofNat]; have := (l[i]).isLt; omega)

end Sys2Proof.Machine
end


section
/-! O40, MATRIX TILES (R175-R178, R188, R192, R193, R203): a tile starts on its quadrant, writes the rows of C and returns its credit;
INT8 sums in range are exact; the priority order rotates. -/

namespace Sys2Proof.Machine

variable {s t u : State} {site n : Nat} {it : Item}

/-! ## Items of a queue -/

theorem num_of_item? {q : Nat} (h : item? s site q n = some it) : it.num = n := by
  simpa using List.find?_some h

/-! ## Starting -/

/-- A queued tile whose turn has come: nothing but its quadrant decides whether it starts. -/
structure TileReady (s : State) (site n : Nat) (it : Item) : Prop where
  inPart : site < 200
  item : item? s site 0 n = some it
  waits : it.started = false
  open_ : it.done = false
  engine : engineFree s site = true
  turn : earlierStarted s site 0 n = true
  serial : (tileOf it.block).serial = true → earlierDoneItems s site 0 n = true

theorem TileReady.starts (h : TileReady s site n it) {x : Nat}
    (quadrant : ((tileOf it.block).quad < 4 ∧ x = (tileOf it.block).quad ∧ quadLive s site x = true ∧ quadBusy s site x = false) ∨
      (4 ≤ (tileOf it.block).quad ∧ (quadOrder s site).find? (fun y => !quadBusy s site y) = some x)) :
    exec (.tileStart site n) s = .next (startItem s site 0 n x) := by
  obtain ⟨inPart, item, waits, open_, engine, turn, serial⟩ := h
  have row : exec (.tileStart site n) s = execTileStart site n s := rfl
  have serial' : ((tileOf it.block).serial && !earlierDoneItems s site 0 n) = false := by
    rw [Bool.and_eq_false_imp]
    exact fun on => by rw [serial on]; rfl
  rw [row, execTileStart, guarded, if_pos (by simpa [siteOk] using inPart), item]
  dsimp only
  rw [waits, open_, engine, turn, serial', if_neg (by decide)]
  rcases quadrant with ⟨named, rfl, live, idle⟩ | ⟨any, first⟩
  · rw [if_pos named, live, idle]
    rfl
  · have some_ : (quadOrder s site).isEmpty = false := by
      rw [List.isEmpty_eq_false_iff]
      exact fun none_ => by rw [none_] at first; exact absurd first nofun
    rw [if_neg (Nat.not_lt.mpr any), some_, first]
    rfl

/-! ## Completing -/

theorem exec_tileComplete (inPart : site < 200) (live : siteLive s site = true) (item : item? s site 0 n = some it)
    (started : it.started = true) (open_ : it.done = false) (ran : runTile s site it = (none, u)) :
    exec (.tileComplete site n) s = .next (itemDone u site 0 n) := by
  have row : exec (.tileComplete site n) s = execTileComplete site n s := rfl
  rw [row, execTileComplete, guarded, if_pos (by simpa [siteOk] using inPart), item]
  dsimp only
  rw [started, open_, live, if_neg (by decide), ran]

/-! ## Rows of C -/

/-- A memory after rows are written in order. -/
def Ram.writeRows (r : Ram) (at_ : Nat → Nat) (row : Nat → List Byte) (n : Nat) : Ram :=
  (List.range n).foldl (fun r i => r.write (at_ i) (row i)) r

section
variable {r : Ram} {at_ : Nat → Nat} {row : Nat → List Byte}

theorem Ram.writeRows_succ (n : Nat) : r.writeRows at_ row (n + 1) = (r.writeRows at_ row n).write (at_ n) (row n) := by
  rw [Ram.writeRows, List.range_succ, List.foldl_append]
  rfl

theorem Ram.byte_writeRows_of_outside {x : Nat} (free : Nat) (outside : ∀ i, i < n → x < at_ i ∨ at_ i + (row i).length ≤ x) :
    (r.writeRows at_ row n).byte free x = r.byte free x := by
  induction n with
  | zero => rfl
  | succ n ih =>
    rw [Ram.writeRows_succ, Ram.byte_write, if_neg (by have := outside n (Nat.lt_succ_self n); omega)]
    exact ih fun i before => outside i (Nat.lt_succ_of_lt before)

theorem Ram.byte_writeRows {i k : Nat} (free : Nat) (hi : i < n) (hk : k < (row i).length)
    (apart : ∀ j, i < j → j < n → at_ i + (row i).length ≤ at_ j) :
    (r.writeRows at_ row n).byte free (at_ i + k) = (row i).getD k 0 := by
  induction n with
  | zero => exact absurd hi (Nat.not_lt_zero _)
  | succ n ih =>
    rw [Ram.writeRows_succ, Ram.byte_write]
    rcases Nat.lt_succ_iff_lt_or_eq.mp hi with before | rfl
    · have := apart n before (Nat.lt_succ_self n)
      rw [if_neg (by omega)]
      exact ih before fun j after within => apart j after (Nat.lt_succ_of_lt within)
    · rw [if_pos (by omega), Nat.add_sub_cancel_left]
      rfl

end

section
variable (t : Tile) (a w : List Byte) (c0 : List (List Byte))

/-- The bytes of a row of C. -/
def tileRowBytes (i : Nat) : List Byte :=
  (tileRow t (slice a (i * t.rowBytes) t.rowBytes) w (c0.getD i (List.replicate (4 * t.n) 0#8))).1

theorem tileRow_bytes (row w c0 : List Byte) : (tileRow t row w c0).1 = elemBytes ((List.range t.n).map fun j =>
    (tileElem t row (slice w (j * t.rowBytes) t.rowBytes) (BitVec.ofNat 32 (fld c0 (4 * j) 4))).1) := by
  rw [elemBytes, List.flatMap_map, List.flatMap_eq_foldl]
  exact (List.foldl_hom Prod.fst fun _ _ => rfl).symm

theorem length_tileRowBytes (i : Nat) : (tileRowBytes t a w c0 i).length = 4 * t.n := by
  rw [tileRowBytes, tileRow_bytes, length_elemBytes, List.length_map, List.length_range]

theorem fld_replicate_zero (n off k : Nat) : fld (List.replicate n 0#8) off k = 0 := by
  rw [fld, slice, List.drop_replicate, List.take_replicate, List.replicate_append_replicate, leNat_replicate_zero]

/-- With no initial accumulators element `j` of row `i` is the product of that row and that column. -/
theorem word32_tileRowBytes (i : Nat) {j : Nat} (hj : j < t.n) : word32 (tileRowBytes t a w [] i) j =
    (tileElem t (slice a (i * t.rowBytes) t.rowBytes) (slice w (j * t.rowBytes) t.rowBytes) 0).1 := by
  have within : j < ((List.range t.n).map fun j => (tileElem t (slice a (i * t.rowBytes) t.rowBytes)
      (slice w (j * t.rowBytes) t.rowBytes) (BitVec.ofNat 32 (fld (List.replicate (4 * t.n) 0#8) (4 * j) 4))).1).length := by
    rwa [List.length_map, List.length_range]
  rw [tileRowBytes, List.getD_nil, tileRow_bytes, word32_elemBytes _ within, List.getElem_map,
    List.getElem_range, fld_replicate_zero]
  rfl

/-- One row of a tile: written, and what it raises noted. -/
def tileStep (site : Nat) (q : Req) (r : State × Bool × Bool) (i : Nat) : State × Bool × Bool :=
  let row := tileRow t (slice a (i * t.rowBytes) t.rowBytes) w (c0.getD i (List.replicate (4 * t.n) 0#8))
  (stWrite r.1 site (t.c + i * t.pitch) row.1 q, r.2.1 || row.2.1, r.2.2 || row.2.2)

theorem tileRows_eq (s : State) (site : Nat) (q : Req) :
    tileRows s site t a w c0 q = (List.range t.m).foldl (tileStep t a w c0 site q) (s, false, false) := rfl

/-- The rows of a tile are all that it writes. -/
theorem stages_tileSteps (s : State) (site : Nat) (q : Req) (n : Nat) :
    Stages s ((List.range n).foldl (tileStep t a w c0 site q) (s, false, false)).1 site ∧
      (hearth ((List.range n).foldl (tileStep t a w c0 site q) (s, false, false)).1 site).staging =
        (hearth s site).staging.writeRows (fun i => t.c + i * t.pitch) (tileRowBytes t a w c0) n := by
  induction n with
  | zero => exact ⟨.counted s s.counters site, rfl⟩
  | succ n ih =>
    obtain ⟨only, bytes⟩ := ih
    rw [List.range_succ, List.foldl_append, Ram.writeRows_succ, ← bytes]
    exact ⟨only.trans (stages_stWrite _ _ _ _ _), staging_stWrite _ _ _ _ _⟩

end

/-! ## A tile whose weights stand in its pages -/

theorem refillPages_of_valid (valid : ∀ k wp, look (hearth s site).weightPages k = some wp → wp.valid = true) (r : Req)
    (pages : List Nat) : refillPages s site r pages = (none, s) := by
  induction pages with
  | nil => rfl
  | cons p rest ih =>
    rw [refillPages]
    split
    next wp marked => rw [if_pos (valid p wp marked), ih]
    next => exact ih

/-- A tile of this kind changes its rows of C, and of the rest of the state no queue, no memory and no other hearth. -/
theorem tileEffect_of_pages {tn : Nat} (calm : (hearth s site).races = []) (pages : (tileOf it.block).fromPages = true)
    (valid : ∀ k wp, look (hearth s site).weightPages k = some wp → wp.valid = true) (keep : (tileOf it.block).keep = false)
    (status : (tileOf it.block).status = false) (zeroC0 : (tileOf it.block).zeroC0 = true)
    (weights : Readable (hearth s site) (tileOf it.block).page (tileOf it.block).wBytes)
    (operand : Readable (hearth s site) (tileOf it.block).a ((tileOf it.block).m * (tileOf it.block).rowBytes)) :
    ∃ u, tileEffect s site tn it = (none, u) ∧
      (hearth u site).staging = (hearth s site).staging.writeRows (fun i => (tileOf it.block).c + i * (tileOf it.block).pitch)
        (tileRowBytes (tileOf it.block)
          ((hearth s site).staging.read s.free (tileOf it.block).a ((tileOf it.block).m * (tileOf it.block).rowBytes))
          ((hearth s site).staging.read s.free (tileOf it.block).page (tileOf it.block).wBytes) []) (tileOf it.block).m ∧
      (hearth u site).queues = (hearth s site).queues ∧ (hearth u site).completed = (hearth s site).completed ∧ u.mem = s.mem ∧
      ∀ y, y ≠ site → hearth u y = hearth s y := by
  generalize hx : tileOf it.block = x at *
  unfold tileEffect tileWeights
  dsimp only
  rw [hx, if_pos pages, refillPages_of_valid valid]
  dsimp only
  obtain ⟨c, read⟩ := stRead_known (s := countAt s 0x10E site (x.wBytes / 32)) (r := byItem 0 site 0 it.num) weights
    (oldStaging_of_no_races calm _ _ _ _)
  rw [read]
  dsimp only
  obtain ⟨c', read'⟩ := stRead_known (s := { countAt s 0x10E site (x.wBytes / 32) with counters := c }) (r := byItem 0 site 0 it.num)
    operand (oldStaging_of_no_races calm _ _ _ _)
  rw [read']
  dsimp only
  rw [if_pos zeroC0, keep, status]
  dsimp only
  rw [if_neg Bool.false_ne_true, if_neg Bool.false_ne_true, tileRows_eq]
  obtain ⟨only, bytes⟩ := stages_tileSteps x ((hearth s site).staging.read s.free x.a (x.m * x.rowBytes))
    ((hearth s site).staging.read s.free x.page x.wBytes) [] { s with counters := c' } site (byItem 0 site 0 it.num) x.m
  set r := (List.range x.m).foldl (tileStep x ((hearth s site).staging.read s.free x.a (x.m * x.rowBytes))
    ((hearth s site).staging.read s.free x.page x.wBytes) [] site (byItem 0 site 0 it.num)) ({ s with counters := c' }, false, false)
  have self := hearth_stickyIf_self r.1 site 0 (r.2.1 = true)
  have others {y : Nat} (h : y ≠ site) := hearth_stickyIf_other r.1 site 0 (r.2.1 = true) h
  have rest := stickyIf_only r.1 site 0 (r.2.1 = true)
  refine ⟨countAt (stickyIf r.1 site 0 (r.2.1 = true)) 0x108 site 1, rfl, ?_, ?_, ?_, ?_, fun y other => ?_⟩
  · exact (congrArg Hearth.staging self).trans bytes
  · exact (congrArg Hearth.queues self).trans only.queues
  · exact (congrArg Hearth.completed self).trans only.completed
  · exact (congrArg State.mem rest).trans only.mem
  · exact (others other).trans (only.others y other)

/-! ## What a tile leaves -/

/-- The clause of the statement on the bytes of C, of a tile whose weights stand in its pages. -/
theorem tileComplete_writes_c (inPart : site < 200) (live : siteLive s site = true) (item : item? s site 0 n = some it)
    (started : it.started = true) (open_ : it.done = false) (calm : Calm s site 0 n) (pages : (tileOf it.block).fromPages = true)
    (valid : ∀ k wp, look (hearth s site).weightPages k = some wp → wp.valid = true) (keep : (tileOf it.block).keep = false)
    (status : (tileOf it.block).status = false) (zeroC0 : (tileOf it.block).zeroC0 = true)
    (apart : 4 * (tileOf it.block).n ≤ (tileOf it.block).pitch)
    (weights : Readable (hearth s site) (tileOf it.block).page (tileOf it.block).wBytes)
    (operand : Readable (hearth s site) (tileOf it.block).a ((tileOf it.block).m * (tileOf it.block).rowBytes)) :
    let x := tileOf it.block
    Gives (.tileComplete site n) s fun t =>
      (∀ i j, i < x.m → j < x.n →
        word32 ((hearth t site).staging.read 0 (x.c + i * x.pitch) (4 * x.n)) j =
          (tileElem x (slice ((hearth s site).staging.read s.free x.a (x.m * x.rowBytes)) (i * x.rowBytes) x.rowBytes)
            (slice ((hearth s site).staging.read s.free x.page x.wBytes) (j * x.rowBytes) x.rowBytes) 0).1) ∧
      (∀ a, (∀ i, i < x.m → a < x.c + i * x.pitch ∨ x.c + i * x.pitch + 4 * x.n ≤ a) →
        (hearth t site).staging.byte 0 a = (hearth s site).staging.byte 0 a) ∧
      Completes s t site 0 n ∧ t.mem = s.mem ∧ ∀ y, y ≠ site → hearth t y = hearth s y := by
  intro x
  obtain ⟨none_, -, -, alone⟩ := calm
  obtain ⟨u, effect, bytes, queues, completed, mem, others⟩ := tileEffect_of_pages (tn := (hearth s site).tenant) none_ pages valid keep
    status zeroC0 weights operand
  rw [← num_of_item? item] at alone
  have ran : runTile s site it = (none, u) := (amid_calm alone _).trans effect
  have written : (hearth (itemDone u site 0 n) site).staging = _ := (congrArg Hearth.staging (hearth_itemDone_self u site 0 n)).trans bytes
  refine gives_of_row (exec_tileComplete inPart live item started open_ ran) ⟨fun i j hi hj => ?_, fun a outside => ?_, ?_,
    (itemDone_mem u site 0 n).trans mem, fun y other => (hearth_itemDone_other u site 0 n other).trans (others y other)⟩
  · rw [written, ← word32_tileRowBytes _ _ _ i hj, ← length_tileRowBytes x _ _ [] i, Ram.read_eq_of_byte fun k within => ?_]
    refine Ram.byte_writeRows 0 hi within fun j after _ => ?_
    have rows : (i + 1) * (tileOf it.block).pitch ≤ j * (tileOf it.block).pitch := Nat.mul_le_mul_right _ after
    rw [Nat.add_mul] at rows
    rw [length_tileRowBytes]
    omega
  · rw [written, Ram.byte_writeRows_of_outside 0 fun i hi => ?_]
    rw [length_tileRowBytes]
    exact outside i hi
  · exact (completes_itemDone u site 0 n).of_same queues completed

/-! ## Integer sums (R188, R189) -/

/-- A fold of sums from a start is the start and the fold from zero. -/
theorem foldl_add_eq (f : Nat → Int) (l : List Nat) (z : Int) : l.foldl (fun z k => z + f k) z = z + l.foldl (fun z k => z + f k) 0 := by
  induction l generalizing z with
  | nil => exact (Int.add_zero z).symm
  | cons k l ih => rw [List.foldl_cons, List.foldl_cons, ih, ih (0 + f k), Int.zero_add, Int.add_assoc]

theorem clampInt_of_mem {lo hi v : Int} (low : lo ≤ v) (high : v ≤ hi) : clampInt lo hi v = v := by
  rw [clampInt, Int.min_eq_right high, Int.max_eq_right low]

/-- The sum of the products of the first `k` elements of an INT8 row and column, on an initial value. -/
def intSum (row col : List Byte) (c0 : Int) (k : Nat) : Int :=
  (List.range k).foldl (fun z k => z + signed 8 (row.getD k 0).toNat * signed 8 (col.getD k 0).toNat) c0

theorem intSum_granule (row col : List Byte) (c0 : Int) (g : Nat) : intSum row col c0 (16 * (g + 1)) =
    intSum row col c0 (16 * g) + (List.range 16).foldl (fun z x =>
      z + signed 8 (row.getD (16 * g + x) 0).toNat * signed 8 (col.getD (16 * g + x) 0).toNat) 0 := by
  rw [intSum, Nat.mul_add, List.range_add, List.foldl_append, List.foldl_map]
  exact foldl_add_eq (fun x => signed 8 (row.getD (16 * g + x) 0).toNat * signed 8 (col.getD (16 * g + x) 0).toNat) _ _

/-- While no partial sum leaves 32 bits, no granule saturates. -/
theorem foldl_intGranule (row col : List Byte) (c0 : Int) {kg : Nat}
    (inside : ∀ g, g ≤ kg → intSum row col c0 (16 * g) < 2 ^ 31 ∧ -(2 ^ 31) ≤ intSum row col c0 (16 * g)) :
    (List.range kg).foldl (intGranule row col) (c0, false) = (intSum row col c0 (16 * kg), false) := by
  induction kg with
  | zero => rfl
  | succ kg ih =>
    obtain ⟨high, low⟩ := inside (kg + 1) (Nat.le_refl _)
    rw [intSum_granule] at high low ⊢
    rw [List.range_succ, List.foldl_append, ih fun g before => inside g (Nat.le_succ_of_le before), List.foldl_cons, List.foldl_nil,
      intGranule]
    dsimp only
    rw [clampInt_of_mem low (Int.le_sub_one_of_lt high), bne_self_eq_false]
    rfl

theorem tileElem_int (x : Tile) (row col : List Byte) (c0 : BitVec 32) (int8 : x.format = 1)
    (inside : ∀ g, g ≤ x.kg → intSum row col c0.toInt (16 * g) < 2 ^ 31 ∧ -(2 ^ 31) ≤ intSum row col c0.toInt (16 * g)) :
    (tileElem x row col c0).1.toInt = intSum row col c0.toInt (16 * x.kg) ∧ (tileElem x row col c0).2 = false := by
  obtain ⟨high, low⟩ := inside x.kg (Nat.le_refl _)
  rw [tileElem]
  dsimp only
  rw [if_neg (by rw [int8]; decide), if_pos int8, foldl_intGranule row col c0.toInt inside]
  exact ⟨BitVec.toInt_ofInt_eq_self (by decide) low high, rfl⟩

/-! ## Rotation (R193) -/

theorem exec_quadrantRotation (s : State) : exec .quadrantRotation s = .next
    (if s.dev.state == .off || s.ao.devtime % 2000000 != 0 || s.fabric.rotatedAt == some s.ao.devtime then s
      else { s with fabric := { s.fabric with rotation := s.fabric.rotation + 1, rotatedAt := some s.ao.devtime } }) := rfl

/-- Settles O40, clause by clause: a tile's start, a tile's completion, the bytes of C, sums that never saturate, the rotation. -/
theorem tilesRunOnQuadrants : Obligations.TilesRunOnQuadrants := by
  unfold Obligations.TilesRunOnQuadrants
  refine ⟨?starts, ?completes, ?writes, ?sums, ?rotates⟩
  case starts =>
    intro s site n x it inPart item waits open_ engine turn serial quadrant
    exact gives_of_row (TileReady.starts ⟨inPart, item, waits, open_, engine, turn, serial⟩ quadrant) (startsItem s site 0 n x)
  case completes =>
    intro s s' site n it inPart live item started open_ ran
    exact gives_of_row (exec_tileComplete inPart live item started open_ ran)
      ⟨completes_itemDone s' site 0 n, itemDone_mem s' site 0 n, hearth_itemDone_self s' site 0 n,
        fun x other => hearth_itemDone_other s' site 0 n other⟩
  case writes =>
    intro s site n it w inPart live item started open_ calm x pages valid keep status zeroC0 apart weights operand read
    rw [← read]
    exact tileComplete_writes_c inPart live item started open_ calm pages valid keep status zeroC0 apart weights operand
  case sums =>
    intro x row col c0 int8 e inside
    exact tileElem_int x row col c0 int8 inside
  case rotates =>
    intro s
    refine ⟨fun on due first => ?_, fun not_ => ?_⟩
    · refine gives_of_row (exec_quadrantRotation s) (if_neg ?_)
      simp [on, due, first]
    · refine (exec_quadrantRotation s).trans (congrArg _ (if_pos ?_))
      rcases not_ with off | again
      · simp [off]
      · simp [again]

end Sys2Proof.Machine
end


section
/-! O41, THE VECTOR UNIT (R175-R177, R203, R205): what each OP writes over its operand arrays, and the row that writes it. -/

namespace Sys2Proof.Machine

variable {s t u : State} {site op : Nat} {it : Item}

/-! ## Operand arrays -/

theorem fld_eq_leNat (bs : List Byte) (off n : Nat) : fld bs off n = leNat ((bs.drop off).take n) := by
  rw [fld, slice, leNat_append, leNat_replicate_zero, Nat.mul_zero, Nat.add_zero]

theorem elems_eq_map (bs : List Byte) (n : Nat) : elems bs n = (List.range n).map (word32 bs) := by
  induction n generalizing bs with
  | zero => rfl
  | succ n ih =>
    rw [elems, ih, List.range_succ_eq_map, List.map_cons, List.map_map]
    refine congr (congrArg _ ?_) (List.map_congr_left fun i _ => ?_)
    · rw [word32, fld_eq_leNat, Nat.mul_zero, List.drop_zero]
    · rw [Function.comp_apply, word32, word32, fld_eq_leNat, fld_eq_leNat, List.drop_drop, Nat.mul_succ, Nat.add_comm]

theorem length_elems (bs : List Byte) (n : Nat) : (elems bs n).length = n := by
  rw [elems_eq_map, List.length_map, List.length_range]

theorem getD_elems (bs : List Byte) {n i : Nat} (h : i < n) (d : BitVec 32) : (elems bs n).getD i d = word32 bs i := by
  rw [List.getD_eq_getElem _ _ (by rwa [length_elems])]
  simp only [elems_eq_map, List.getElem_map, List.getElem_range]

theorem getElem_elems (bs : List Byte) {n i : Nat} (h : i < (elems bs n).length) : (elems bs n)[i] = word32 bs i := by
  simp only [elems_eq_map, List.getElem_map, List.getElem_range]

/-- Row `i` of an operand array. -/
theorem row_elems (bs : List Byte) {rows cols i : Nat} (h : i < rows) :
    ((elems bs (rows * cols)).drop (i * cols)).take cols = (List.range cols).map fun j => word32 bs (cols * i + j) := by
  have within : (i + 1) * cols ≤ rows * cols := Nat.mul_le_mul_right _ h
  rw [Nat.add_mul, Nat.one_mul] at within
  refine List.ext_getElem ?_ fun j _ _ => ?_
  · rw [List.length_take, List.length_drop, length_elems, List.length_map, List.length_range]
    omega
  · rw [List.getElem_take, List.getElem_drop, getElem_elems, List.getElem_map, List.getElem_range, Nat.mul_comm]

/-- An array is its rows one after the other. -/
theorem flatMap_rows {α : Type} (l : List α) (cols rows : Nat) :
    (List.range rows).flatMap (fun i => (l.drop (i * cols)).take cols) = l.take (rows * cols) := by
  induction rows with
  | zero => rw [Nat.zero_mul, List.take_zero]; rfl
  | succ rows ih => rw [List.range_succ, List.flatMap_append, ih, List.flatMap_singleton, Nat.succ_mul, List.take_add]

/-! ## Elementwise OPs -/

/-- What an elementwise OP gives for element `i`. -/
def vecElem (op cols : Nat) (a b c table : List Byte) (sv tv : BitVec 32) (i : Nat) : BitVec 32 :=
  if op = 0 then add32 (word32 a i) (word32 b i) else if op = 1 then sub32 (word32 a i) (word32 b i)
  else if op = 2 then mul32 (word32 a i) (word32 b i) else if op = 3 then max32 (word32 a i) (word32 b i)
  else if op = 4 then min32 (word32 a i) (word32 b i) else if op = 5 then fma32 (word32 a i) (word32 b i) (word32 c i)
  else if op = 6 then fma32 (word32 a i) sv tv else if op = 7 then mul32 (word32 a i) (word32 b (i / cols))
  else if op = 8 then mul32 (word32 a i) (word32 b (i % cols)) else if op = 9 then act32 table (word32 a i)
  else if op = 0xA then rsqrt32 (word32 a i) else cvti32 (word32 a i)

/-- The value is the one the statement names. -/
theorem vecElem_spec (op cols : Nat) (a b c table : List Byte) (sv tv : BitVec 32) (i : Nat) :
    VecElem op cols a b c table sv tv i (vecElem op cols a b c table sv tv i) := by
  refine ⟨?_, ?_, ?_, ?_, ?_, ?_, ?_, ?_, ?_, ?_, ?_, ?_⟩ <;> (rintro rfl; rfl)

theorem map_elems (f : BitVec 32 → BitVec 32) (a : List Byte) (n : Nat) :
    (elems a n).map f = (List.range n).map fun i => f (word32 a i) := by
  rw [elems_eq_map, List.map_map]
  rfl

theorem zip_elems (a b : List Byte) (n : Nat) : (elems a n).zip (elems b n) = (List.range n).map fun i => (word32 a i, word32 b i) := by
  rw [elems_eq_map, elems_eq_map, List.zip_map']

/-- The OPs that write an element for each of A. -/
def elementwise : List Nat := [0, 1, 2, 3, 4, 5, 6, 7, 8, 9, 0xA, 0xE]

theorem vectorResult_elementwise (ew : op ∈ elementwise) (rows cols : Nat) (a b c : List Byte) :
    vectorResult it op rows cols (elems a (rows * cols)) (elems b (vecB op rows cols)) (elems c (if op = 5 then rows * cols else 0)) b =
      elemBytes ((List.range (rows * cols)).map
        (vecElem op cols a b c b (BitVec.ofNat 32 (it.f 0x18 4)) (BitVec.ofNat 32 (it.f 0x1C 4)))) := by
  have two (f : BitVec 32 → BitVec 32 → BitVec 32) :
      (((elems a (rows * cols)).zip (elems b (rows * cols))).map fun p => f p.1 p.2) =
        (List.range (rows * cols)).map fun i => f (word32 a i) (word32 b i) := by
    rw [zip_elems, List.map_map]
    rfl
  have three (f : BitVec 32 → BitVec 32 → BitVec 32 → BitVec 32) :
      (((elems a (rows * cols)).zip ((elems b (rows * cols)).zip (elems c (rows * cols)))).map fun p => f p.1 p.2.1 p.2.2) =
        (List.range (rows * cols)).map fun i => f (word32 a i) (word32 b i) (word32 c i) := by
    rw [zip_elems, elems_eq_map, List.zip_map', List.map_map]
    rfl
  simp only [elementwise, List.mem_cons, List.not_mem_nil, or_false] at ew
  rcases ew with rfl | rfl | rfl | rfl | rfl | rfl | rfl | rfl | rfl | rfl | rfl | rfl
  · exact congrArg elemBytes (two add32)
  · exact congrArg elemBytes (two sub32)
  · exact congrArg elemBytes (two mul32)
  · exact congrArg elemBytes (two max32)
  · exact congrArg elemBytes (two min32)
  · exact congrArg elemBytes (three fma32)
  · exact congrArg elemBytes (map_elems _ a _)
  · refine congrArg elemBytes (List.map_congr_left fun i inside => ?_)
    have row : i / cols < rows := Nat.div_lt_of_lt_mul (by rw [Nat.mul_comm]; exact List.mem_range.mp inside)
    exact congrArg₂ mul32 (getD_elems a (List.mem_range.mp inside) 0) (getD_elems b row 0)
  · refine congrArg elemBytes (List.map_congr_left fun i inside => ?_)
    have col : i % cols < cols := Nat.mod_lt _ (Nat.pos_of_ne_zero fun none_ => by simp [none_] at inside)
    exact congrArg₂ mul32 (getD_elems a (List.mem_range.mp inside) 0) (getD_elems b col 0)
  · exact congrArg elemBytes (map_elems _ a _)
  · exact congrArg elemBytes (map_elems _ a _)
  · exact congrArg elemBytes (map_elems _ a _)

/-! ## Row sums and maxima -/

theorem vectorResult_rsum (rows cols : Nat) (a : List Byte) (b c : List (BitVec 32)) (table : List Byte) :
    vectorResult it 0xB rows cols (elems a (rows * cols)) b c table = elemBytes ((List.range rows).map fun i =>
      round32 (exactSum ((List.range cols).map fun j => dec32 (word32 a (cols * i + j))))) := by
  refine congrArg elemBytes (List.map_congr_left fun i inside => ?_)
  dsimp only
  rw [row_elems a (List.mem_range.mp inside), List.map_map]
  rfl

theorem max32_self (x : BitVec 32) : max32 x x = if dec32 x = .nan then 0x7FC00000#32 else x := by
  simp only [max32, or_self, BitVec.and_self, ite_self]

/-- A maximum with itself stands under a further maximum with the same value. -/
theorem max32_max32_self (x : BitVec 32) : max32 (max32 x x) x = max32 x x := by
  rw [max32_self]
  split
  next nan => rw [max32, if_pos (.inr nan)]
  next real => rw [max32_self, if_neg real]

/-- To take the first element of a row once more changes no maximum. -/
theorem foldl_max32_row (f : Nat → BitVec 32) (k : Nat) :
    (((List.range k).map Nat.succ).map f).foldl max32 (max32 (f 0) (f 0)) =
      (List.range (k + 1)).foldl (fun m j => max32 m (f j)) (max32 (f 0) (f 0)) := by
  rw [List.range_succ_eq_map, List.foldl_cons, max32_max32_self, List.foldl_map]

theorem vectorResult_rmax (rows : Nat) {cols : Nat} (some_ : 0 < cols) (a : List Byte) (b c : List (BitVec 32)) (table : List Byte) :
    vectorResult it 0xC rows cols (elems a (rows * cols)) b c table = elemBytes ((List.range rows).map fun i =>
      (List.range cols).foldl (fun m j => max32 m (word32 a (cols * i + j))) (max32 (word32 a (cols * i)) (word32 a (cols * i)))) := by
  obtain ⟨k, rfl⟩ := Nat.exists_eq_succ_of_ne_zero (Nat.pos_iff_ne_zero.mp some_)
  refine congrArg elemBytes (List.map_congr_left fun i inside => ?_)
  dsimp only
  rw [row_elems a (List.mem_range.mp inside), List.range_succ_eq_map, List.map_cons, ← List.range_succ_eq_map]
  exact foldl_max32_row (fun j => word32 a (k.succ * i + j)) k

/-! ## Conversion -/

theorem vectorResult_bf16 (bf16 : it.f 1 1 = 1) (rows cols : Nat) (a b c : List (BitVec 32)) (table : List Byte)
    (size : a.length = rows * cols) :
    vectorResult it 0xD rows cols a b c table = a.flatMap fun v => leBytes 2 (Fmt.bf16.narrow (dec32 v)) := by
  have row (l : List (BitVec 32)) : cvtRow (it.f 1 1) l = l.flatMap fun v => leBytes 2 (Fmt.bf16.narrow (dec32 v)) := by rw [bf16]; rfl
  have all := flatMap_rows a cols rows
  rw [← size, List.take_length] at all
  conv_rhs => rw [← all, List.flatMap_assoc]
  exact congrArg (fun f => (List.range rows).flatMap f) (funext fun i => row _)

theorem length_i4bRun (l : List (BitVec 32)) (k : Nat) : (i4bRun l k).length = 17 * k := by
  rw [i4bRun, List.length_append, List.length_map, List.length_map, List.length_range, List.length_range]
  omega

/-- The runs of the first `g` groups of 1024 elements. -/
theorem length_i4bRuns (row : List (BitVec 32)) (g : Nat) : ((List.range g).flatMap fun g =>
    i4bRun ((row.drop (1024 * g)).take 1024) (((row.drop (1024 * g)).take 1024).length / 32)).length =
      17 * (min row.length (1024 * g) / 32) := by
  induction g with
  | zero => simp
  | succ g ih =>
    rw [List.range_succ, List.flatMap_append, List.length_append, ih, List.flatMap_singleton, length_i4bRun, List.length_take,
      List.length_drop]
    omega

/-- Bytes that CVT writes for a row. -/
def cvtBytes (fmt cols : Nat) : Nat :=
  if fmt = 5 then up32 (17 * (cols / 32)) else if fmt = 0 then 4 * cols else if fmt = 1 then 2 * cols else cols

theorem length_cvtRow (fmt : Nat) (row : List (BitVec 32)) : (cvtRow fmt row).length = cvtBytes fmt row.length := by
  unfold cvtRow cvtBytes
  split
  next =>
    rw [List.length_append, length_i4bRuns, List.length_replicate]
    have all : min row.length (1024 * ((row.length + 1023) / 1024)) = row.length := by omega
    rw [all, up32]
    omega
  next =>
    rw [length_flatMap_const fun v _ => length_leBytes _ _]
    split
    next => exact Nat.mul_comm _ _
    next =>
      split
      next => exact Nat.mul_comm _ _
      next => exact Nat.mul_one _

/-! ## The bytes of D -/

theorem vectorOps (known : op ∈ vectorRows.map (·.1)) : op ∈ elementwise ∨ op = 0xB ∨ op = 0xC ∨ op = 0xD := by
  revert op
  decide

theorem vecOut_elementwise (ew : op ∈ elementwise) (fmt rows cols : Nat) : vecOut op fmt rows cols = 4 * (rows * cols) := by
  have other : ∀ op ∈ elementwise, ¬(op = 0xB ∨ op = 0xC) ∧ op ≠ 0xD := by decide
  obtain ⟨notRows, notCvt⟩ := other op ew
  rw [vecOut, if_neg notRows, if_neg notCvt]

theorem length_vectorResult (known : op ∈ vectorRows.map (·.1)) (rows cols : Nat) (a b c : List Byte) :
    (vectorResult it op rows cols (elems a (rows * cols)) (elems b (vecB op rows cols))
      (elems c (if op = 5 then rows * cols else 0)) b).length = vecOut op (it.f 1 1) rows cols := by
  rcases vectorOps known with ew | rfl | rfl | rfl
  · rw [vectorResult_elementwise ew, length_elemBytes, List.length_map, List.length_range, vecOut_elementwise ew]
  · exact (length_elemBytes _).trans (congrArg _ ((List.length_map _).trans List.length_range))
  · exact (length_elemBytes _).trans (congrArg _ ((List.length_map _).trans List.length_range))
  · refine (length_flatMap_const (k := cvtBytes (it.f 1 1) cols) fun i inside => ?_).trans ?_
    · dsimp only
      rw [row_elems a (List.mem_range.mp inside), length_cvtRow, List.length_map, List.length_range]
    · rw [List.length_range]
      rfl

/-! ## The row -/

/-- Bytes of the operands of an OP. -/
def vecBytesB (op rows cols : Nat) : Nat := if op = 9 then 544 else 4 * vecB op rows cols
def vecBytesC (op rows cols : Nat) : Nat := if op = 5 then 4 * (rows * cols) else 0

/-- What an item writes to D, of the bytes of its operands. -/
def vecD (it : Item) (op : Nat) (a b c : List Byte) : List Byte :=
  vectorResult it op (it.f 4 2) (it.f 6 2) (elems a (it.f 4 2 * it.f 6 2)) (elems b (vecB op (it.f 4 2) (it.f 6 2)))
    (elems c (if op = 5 then it.f 4 2 * it.f 6 2 else 0)) b

/-- CVT meets a NaN. -/
abbrev CvtNan (it : Item) (op : Nat) (a : List Byte) : Prop :=
  op = 0xD ∧ ((elems a (it.f 4 2 * it.f 6 2)).any fun v => dec32 v = .nan) = true

/-- The operands of an item read as known bytes. -/
structure VecOperands (s : State) (site : Nat) (it : Item) (op : Nat) (a b c : List Byte) : Prop where
  a_known : Readable (hearth s site) (it.f 8 4) (4 * (it.f 4 2 * it.f 6 2))
  b_clean : stagingUe (hearth s site) (it.f 0xC 4) (vecBytesB op (it.f 4 2) (it.f 6 2)) = false
  c_clean : stagingUe (hearth s site) (it.f 0x10 4) (vecBytesC op (it.f 4 2) (it.f 6 2)) = false
  a_eq : (hearth s site).staging.read s.free (it.f 8 4) (4 * (it.f 4 2 * it.f 6 2)) = a
  b_eq : (hearth s site).staging.read s.free (it.f 0xC 4) (vecBytesB op (it.f 4 2) (it.f 6 2)) = b
  c_eq : (hearth s site).staging.read s.free (it.f 0x10 4) (vecBytesC op (it.f 4 2) (it.f 6 2)) = c

/-- The state after an item has written D and started. -/
def vectorDone (s : State) (site : Nat) (it : Item) (op : Nat) (a b c : List Byte) (k : Counters) : State :=
  startItem (stickyIf (stWrite { s with counters := k } site (it.f 0x14 4) (vecD it op a b c) (byItem 2 site 1 it.num)) site 1
    (CvtNan it op a)) site 1 it.num 0

section
variable {a b c : List Byte}

theorem exec_vector {row : Nat → Instr} (listed : (op, row) ∈ vectorRows) (inPart : site < 200) (next : nextVector s site op = some it)
    (calm : Calm s site 1 it.num) (operands : VecOperands s site it op a b c) :
    ∃ k, exec (row site) s = .next (vectorDone s site it op a b c k) := by
  obtain ⟨none_, -, -, alone⟩ := calm
  obtain ⟨aKnown, bClean, cClean, aEq, bEq, cEq⟩ := operands
  have names : it.f 0 1 = op := by
    obtain ⟨-, ready⟩ := Option.filter_eq_some_iff.mp next
    simp only [Bool.and_eq_true, beq_iff_eq] at ready
    exact ready.1.2
  have step : exec (row site) s = vectorRow op site s := by
    simp only [vectorRows, List.mem_cons, Prod.mk.injEq, List.not_mem_nil, or_false] at listed
    rcases listed with ⟨rfl, rfl⟩ | ⟨rfl, rfl⟩ | ⟨rfl, rfl⟩ | ⟨rfl, rfl⟩ | ⟨rfl, rfl⟩ | ⟨rfl, rfl⟩ | ⟨rfl, rfl⟩ | ⟨rfl, rfl⟩ |
      ⟨rfl, rfl⟩ | ⟨rfl, rfl⟩ | ⟨rfl, rfl⟩ | ⟨rfl, rfl⟩ | ⟨rfl, rfl⟩ | ⟨rfl, rfl⟩ | ⟨rfl, rfl⟩ <;> rfl
  have known : (hearth s site).staging.unlisted.isSome = true := aKnown.1
  obtain ⟨k₁, readA⟩ := stRead_eq (s := s) (r := byItem 2 site 1 it.num) none_ aKnown aEq
  obtain ⟨k₂, readB⟩ := stRead_eq (s := { s with counters := k₁ }) (r := byItem 2 site 1 it.num) none_ ⟨known, bClean⟩ bEq
  obtain ⟨k₃, readC⟩ := stRead_eq (s := { s with counters := k₂ }) (r := byItem 2 site 1 it.num) none_ ⟨known, cClean⟩ cEq
  have effect : vectorEffect s site it = (none, stickyIf (stWrite { s with counters := k₃ } site (it.f 0x14 4) (vecD it op a b c)
      (byItem 2 site 1 it.num)) site 1 (CvtNan it op a)) := by
    unfold vectorEffect
    dsimp only
    rw [names, readA]
    dsimp only
    rw [← vecBytesB, readB]
    dsimp only
    rw [← vecBytesC, readC]
    rfl
  refine ⟨k₃, ?_⟩
  rw [step, vectorRow, guarded, if_pos (by simpa [siteOk] using inPart), next]
  dsimp only
  rw [runVector, amid_calm alone, effect]
  rfl

variable (s site it op) (k : Counters)

theorem staging_vectorDone :
    (hearth (vectorDone s site it op a b c k) site).staging = (hearth s site).staging.write (it.f 0x14 4) (vecD it op a b c) := by
  rw [vectorDone, startItem, hearth_mapQueue_self, hearth_stickyIf_self]
  dsimp only
  rw [staging_stWrite, hearth_counters]

theorem completed_vectorDone : (hearth (vectorDone s site it op a b c k) site).completed = (hearth s site).completed := by
  rw [vectorDone, startItem, hearth_mapQueue_self, hearth_stickyIf_self]
  dsimp only
  rw [(stages_stWrite _ _ _ _ _).completed, hearth_counters]

theorem started_vectorDone {i : Item} (queued : i ∈ lookD [] (hearth (vectorDone s site it op a b c k) site).queues 1)
    (same : i.num = it.num) : i.started = true := by
  rw [vectorDone] at queued
  exact (startsItem _ site 1 it.num 0).started queued same

theorem sticky_vectorDone (nan : CvtNan it op a) : (hearth (vectorDone s site it op a b c k) site).sticky.getLsbD 1 = true := by
  rw [vectorDone, startItem, hearth_mapQueue_self, stickyIf, if_pos nan, hearth_modHearth_self]
  simp [setBit]

theorem hearth_vectorDone_other {x : Nat} (h : x ≠ site) : hearth (vectorDone s site it op a b c k) x = hearth s x := by
  rw [vectorDone, startItem, hearth_mapQueue_other _ _ _ _ h, hearth_stickyIf_other _ _ _ _ h]
  exact stWrite_other _ _ _ _ h

theorem vectorDone_only : vectorDone s site it op a b c k =
    { s with hearths := (vectorDone s site it op a b c k).hearths, counters := (vectorDone s site it op a b c k).counters } := by
  rw [vectorDone, (startsItem _ _ _ _ _).2.2.2.2, stickyIf_only, stWrite_only]

end

/-! ## D as it reads back -/

section
variable {a b c : List Byte} (k : Counters)

theorem read_vectorDone {n : Nat} (size : (vecD it op a b c).length = n) :
    (hearth (vectorDone s site it op a b c k) site).staging.read 0 (it.f 0x14 4) n = vecD it op a b c := by
  rw [staging_vectorDone, ← size, Ram.read_write]

theorem word32_vectorDone {l : List (BitVec 32)} {n i : Nat} (bytes : vecD it op a b c = elemBytes l) (size : l.length = n) (h : i < l.length) :
    word32 ((hearth (vectorDone s site it op a b c k) site).staging.read 0 (it.f 0x14 4) (4 * n)) i = l[i] := by
  rw [read_vectorDone k (by rw [bytes, length_elemBytes, size]), bytes, word32_elemBytes l h]

theorem byte_vectorDone (known : op ∈ vectorRows.map (·.1)) {x : Nat}
    (outside : x < it.f 0x14 4 ∨ it.f 0x14 4 + vecOut op (it.f 1 1) (it.f 4 2) (it.f 6 2) ≤ x) :
    (hearth (vectorDone s site it op a b c k) site).staging.byte 0 x = (hearth s site).staging.byte 0 x := by
  rw [staging_vectorDone, Ram.byte_write, if_neg]
  rw [vecD, length_vectorResult known]
  omega

theorem cvtNan_of_exists (cvt : op = 0xD) (nan : ∃ i, i < it.f 4 2 * it.f 6 2 ∧ dec32 (word32 a i) = .nan) : CvtNan it op a := by
  obtain ⟨i, inside, isNan⟩ := nan
  refine ⟨cvt, List.any_eq_true.mpr ⟨word32 a i, ?_, decide_eq_true isNan⟩⟩
  rw [elems_eq_map]
  exact List.mem_map_of_mem (List.mem_range.mpr inside)

end

/-! ## Completion -/

theorem exec_vectorOpComplete (inPart : site < 200) (live : siteLive s site = true) (head : headItem s site 1 = some it)
    (started : it.started = true) : exec (.vectorOpComplete site) s = .next (countAt (itemDone s site 1 it.num) 0x008 site 1) := by
  have row : exec (.vectorOpComplete site) s = execVectorOpComplete site s := rfl
  rw [row, execVectorOpComplete, guarded, if_pos (by simpa [siteOk] using inPart), head]
  dsimp only
  rw [started, live, if_pos (by decide)]

/-- Settles O41, by the form of D under each group of OPs: elementwise, RSUM, RMAX and CVT. -/
theorem vectorOpsWriteD : Obligations.VectorOpsWriteD := by
  unfold Obligations.VectorOpsWriteD
  refine ⟨?writes, ?completes⟩
  case writes =>
    intro s site op row it listed inPart next h rows cols n nb nc a b c calm aKnown bClean cClean
    have operands : VecOperands s site it op a b c := ⟨aKnown, bClean, cClean, rfl, rfl, rfl⟩
    clear_value a b c
    obtain ⟨k, step⟩ := exec_vector listed inPart next calm operands
    have known : op ∈ vectorRows.map (·.1) := List.mem_map_of_mem listed
    refine gives_of_row step ⟨?elementwise, ?rsum, ?rmax, ?bf16, ?nan, ?frame, ?queued, ?_, ?_, ?_⟩
    case elementwise =>
      intro notSum notMax notCvt i inside
      have ew : op ∈ elementwise := (vectorOps known).resolve_right (by simp [notSum, notMax, notCvt])
      rw [word32_vectorDone k (vectorResult_elementwise ew rows cols a b c) (by simp [n]) (by simpa using inside), List.getElem_map,
        List.getElem_range]
      exact vecElem_spec _ _ _ _ _ _ _ _ _
    case rsum =>
      rintro rfl i inside
      rw [word32_vectorDone k (vectorResult_rsum rows cols a _ _ b) (by simp) (by simpa using inside), List.getElem_map,
        List.getElem_range]
    case rmax =>
      rintro rfl some_ i inside
      rw [word32_vectorDone k (vectorResult_rmax rows some_ a _ _ b) (by simp) (by simpa using inside), List.getElem_map,
        List.getElem_range]
    case bf16 =>
      rintro rfl fmt i inside
      have bytes : vecD it 0xD a b c = (elems a n).flatMap fun v => leBytes 2 (Fmt.bf16.narrow (dec32 v)) :=
        vectorResult_bf16 fmt rows cols _ _ _ b (length_elems _ _)
      have size : (vecD it 0xD a b c).length = 2 * n := by
        rw [bytes, length_flatMap_const fun v _ => length_leBytes _ _, length_elems, Nat.mul_comm]
      rw [read_vectorDone k size, bytes, fld_flatMap_leBytes 2 _ _ (by rwa [length_elems]), getElem_elems]
      rfl
    case nan => exact fun cvt nan => sticky_vectorDone s site op it k (cvtNan_of_exists cvt nan)
    case frame =>
      intro x outside
      refine byte_vectorDone k known ?_
      have out : (if op = 0xB ∨ op = 0xC then 4 * rows else vecOut op (it.f 1 1) rows cols) = vecOut op (it.f 1 1) rows cols := by
        rw [vecOut]
        split <;> rfl
      rwa [out] at outside
    case queued => exact fun i queued same => started_vectorDone s site op it k queued same
    · exact completed_vectorDone s site op it k
    · exact fun x other => hearth_vectorDone_other s site op it k other
    · exact vectorDone_only s site op it k
  case completes =>
    intro s site it inPart live head started
    exact gives_of_row (exec_vectorOpComplete inPart live head started) ⟨completes_itemDone s site 1 it.num,
      hearth_itemDone_self s site 1 it.num, siteOnly_itemDone s site 1 it.num 0x008 site 1⟩

end Sys2Proof.Machine
end


section
/-! O42, DMA CHANNELS AND STREAM ITEMS (R175-R179, R203, R206, R208, R331, R382): starts with their tags, the bytes that a transfer within
staging and a stream item move, and the halt of a channel. -/

namespace Sys2Proof.Machine

variable {s t u : State} {site ch num other : Nat} {it : Item}

/-! ## Requesters -/

/-- The requester of an item names its site, its queue and its number. -/
theorem item_byItem {code q : Nat} (hcode : code < 16) (hsite : site < 256) (hq : q < 32) :
    Req.item (byItem code site q num) = some (site, q, num) := by
  have some_ : ¬code + 16 * (1 + site + 256 * (q + 32 * num)) < 16 := by omega
  have tail : (code + 16 * (1 + site + 256 * (q + 32 * num))) / 16 - 1 = site + 256 * (q + 32 * num) := by
    rw [Nat.add_mul_div_left _ _ (by decide), Nat.div_eq_of_lt hcode]
    omega
  unfold Req.item byItem
  rw [if_neg some_, tail]
  refine congrArg some (Prod.ext ?_ (Prod.ext ?_ ?_))
  · show (site + 256 * (q + 32 * num)) % 256 = site
    omega
  · show (site + 256 * (q + 32 * num)) / 256 % 32 = q
    omega
  · show (site + 256 * (q + 32 * num)) / 8192 = num
    omega

/-- No item overtakes one of its own queue, tiles apart. -/
theorem overtakes_self {h : Hearth} {q : Nat} (notTile : q ≠ 0) (n m : Nat) : overtakes h q n q m = false := by
  unfold overtakes
  split
  · rfl
  · simp [notTile]

/-- An item sees nothing old of a hearth whose listed words are all of its own queue. -/
theorem oldStaging_of_own {h : Hearth} {q code : Nat} (hcode : code < 16) (hsite : site < 256) (hq : q < 32) (notTile : q ≠ 0)
    (own : ∀ e ∈ h.races, e.queue = q) (a n : Nat) : oldStaging h site a n (byItem code site q num) = [] := by
  unfold oldStaging
  rw [item_byItem hcode hsite hq]
  dsimp only
  rw [if_pos rfl, List.filter_eq_nil_iff]
  intro e listed
  rw [own e listed, overtakes_self notTile, Bool.and_false]
  exact Bool.false_ne_true

/-- An item sees nothing old of another site's staging. -/
theorem oldStaging_of_other {h : Hearth} {x q code : Nat} (hcode : code < 16) (hsite : site < 256) (hq : q < 32) (hx : x ≠ site)
    (a n : Nat) : oldStaging h x a n (byItem code site q num) = [] := by
  unfold oldStaging
  rw [item_byItem hcode hsite hq]
  exact if_neg hx.symm

/-! ## What a write leaves readable -/

theorem races_stWrite (s : State) (site a : Nat) (bs : List Byte) (r : Req) :
    (hearth (stWrite s site a bs r) site).races = (logStaging s.free site a bs.length r (hearth s site)).races := by
  unfold stWrite
  rw [hearth_modHearth_self]
  rfl

/-- A word that an item lists is of its queue. -/
theorem queue_of_mem_logStaging {code q free a n : Nat} {h : Hearth} (hcode : code < 16) (hsite : site < 256) (hq : q < 32)
    (own : ∀ e ∈ h.races, e.queue = q) : ∀ e ∈ (logStaging free site a n (byItem code site q num) h).races, e.queue = q := by
  intro e listed
  unfold logStaging at listed
  rw [item_byItem hcode hsite hq] at listed
  dsimp only at listed
  split at listed
  · exact own e listed
  · rcases List.mem_append.mp listed with old | new
    · exact own e old
    · obtain ⟨w, -, rfl⟩ := List.mem_map.mp new
      rfl

theorem readable_stWrite {x a n : Nat} {bs : List Byte} {r : Req} (h : Readable (hearth s site) x n) :
    Readable (hearth (stWrite s site a bs r) site) x n := by
  obtain ⟨known, clean⟩ := h
  refine ⟨by rw [staging_stWrite, Ram.write_unlisted]; exact known, ?_⟩
  unfold stWrite
  rw [hearth_modHearth_self]
  rw [stagingUe, List.any_eq_false] at clean ⊢
  exact fun unit bad => clean unit (List.mem_of_mem_filter bad)

theorem Readable.mono {h : Hearth} {a n a' n' : Nat} (r : Readable h a n) (low : a ≤ a') (high : a' + n' ≤ a + n) : Readable h a' n' := by
  obtain ⟨known, clean⟩ := r
  refine ⟨known, ?_⟩
  rw [stagingUe, List.any_eq_false] at clean ⊢
  intro unit bad
  have := clean unit bad
  simp only [Bool.and_eq_true, decide_eq_true_eq] at this ⊢
  omega

/-! ## A transfer within staging -/

/-- The words of a transfer from staging to staging move in order, and nothing else changes. -/
theorem dmaWords_staging {tn q : Nat} (fromStaging : it.f 0x18 1 = 0) (toStaging : it.f 0x19 1 = 0) (hsite : site < 256) (hq : q < 32)
    (notTile : q ≠ 0) {size : Nat} (apart : it.f 0 8 + size ≤ it.f 8 8 ∨ it.f 8 8 + size ≤ it.f 0 8) (n : Nat) :
    ∀ (s : State) (o : Nat), o + 32 * n ≤ size → (∀ e ∈ (hearth s site).races, e.queue = q) →
      Readable (hearth s site) (it.f 0 8 + o) (32 * n) →
      ∃ t, dmaWords site tn it (byItem 3 site q num) n s o = (true, t) ∧ Stages s t site ∧
        (hearth t site).staging.unlisted = (hearth s site).staging.unlisted ∧
        ∀ x, (hearth t site).staging.byte s.free x = if it.f 8 8 + o ≤ x ∧ x < it.f 8 8 + o + 32 * n
          then (hearth s site).staging.byte s.free (it.f 0 8 + (x - it.f 8 8)) else (hearth s site).staging.byte s.free x := by
  induction n with
  | zero =>
    intro s o _ _ _
    exact ⟨s, rfl, .counted s s.counters site, rfl, fun x => (if_neg (by omega)).symm⟩
  | succ n ih =>
    intro s o within own readable
    obtain ⟨c, read⟩ := stRead_known (s := s) (r := byItem 3 site q num) (readable.mono (n' := 32) (Nat.le_refl _) (by omega))
      (oldStaging_of_own (by decide) hsite hq notTile own _ _)
    set bs := (hearth s site).staging.read s.free (it.f 0 8 + o) 32 with hbs
    have size32 : bs.length = 32 := Ram.length_read _ _ _ _
    have wrote := stages_stWrite { s with counters := c } site (it.f 8 8 + o) bs (byItem 3 site q num)
    have bytes := staging_stWrite { s with counters := c } site (it.f 8 8 + o) bs (byItem 3 site q num)
    have own' := races_stWrite { s with counters := c } site (it.f 8 8 + o) bs (byItem 3 site q num)
    have readable' := readable_stWrite (s := { s with counters := c }) (site := site) (a := it.f 8 8 + o) (bs := bs)
      (r := byItem 3 site q num) readable
    set s' := stWrite { s with counters := c } site (it.f 8 8 + o) bs (byItem 3 site q num)
    obtain ⟨t, moved, only, unlisted, rest⟩ := ih s' (o + 32) (by omega)
      (by rw [own']; exact queue_of_mem_logStaging (by decide) hsite hq own) (readable'.mono (by omega) (by omega))
    refine ⟨t, ?_, (Stages.counted s c site).trans (wrote.trans only), ?_, fun x => ?_⟩
    · rw [dmaWords, dmaSide, if_pos fromStaging, read]
      dsimp only
      rw [if_pos toStaging]
      exact moved
    · rw [unlisted, bytes, Ram.write_unlisted]
      rfl
    · have free : s'.free = s.free := rfl
      rw [free, bytes] at rest
      rw [rest x, Ram.byte_write, Ram.byte_write, size32]
      by_cases later : it.f 8 8 + (o + 32) ≤ x ∧ x < it.f 8 8 + (o + 32) + 32 * n
      · rw [if_pos later, if_neg (by omega), if_pos (by omega)]
        rfl
      rw [if_neg later]
      by_cases now_ : it.f 8 8 + o ≤ x ∧ x < it.f 8 8 + o + 32
      · have place : it.f 0 8 + o + (x - (it.f 8 8 + o)) = it.f 0 8 + (x - it.f 8 8) := by omega
        rw [if_pos now_, if_pos (by omega), hbs, Ram.getD_read _ _ _ (by omega), place]
      · rw [if_neg now_, if_neg (by omega)]
        rfl

/-! ## The end of an item that held tags -/

/-- The item's tags are free and its credit returns. -/
def returnItem (s : State) (site q num : Nat) : State := itemDone (freeTags s site q num) site q num

section
variable (s : State) (site q num : Nat)

theorem hearth_returnItem_self : hearth (returnItem s site q num) site =
    { hearth s site with tags := (hearth (returnItem s site q num) site).tags,
                         queues := (hearth (returnItem s site q num) site).queues,
                         completed := (hearth (returnItem s site q num) site).completed } := by
  rw [returnItem, hearth_itemDone_self, hearth_freeTags_self]

theorem hearth_returnItem_other {x : Nat} (h : x ≠ site) : hearth (returnItem s site q num) x = hearth s x :=
  (hearth_itemDone_other _ _ _ _ h).trans (hearth_freeTags_other _ _ _ _ h)

theorem staging_returnItem (x : Nat) : (hearth (returnItem s site q num) x).staging = (hearth s x).staging := by
  by_cases h : x = site
  · rw [h, hearth_returnItem_self]
  · rw [hearth_returnItem_other _ _ _ _ h]

theorem arrival_returnItem (x : Nat) : (hearth (returnItem s site q num) x).arrival = (hearth s x).arrival := by
  by_cases h : x = site
  · rw [h, hearth_returnItem_self]
  · rw [hearth_returnItem_other _ _ _ _ h]

theorem completes_returnItem : Completes s (returnItem s site q num) site q num := by
  have self := hearth_freeTags_self s site q num
  exact (completes_itemDone _ site q num).of_same (by rw [self]) (by rw [self])

theorem returnItem_mem : (returnItem s site q num).mem = s.mem := itemDone_mem (freeTags s site q num) site q num

theorem returnItem_only : returnItem s site q num = { s with hearths := (returnItem s site q num).hearths } := by
  rw [returnItem, itemDone_only, freeTags, modHearth, setHearth]

end

/-! ## DMA rows -/

section
variable (inPart : site < 200) (channel : ch < 8) (head : headItem s site (8 + ch) = some it)
include inPart channel

theorem exec_dmaTransferComplete_awaited (outstanding : awaited (hearth s site) (8 + ch) = true) :
    exec (.dmaTransferComplete site ch) s = .next (discardResponses s site (8 + ch)) := by
  have row : exec (.dmaTransferComplete site ch) s = execDmaTransferComplete site ch s := rfl
  rw [row, execDmaTransferComplete, guarded, if_pos (by simp [inSite, inPart, channel]), if_pos outstanding]

include head

theorem exec_dmaTransferStart (waits : it.started = false) (engine : engineFree s site = true)
    (running : ch ∉ (hearth s site).dmaHalted) : exec (.dmaTransferStart site ch) s = .next
      (if tagWait s site (dmaNeed s site it) then s
        else takeTags (startItem s site (8 + ch) it.num 0) site (8 + ch) it.num (dmaNeed s site it)) := by
  have row : exec (.dmaTransferStart site ch) s = execDmaTransferStart site ch s := rfl
  have runs : (hearth s site).dmaHalted.contains ch = false := by simpa using running
  rw [row, execDmaTransferStart, guarded, if_pos (by simp [inSite, inPart, channel]), head]
  dsimp only
  rw [waits, engine, runs]
  rfl

theorem exec_dmaTransferComplete (started : it.started = true) (live : siteLive s site = true)
    (quiet : awaited (hearth s site) (8 + ch) = false) {moved : Bool} (ran : runDma s site ch it = (moved, u)) :
    exec (.dmaTransferComplete site ch) s = .next (if moved then returnItem u site (8 + ch) it.num
      else haltChannel (freeTags u site (8 + ch) it.num) site ch) := by
  have row : exec (.dmaTransferComplete site ch) s = execDmaTransferComplete site ch s := rfl
  rw [row, execDmaTransferComplete, guarded, if_pos (by simp [inSite, inPart, channel]), quiet, if_neg Bool.false_ne_true, head]
  dsimp only
  rw [started, live, if_neg (by decide), ran]
  cases moved <;> rfl

end

/-- Of the need for tags, what waits and what starts. -/
theorem tagWait_of_room {need : Nat} (room : need = 0 ∨ 0 < tagsFree (hearth s site)) : tagWait s site need = false := by
  rcases room with rfl | free
  · rfl
  · have : tagsFree (hearth s site) ≠ 0 := by omega
    simp [tagWait, this]

theorem tagWait_of_none {need : Nat} (leaves_ : need ≠ 0) (none_ : tagsFree (hearth s site) = 0) : tagWait s site need = true := by
  simp [tagWait, leaves_, none_]

/-- What a halt leaves of a channel (R208). -/
theorem haltChannel_spec (s : State) (site ch : Nat) :
    ch ∈ (hearth (haltChannel s site ch) site).dmaHalted ∧ lookD [] (hearth (haltChannel s site ch) site).queues (8 + ch) = [] ∧
      (hearth (haltChannel s site ch) site).sticky.getLsbD 2 = true ∧
      (hearth (haltChannel s site ch) site).fails = (hearth s site).fails ++ [{ status := .channelHalt, detail := ch }] ∧
      (haltChannel s site ch).mem = s.mem := by
  have all (l : List Item) : ((l.map fun i => { i with done := true }).takeWhile (·.done)).length =
      (l.map fun i => { i with done := true }).length := by
    rw [List.takeWhile_eq_self_iff.mpr]
    intro i done
    obtain ⟨j, -, rfl⟩ := List.mem_map.mp done
    rfl
  have self := hearth_modHearth_self (mapQueue (recordFail (modHearth s site fun h => { h with dmaHalted := h.dmaHalted ++ [ch] }) site
    .channelHalt ch) site (8 + ch) fun i => { i with done := true }) site
  unfold haltChannel advanceQueue
  rw [self, hearth_mapQueue_self, recordFail, hearth_modHearth_self, hearth_modHearth_self]
  dsimp only
  refine ⟨?_, ?_, ?_, ?_, ?_⟩
  · exact List.mem_append_right _ (List.mem_singleton_self ch)
  · rw [lookD_putD_self, lookD_putD_self, all, List.drop_length]
  · simp [setBit]
  · exact rfl
  · rw [modHearth_mem, mapQueue, modHearth_mem, recordFail, modHearth_mem, modHearth_mem]

/-- A transfer from staging to staging whose bytes are known. -/
theorem runDma_staging (inPart : site < 200) (channel : ch < 8) (calm : Calm s site (8 + ch) it.num) (fromStaging : it.f 0x18 1 = 0)
    (toStaging : it.f 0x19 1 = 0) (readable : Readable (hearth s site) (it.f 0 8) (32 * (it.f 0x10 8 / 32)))
    (apart : it.f 0 8 + 32 * (it.f 0x10 8 / 32) ≤ it.f 8 8 ∨ it.f 8 8 + 32 * (it.f 0x10 8 / 32) ≤ it.f 0 8) :
    ∃ t, runDma s site ch it = (true, t) ∧ Stages s t site ∧
      ∀ x, (hearth t site).staging.byte 0 x = if it.f 8 8 ≤ x ∧ x < it.f 8 8 + 32 * (it.f 0x10 8 / 32)
        then (hearth s site).staging.byte 0 (it.f 0 8 + (x - it.f 8 8)) else (hearth s site).staging.byte 0 x := by
  obtain ⟨none_, -, -, alone⟩ := calm
  have counted : hearth (countAt s (0x50C + ch) site (it.f 0x10 8 / 32)) site = hearth s site := rfl
  obtain ⟨t, moved, only, unlisted, bytes⟩ := dmaWords_staging (tn := (hearth s site).tenant) (q := 8 + ch) (num := it.num) fromStaging
    toStaging (by omega) (by omega) (by omega) apart (it.f 0x10 8 / 32) (countAt s (0x50C + ch) site (it.f 0x10 8 / 32)) 0 (by omega)
    (by rw [counted, none_]; exact nofun) readable
  rw [counted] at unlisted bytes
  refine ⟨t, (amid_calm alone _).trans moved, (Stages.counted s _ site).trans only, fun x => ?_⟩
  have known : (hearth s site).staging.unlisted.isSome = true := readable.1
  rw [Ram.byte_known (unlisted ▸ known) 0 s.free, Ram.byte_known known 0 s.free, Ram.byte_known known 0 s.free]
  exact bytes x

/-! ## Stream rows -/

section
variable {dir : Nat} (inPart : site < 200) (item : item? s site 2 num = some it)
include inPart

theorem streamComplete_awaited (outstanding : awaited (hearth s site) 2 = true) :
    streamComplete dir site num s = .next (discardResponses s site 2) := by
  rw [streamComplete, guarded, if_pos (by simpa [siteOk] using inPart), if_pos outstanding]

include item

theorem streamStart_row (isDir : it.f 0 1 = dir) (waits : it.started = false) (open_ : it.done = false)
    (engine : engineFree s site = true) (turn : earlierStarted s site 2 num = true) :
    streamStart dir site num s = .next (if tagWait s site (streamNeed s site it) then s
      else takeTags (startItem s site 2 num 0) site 2 num (streamNeed s site it)) := by
  rw [streamStart, guarded, if_pos (by simpa [siteOk] using inPart), item]
  dsimp only
  rw [waits, open_, engine, turn, isDir, bne_self_eq_false]
  rfl

theorem streamComplete_row (isDir : it.f 0 1 = dir) (started : it.started = true) (open_ : it.done = false)
    (live : siteLive s site = true) (place : streamSite (hearth s site) (it.f 1 1) (it.f 2 1) = some other)
    (there : siteLive s other = true) (quiet : awaited (hearth s site) 2 = false) (ran : runStream s site other it = (none, u)) :
    streamComplete dir site num s = .next (returnItem u site 2 num) := by
  rw [streamComplete, guarded, if_pos (by simpa [siteOk] using inPart), quiet, if_neg Bool.false_ne_true, item]
  dsimp only
  rw [started, open_, live, isDir, bne_self_eq_false, if_neg (by decide), place]
  dsimp only
  rw [there, if_neg (by decide), ran]
  rfl

end

/-! ## What a stream item moves -/

/-- An arrival at a site (R206). -/
def arrive (h : Hearth) (f : Nat) : Hearth := { h with arrival := putD 0 h.arrival f ((lookD 0 h.arrival f + 1) % 2 ^ 32) }

/-- Bytes have been copied into the staging of a site; no other hearth has changed, and no queue. -/
structure Copied (s u : State) (dest a : Nat) (bs : List Byte) : Prop where
  frame : u = { s with hearths := u.hearths, counters := u.counters }
  others : ∀ x, x ≠ dest → hearth u x = hearth s x
  staging : (hearth u dest).staging = (hearth s dest).staging.write a bs
  queues : (hearth u dest).queues = (hearth s dest).queues
  completed : (hearth u dest).completed = (hearth s dest).completed

section
variable {dest a : Nat} {bs : List Byte}

theorem copied_stWrite (s : State) (k : Counters) (dest a : Nat) (bs : List Byte) (r : Req) :
    Copied s (stWrite { s with counters := k } dest a bs r) dest a bs := by
  have only := stages_stWrite { s with counters := k } dest a bs r
  exact ⟨only.frame, only.others, staging_stWrite _ _ _ _ _, only.queues, only.completed⟩

theorem Copied.counted (h : Copied s u dest a bs) (event site n : Nat) : Copied s (countAt u event site n) dest a bs := by
  obtain ⟨frame, others, staging, queues, completed⟩ := h
  refine ⟨?_, others, staging, queues, completed⟩
  rw [countAt, modCounters, frame]

theorem Copied.arrived (h : Copied s u dest a bs) (f : Nat) : Copied s (modHearth u dest fun h => arrive h f) dest a bs := by
  obtain ⟨frame, others, staging, queues, completed⟩ := h
  refine ⟨?_, fun x away => ?_, ?_, ?_, ?_⟩
  · rw [modHearth, setHearth, frame]
  · rw [hearth_modHearth_other _ _ _ away, others x away]
  · rw [hearth_modHearth_self, arrive, staging]
  · rw [hearth_modHearth_self, arrive, queues]
  · rw [hearth_modHearth_self, arrive, completed]

theorem Copied.completes (h : Copied s u dest a bs) (site q num : Nat) : Completes s (returnItem u site q num) site q num := by
  by_cases there : site = dest
  · subst there
    exact (completes_returnItem u site q num).of_same h.queues h.completed
  · have same := h.others site there
    exact (completes_returnItem u site q num).of_same (by rw [same]) (by rw [same])

theorem Copied.returned_only (h : Copied s u dest a bs) (site q num : Nat) : returnItem u site q num =
    { s with hearths := (returnItem u site q num).hearths, counters := (returnItem u site q num).counters } := by
  rw [returnItem_only, h.frame]

theorem Copied.returned_other (h : Copied s u dest a bs) {q : Nat} {x : Nat} (notSite : x ≠ site) (notTo : x ≠ dest) :
    hearth (returnItem u site q num) x = hearth s x :=
  (hearth_returnItem_other _ _ _ _ notSite).trans (h.others x notTo)

/-- The bytes copied are those of the source, and the bytes around them stand. -/
theorem Copied.bytes {src srcA n : Nat} (known : (hearth s src).staging.unlisted.isSome = true)
    (h : Copied s u dest a ((hearth s src).staging.read s.free srcA n)) (site q num : Nat) :
    (∀ i, i < n → (hearth (returnItem u site q num) dest).staging.byte 0 (a + i) = (hearth s src).staging.byte 0 (srcA + i)) ∧
      ∀ x, x < a ∨ a + n ≤ x → (hearth (returnItem u site q num) dest).staging.byte 0 x = (hearth s dest).staging.byte 0 x := by
  rw [staging_returnItem, h.staging]
  refine ⟨fun i inside => ?_, fun x outside => ?_⟩
  · rw [Ram.byte_write, Ram.length_read, if_pos (by omega), Nat.add_sub_cancel_left, Ram.getD_read _ _ _ inside,
      Ram.byte_known known s.free 0]
  · rw [Ram.byte_write, Ram.length_read, if_neg (by omega)]

end

theorem streamEffect_push (fresh : (hearth s site).races = []) (push : it.f 0 1 = 0)
    (readable : Readable (hearth s site) (it.f 4 4) (it.f 0xC 4)) :
    ∃ u, streamEffect s site other it = (none, u) ∧
      Copied s u other (it.f 8 4) ((hearth s site).staging.read s.free (it.f 4 4) (it.f 0xC 4)) ∧
      ∀ f, lookD 0 (hearth u other).arrival f =
        if f = it.f 3 1 then (lookD 0 (hearth s other).arrival f + 1) % 2 ^ 32 else lookD 0 (hearth s other).arrival f := by
  obtain ⟨k, read⟩ := stRead_eq (r := byItem 2 site 2 it.num) fresh readable rfl
  set bs := (hearth s site).staging.read s.free (it.f 4 4) (it.f 0xC 4)
  have wrote := copied_stWrite s k other (it.f 8 4) bs (byItem 2 site 2 it.num)
  have arrivals : (hearth (stWrite { s with counters := k } other (it.f 8 4) bs (byItem 2 site 2 it.num)) other).arrival =
      (hearth s other).arrival := (stages_stWrite _ _ _ _ _).arrival
  have effect : streamEffect s site other it = (none, countAt (countAt (modHearth (stWrite { s with counters := k } other (it.f 8 4) bs
      (byItem 2 site 2 it.num)) other fun h => arrive h (it.f 3 1)) 0x00D site 1) 0x00F other 1) := by
    unfold streamEffect
    dsimp only
    rw [if_pos push, if_pos push, read]
    dsimp only
    rw [if_pos push]
    rfl
  set v := stWrite { s with counters := k } other (it.f 8 4) bs (byItem 2 site 2 it.num)
  refine ⟨_, effect, (wrote.arrived (it.f 3 1)).counted _ _ _ |>.counted _ _ _, fun f => ?_⟩
  · rw [hearth_countAt, hearth_countAt, hearth_modHearth_self, arrive, arrivals, lookD_putD]
    split
    next this_ => rw [this_]
    next => rfl

theorem streamEffect_pull (fresh : (hearth s site).races = []) (inPart : site < 200) (pull : it.f 0 1 = 1)
    (readable : Readable (hearth s other) (it.f 8 4) (it.f 0xC 4)) :
    ∃ u, streamEffect s site other it = (none, u) ∧
      Copied s u site (it.f 4 4) ((hearth s other).staging.read s.free (it.f 8 4) (it.f 0xC 4)) := by
  have notPush : ¬it.f 0 1 = 0 := by rw [pull]; decide
  have none_ : oldStaging (hearth s other) other (it.f 8 4) (it.f 0xC 4) (byItem 2 site 2 it.num) = [] := by
    by_cases own : other = site
    · rw [own]
      exact oldStaging_of_no_races fresh _ _ _ _
    · exact oldStaging_of_other (by decide) (by omega) (by decide) own _ _
  obtain ⟨k, read⟩ := stRead_known readable none_
  have effect : streamEffect s site other it = (none, countAt (stWrite { s with counters := k } site (it.f 4 4)
      ((hearth s other).staging.read s.free (it.f 8 4) (it.f 0xC 4)) (byItem 2 site 2 it.num)) 0x00E site 1) := by
    unfold streamEffect
    dsimp only
    rw [if_neg notPush, if_neg notPush, read]
    dsimp only
    rw [if_neg notPush]
  exact ⟨_, effect, (copied_stWrite s k site (it.f 4 4) _ (byItem 2 site 2 it.num)).counted _ _ _⟩

/-- Settles O42, clause by clause: the starts, the discarded responses, transfers within staging, transfers that end either way, and
the pushes and pulls. -/
theorem dmaAndStreamsMoveBytes : Obligations.DmaAndStreamsMoveBytes := by
  unfold Obligations.DmaAndStreamsMoveBytes
  refine ⟨?starts, ?discards, ?within, ?ends, ?streamStarts, ?streams⟩
  case starts =>
    intro s site ch it inPart channel head waits engine running
    have row := exec_dmaTransferStart inPart channel head waits engine running
    refine ⟨fun room => ?_, fun leaves_ none_ => ?_⟩
    · rw [tagWait_of_room room] at row
      exact gives_of_row row (startsWithTags s site (8 + ch) it.num _ room)
    · rwa [tagWait_of_none leaves_ none_] at row
  case discards =>
    intro s site ch num inPart channel
    refine ⟨fun outstanding => ?_, fun outstanding => ⟨?_, ?_⟩⟩
    · exact gives_of_row (exec_dmaTransferComplete_awaited inPart channel outstanding) (discards s site (8 + ch))
    · exact gives_of_row (c := .pushComplete site num) (streamComplete_awaited inPart outstanding) (discards s site 2)
    · exact gives_of_row (c := .pullComplete site num) (streamComplete_awaited inPart outstanding) (discards s site 2)
  case within =>
    intro s site ch it inPart channel head started live quiet calm fromStaging toStaging n src dst readable apart
    have words : n = 32 * (it.f 0x10 8 / 32) := Nat.mul_comm _ _
    rw [words] at readable apart ⊢
    obtain ⟨u, ran, only, bytes⟩ := runDma_staging inPart channel calm fromStaging toStaging readable apart
    have row := exec_dmaTransferComplete inPart channel head started live quiet ran
    rw [if_pos rfl] at row
    refine gives_of_row row ⟨fun i inside => ?_, fun x outside => ?_,
      (completes_returnItem u site (8 + ch) it.num).of_same only.queues only.completed,
      fun x other => (hearth_returnItem_other _ _ _ _ other).trans (only.others x other), ?_⟩
    · rw [staging_returnItem, bytes, if_pos (by omega), Nat.add_sub_cancel_left]
    · rw [staging_returnItem, bytes, if_neg (by omega)]
    · rw [returnItem_only, only.frame]
  case ends =>
    intro s s' site ch it inPart channel head started live quiet
    refine ⟨fun ran => ?_, fun ran => ?_⟩
    · have row := exec_dmaTransferComplete inPart channel head started live quiet ran
      rw [if_pos rfl] at row
      exact gives_of_row row ⟨completes_returnItem s' site (8 + ch) it.num, staging_returnItem s' site (8 + ch) it.num site,
        returnItem_mem s' site (8 + ch) it.num⟩
    · have row := exec_dmaTransferComplete inPart channel head started live quiet ran
      rw [if_neg Bool.false_ne_true] at row
      obtain ⟨halted, empty, fail, record, mem⟩ := haltChannel_spec (freeTags s' site (8 + ch) it.num) site ch
      rw [hearth_freeTags_self] at record
      exact gives_of_row row ⟨halted, empty, fail, record, mem⟩
  case streamStarts =>
    intro s site num dir it inPart item isDir waits open_ engine turn need
    have row := streamStart_row inPart item isDir waits open_ engine turn
    refine ⟨fun room => ?_, fun leaves_ none_ => ?_⟩
    · rw [tagWait_of_room room] at row
      have starts := startsWithTags s site 2 num need room
      refine ⟨?_, ?_⟩
      · rintro rfl
        exact gives_of_row (c := .push site num) row starts
      · rintro rfl
        exact gives_of_row (c := .pull site num) row starts
    · rw [tagWait_of_none leaves_ none_] at row
      refine ⟨?_, ?_⟩
      · rintro rfl
        exact row
      · rintro rfl
        exact row
  case streams =>
    intro s site num other it inPart item started open_ live place there quiet calm named n
    obtain ⟨fresh, -, -, alone⟩ := calm
    have run : runStream s site other it = streamEffect s site other it := by
      rw [runStream, named]
      exact amid_calm alone _
    refine ⟨fun push readable => ?_, fun pull readable => ?_⟩
    · obtain ⟨u, effect, copied, arrivals⟩ := streamEffect_push (other := other) fresh push readable
      have row := streamComplete_row inPart item push started open_ live place there quiet (run.trans effect)
      obtain ⟨inside, outside⟩ := copied.bytes readable.1 site 2 num
      refine gives_of_row (c := .pushComplete site num) row ⟨inside, outside, fun f => ?_, copied.completes site 2 num,
        fun x notSite notOther => copied.returned_other notSite notOther, copied.returned_only site 2 num⟩
      rw [arrival_returnItem]
      exact arrivals f
    · obtain ⟨u, effect, copied⟩ := streamEffect_pull (other := other) fresh inPart pull readable
      have row := streamComplete_row inPart item pull started open_ live place there quiet (run.trans effect)
      obtain ⟨inside, outside⟩ := copied.bytes readable.1 site 2 num
      exact gives_of_row (c := .pullComplete site num) row ⟨inside, outside, copied.completes site 2 num,
        fun x notSite => copied.returned_other notSite notSite, copied.returned_only site 2 num⟩

end Sys2Proof.Machine
end
